-- ==== Sys2Proof/Word.lean ====
section
/-! DEFINITION. Word.lean: the word types of the device (spec/00_scope.md R6, R9) and the type of a sparse table. -/

namespace Sys2Proof

/-- A byte. -/
abbrev Byte := BitVec 8
/-- A 16-bit element of a tile of a line core (14 R375). -/
abbrev Half := BitVec 16
/-- A 32-bit register, tile word or token. -/
abbrev Word := BitVec 32
/-- A 64-bit register pair, instruction word or control register. -/
abbrev DWord := BitVec 64
/-- A virtual address of 57 bits (04 R73). -/
abbrev VA := BitVec 57

/-- A table from names to values that lists its entries with their names strictly rising. -/
abbrev SMap (α : Type) := List (Nat × α)

end Sys2Proof
end

