-- ==== Sys2Proof/Machine/Bits.lean ====
section
/-! DEFINITION. Machine/Bits.lean: bit fields, extension, byte order and the integer helpers of 00 R9 and 06 R160. -/

namespace Sys2Proof.Machine

/-- `bits(x, lo + len - 1, lo)` of a natural number (00 R9). -/
def nbits (x lo len : Nat) : Nat := (x >>> lo) % 2 ^ len

/-- `bits(w, lo + len - 1, lo)` of a word, as a number (00 R9). -/
def fld {n : Nat} (w : BitVec n) (lo len : Nat) : Nat := nbits w.toNat lo len

/-- Bit `i` of a number. -/
def nbit (x i : Nat) : Bool := nbits x i 1 == 1

/-- Bit `i` of a word. -/
def wbit {n : Nat} (w : BitVec n) (i : Nat) : Bool := nbit w.toNat i

/-- `x` with bits [lo + len - 1 : lo] replaced by `v`. -/
def setNBits (x lo len v : Nat) : Nat :=
  x - (nbits x lo len) * 2 ^ lo + (v % 2 ^ len) * 2 ^ lo

/-- `sext` of an `n`-bit value, as an exact integer (00 R9). -/
def sxt (x n : Nat) : Int :=
  let y := x % 2 ^ n
  if n = 0 then 0 else if y < 2 ^ (n - 1) then (y : Int) else (y : Int) - (2 ^ n : Nat)

/-- `wrap(x, n)` as a natural number (06 R160). -/
def wrapN (x : Int) (n : Nat) : Nat := (x % ((2 ^ n : Nat) : Int)).toNat

/-- `sat_s(x, n)` (06 R160). -/
def satS (x : Int) (n : Nat) : Int :=
  let hi : Int := ((2 ^ (n - 1) : Nat) : Int) - 1
  if x > hi then hi else if x < -hi - 1 then -hi - 1 else x

/-- `sat_u(x, n)` (06 R160). -/
def satU (x : Int) (n : Nat) : Int :=
  let hi : Int := ((2 ^ n : Nat) : Int) - 1
  if x > hi then hi else if x < 0 then 0 else x

/-- `clamp(x, lo, hi)` (06 R160). -/
def clampI (x lo hi : Int) : Int := if x < lo then lo else if x > hi then hi else x

/-- `satadd` of a semaphore (05 R112, 06 R160). -/
def satadd (a : Nat) (b : Int) : Nat := (satU ((a : Int) + b) 16).toNat

/-- Whether a 57-bit or narrower number is a multiple of `n`. -/
def aligned (x n : Nat) : Bool := x % n == 0

/-- The `n` bytes of a number, the lowest first (00 R6). -/
def toBytes : Nat → Nat → List Byte
  | 0, _ => []
  | n + 1, v => BitVec.ofNat 8 v :: toBytes n (v / 256)

/-- The number whose bytes these are, the lowest first (00 R6). -/
def ofBytes : List Byte → Nat
  | [] => 0
  | b :: bs => b.toNat + 256 * ofBytes bs

/-- `n` bytes of a list from byte `o`, missing ones zero. -/
def sliceBytes (bs : List Byte) (o n : Nat) : List Byte :=
  let t := (bs.drop o).take n
  t ++ List.replicate (n - t.length) 0#8

/-- The little-endian number at byte `o`, of `n` bytes. -/
def leAt (bs : List Byte) (o n : Nat) : Nat := ofBytes ((bs.drop o).take n)

/-- A list of bytes with the bytes `new` written from byte `o`. -/
def patchBytes (bs : List Byte) (o : Nat) (new : List Byte) : List Byte :=
  bs.take o ++ new ++ bs.drop (o + new.length)

/-- Element `k` of width `w` of a packed value (06 R150). -/
def elemN (x w k : Nat) : Nat := nbits x (w * k) w

/-- The packed value of these elements of width `w`, element 0 lowest (06 R150). -/
def packElems (w : Nat) : List Nat → Nat
  | [] => 0
  | e :: es => e % 2 ^ w + 2 ^ w * packElems w es

/-- Number of one bits among the lowest `n` bits. -/
def popN : Nat → Nat → Nat
  | 0, _ => 0
  | n + 1, x => x % 2 + popN n (x / 2)

/-- Number of leading zeros of an `n`-bit value. -/
def clzN : Nat → Nat → Nat
  | 0, _ => 0
  | n + 1, x => if nbit x n then 0 else 1 + clzN n x

/-- The lowest `n` bits of `x` in reversed order. -/
def revN : Nat → Nat → Nat
  | 0, _ => 0
  | n + 1, x => (x % 2) * 2 ^ n + revN n (x / 2)

/-- The numbers 0 to n - 1, ascending. -/
def upto (n : Nat) : List Nat := List.range n

/-- The 32 lanes of a warp, ascending. -/
def lanes32 : List Nat :=
  [0, 1, 2, 3, 4, 5, 6, 7, 8, 9, 10, 11, 12, 13, 14, 15,
   16, 17, 18, 19, 20, 21, 22, 23, 24, 25, 26, 27, 28, 29, 30, 31]

/-- The lanes a 32-bit mask names, ascending. -/
def maskLanes (m : Word) : List Nat := lanes32.filter (fun l => m.getLsbD l)

/-- The mask that names the lanes a test picks. -/
def laneMask (p : Nat → Bool) : Word :=
  lanes32.foldl (fun m l => if p l then m ||| BitVec.twoPow 32 l else m) 0#32

/-- The lowest lane of a mask. -/
def lowLane? (m : Word) : Option Nat := lanes32.find? (fun l => m.getLsbD l)

/-- Ceiling of `a / b`. -/
def cdiv (a b : Nat) : Nat := (a + b - 1) / b

/-- The bytes of `n` little-endian words of `w` bytes each. -/
def wordsOf (w : Nat) (bs : List Byte) : Nat → List Nat
  | 0 => []
  | n + 1 => ofBytes (bs.take w) :: wordsOf w (bs.drop w) n

end Sys2Proof.Machine
end

