-- ==== Sys2Proof/Machine/Num.lean ====
section
/-! DEFINITION. Machine/Num.lean: the floating-point formats, exact values, rounding and flags of 06 R152 to R161. -/

namespace Sys2Proof.Machine

/-- A floating-point format (06 R152): exponent bits, mantissa bits, bias, and whether it has infinities and NaNs. -/
structure Fmt where
  e : Nat
  m : Nat
  bias : Nat
  hasInf : Bool
  hasNan : Bool
deriving DecidableEq, Repr

def fp64 : Fmt := ⟨11, 52, 1023, true, true⟩
def fp32 : Fmt := ⟨8, 23, 127, true, true⟩
def fp16 : Fmt := ⟨5, 10, 15, true, true⟩
def bf16 : Fmt := ⟨8, 7, 127, true, true⟩
def e5m2 : Fmt := ⟨5, 2, 15, true, true⟩
def e4m3 : Fmt := ⟨4, 3, 7, false, true⟩
def e3m2 : Fmt := ⟨3, 2, 3, false, false⟩
def e2m3 : Fmt := ⟨2, 3, 1, false, false⟩
def e2m1 : Fmt := ⟨2, 1, 1, false, false⟩

/-- Bits of a format. -/
def Fmt.width (f : Fmt) : Nat := 1 + f.e + f.m

/-- A value of a format: a NaN, signalling or quiet, an infinity, or ±mant × 2^ex exactly (06 R153). -/
inductive FVal where
  | nan (sig : Bool)
  | inf (neg : Bool)
  | num (neg : Bool) (mant : Nat) (ex : Int)
deriving DecidableEq, Repr

/-- Rounding modes (06 R157). -/
inductive RMode where
  | rne | rz | ru | rd
deriving DecidableEq, Repr

/-- The mode an F[1:0] or RND field codes (09 R226). -/
def rmode (n : Nat) : RMode := if n = 0 then .rne else if n = 1 then .rz else if n = 2 then .ru else .rd

/-- Exception flags in the bit positions of 06 R161: 0 NV, 1 DZ, 2 OF, 3 UF, 4 NX. -/
abbrev Flags := BitVec 5

def flNV : Flags := 1#5
def flDZ : Flags := 2#5
def flOF : Flags := 4#5
def flUF : Flags := 8#5
def flNX : Flags := 16#5

/-- `x` if the test holds, else no flag. -/
def flagIf (b : Bool) (x : Flags) : Flags := if b then x else 0#5

/-- The largest exponent field that a finite value uses. -/
def Fmt.maxField (f : Fmt) : Nat := if f.hasInf then 2 ^ f.e - 2 else 2 ^ f.e - 1

/-- The largest significand of that exponent field: all ones, one less in E4M3, whose all-ones pattern is NaN. -/
def Fmt.maxSig (f : Fmt) : Nat := if f.hasNan && !f.hasInf then 2 ^ (f.m + 1) - 2 else 2 ^ (f.m + 1) - 1

/-- The value of a bit pattern (06 R153, R154). -/
def fdecode (f : Fmt) (x : Nat) : FVal :=
  let s := nbit x (f.e + f.m)
  let ex := nbits x f.m f.e
  let mt := nbits x 0 f.m
  if f.hasInf && ex == 2 ^ f.e - 1 then
    if mt = 0 then .inf s else .nan (!nbit x (f.m - 1))
  else if f.hasNan && !f.hasInf && ex == 2 ^ f.e - 1 && mt == 2 ^ f.m - 1 then .nan false
  else if ex = 0 then .num s mt (1 - (f.bias : Int) - f.m)
  else .num s (2 ^ f.m + mt) ((ex : Int) - f.bias - f.m)

/-- The canonical NaN of a format (06 R154); +0 in a format without NaN. -/
def fcanon (f : Fmt) : Nat :=
  if f.hasInf then (2 ^ f.e - 1) * 2 ^ f.m + 2 ^ (f.m - 1)
  else if f.hasNan then 2 ^ (f.e + f.m) - 1 else 0

/-- A sign bit put above an encoded magnitude. -/
def fsign (f : Fmt) (neg : Bool) (mag : Nat) : Nat := mag + (if neg then 2 ^ (f.e + f.m) else 0)

/-- The largest finite magnitude's pattern (06 R152). -/
def fmaxMag (f : Fmt) : Nat := f.maxField * 2 ^ f.m + (f.maxSig - 2 ^ f.m)

/-- The pattern of an infinity. -/
def finfMag (f : Fmt) : Nat := (2 ^ f.e - 1) * 2 ^ f.m

/-- The result of an overflow, by the table of 06 R157. -/
def foverflow (f : Fmt) (mode : RMode) (sat neg : Bool) : Nat :=
  if sat then fsign f neg (fmaxMag f)
  else if f.hasInf then
    match mode with
    | .rne => fsign f neg (finfMag f)
    | .rz => fsign f neg (fmaxMag f)
    | .ru => if neg then fsign f true (fmaxMag f) else finfMag f
    | .rd => if neg then fsign f true (finfMag f) else fmaxMag f
  else if f.hasNan then fcanon f
  else fsign f neg (fmaxMag f)

/-- Whether a magnitude with remainder rounds away from zero: `n` the kept part, `rem` of `2^sh` discarded. -/
def roundsUp (mode : RMode) (neg : Bool) (n rem sh : Nat) : Bool :=
  match mode with
  | .rne => decide (2 * rem > 2 ^ sh) || (decide (2 * rem = 2 ^ sh) && n % 2 == 1)
  | .rz => false
  | .ru => !neg && decide (rem ≠ 0)
  | .rd => neg && decide (rem ≠ 0)

/-- `mant × 2^ex` as a multiple of 2^q: the rounded multiple and whether it is inexact. -/
def quantize (mode : RMode) (neg : Bool) (mant : Nat) (ex q : Int) : Nat × Bool :=
  if ex ≥ q then (mant <<< (ex - q).toNat, false)
  else
    let sh := (q - ex).toNat
    let n := mant >>> sh
    let rem := mant % 2 ^ sh
    (if roundsUp mode neg n rem sh then n + 1 else n, decide (rem ≠ 0))

/-- The pattern of the magnitude `n × 2^q`, where `n < 2^(m+1)` and q is at least the subnormal step; none on overflow. -/
def encodeMag (f : Fmt) (n : Nat) (q : Int) : Option Nat :=
  let big := decide (n ≥ 2 ^ (f.m + 1))
  let n := if big then n / 2 else n
  let q := if big then q + 1 else q
  if n < 2 ^ f.m then some n
  else
    let field := (q + f.m + f.bias).toNat
    if field > f.maxField ∨ (field = f.maxField ∧ n > f.maxSig) then none
    else some (field * 2 ^ f.m + (n - 2 ^ f.m))

/-- `rnd(x, f, mode, sat)` of 06 R157, with the flags it raises. -/
def rnd (f : Fmt) (mode : RMode) (sat : Bool) (x : FVal) : Nat × Flags :=
  match x with
  | .nan _ => (fcanon f, 0#5)
  | .inf neg =>
    if f.hasInf && !sat then (fsign f neg (finfMag f), 0#5)
    else if f.hasNan && !f.hasInf && !sat then (fcanon f, flOF ||| flNX)
    else (fsign f neg (fmaxMag f), flOF ||| flNX)
  | .num neg mant ex =>
    if mant = 0 then (fsign f neg 0, 0#5)
    else
      let top : Int := (mant.log2 : Int) + ex
      let emin : Int := 1 - (f.bias : Int)
      let q := max (top - f.m) (emin - f.m)
      let (n, inexact) := quantize mode neg mant ex q
      match encodeMag f n q with
      | none => (foverflow f mode sat neg, flOF ||| flNX)
      | some mag =>
        let (n', _) := quantize mode neg mant ex (top - f.m)
        let tiny := decide (top < emin) && !(decide (n' ≥ 2 ^ (f.m + 1)) && decide (top + 1 ≥ emin))
        (fsign f neg mag, flagIf inexact flNX ||| flagIf (inexact && tiny) flUF)

/-- `rnds(x, f, c, sat)` of 06 R158, with the flags it raises. -/
def rnds (f : Fmt) (c : Nat) (sat : Bool) (x : FVal) : Nat × Flags :=
  match x with
  | .nan _ => rnd f .rz sat x
  | .inf _ => rnd f .rz sat x
  | .num neg mant ex =>
    if mant = 0 then rnd f .rz sat x
    else
      let top : Int := (mant.log2 : Int) + ex
      let emin : Int := 1 - (f.bias : Int)
      let maxTop : Int := (f.maxField : Int) - f.bias
      let q := max (min top maxTop - f.m) (emin - f.m)
      let (lo, inexact) := quantize .rz neg mant ex q
      let d := if ex ≥ q then 0 else ((mant % 2 ^ (q - ex).toNat) * 2 ^ 32) / 2 ^ (q - ex).toNat
      let y := if c < d then lo + 1 else lo
      let (r, fl) := rnd f .rz sat (.num neg y q)
      if fl &&& flOF ≠ 0#5 then (r, fl)
      else
        let tiny := decide ((y : Int) * 2 ^ f.m < 2 ^ (2 * f.m)) && decide (q = emin - f.m)
        (r, flagIf inexact flNX ||| flagIf (inexact && tiny) flUF)

/-- `srbits(c, k)` of 06 R158: the random word rotated left for element `k`. -/
def srbits (c k : Nat) : Nat :=
  let rs := (8 * k + 4 * (k / 4)) % 32
  nbits ((c % 2 ^ 32 + c % 2 ^ 32 * 2 ^ 32) >>> (32 - rs)) 0 32

/-- Whether a value is a signalling NaN (06 R154). -/
def FVal.isSig : FVal → Bool
  | .nan s => s
  | _ => false

def FVal.isNan : FVal → Bool
  | .nan _ => true
  | _ => false

def FVal.isInf : FVal → Bool
  | .inf _ => true
  | _ => false

def FVal.neg : FVal → Bool
  | .nan _ => false
  | .inf n => n
  | .num n _ _ => n

def FVal.isZero : FVal → Bool
  | .num _ m _ => m == 0
  | _ => false

/-- The value with its sign inverted. -/
def FVal.flip : FVal → FVal
  | .nan s => .nan s
  | .inf n => .inf (!n)
  | .num n m e => .num (!n) m e

/-- The magnitude of a value. -/
def FVal.mag : FVal → FVal
  | .nan s => .nan s
  | .inf _ => .inf false
  | .num _ m e => .num false m e

/-- Signed multiple of 2^e that a finite value is, for an `e` not above its exponent. -/
def scaled (neg : Bool) (m : Nat) (ex e : Int) : Int :=
  let v : Int := ((m <<< (ex - e).toNat : Nat) : Int)
  if neg then -v else v

/-- The exact sum of two values; an exact zero of opposite signs is −0 only when `rdZero` (09 R228). -/
def fadd (rdZero : Bool) (x y : FVal) : FVal :=
  match x, y with
  | .nan s, .nan t => .nan (s || t)
  | .nan s, _ => .nan s
  | _, .nan s => .nan s
  | .inf a, .inf b => if a == b then .inf a else .nan false
  | .inf a, _ => .inf a
  | _, .inf b => .inf b
  | .num a m e, .num b n g =>
    let q := min e g
    let s := scaled a m e q + scaled b n g q
    if s = 0 then .num (if a == b then a else rdZero) 0 0
    else .num (decide (s < 0)) s.natAbs q

/-- The exact product of two values; 0 × ∞ is a NaN (09 R228). -/
def fmul (x y : FVal) : FVal :=
  match x, y with
  | .nan s, .nan t => .nan (s || t)
  | .nan s, _ => .nan s
  | _, .nan s => .nan s
  | .inf a, .inf b => .inf (a != b)
  | .inf a, .num b n _ => if n = 0 then .nan false else .inf (a != b)
  | .num a m _, .inf b => if m = 0 then .nan false else .inf (a != b)
  | .num a m e, .num b n g => .num (a != b) (m * n) (e + g)

/-- Whether a product is invalid: 0 × ∞. -/
def mulInvalid (x y : FVal) : Bool := (x.isZero && y.isInf) || (x.isInf && y.isZero)

/-- Whether a sum is invalid: infinities of opposite sign. -/
def addInvalid (x y : FVal) : Bool := x.isInf && y.isInf && x.neg != y.neg

/-- The order of two values that are no NaN: −1, 0 or 1, with −0 = +0. -/
def fcmp (x y : FVal) : Int :=
  match x, y with
  | .inf a, .inf b => if a == b then 0 else if a then -1 else 1
  | .inf a, _ => if a then -1 else 1
  | _, .inf b => if b then 1 else -1
  | .num a m e, .num b n g =>
    let q := min e g
    let d := scaled a m e q - scaled b n g q
    if d < 0 then -1 else if d > 0 then 1 else 0
  | _, _ => 0

/-- Whether `x` stands below `y` when −0 is ordered below +0 (09 R229). -/
def fbelow (x y : FVal) : Bool :=
  let c := fcmp x y
  decide (c < 0) || (decide (c = 0) && x.neg && !y.neg)

/-- The smaller or larger of two values with a NaN absent (09 R229 without .nan). -/
def fminmax (wantMax : Bool) (x y : FVal) : FVal :=
  match x, y with
  | .nan _, .nan _ => .nan false
  | .nan _, _ => y
  | _, .nan _ => x
  | _, _ => if wantMax then (if fbelow x y then y else x) else (if fbelow y x then y else x)

/-- `m / n` to at least `p` significant bits, the last one sticky. -/
def divMant (m n p : Nat) : Nat × Int :=
  let sh := p + n.log2 + 2
  let q := (m <<< sh) / n
  (2 * q + (if (m <<< sh) % n = 0 then 0 else 1), -(sh : Int) - 1)

/-- The exact quotient of two values, cut to `p` bits and a sticky bit where it has more. -/
def fdiv (p : Nat) (x y : FVal) : FVal :=
  match x, y with
  | .nan s, _ => .nan s
  | _, .nan s => .nan s
  | .inf _, .inf _ => .nan false
  | .inf a, .num b _ _ => .inf (a != b)
  | .num a _ _, .inf b => .num (a != b) 0 0
  | .num a m e, .num b n g =>
    if n = 0 then (if m = 0 then .nan false else .inf (a != b))
    else
      let (q, k) := divMant m n p
      .num (a != b) q (e - g + k)

/-- The integer square root of `x`, by its bits from bit `k` down. -/
def isqrtFrom (x : Nat) : Nat → Nat → Nat
  | 0, r => r
  | k + 1, r => let t := r + 2 ^ k; isqrtFrom x k (if t * t ≤ x then t else r)

def isqrt (x : Nat) : Nat := isqrtFrom x (x.log2 / 2 + 1) 0

/-- The exact square root of a non-negative finite value, cut to at least `p` bits and a sticky bit. -/
def fsqrt (p : Nat) (x : FVal) : FVal :=
  match x with
  | .nan s => .nan s
  | .inf true => .nan false
  | .inf false => .inf false
  | .num neg m e =>
    if m = 0 then .num neg 0 0
    else if neg then .nan false
    else
      let m2 := if e % 2 = 0 then m else 2 * m
      let e2 := if e % 2 = 0 then e else e - 1
      let sh := p + 2
      let r := isqrt (m2 <<< (2 * sh))
      .num false (2 * r + (if r * r = m2 <<< (2 * sh) then 0 else 1)) (e2 / 2 - sh - 1)

/-- A finite integer as a value; zero is +0. -/
def FVal.ofInt (i : Int) : FVal := .num (decide (i < 0)) i.natAbs 0

/-- A value rounded to an integer in a mode: the integer and whether it is inexact. None for NaN or infinity. -/
def FVal.toInt (mode : RMode) : FVal → Option (Int × Bool)
  | .num neg m e =>
    let (n, inx) := quantize mode neg m e 0
    some (if neg then -(n : Int) else n, inx)
  | _ => none

/-- The value times 2^k. -/
def FVal.scale (k : Int) : FVal → FVal
  | .num n m e => .num n m (e + k)
  | v => v

/-- Whether a value is non-zero and below the smallest normal of `f`. -/
def isSub (f : Fmt) (x : Nat) : Bool := nbits x f.m f.e == 0 && nbits x 0 f.m != 0

/-- A subnormal pattern replaced by zero of its sign (06 R159). -/
def flushIn (f : Fmt) (x : Nat) : Nat := if isSub f x then fsign f (nbit x (f.e + f.m)) 0 else x

/-- A subnormal result replaced by zero of its sign, with UF and NX (06 R159). -/
def flushOut (f : Fmt) (r : Nat × Flags) : Nat × Flags :=
  if isSub f r.1 then (fsign f (nbit r.1 (f.e + f.m)) 0, r.2 ||| flUF ||| flNX) else r

/-- The exact sum of a list of values with the special values of 06 R163: NaN, infinities of both signs, one infinity, or
the sum; an exact zero is −0 only if every addend is −0. -/
def exactSum (xs : List FVal) : FVal :=
  if xs.any FVal.isNan then .nan (xs.any FVal.isSig)
  else if xs.any (fun v => v.isInf && v.neg) && xs.any (fun v => v.isInf && !v.neg) then .nan false
  else if xs.any (fun v => v.isInf && v.neg) then .inf true
  else if xs.any FVal.isInf then .inf false
  else
    let s := xs.foldl (fadd false) (.num true 0 0)
    if s.isZero then .num (!xs.isEmpty && xs.all (fun v => v.isZero && v.neg)) 0 0 else s

/-- The format that a type code of 06 R150 gives to the elements of a float type. -/
def tFmt (t : Nat) : Option Fmt :=
  if t = 8 then some fp32 else if t = 9 then some fp16 else if t = 10 then some bf16 else if t = 11 then some e4m3
  else if t = 12 then some e5m2 else if t = 13 then some e2m1 else if t = 14 then some fp64 else none

/-- Element width of a type code (06 R150). -/
def tWidth (t : Nat) : Nat :=
  if t ≤ 1 then 32 else if t ≤ 3 then 16 else if t ≤ 5 then 8 else if t ≤ 7 then 4
  else if t = 8 then 32 else if t ≤ 10 then 16 else if t ≤ 12 then 8 else if t = 13 then 4 else 64

/-- Number of elements of a register or pair of a type (06 R150). -/
def tCount (t : Nat) : Nat := if t ≥ 14 then 1 else 32 / tWidth t

/-- Whether an integer type code is signed (06 R150). -/
def tSigned (t : Nat) : Bool := t == 15 || (decide (t ≤ 7) && t % 2 == 0)

/-- The format of a code of 05 R125, where it is a float format. -/
def cFmt (c : Nat) : Option Fmt :=
  if c = 6 then some fp16 else if c = 7 then some bf16 else if c = 8 then some fp32 else if c = 9 then some e4m3
  else if c = 10 then some e5m2 else if c = 11 then some e3m2 else if c = 12 then some e2m3
  else if c = 13 then some e2m1 else none

/-- Width in bits of a code of 05 R125. -/
def cWidth (c : Nat) : Nat :=
  if c ≤ 1 then 8 else if c ≤ 3 then 16 else if c ≤ 5 then 32 else if c ≤ 7 then 16 else if c = 8 then 32
  else if c ≤ 10 then 8 else if c ≤ 12 then 6 else 4

/-- Whether an integer code of 05 R125 is signed. -/
def cSigned (c : Nat) : Bool := c == 0 || c == 2 || c == 4 || c == 14

/-- The FP32 value of a word as `FVal`. -/
def f32 (x : Nat) : FVal := fdecode fp32 x

/-- FP32 operations rounded RNE at each step, without flags, as the fixed units compute (13 R350, R357, 14 R385, R390). -/
def f32add (x y : Nat) : Nat := (rnd fp32 .rne false (fadd false (f32 x) (f32 y))).1
def f32neg (x : Nat) : Nat := x ^^^ 0x80000000
def f32sub (x y : Nat) : Nat := f32add x (f32neg y)
def f32mul (x y : Nat) : Nat := (rnd fp32 .rne false (fmul (f32 x) (f32 y))).1
def f32div (x y : Nat) : Nat := (rnd fp32 .rne false (fdiv 64 (f32 x) (f32 y))).1
def f32fma (x y z : Nat) : Nat := (rnd fp32 .rne false (fadd false (fmul (f32 x) (f32 y)) (f32 z))).1
def f32sqrt (x : Nat) : Nat := (rnd fp32 .rne false (fsqrt 64 (f32 x))).1
def f32nan (x : Nat) : Bool := (f32 x).isNan
def f32lt (x y : Nat) : Bool := !f32nan x && !f32nan y && decide (fcmp (f32 x) (f32 y) < 0)
def f32le (x y : Nat) : Bool := !f32nan x && !f32nan y && decide (fcmp (f32 x) (f32 y) ≤ 0)
def f32eq (x y : Nat) : Bool := !f32nan x && !f32nan y && decide (fcmp (f32 x) (f32 y) = 0)

end Sys2Proof.Machine
end

