-- ==== Sys2Proof/Syntax.lean ====
section
/-! DEFINITION. Syntax.lean: the instructions and events of spec/opcode_table.json, one constructor a row.

Three kinds of row stand in the table. A Suric instruction (07 R165) carries the fields of its 64-bit word and, when
L = 1, its literal; a Cameo slot instruction (15 R395 to R414) carries the fields of its 32-bit slot word; an event of
the device or of its surroundings carries the names of what it acts on (a request, a core and a warp slot, a bank, a
partition, a head, ...), which the agenda of Machine/State.lean chooses (log 1). -/

namespace Sys2Proof

/-- The fields of a Suric instruction word (07 R165), all but OP, and the literal word that follows it when L = 1
(07 R168). Class B reads bits [42:19] and [18:3] from the same fields (07 R170, R173). -/
structure Fields where
  /-- Guard, bits [55:51]. -/
  g : BitVec 5
  /-- Destination, bits [50:43]. -/
  d : BitVec 8
  /-- Source A, bits [42:35]. -/
  a : BitVec 8
  /-- Source B or imm8, bits [34:27]. -/
  b : BitVec 8
  /-- Source C, bits [26:19]. -/
  c : BitVec 8
  /-- Modifier on A, bits [18:15]. -/
  ma : BitVec 4
  /-- Modifier on B, bits [14:11]. -/
  mb : BitVec 4
  /-- Function, bits [10:7]. -/
  fn : BitVec 4
  /-- Type code, bits [6:3]. -/
  t : BitVec 4
  /-- Issue hint, bits [1:0]. -/
  k : BitVec 2
  /-- The literal word; present exactly when L, bit [2], is 1. -/
  lit : Option (BitVec 64)
deriving DecidableEq, Repr

/-- What the packets of an RDMA message carry besides its operation: the destination queue-pair number; the source address, its 16
bytes as a number; the partition key; the sequence number of the first packet (22 R510). -/
structure PacketHdr where
  qpn : Nat
  src : Nat
  pkey : Nat
  psn : Nat
deriving DecidableEq, Repr

/-- The tag of another node's access and the fabric port that it comes in on (01 R17, 22 R515). -/
structure PeerTag where
  port : Nat
  gid : Nat
deriving DecidableEq, Repr

/-- The instructions and events of the opcode table: its Suric instructions, its Cameo slot instructions, then its
events, each in the table's order. -/
inductive Instr where
  /-- IADD (R191). Adds A and register or literal B per element, wrapping or saturating. -/
  | iadd (f : Fields)
  /-- IADD_I (R192). Adds A and a sign-extended imm8 per element. -/
  | iaddI (f : Fields)
  /-- ISUB (R191). Subtracts B from A per element, wrapping or saturating. -/
  | isub (f : Fields)
  /-- IMUL (R191). Multiplies A by B per element, wrapping or saturating. -/
  | imul (f : Fields)
  /-- IMUL_I (R192). Multiplies A by a sign-extended imm8 per element. -/
  | imulI (f : Fields)
  /-- IMULH (R191). Writes the high half of the double-width product of A and B. -/
  | imulh (f : Fields)
  /-- IMAD (R191). Computes a times b plus c per element, wrapping or saturating. -/
  | imad (f : Fields)
  /-- IMADW (R194). Computes a 64-bit a times b plus c from 32-bit factors. -/
  | imadw (f : Fields)
  /-- IMIN (R191). Writes the per-element minimum of A and B. -/
  | imin (f : Fields)
  /-- IMAX (R191). Writes the per-element maximum of A and B. -/
  | imax (f : Fields)
  /-- IABSD (R191). Writes the per-element absolute difference as an unsigned value. -/
  | iabsd (f : Fields)
  /-- LOP3 (R195). Applies an 8-bit truth table bitwise to three operands. -/
  | lop3 (f : Fields)
  /-- SHL (R193). Shifts each element left by a register count. -/
  | shl (f : Fields)
  /-- SHL_I (R193). Shifts each element left by an immediate count. -/
  | shlI (f : Fields)
  /-- SHR (R193). Shifts each element right with zero fill by a register count. -/
  | shr (f : Fields)
  /-- SHR_I (R193). Shifts each element right with zero fill by an immediate count. -/
  | shrI (f : Fields)
  /-- SHRA (R193). Shifts each element right with sign fill by a register count. -/
  | shra (f : Fields)
  /-- SHRA_I (R193). Shifts each element right with sign fill by an immediate count. -/
  | shraI (f : Fields)
  /-- SHF (R196). Funnel-shifts or rotates the 64-bit concatenation of A and C. -/
  | shf (f : Fields)
  /-- BFX (R197). Extracts a bit field at a register-given position. -/
  | bfx (f : Fields)
  /-- BFX_I (R197). Extracts a bit field at an immediate position. -/
  | bfxI (f : Fields)
  /-- BFI (R197). Inserts a bit field into a base word. -/
  | bfi (f : Fields)
  /-- POPC (R198). Counts the one bits of A. -/
  | popc (f : Fields)
  /-- CLZ (R198). Counts the leading zero bits of A. -/
  | clz (f : Fields)
  /-- BREV (R198). Reverses the bit order of A. -/
  | brev (f : Fields)
  /-- PRMT (R199). Permutes bytes of two words under per-byte selectors. -/
  | prmt (f : Fields)
  /-- ISET (R200). Compares register operands elementwise and writes one predicate. -/
  | iset (f : Fields)
  /-- ISET_I (R200). Compares against an immediate elementwise and writes one predicate. -/
  | isetI (f : Fields)
  /-- ISEL (R201). Selects A or B per thread under a predicate. -/
  | isel (f : Fields)
  /-- LEA (R202). Adds a shifted, extended index to a 64-bit base. -/
  | lea (f : Fields)
  /-- MOV (R203). Moves a register value after its modifier. -/
  | mov (f : Fields)
  /-- MOVL (R203). Moves the literal word into the destination. -/
  | movl (f : Fields)
  /-- RDSR (R204). Reads a special register. -/
  | rdsr (f : Fields)
  /-- P2V (R205). Copies the p or q predicate byte into a register. -/
  | p2v (f : Fields)
  /-- V2P (R205). Sets predicates from a register under a mask. -/
  | v2p (f : Fields)
  /-- PLOP (R206). Combines three predicates through a truth table. -/
  | plop (f : Fields)
  /-- BRA (R207). Branches the guarded lanes to a PC-relative target. -/
  | bra (f : Fields)
  /-- BRX (R208). Branches each lane to the address in its register pair. -/
  | brx (f : Fields)
  /-- CALL (R207). Branches and writes the return address into a link pair. -/
  | call (f : Fields)
  /-- RET (R208). Returns each lane to the address in its pair. -/
  | ret (f : Fields)
  /-- EXIT (R209). Ends the threads of the guarded lanes. -/
  | exit (f : Fields)
  /-- DEFER_G (R213). Ends threads into group-bound continuation records carrying payload registers. -/
  | deferG (f : Fields)
  /-- DEFER_F (R214). Ends threads into free continuation records that may resume outside any group. -/
  | deferF (f : Fields)
  /-- CLASP (R210). Opens a clasp region with the issuing path's mask as writer mask. -/
  | clasp (f : Fields)
  /-- UNCLASP (R210). Closes the clasp region and clears the writer mask. -/
  | unclasp (f : Fields)
  /-- NOP (R215). Changes no state. -/
  | nop (f : Fields)
  /-- YIELD (R215). Makes the quadrant prefer another ready warp next. -/
  | yield (f : Fields)
  /-- LAUNCH (R216). Releases, reads a launch record and enqueues a child grid, returning a status. -/
  | launch (f : Fields)
  /-- LAUNCHI (R218). Launches a child grid whose group counts are read from memory at dispatch. -/
  | launchi (f : Fields)
  /-- CWAIT (R219). Waits for the group's earlier child grids to complete, then acquires. -/
  | cwait (f : Fields)
  /-- TRAP (R221). Raises the software trap for the guarded lanes. -/
  | trap (f : Fields)
  /-- TRET (R448). Leaves handler mode and resumes trapped lanes at tr.pc. -/
  | tret (f : Fields)
  /-- TRD (R223). Reads a trap state register into a uniform register. -/
  | trd (f : Fields)
  /-- TWR (R223). Writes a trap state register from a uniform register. -/
  | twr (f : Fields)
  /-- BPT (R224). Raises a debug halt for the warp and broadcasts it to the group. -/
  | bpt (f : Fields)
  /-- FADD (R228). Adds floats per element with rounding, flush and saturation options. -/
  | fadd (f : Fields)
  /-- FMUL (R228). Multiplies floats per element. -/
  | fmul (f : Fields)
  /-- FFMA (R228). Fused multiply-add of floats, rounded once. -/
  | ffma (f : Fields)
  /-- FMIN (R229). Writes the float minimum with NaN handling by F. -/
  | fmin (f : Fields)
  /-- FMAX (R229). Writes the float maximum with NaN handling by F. -/
  | fmax (f : Fields)
  /-- FSET (R230). Compares floats and writes a predicate. -/
  | fset (f : Fields)
  /-- FRND (R231). Rounds floats to integral values in a mode. -/
  | frnd (f : Fields)
  /-- FCLASS (R232). Tests float classes against a mask and writes a predicate. -/
  | fclass (f : Fields)
  /-- FSCALE (R233). Multiplies floats by a clamped power of two. -/
  | fscale (f : Fields)
  /-- DADD (R228). Adds FP64 values. -/
  | dadd (f : Fields)
  /-- DMUL (R228). Multiplies FP64 values. -/
  | dmul (f : Fields)
  /-- DFMA (R228). Fused multiply-add of FP64 values. -/
  | dfma (f : Fields)
  /-- DSET (R230). Compares FP64 values and writes a predicate. -/
  | dset (f : Fields)
  /-- F2F (R235). Converts between float formats, optionally stochastically. -/
  | f2f (f : Fields)
  /-- F2I (R236). Converts floats to saturated integers. -/
  | f2i (f : Fields)
  /-- I2F (R237). Converts integers to floats. -/
  | i2f (f : Fields)
  /-- FPACK (R238). Rounds a group of FP32 registers into one packed word. -/
  | fpack (f : Fields)
  /-- FUNPK (R239). Unpacks a packed word exactly into FP32 registers. -/
  | funpk (f : Fields)
  /-- MXEXP (R240). Computes a UE8M0 block scale over the source lanes. -/
  | mxexp (f : Fields)
  /-- RCP (R241). Computes the reciprocal. -/
  | rcp (f : Fields)
  /-- RSQ (R241). Computes the reciprocal square root. -/
  | rsq (f : Fields)
  /-- SQRT (R241). Computes the square root, correctly rounded. -/
  | sqrt (f : Fields)
  /-- EX2 (R241). Computes two to the power x. -/
  | ex2 (f : Fields)
  /-- LG2 (R241). Computes the base-2 logarithm. -/
  | lg2 (f : Fields)
  /-- SINCOS (R241). Computes sine and cosine into a pair. -/
  | sincos (f : Fields)
  /-- TANH (R241). Computes the hyperbolic tangent. -/
  | tanh (f : Fields)
  /-- FIL (R252). Permutes bytes across lanes through a Filigree table. -/
  | fil (f : Fields)
  /-- FILT (R251). Loads a 128-byte Filigree table into a pattern slot. -/
  | filt (f : Fields)
  /-- SHFL (R245). Reads another lane's register within a segment. -/
  | shfl (f : Fields)
  /-- VOTE (R246). Combines a predicate over the source lanes. -/
  | vote (f : Fields)
  /-- REDUX (R247). Reduces a register over the source lanes. -/
  | redux (f : Fields)
  /-- SCANX (R248). Computes prefix reductions over the source lanes. -/
  | scanx (f : Fields)
  /-- MATCH (R249). Finds lanes holding equal values. -/
  | matchLanes (f : Fields)
  /-- LRD (R254). Reads one lane's register into a uniform register. -/
  | lrd (f : Fields)
  /-- LWR (R254). Writes a uniform value into one lane's register. -/
  | lwr (f : Fields)
  /-- LD (R258). Loads from global memory through the L1 or home slice. -/
  | ld (f : Fields)
  /-- ST (R259). Stores to global memory; the path waits for acceptance at the home slice. -/
  | st (f : Fields)
  /-- LDC (R262). Loads through the constant cache on path C. -/
  | ldc (f : Fields)
  /-- LDSP (R263). Loads from the group's scratchpad region. -/
  | ldsp (f : Fields)
  /-- STSP (R263). Stores to the group's scratchpad region. -/
  | stsp (f : Fields)
  /-- LDQ (R264). Loads from a neighbour set member's scratchpad by quad address. -/
  | ldq (f : Fields)
  /-- STQ (R264). Stores to a neighbour set member's scratchpad by quad address. -/
  | stq (f : Fields)
  /-- PREF (R265). Requests a line into the L2 and possibly the L1, never faulting. -/
  | pref (f : Fields)
  /-- CCTL (R266). Invalidates lines or whole core-side caches. -/
  | cctl (f : Fields)
  /-- PROMOTE (R268). Requests promotion of the rows of a range at a priority, then signals a semaphore. -/
  | promote (f : Fields)
  /-- DEMOTE (R268). Requests demotion of the rows of a range, then signals a semaphore. -/
  | demote (f : Fields)
  /-- ATOM (R272). Performs an atomic read-modify-write at the home slice and returns the old value. -/
  | atom (f : Fields)
  /-- ATOMC (R273). Performs compare-and-swap at the home slice. -/
  | atomc (f : Fields)
  /-- RED (R274). Performs an atomic update with no result. -/
  | red (f : Fields)
  /-- ATOMSP (R275). Performs an atomic operation in the scratchpad banks. -/
  | atomsp (f : Fields)
  /-- LDR (R276). Loads and sets the thread's reservation on a granule. -/
  | ldr (f : Fields)
  /-- STC (R277). Stores only if the thread's reservation holds, and clears it. -/
  | stc (f : Fields)
  /-- FENCE (R280). Performs release and acquire actions at a scope. -/
  | fence (f : Fields)
  /-- FENCEX (R281). Orders writes of one set of paths before later accesses on another set. -/
  | fencex (f : Fields)
  /-- BAR_GRP (R283). Arrives at the group barrier and waits. -/
  | barGrp (f : Fields)
  /-- BAR_MEET (R284). Arrives at a barrier object with zero bytes and waits. -/
  | barMeet (f : Fields)
  /-- BAR_POST (R284). Arrives at a barrier object without waiting, returning the phase. -/
  | barPost (f : Fields)
  /-- BAR_AWAIT (R284). Waits for a barrier object's phase to change without arriving. -/
  | barAwait (f : Fields)
  /-- BARX_MEET (R284). Arrives adding expected bytes and waits. -/
  | barxMeet (f : Fields)
  /-- BARX_POST (R284). Arrives adding expected bytes without waiting. -/
  | barxPost (f : Fields)
  /-- QBAR_MEET (R284). Arrives at a barrier object in a neighbour's region and waits. -/
  | qbarMeet (f : Fields)
  /-- QBAR_POST (R284). Arrives at a barrier object in a neighbour's region without waiting. -/
  | qbarPost (f : Fields)
  /-- SEMADD (R286). Adds a saturating amount to a semaphore. -/
  | semadd (f : Fields)
  /-- SEMWAIT (R286). Waits until a semaphore reaches a threshold. -/
  | semwait (f : Fields)
  /-- SEMRD (R286). Reads a semaphore without waiting. -/
  | semrd (f : Fields)
  /-- ENQ (R287). Copies a command image from scratchpad into an engine ring. -/
  | enq (f : Fields)
  /-- TEX (R288). Samples a texture on path X into registers. -/
  | tex (f : Fields)
  /-- TEX_C (R289). Samples a texture and ends the thread into a continuation record. -/
  | texC (f : Fields)
  /-- TRACE (R289). Traces a ray and ends the thread into a continuation record. -/
  | trace (f : Fields)
  /-- DONE (R291). Releases and sets a bit of the grid's completion bitmap. -/
  | doneBit (f : Fields)
  /-- TILEWAIT (R292). Waits until a bitmap bit is set, then acquires. -/
  | tilewait (f : Fields)
  /-- MMA (R299). Enqueues a dense matrix multiply-accumulate into a tile. -/
  | mma (f : Fields)
  /-- MMA_EXP (R304). Enqueues an MMA whose B latents are expanded through a slab. -/
  | mmaExp (f : Fields)
  /-- MMA_ABS (R304). Enqueues an MMA whose A rows absorb the slab's projection. -/
  | mmaAbs (f : Fields)
  /-- ACCZ (R306). Enqueues zeroing of a tile. -/
  | accz (f : Fields)
  /-- ACCRD (R307). Reads a column group of a tile into registers after its entries complete. -/
  | accrd (f : Fields)
  /-- ACCWR (R306). Enqueues writing registers into a column group of a tile. -/
  | accwr (f : Fields)
  /-- ACCST (R308). Enqueues a converted store of a tile to memory. -/
  | accst (f : Fields)
  /-- MWAIT (R310). Waits for the warp's queue entries and ACCST stores to complete. -/
  | mwait (f : Fields)
  /-- PLOAD (R303). Loads projection store blocks from memory. -/
  | pload (f : Fields)
  /-- EDGE (R316). Evaluates edge functions into 256-sample coverage masks. -/
  | edge (f : Fields)
  /-- MSTAT (R311). Reads the warp's matrix status, optionally clearing RERUN. -/
  | mstat (f : Fields)
  /-- NO_OPERATION (R395). The all-zero slot word does nothing. -/
  | noOperation
  /-- KADD_REG (R399). Adds two scalar registers. -/
  | kaddReg (d a b : BitVec 5)
  /-- KADD_IMM (R399). Adds a scalar and a signed immediate. -/
  | kaddImm (d a : BitVec 5) (i : BitVec 12)
  /-- KSUB_REG (R399). Subtracts two scalar registers. -/
  | ksubReg (d a b : BitVec 5)
  /-- KSUB_IMM (R399). Subtracts an immediate from a scalar. -/
  | ksubImm (d a : BitVec 5) (i : BitVec 12)
  /-- KMUL_REG (R399). Multiplies two scalar registers, keeping the low word. -/
  | kmulReg (d a b : BitVec 5)
  /-- KMUL_IMM (R399). Multiplies a scalar by an immediate. -/
  | kmulImm (d a : BitVec 5) (i : BitVec 12)
  /-- KMOV (R399). Copies a scalar register. -/
  | kmov (d a : BitVec 5)
  /-- KLDI (R398). Loads a sign-extended 16-bit constant. -/
  | kldi (d : BitVec 5) (i : BitVec 16)
  /-- KLDI_HI (R398). Loads a constant into the high half, keeping the low half. -/
  | kldiHi (d : BitVec 5) (i : BitVec 16)
  /-- KLD (R401). Loads 32 bits from the line buffer. -/
  | kld (d a : BitVec 5) (i : BitVec 12)
  /-- KST (R401). Stores 32 bits to the line buffer. -/
  | kst (d a : BitVec 5) (i : BitVec 12)
  /-- KCMP_REG (R399). Compares two scalars and writes 1 or 0. -/
  | kcmpReg (d a : BitVec 5) (f : BitVec 3) (b : BitVec 5)
  /-- KCMP_IMM (R399). Compares a scalar with an immediate. -/
  | kcmpImm (d a : BitVec 5) (f : BitVec 3) (i : BitVec 12)
  /-- BR (R402). Branches to a bundle index. -/
  | br (t : BitVec 10)
  /-- BRC (R402). Branches when a scalar is zero or non-zero. -/
  | brc (a : BitVec 5) (f : BitVec 3) (t : BitVec 10)
  /-- LOOP_REG (R403). Starts a hardware loop with a register count. -/
  | loopReg (a : BitVec 5) (e : BitVec 10)
  /-- LOOP_IMM (R403). Starts a hardware loop with an immediate count. -/
  | loopImm (c e : BitVec 10)
  /-- HALT (R405). Stops the engine; for the scan writer, completes the band or raises SHORT. -/
  | halt
  /-- TOKSEND_REG (R404). Pushes a register token to another engine at retirement. -/
  | toksendReg (e : BitVec 2) (b : BitVec 5)
  /-- TOKSEND_IMM (R404). Pushes an immediate token to another engine. -/
  | toksendImm (e : BitVec 2) (i : BitVec 12)
  /-- TOKRECV (R404). Pops a token from another engine's FIFO. -/
  | tokrecv (d : BitVec 5) (e : BitVec 2)
  /-- BANDCHK (R405). Writes the signed lines left before abandonment. -/
  | bandchk (d : BitVec 5)
  /-- LKTRD (R405). Reads a word of the latched Locket record, stalling until the latch. -/
  | lktrd (d : BitVec 5) (n : BitVec 12)
  /-- EVT (R405). Raises an EVT event with a scalar value. -/
  | evt (a : BitVec 5)
  /-- TADD (R407). Adds tile elements. -/
  | tadd (d a b : BitVec 3) (s : BitVec 5) (y : BitVec 2) (t q : BitVec 1)
  /-- TSUB (R407). Subtracts tile elements. -/
  | tsub (d a b : BitVec 3) (s : BitVec 5) (y : BitVec 2) (t q : BitVec 1)
  /-- TMUL (R407). Multiplies tile elements. -/
  | tmul (d a b : BitVec 3) (s : BitVec 5) (y : BitVec 2) (t q : BitVec 1)
  /-- TMAC (R408). Multiply-accumulates tile elements, rounded once. -/
  | tmac (d a b : BitVec 3) (s : BitVec 5) (y : BitVec 2) (t q : BitVec 1)
  /-- TMIN (R408). Takes the element minimum. -/
  | tmin (d a b : BitVec 3) (s : BitVec 5) (y : BitVec 2) (q : BitVec 1)
  /-- TMAX (R408). Takes the element maximum. -/
  | tmax (d a b : BitVec 3) (s : BitVec 5) (y : BitVec 2) (q : BitVec 1)
  /-- TABSD (R408). Takes the element absolute difference. -/
  | tabsd (d a b : BitVec 3) (s : BitVec 5) (y : BitVec 2) (q : BitVec 1)
  /-- TCMP (R408). Compares elements, writing 0xFFFF or 0. -/
  | tcmp (d a b : BitVec 3) (s : BitVec 5) (y : BitVec 2) (q : BitVec 1) (f : BitVec 3)
  /-- TSEL (R408). Selects elements of A or B under a mask tile. -/
  | tsel (d a b m : BitVec 3)
  /-- TCVT (R409). Converts tile elements between types with scale. -/
  | tcvt (d a : BitVec 3) (y : BitVec 2) (t : BitVec 1) (n : BitVec 4) (m z : BitVec 2)
  /-- TSHIFT (R409). Shifts integer tile elements left or right. -/
  | tshift (d a : BitVec 3) (y : BitVec 2) (r : BitVec 1) (n : BitVec 5)
  /-- TAND (R408). Bitwise AND of tiles. -/
  | tand (d a b : BitVec 3) (s : BitVec 5) (q : BitVec 1)
  /-- TOR (R408). Bitwise OR of tiles. -/
  | tor (d a b : BitVec 3) (s : BitVec 5) (q : BitVec 1)
  /-- TLUT (R408). Looks up elements of tile B indexed by A's low bytes. -/
  | tlut (d a b : BitVec 3)
  /-- RROT (R408). Rotates along rows. -/
  | rrot (d a : BitVec 3) (s : BitVec 5) (q : BitVec 1) (n : BitVec 6)
  /-- RBC (R408). Broadcasts one column along each row. -/
  | rbc (d a : BitVec 3) (s : BitVec 5) (q : BitVec 1) (n : BitVec 6)
  /-- RRED (R410). Reduces each row. -/
  | rred (d a : BitVec 3) (y : BitVec 2) (t : BitVec 1) (o : BitVec 2)
  /-- CROT (R408). Rotates along columns. -/
  | crot (d a : BitVec 3) (s : BitVec 5) (q : BitVec 1) (n : BitVec 4)
  /-- CBC (R408). Broadcasts one row down each column. -/
  | cbc (d a : BitVec 3) (s : BitVec 5) (q : BitVec 1) (n : BitVec 4)
  /-- CRED (R410). Reduces each column. -/
  | cred (d a : BitVec 3) (y : BitVec 2) (t : BitVec 1) (o : BitVec 2)
  /-- TXMV (R408). Moves a tile from the other cluster. -/
  | txmv (d a : BitVec 3)
  /-- TGATH (R411). Gathers tile elements from the line buffer. -/
  | tgath (d a b : BitVec 3) (s h : BitVec 5)
  /-- TMATQ (R412). Enqueues a tile and weight set into the matrix queue. -/
  | tmatq (a : BitVec 3) (c : BitVec 1) (w : BitVec 2)
  /-- TMATR (R412). Pops the oldest finished matrix result into a tile. -/
  | tmatr (d : BitVec 3)
  /-- SBIND (R414). Binds a stream from a line-buffer descriptor. -/
  | sbind (s : BitVec 2) (a : BitVec 5)
  /-- SRD_TILE (R414). Writes the next stream row into a tile row. -/
  | srdTile (s : BitVec 2) (c : BitVec 1) (t : BitVec 3) (r : BitVec 4)
  /-- SRD_WEIGHT (R414). Writes the next stream row into a weight set row. -/
  | srdWeight (s k : BitVec 2) (r : BitVec 6)
  /-- SWR_TILE (R414). Writes a tile row as the next row of a write stream. -/
  | swrTile (s : BitVec 2) (c : BitVec 1) (t : BitVec 3) (r : BitVec 4)
  /-- SWR_STREAM (R414). Moves the next row of a read stream into a write stream. -/
  | swrStream (s b : BitVec 2)
  /-- SFLUSH (R414). Waits until every row written to a stream has landed. -/
  | sflush (s : BitVec 2)
  /-- LOAD_DATA_RETURN (R258). A load's data returns from the home slice and is written to its destination. -/
  | loadDataReturn (rid : Nat)
  /-- STORE_ACCEPTANCE (R257). A store lane is accepted or refused at its home slice. -/
  | storeAcceptance (rid : Nat)
  /-- ATOMIC_REPLY (R272). An atomic's old value returns and updates the L1 line if held. -/
  | atomicReply (rid : Nat)
  /-- TEX_SAMPLE_RETURN (R358). A texture sample returns and is written to D or the record. -/
  | texSampleReturn (core uid : Nat)
  /-- TRACE_RESULT (R353). The intersection unit finishes a traversal and adds result words to the record. -/
  | traceResult (core uid : Nat)
  /-- PROMOTE_COMPLETION (R270). Every row of a PROMOTE or DEMOTE has an outcome; status written and semaphore incremented. -/
  | promoteCompletion (core uid : Nat)
  /-- PLOAD_COMPLETION (R303). The projection blocks are written and the path proceeds. -/
  | ploadCompletion (core uid : Nat)
  /-- QUEUE_ENTRY_START (R293). The slice starts its next queue entry once the previous occupancy ends. -/
  | queueEntryStart (core slice : Nat)
  /-- QUEUE_ENTRY_COMPLETION (R313). A queue entry completes after checksum comparison, rerunning once on mismatch. -/
  | queueEntryCompletion (core slice mismatches : Nat)
  /-- ACCST_ROW_ANSWER (R523). An ACCST row is accepted or refused at its home slice. -/
  | accstRowAnswer (core uid row : Nat)
  /-- MEMORY_ACCESS (R36). A channel controller maps and serves one block access at a bank. -/
  | memoryAccess (rid : Nat)
  /-- ROW_PROMOTION (R40). A bank promotes one far row into a promotion slot or reports an outcome. -/
  | rowPromotion (chan bank row pri : Nat)
  /-- ROW_DEMOTION (R41). A bank writes back and frees the slot of a promoted row. -/
  | rowDemotion (chan bank row : Nat)
  /-- AUTOMATIC_PROMOTION (R94). After serving an access through an APL leaf the controller promotes the row. -/
  | automaticPromotion (chan : Nat)
  /-- SEQ_RENUMBERING (R43). Before the promotion counter wraps the bank renumbers SEQ fields. -/
  | seqRenumbering (chan bank : Nat)
  /-- REFRESH (R33). Refresh covers both segments and promotion slots without changing values. -/
  | refresh (chan : Nat)
  /-- PATROL_SCRUB (R49). The patrol scrub visits a row, corrects and counts errors. -/
  | patrolScrub (chan bank row : Nat)
  /-- CHANNEL_RESET (R46). Root firmware starts row reset of a channel. -/
  | channelReset (chan : Nat)
  /-- CHANNEL_RESET_COMPLETE (R46). Row reset of a channel ends and accesses are again accepted. -/
  | channelResetComplete (chan : Nat)
  /-- BANDWIDTH_WINDOW (R48). A new 3,200-cycle window starts path D's reserved quota. -/
  | bandwidthWindow (chan : Nat)
  /-- HOME_SLICE_ACCESS (R85). An access reaches its home slice, is checked and served or forwarded. -/
  | homeSliceAccess (rid : Nat)
  /-- L2_FILL (R82). A missed block arrives packed and is installed, evicting victims. -/
  | l2Fill (rid : Nat)
  /-- PAGE_WALK (R91). A translation unit walks the page tables for a missing translation. -/
  | pageWalk (rid : Nat)
  /-- LINK_TRAINING (R67). A die link or port trains and advertises packed capability. -/
  | linkTraining (link : Nat) (packed : Bool)
  /-- FLIT_REPLAY (R514). A failed or unacknowledged flit and later flits are replayed. -/
  | flitReplay (port : Nat) (ok : Bool)
  /-- PORT_RETRAIN (R514). After 8 failed replays the port retrains or goes down. -/
  | portRetrain (port : Nat) (ok : Bool)
  /-- MAINTENANCE_NOP (R97). A NOP maintenance record completes in ring order. -/
  | maintenanceNop (part : Nat)
  /-- INV_RANGE (R97). Invalidates blocks and translations of an ASID in a range, then writes the completion word. -/
  | invRange (part : Nat)
  /-- INV_ASID (R97). Invalidates everything of one ASID tag. -/
  | invAsid (part : Nat)
  /-- INV_PART (R97). Invalidates everything of the partition. -/
  | invPart (part : Nat)
  /-- MQTAIL_WRITE (R100). Writing TAIL lets the ring start records or stalls it when out of bound. -/
  | mqtailWrite (part v : Nat)
  /-- MQCTL_WRITE (R100). Writing EN stops the ring after the record in progress or resumes it. -/
  | mqctlWrite (part v : Nat)
  /-- FAULT_RESERVATION_RETRY (R104). After the back-off expires the warp retries a refused reservation. -/
  | faultReservationRetry (core wslot : Nat)
  /-- COPY (R121). Transfer command copying bytes, optionally through a chain. -/
  | copy (core gslot ring : Nat)
  /-- AFFINE (R122). Transfer command moving a four-dimensional strided block. -/
  | affine (core gslot ring : Nat)
  /-- GATHER (R122). Transfer command gathering table elements by index. -/
  | gather (core gslot ring : Nat)
  /-- SCATTER (R122). Transfer command scattering dense elements by index. -/
  | scatter (core gslot ring : Nat)
  /-- RAGGED (R122). Transfer command packing variable-length rows into a padded tile. -/
  | ragged (core gslot ring : Nat)
  /-- FILL (R121). Transfer command filling a destination with an 8-byte pattern. -/
  | fill (core gslot ring : Nat)
  /-- IULOAD (R121). Transfer command loading an intersection microprogram into a kind slot. -/
  | iuload (core gslot ring : Nat)
  /-- SCADD (R133). SAE command folding values into targets by index. -/
  | scadd (core gslot ring : Nat)
  /-- BIN (R134). SAE command performing a stable counting sort. -/
  | bin (core gslot ring : Nat)
  /-- HIST (R134). SAE command counting keys into a histogram. -/
  | hist (core gslot ring : Nat)
  /-- CHUNK_COMPLETION (R129). A 4 KiB chunk's writes complete and its bytes are subtracted from the barrier. -/
  | chunkCompletion (core gslot ring : Nat)
  /-- COMMAND_COMPLETION (R117). A command's writes complete; the engine signals its semaphore and advances HEAD. -/
  | commandCompletion (core gslot ring : Nat)
  /-- RING_RESUME (R136). On PARK written to 0 the engine discards the parked command and continues. -/
  | ringResume (core gslot ring : Nat)
  /-- GRID_DISPATCH (R424). The scheduler dispatches a ready queue record or child grid. -/
  | gridDispatch (part : Nat)
  /-- LQTAIL_WRITE (R420). Writing a launch queue TAIL makes new records available. -/
  | lqtailWrite (part q v : Nat)
  /-- LQSTAT_WRITE (R422). Writing PARK 0 skips the parked record. -/
  | lqstatWrite (part q v : Nat)
  /-- GROUP_PLACEMENT (R427). A distributor places a group or neighbour set on a core, zeroing its resources. -/
  | groupPlacement (part grid group core : Nat)
  /-- PLACEMENT_TIMEOUT (R428). After 65,536 cycles the first waiting group blocks other placements on its die. -/
  | placementTimeout (part die : Nat)
  /-- GROUP_RETIRE (R431). A group's remaining resources and retire record are released. -/
  | groupRetire (core gslot : Nat)
  /-- GRID_COMPLETION (R425). A grid completes and CDONE advances. -/
  | gridCompletion (part grid : Nat)
  /-- CONTINUATION_WARP_FORMATION (R439). The core forms a warp from eligible records of one key. -/
  | continuationWarpFormation (core rec quadrant : Nat)
  /-- SPILL_RETURN (R440). Spilled continuation records return into the queue as room frees. -/
  | spillReturn (core : Nat)
  /-- HANDLER_ENTRY (R446). A warp enters its trap handler with trap state written. -/
  | handlerEntry (core wslot : Nat)
  /-- FATAL_HALT (R445). A trap with no handler or in handler mode halts the group fatally. -/
  | fatalHalt (core wslot : Nat)
  /-- DEBUG_REQUEST (R452). Service firmware requests a debug halt of a group. -/
  | debugRequest (core gslot : Nat)
  /-- GRID_ABORT (R453). A grid is discarded and counted complete. -/
  | gridAbort (part grid : Nat)
  /-- ENGINE_FAULT_TRAP (R457). A parked ring's trap is taken at a warp's instruction boundary. -/
  | engineFaultTrap (core gslot : Nat)
  /-- IMPRECISE_RECORD_WRITE (R451). The pending imprecise record is written or dropped, e.g. 256 cycles after opening. -/
  | impreciseRecordWrite (core wslot : Nat)
  /-- SWAP_OUT (R454). After accepted fault records the group is saved to wait for answers. -/
  | swapOut (core gslot : Nat)
  /-- GROUP_SAVE (R460). A group drains and is written to a save slot. -/
  | groupSave (core gslot : Nat)
  /-- GROUP_RESTORE (R467). A saved unit is restored onto a core and resumes. -/
  | groupRestore (part slot core : Nat)
  /-- REPLAY (R456). RESUME answer replaying faulting lanes or resuming a debug-halted group. -/
  | replay (part kind key : Nat)
  /-- DELIVER (R456). RESUME answer delivering the ACCESS trap to faulting lanes. -/
  | deliver (part kind key : Nat)
  /-- ABORT (R456). RESUME answer aborting the grid or freeing a fatal slot. -/
  | abort (part kind key : Nat)
  /-- HOLD (R458). Pre-empts an ASID and holds it. -/
  | hold (part asid : Nat)
  /-- RELEASE (R458). Releases a held ASID. -/
  | release (part asid : Nat)
  /-- HOLD_COMPLETION (R461). The collector has every acknowledgement; BUSY clears and a notification follows. -/
  | holdCompletion (part : Nat)
  /-- ASSIGN (R473). Reserves a FREE resource for a partition. -/
  | assign (kind part index : Nat)
  /-- CANCEL (R473). Returns an ASSIGNED resource to FREE. -/
  | cancel (kind part index : Nat)
  /-- ENABLE (R473). Makes an ASSIGNED core OWNED. -/
  | enable (kind part index : Nat)
  /-- RELEASE_CORE (R474). Moves an OWNED core to DRAINING and migrates its groups. -/
  | releaseCore (part index : Nat)
  /-- RELEASE_CHANNEL (R484). Moves an interleave set to DRAINING, demoting its rows. -/
  | releaseChannel (part index : Nat)
  /-- SLCOMMIT (R478). Commits a new slice list and generation and starts the sweep. -/
  | slcommit (part : Nat)
  /-- CHCOMMIT (R486). Retires a DRAINING set and moves its channels to ZEROING. -/
  | chcommit (part index : Nat)
  /-- BLOCK_MOVE (R479). A new home probes the old home and receives or fills the block. -/
  | blockMove (part atag vb : Nat)
  /-- SWEEP (R481). The sweeper moves old-generation blocks and then clears BUSY. -/
  | sweep (part : Nat)
  /-- DRAIN_COMPLETE (R475). A DRAINING core holds no partition work and enters ZEROING. -/
  | drainComplete (kind index : Nat)
  /-- ZEROING_COMPLETE (R487). A zeroed resource enters FREE. -/
  | zeroingComplete (kind index : Nat)
  /-- PART_FATAL (R482). An uncorrectable dirty block aborts every grid of the partition. -/
  | partFatal (part : Nat)
  /-- CHMAP_WRITE (R483). A valid channel-map entry write makes an ASSIGNED channel OWNED. -/
  | chmapWrite (slot v : Nat)
  /-- HDOWN_ENABLE (R366). Enables a head for a partition and line cores. -/
  | hdownEnable (head v : Nat)
  /-- HDOWN_DISABLE (R366). Requests a head's disable, taking effect at its next frame start. -/
  | hdownDisable (head : Nat)
  /-- REGISTER_WRITE (R7). Write to a register that has no behaviour of its own. -/
  | registerWrite (root : Bool) (part offset bytes v : Nat)
  /-- NOTIFICATION_BATCH (R493). Waiting entries are written by RDMA, then an immediate carries TAIL. -/
  | notificationBatch (part : Nat)
  /-- NOTIFICATION_INTERVAL (R493). The IVAL timer expires and a batch is written. -/
  | notificationInterval (part : Nat)
  /-- RDMA_WRITE (R510). An arriving RDMA WRITE is applied to its target. -/
  | rdmaWrite (part : Nat) (qp : PacketHdr) (rkey addr : Nat) (data : List (BitVec 8))
  /-- RDMA_WRITE_WITH_IMMEDIATE (R511). An arriving write with immediate writes data and sets a launch queue TAIL. -/
  | rdmaWriteWithImmediate (part : Nat) (qp : PacketHdr) (rkey addr : Nat) (data : List (BitVec 8)) (imm : Nat)
  /-- RDMA_READ (R510). An arriving RDMA READ is served and answered. -/
  | rdmaRead (part : Nat) (qp : PacketHdr) (rkey addr len : Nat)
  /-- QP_CONTEXT_ENABLE (R510). The device reads a context whose V becomes 1 and starts its counters. -/
  | qpContextEnable (part qp : Nat)
  /-- FABRIC_ACCESS_ARRIVAL (R515). A fabric access arrives and is served under the matching GID or refused. -/
  | fabricAccessArrival (gid : PeerTag) (kind addr : Nat) (data : List (BitVec 8))
  /-- ATTESTATION_REQUEST (R518). Writing ATTREQ makes root firmware write a signed report. -/
  | attestationRequest (part v : Nat)
  /-- COLD_RESET (R521). The reset pin resets the module and reruns boot. -/
  | coldReset
  /-- WARM_RESET (R521). Root firmware resets the module and reruns boot. -/
  | warmReset
  /-- MODULE_FATAL_ERROR (R519). A module-level fatal error makes service firmware write a dump. -/
  | moduleFatalError (reason : Nat)
  /-- THERMAL_LIMIT (R521). Root firmware lowers clocks to keep power and halts above 85 C. -/
  | thermalLimit (level : Nat)
  /-- FRAME_START (R387). A head increments PRESCNT, adopts HDCFG and the newest publication. -/
  | frameStart (head : Nat)
  /-- HDCFG_POLL (R371). Every microsecond an unconfigured head reads its HDCFG. -/
  | hdcfgPoll (head : Nat)
  /-- LOAD_REQUEST (R370). Writing HDCFG.LOAD requests a background image load. -/
  | loadRequest (head : Nat)
  /-- LOADED (R370). An image load ends, succeeding or abandoned. -/
  | loaded (head : Nat)
  /-- LOCKET_LATCH (R386). At the latch line Cameo latches the newest valid Locket buffer for a band. -/
  | locketLatch (head : Nat)
  /-- BAND_START (R387). A line core starts a band, resetting engines and loading registers. -/
  | bandStart (lc : Nat)
  /-- BAND_ABANDONMENT (R388). At line D minus 1 an incomplete band is abandoned. -/
  | bandAbandonment (lc : Nat)
  /-- FALLBACK (R390). The fallback presents a band by reprojecting the previous image. -/
  | fallback (head band : Nat) (late : Bool)
  /-- RELF_WRITE (R363). Cameo writes RELF after its last read of a slot. -/
  | relfWrite (head fslot : Nat)
  /-- STREAM_ROW_FETCH (R378). A read stream fetches a row ahead. -/
  | streamRowFetch (lc st : Nat)
  /-- STREAM_ROW_ANSWER (R378). A memory-write row is accepted or refused at its home slice. -/
  | streamRowAnswer (lc st : Nat)
  /-- MATRIX_ENTRY_COMPLETION (R392). A Cameo matrix queue entry finishes its 8-cycle product. -/
  | matrixEntryCompletion (lc : Nat)
  /-- SUSPENSION (R381). A line core stops at a bundle boundary for a clock change or debug halt. -/
  | suspension (lc : Nat)
  /-- RESUMPTION (R381). A suspended line core continues exactly as it stood. -/
  | resumption (lc : Nat)
  /-- UNREACHABLE_NODE_FAULT (R513). A remote access to an unreachable node completes at its requester as a data-error fault within 4 ms. -/
  | unreachableNodeFault (rid : Nat)
  /-- REQUESTER_RETRY (R510). As requester on queue-pair context 0, the device retransmits unacknowledged packets and, after RETRY attempts, treats the context as failed. -/
  | requesterRetry (part : Nat)
deriving DecidableEq, Repr

end Sys2Proof
end

