-- ==== Sys2Proof/Machine/Legality.lean ====
section
/-! DEFINITION. Machine/Legality.lean: the opcode map (07 R178), the format classes (07 R170) and the field rules that raise
the illegal-instruction trap (07 R167 steps 1 to 4 and the field rules of the instruction chapters). -/

namespace Sys2Proof.Machine

/-- Format classes (07 R170). -/
inductive Cls where
  | r | i | b | m | a | s | x
deriving DecidableEq, Repr

/-- The opcode, class and fields of a Suric instruction (07 R178); none for a slot instruction or an event. -/
def suricOf (i : Instr) : Option (Nat × Cls × Fields) :=
  match i with
  | .iadd f => some (1, .r, f)
  | .isub f => some (2, .r, f)
  | .imul f => some (3, .r, f)
  | .imulh f => some (4, .r, f)
  | .imad f => some (5, .r, f)
  | .imadw f => some (6, .r, f)
  | .imin f => some (7, .r, f)
  | .imax f => some (8, .r, f)
  | .iabsd f => some (9, .r, f)
  | .lop3 f => some (10, .r, f)
  | .shl f => some (11, .r, f)
  | .shr f => some (12, .r, f)
  | .shra f => some (13, .r, f)
  | .shf f => some (14, .r, f)
  | .bfx f => some (15, .r, f)
  | .bfi f => some (16, .r, f)
  | .popc f => some (17, .r, f)
  | .clz f => some (18, .r, f)
  | .brev f => some (19, .r, f)
  | .prmt f => some (20, .r, f)
  | .iset f => some (21, .r, f)
  | .isel f => some (22, .r, f)
  | .lea f => some (23, .r, f)
  | .iaddI f => some (24, .i, f)
  | .imulI f => some (25, .i, f)
  | .shlI f => some (26, .i, f)
  | .shrI f => some (27, .i, f)
  | .shraI f => some (28, .i, f)
  | .bfxI f => some (29, .i, f)
  | .isetI f => some (30, .i, f)
  | .mov f => some (32, .r, f)
  | .movl f => some (33, .r, f)
  | .rdsr f => some (34, .i, f)
  | .p2v f => some (35, .r, f)
  | .v2p f => some (36, .r, f)
  | .plop f => some (37, .r, f)
  | .bra f => some (48, .b, f)
  | .brx f => some (49, .r, f)
  | .call f => some (50, .b, f)
  | .ret f => some (51, .r, f)
  | .exit f => some (52, .r, f)
  | .deferG f => some (53, .b, f)
  | .deferF f => some (53, .b, f)
  | .clasp f => some (54, .r, f)
  | .unclasp f => some (55, .r, f)
  | .nop f => some (56, .r, f)
  | .yield f => some (57, .r, f)
  | .launch f => some (58, .r, f)
  | .launchi f => some (59, .r, f)
  | .cwait f => some (60, .r, f)
  | .trap f => some (64, .i, f)
  | .tret f => some (65, .r, f)
  | .trd f => some (66, .i, f)
  | .twr f => some (67, .i, f)
  | .bpt f => some (68, .i, f)
  | .fadd f => some (80, .r, f)
  | .fmul f => some (81, .r, f)
  | .ffma f => some (82, .r, f)
  | .fmin f => some (83, .r, f)
  | .fmax f => some (84, .r, f)
  | .fset f => some (85, .r, f)
  | .frnd f => some (86, .r, f)
  | .fclass f => some (87, .r, f)
  | .fscale f => some (88, .r, f)
  | .dadd f => some (89, .r, f)
  | .dmul f => some (90, .r, f)
  | .dfma f => some (91, .r, f)
  | .dset f => some (92, .r, f)
  | .f2f f => some (96, .r, f)
  | .f2i f => some (97, .r, f)
  | .i2f f => some (98, .r, f)
  | .fpack f => some (99, .r, f)
  | .funpk f => some (100, .r, f)
  | .mxexp f => some (101, .r, f)
  | .rcp f => some (104, .r, f)
  | .rsq f => some (105, .r, f)
  | .sqrt f => some (106, .r, f)
  | .ex2 f => some (107, .r, f)
  | .lg2 f => some (108, .r, f)
  | .sincos f => some (109, .r, f)
  | .tanh f => some (110, .r, f)
  | .fil f => some (112, .r, f)
  | .filt f => some (113, .r, f)
  | .shfl f => some (114, .r, f)
  | .vote f => some (115, .r, f)
  | .redux f => some (116, .r, f)
  | .scanx f => some (117, .r, f)
  | .matchLanes f => some (118, .r, f)
  | .lrd f => some (119, .r, f)
  | .lwr f => some (120, .r, f)
  | .ld f => some (128, .m, f)
  | .st f => some (129, .m, f)
  | .ldc f => some (130, .m, f)
  | .ldsp f => some (131, .m, f)
  | .stsp f => some (132, .m, f)
  | .ldq f => some (133, .m, f)
  | .stq f => some (134, .m, f)
  | .pref f => some (135, .m, f)
  | .cctl f => some (136, .m, f)
  | .promote f => some (137, .r, f)
  | .demote f => some (138, .r, f)
  | .atom f => some (144, .a, f)
  | .atomc f => some (145, .a, f)
  | .red f => some (146, .a, f)
  | .atomsp f => some (147, .a, f)
  | .ldr f => some (148, .m, f)
  | .stc f => some (149, .a, f)
  | .fence f => some (152, .s, f)
  | .fencex f => some (153, .s, f)
  | .barGrp f => some (154, .s, f)
  | .barMeet f => some (154, .s, f)
  | .barPost f => some (154, .s, f)
  | .barAwait f => some (154, .s, f)
  | .barxMeet f => some (155, .s, f)
  | .barxPost f => some (155, .s, f)
  | .qbarMeet f => some (156, .s, f)
  | .qbarPost f => some (156, .s, f)
  | .semadd f => some (160, .r, f)
  | .semwait f => some (161, .r, f)
  | .semrd f => some (162, .r, f)
  | .enq f => some (163, .r, f)
  | .tex f => some (164, .r, f)
  | .texC f => some (164, .r, f)
  | .trace f => some (165, .r, f)
  | .doneBit f => some (166, .r, f)
  | .tilewait f => some (167, .r, f)
  | .mma f => some (176, .x, f)
  | .mmaExp f => some (176, .x, f)
  | .mmaAbs f => some (176, .x, f)
  | .accz f => some (177, .x, f)
  | .accrd f => some (178, .x, f)
  | .accwr f => some (179, .x, f)
  | .accst f => some (180, .x, f)
  | .mwait f => some (181, .x, f)
  | .pload f => some (182, .x, f)
  | .edge f => some (183, .x, f)
  | .mstat f => some (184, .x, f)
  | _ => none

/-- The instruction that an opcode names with these fields, variants told apart by F (07 R178). -/
def mkSuric (op : Nat) (f : Fields) : Option Instr :=
  match op with
  | 1 => some (.iadd f)
  | 2 => some (.isub f)
  | 3 => some (.imul f)
  | 4 => some (.imulh f)
  | 5 => some (.imad f)
  | 6 => some (.imadw f)
  | 7 => some (.imin f)
  | 8 => some (.imax f)
  | 9 => some (.iabsd f)
  | 10 => some (.lop3 f)
  | 11 => some (.shl f)
  | 12 => some (.shr f)
  | 13 => some (.shra f)
  | 14 => some (.shf f)
  | 15 => some (.bfx f)
  | 16 => some (.bfi f)
  | 17 => some (.popc f)
  | 18 => some (.clz f)
  | 19 => some (.brev f)
  | 20 => some (.prmt f)
  | 21 => some (.iset f)
  | 22 => some (.isel f)
  | 23 => some (.lea f)
  | 24 => some (.iaddI f)
  | 25 => some (.imulI f)
  | 26 => some (.shlI f)
  | 27 => some (.shrI f)
  | 28 => some (.shraI f)
  | 29 => some (.bfxI f)
  | 30 => some (.isetI f)
  | 32 => some (.mov f)
  | 33 => some (.movl f)
  | 34 => some (.rdsr f)
  | 35 => some (.p2v f)
  | 36 => some (.v2p f)
  | 37 => some (.plop f)
  | 48 => some (.bra f)
  | 49 => some (.brx f)
  | 50 => some (.call f)
  | 51 => some (.ret f)
  | 52 => some (.exit f)
  | 53 =>
    if f.fn = 0 then some (.deferG f) else
    if f.fn = 1 then some (.deferF f) else none
  | 54 => some (.clasp f)
  | 55 => some (.unclasp f)
  | 56 => some (.nop f)
  | 57 => some (.yield f)
  | 58 => some (.launch f)
  | 59 => some (.launchi f)
  | 60 => some (.cwait f)
  | 64 => some (.trap f)
  | 65 => some (.tret f)
  | 66 => some (.trd f)
  | 67 => some (.twr f)
  | 68 => some (.bpt f)
  | 80 => some (.fadd f)
  | 81 => some (.fmul f)
  | 82 => some (.ffma f)
  | 83 => some (.fmin f)
  | 84 => some (.fmax f)
  | 85 => some (.fset f)
  | 86 => some (.frnd f)
  | 87 => some (.fclass f)
  | 88 => some (.fscale f)
  | 89 => some (.dadd f)
  | 90 => some (.dmul f)
  | 91 => some (.dfma f)
  | 92 => some (.dset f)
  | 96 => some (.f2f f)
  | 97 => some (.f2i f)
  | 98 => some (.i2f f)
  | 99 => some (.fpack f)
  | 100 => some (.funpk f)
  | 101 => some (.mxexp f)
  | 104 => some (.rcp f)
  | 105 => some (.rsq f)
  | 106 => some (.sqrt f)
  | 107 => some (.ex2 f)
  | 108 => some (.lg2 f)
  | 109 => some (.sincos f)
  | 110 => some (.tanh f)
  | 112 => some (.fil f)
  | 113 => some (.filt f)
  | 114 => some (.shfl f)
  | 115 => some (.vote f)
  | 116 => some (.redux f)
  | 117 => some (.scanx f)
  | 118 => some (.matchLanes f)
  | 119 => some (.lrd f)
  | 120 => some (.lwr f)
  | 128 => some (.ld f)
  | 129 => some (.st f)
  | 130 => some (.ldc f)
  | 131 => some (.ldsp f)
  | 132 => some (.stsp f)
  | 133 => some (.ldq f)
  | 134 => some (.stq f)
  | 135 => some (.pref f)
  | 136 => some (.cctl f)
  | 137 => some (.promote f)
  | 138 => some (.demote f)
  | 144 => some (.atom f)
  | 145 => some (.atomc f)
  | 146 => some (.red f)
  | 147 => some (.atomsp f)
  | 148 => some (.ldr f)
  | 149 => some (.stc f)
  | 152 => some (.fence f)
  | 153 => some (.fencex f)
  | 154 =>
    if f.fn = 0 then some (.barGrp f) else
    if f.fn = 1 then some (.barMeet f) else
    if f.fn = 2 then some (.barPost f) else
    if f.fn = 3 then some (.barAwait f) else none
  | 155 =>
    if f.fn = 0 then some (.barxMeet f) else
    if f.fn = 1 then some (.barxPost f) else none
  | 156 =>
    if f.fn = 0 then some (.qbarMeet f) else
    if f.fn = 1 then some (.qbarPost f) else none
  | 160 => some (.semadd f)
  | 161 => some (.semwait f)
  | 162 => some (.semrd f)
  | 163 => some (.enq f)
  | 164 =>
    if f.fn &&& 8 = 0 then some (.tex f) else
    if f.fn &&& 8 = 8 then some (.texC f) else none
  | 165 => some (.trace f)
  | 166 => some (.doneBit f)
  | 167 => some (.tilewait f)
  | 176 =>
    if f.fn &&& 12 = 0 then some (.mma f) else
    if f.fn &&& 12 = 4 then some (.mmaExp f) else
    if f.fn &&& 12 = 8 then some (.mmaAbs f) else none
  | 177 => some (.accz f)
  | 178 => some (.accrd f)
  | 179 => some (.accwr f)
  | 180 => some (.accst f)
  | 181 => some (.mwait f)
  | 182 => some (.pload f)
  | 183 => some (.edge f)
  | 184 => some (.mstat f)
  | _ => none

/-- A register field that names nothing (07 R167 step 4). -/
def ff (x : BitVec 8) : Bool := x == 0xFF

/-- Guard encodings that are not reserved (07 R166). -/
def guardOk (g : BitVec 5) : Bool := g != 15 && g != 23 && g != 31

/-- A predicate-select byte that names a source (08 R189). -/
def predSrcOk (x : BitVec 8) : Bool := nbits x.toNat 5 3 == 0

/-- A predicate-select byte that names a destination (08 R189). -/
def predDstOk (x : BitVec 8) : Bool := nbits x.toNat 4 4 == 0

/-- A modifier code that the type of its source defines (07 R176, R177). -/
def modOk (t code : Nat) : Bool :=
  if t ≤ 1 then decide (code ≤ 14)
  else if t ≤ 3 then decide (code ≤ 3)
  else if t = 8 ∨ t = 14 then decide (code ≤ 3)
  else if t = 15 then decide (code = 0)
  else true

/-- A 32-bit or packed operand given as a literal has bits [63:32] zero (07 R168). -/
def lit32 (f : Fields) : Bool :=
  match f.lit with
  | none => true
  | some w => fld w 32 32 == 0

/-- The literal rule of operand B in class R: B = 0xFF and MB = 0 beside a literal (07 R168). -/
def litB (f : Fields) : Bool := f.lit.isNone || (ff f.b && f.mb == 0)

/-- A word without a literal. -/
def noLit (f : Fields) : Bool := f.lit.isNone

/-- Every register field 0xFF and every other field 0, as in EXIT, NOP or TRET. -/
def bare (f : Fields) : Bool :=
  ff f.d && ff f.a && ff f.b && ff f.c && f.ma == 0 && f.mb == 0 && f.fn == 0 && f.t == 0 && noLit f

/-- B and C unused, MB zero: the shape of an instruction that reads A only. A literal that follows is read by nothing
(log 20). -/
def onlyA (f : Fields) : Bool := ff f.b && ff f.c && f.mb == 0

/-- Field rules of an arithmetic instruction of 08 R191 in class R: highest packed type code accepted besides 15, whether
F[0] may be 1 and whether C is used; `wideB` when B is a pair with T = 15. -/
def arithOk (maxT : Nat) (sat useC wideB : Bool) (f : Fields) : Bool :=
  let t := f.t.toNat
  (decide (t ≤ maxT) || t == 15) && (f.fn == 0 || (sat && f.fn == 1)) && (useC || ff f.c) &&
  modOk t f.ma.toNat && modOk t f.mb.toNat && litB f && ((wideB && t == 15) || lit32 f)

/-- The same in class I (08 R192). -/
def arithIOk (maxT : Nat) (sat : Bool) (f : Fields) : Bool :=
  let t := f.t.toNat
  (decide (t ≤ maxT) || t == 15) && (f.fn == 0 || (sat && f.fn == 1)) && ff f.c &&
  modOk t f.ma.toNat && f.mb == 0 && noLit f

/-- Whether T is one of the float types with 8, 9 or 10, and 14 where `dbl` (09 R226). -/
def fltT (f : Fields) (sgl dbl : Bool) : Bool :=
  (sgl && (f.t == 8 || f.t == 9 || f.t == 10)) || (dbl && f.t == 14)

/-- Modifiers and literal of a float instruction with operands A and B (09 R226). -/
def fltAB (f : Fields) : Bool :=
  modOk f.t.toNat f.ma.toNat && modOk f.t.toNat f.mb.toNat && litB f && (f.t == 14 || lit32 f)

/-- The pairs of types, and the use of .sr and .sat, that F2F, F2I and I2F define (09 R234 to R237). -/
def convOk (op : Nat) (f : Fields) : Bool :=
  let dst := f.t.toNat
  let src := f.b.toNat
  let sr := wbit f.fn 2
  let sat := wbit f.fn 3
  let pairOk :=
    if op = 96 then
      (src == 14 && dst == 8) || (src == 8 && dst == 14 && !sr && !sat) || (src == 9 && dst == 10 && !sat) ||
      (src == 10 && dst == 9 && !sr)
    else if op = 97 then
      !sr && !sat && (((src == 8 || src == 14) && (dst == 0 || dst == 1 || dst == 15)) ||
        ((src == 9 || src == 10) && (dst == 2 || dst == 3)))
    else
      !sr && (((src == 0 || src == 1 || src == 15) && (dst == 8 || dst == 14) && !sat) ||
        ((src == 2 || src == 3) && (dst == 9 || dst == 10) && (!sat || (src == 3 && dst == 9))))
  pairOk && modOk src f.ma.toNat && f.mb == 0 && noLit f && (if sr then fld f.fn 0 2 == 0 else ff f.c)

/-- FPACK and FUNPK formats in B (09 R238, R239). -/
def packCode (b : Nat) : Bool := b == 6 || b == 7 || (decide (9 ≤ b) && decide (b ≤ 13))

/-- The order codes an instruction accepts: weak, acquire or release (07 R171, 10 R256). -/
def maAcq (f : Fields) : Bool := decide (f.ma.toNat ≤ 5)
def maRel (f : Fields) : Bool := f.ma == 0 || (decide (6 ≤ f.ma.toNat) && decide (f.ma.toNat ≤ 10))

/-- Index, offset and literal rules of class M (07 R168, R171). -/
def memOk (f : Fields) : Bool :=
  (fld f.fn 0 2 != 0 || ff f.b) && (f.lit.isNone || f.c == 0) && decide (f.mb.toNat ≤ 2)

def loadT (f : Fields) : Bool := decide (f.t.toNat ≤ 6)
def storeT (f : Fields) : Bool := f.t == 0 || f.t == 2 || f.t == 4 || f.t == 5 || f.t == 6

/-- The types that an atomic operation allows (10 R271). -/
def atomT (fn t : Nat) (sp : Bool) : Bool :=
  let int := t == 0 || t == 1 || t == 15
  let flt := t == 8 || t == 9 || t == 10 || t == 14
  if fn ≤ 2 then int || flt
  else if fn ≤ 5 then int
  else if fn = 6 then int || t == 8 || t == 14
  else if fn ≤ 8 then t == 1
  else fn == 9 && sp && (t == 1 || t == 15)

/-- The operand families of a dense MMA: formats, accumulator type and whether scales are allowed (11 R295). -/
def mmaFamily (ma mb t : Nat) (sc : Bool) : Bool :=
  ((ma == 6 || ma == 7) && mb == ma && t == 8 && !sc) ||
  ((ma == 9 || ma == 10) && (mb == 9 || mb == 10) && t == 8) ||
  ((ma == 11 || ma == 12) && (mb == 11 || mb == 12) && t == 8) ||
  (ma == 13 && mb == 13 && t == 8) || (ma == 0 && mb == 0 && t == 0 && !sc)

def latentCode (x : Nat) : Bool := x == 6 || x == 7 || x == 9 || x == 10

/-- The field rules of each instruction, whose breach is the illegal-instruction trap (07 R167 step 4). DEDUCED: a tile number above 7 in
D of MMA, ACCZ or ACCWR breaks one (07 R175, log 22). -/
def fieldsOk (op : Nat) (f : Fields) : Bool :=
  let t := f.t.toNat
  let fn := f.fn.toNat
  let ma := f.ma.toNat
  match op with
  | 1 | 2 | 3 => arithOk 7 true false true f
  | 4 => arithOk 5 false false true f
  | 5 => arithOk 7 true true true f
  | 6 => decide (t ≤ 1) && fn == 0 && modOk t ma && modOk t f.mb.toNat && litB f && lit32 f
  | 7 | 8 | 9 => arithOk 7 false false true f
  | 10 => ma == 0 && f.mb == 0 && litB f && lit32 f
  | 11 | 12 | 13 => arithOk 5 false false false f
  | 14 => decide (fn ≤ 3) && t == 1 && modOk t ma && modOk t f.mb.toNat && litB f && lit32 f
  | 15 => fn == 0 && decide (t ≤ 1) && modOk t ma && modOk t f.mb.toNat && litB f && lit32 f
  | 16 | 20 => fn == 0 && t == 1 && modOk t ma && modOk t f.mb.toNat && litB f && lit32 f
  | 17 | 18 | 19 => onlyA f && fn == 0 && (t == 1 || t == 15) && modOk t ma
  | 21 => predDstOk f.d && ff f.c && (decide (t ≤ 7) || t == 15) && decide (fn % 8 ≤ 5) && modOk t ma &&
      modOk t f.mb.toNat && litB f && (t == 15 || lit32 f)
  | 22 => predSrcOk f.c && fn == 0 && modOk t ma && modOk t f.mb.toNat && litB f && (decide (t ≥ 14) || lit32 f)
  | 23 => ff f.c && ma == 0 && (t == 0 || t == 1 || t == 15) && modOk t f.mb.toNat && litB f && (t == 15 || lit32 f)
  | 24 | 25 => arithIOk 7 true f
  | 26 | 27 | 28 => arithIOk 5 false f
  | 29 => fn == 0 && decide (t ≤ 1) && modOk t ma && f.mb == 0 && noLit f
  | 30 => predDstOk f.d && ff f.c && (decide (t ≤ 7) || t == 15) && decide (fn % 8 ≤ 5) && modOk t ma && f.mb == 0 && noLit f
  | 32 => onlyA f && noLit f && fn == 0 && (if t ≥ 14 then ma == 0 else modOk t ma)
  | 33 => ff f.a && ff f.b && ff f.c && ma == 0 && f.mb == 0 && fn == 0 && f.lit.isSome && (decide (t ≥ 14) || lit32 f)
  | 34 => ff f.a && ff f.c && t == 0 && fn == 0 && ma == 0 && f.mb == 0 && noLit f
  | 35 => ff f.a && ff f.b && ff f.c && decide (fn ≤ 1) && t == 0 && ma == 0 && f.mb == 0
  | 36 => ff f.d && ff f.c && decide (fn ≤ 1) && t == 0 && modOk 0 ma && modOk 0 f.mb.toNat && litB f && lit32 f
  | 37 => predDstOk f.d && predSrcOk f.a && predSrcOk f.b && predSrcOk f.c && ma == 0 && f.mb == 0 && noLit f
  | 48 => ff f.d && ma == 0 && f.mb == 0 && fn == 0 && t == 0 && noLit f
  | 50 => ma == 0 && f.mb == 0 && fn == 0 && t == 0 && noLit f
  | 49 | 51 => ff f.d && ff f.b && ff f.c && ma == 0 && f.mb == 0 && fn == 0 && t == 0 && noLit f
  | 52 | 54 | 55 | 56 | 57 | 60 | 65 => bare f
  | 53 => ff f.d && decide (ma * 4 + f.mb.toNat / 4 ≤ 32) && f.mb.toNat % 4 == 0 && decide (fn ≤ 1) && t == 0 && noLit f
  | 58 => ff f.b && ff f.c && fn == 0 && t == 0 && ma == 0 && f.mb == 0
  | 59 => ff f.c && fn == 0 && t == 0 && ma == 0 && f.mb == 0 && litB f
  | 64 | 68 => ff f.d && ff f.a && ff f.c && fn == 0 && t == 0 && ma == 0 && f.mb == 0 && noLit f
  | 66 => ff f.a && ff f.c && fn == 0 && t == 0 && ma == 0 && f.mb == 0 && noLit f
  | 67 => ff f.d && ff f.c && fn == 0 && t == 0 && ma == 0 && f.mb == 0 && noLit f
  | 80 | 81 => fltT f true false && ff f.c && fltAB f
  | 82 => fltT f true false && fltAB f
  | 83 | 84 => fltT f true true && ff f.c && decide (fn ≤ 1) && fltAB f
  | 85 => fltT f true false && ff f.c && predDstOk f.d && fltAB f
  | 86 => fltT f true true && onlyA f && modOk t ma
  | 87 => fltT f true true && ff f.c && predDstOk f.d && decide (fn % 8 = 0) && modOk t ma && modOk t f.mb.toNat && litB f && lit32 f
  | 88 => fltT f true true && ff f.c && modOk t ma && f.mb == 0 && litB f && lit32 f
  | 89 | 90 => fltT f false true && ff f.c && decide (fn ≤ 7) && fltAB f
  | 91 => fltT f false true && decide (fn ≤ 7) && fltAB f
  | 92 => fltT f false true && ff f.c && predDstOk f.d && fltAB f
  | 96 | 97 | 98 => convOk op f
  | 99 => t == 8 && packCode f.b.toNat && ma == 0 && f.mb == 0 && noLit f &&
      (if wbit f.fn 2 then decide (fn % 4 = 0) else ff f.c)
  | 100 => t == 8 && packCode f.b.toNat && ma == 0 && f.mb == 0 && fn == 0 && ff f.c && noLit f
  | 101 => t == 8 && ma == 0 && f.mb == 0 && fn == 0 && ff f.c && noLit f
  | 104 => fltT f true false && onlyA f && modOk t ma && (decide (fn % 4 = 0) || decide (fn ≥ 8))
  | 106 => fltT f true false && onlyA f && modOk t ma && decide (fn ≤ 7)
  | 105 | 107 | 108 | 109 | 110 => fltT f true false && onlyA f && modOk t ma && decide (fn % 4 = 0) && decide (fn ≤ 7)
  | 112 => decide (fn ≤ 7) && ff f.c && t == 0 && ma == 0 && f.mb == 0 && litB f && lit32 f
  | 113 => decide (fn ≤ 7) && ff f.d && ff f.b && ff f.c && t == 0 && ma == 0 && f.mb == 0
  | 114 => ff f.c && ma == 0 && f.mb == 0 && litB f && lit32 f
  | 115 => predSrcOk f.a && ff f.b && ff f.c && t == 0 && ma == 0 && f.mb == 0 && decide (fn ≤ 5) &&
      (decide (fn ≤ 2) || predDstOk f.d)
  | 116 => (t == 0 || t == 1 || t == 8) && onlyA f && modOk t ma && decide (fn ≤ 5) &&
      (t != 8 || fn == 0 || fn == 4 || fn == 5)
  | 117 => (t == 0 || t == 1 || t == 8) && onlyA f && modOk t ma && decide (fn % 8 ≤ 5) &&
      (t != 8 || fn % 8 == 0 || fn % 8 == 4 || fn % 8 == 5)
  | 118 => onlyA f && ma == 0 && decide (fn ≤ 2)
  | 119 | 120 => ff f.c && fn == 0 && ma == 0 && f.mb == 0 && litB f && lit32 f
  | 128 => loadT f && maAcq f && memOk f
  | 129 => storeT f && maRel f && memOk f
  | 130 | 131 => loadT f && ma == 0 && f.mb == 0 && memOk f
  | 132 => storeT f && ma == 0 && f.mb == 0 && memOk f
  | 133 => loadT f && (ma == 0 || ma == 3) && f.mb == 0 && memOk f
  | 134 => storeT f && (ma == 0 || ma == 8) && f.mb == 0 && memOk f
  | 135 => t == 0 && ff f.d && ma == 0 && memOk f
  | 136 => ff f.d && ma == 0 && f.mb == 0 &&
      ((decide (t ≤ 2) && memOk f) ||
       (decide (4 ≤ t) && decide (t ≤ 6) && ff f.a && ff f.b && f.c == 0 && fn == 0 && noLit f))
  | 137 => decide (fn ≤ 3) && t == 0 && ma == 0 && f.mb == 0 && litB f && lit32 f
  | 138 => fn == 0 && t == 0 && ma == 0 && f.mb == 0 && litB f && lit32 f
  | 144 => atomT fn t false && ff f.c && decide (f.mb.toNat ≤ 2)
  | 145 => fn == 0 && (t == 1 || t == 15) && decide (f.mb.toNat ≤ 2)
  | 146 => decide (fn ≤ 5) && atomT fn t false && ff f.c && ff f.d && maRel f && decide (f.mb.toNat ≤ 2)
  | 147 => atomT fn t true && (fn == 9 || ff f.c) && ma == 0 && f.mb == 0
  | 148 => (t == 4 || t == 5) && maAcq f && memOk f
  | 149 => fn == 0 && (t == 1 || t == 15) && ff f.c && maRel f && decide (f.mb.toNat ≤ 2)
  | 152 => ma != 0 && ff f.d && ff f.a && f.b == 0 && f.c == 0 && fn == 0 && t == 0 && f.mb == 0 && noLit f
  | 153 => decide (13 ≤ ma) && ff f.d && ff f.a && f.b != 0 && f.c != 0 && fn == 0 && t == 0 && f.mb == 0 && noLit f
  | 154 => ma == 0 && f.mb == 0 && t == 0 && f.c == 0 && noLit f && decide (fn ≤ 3) &&
      (fn == 2 || ff f.d) && (fn != 0 || ff f.a) && (fn == 3 || ff f.b)
  | 155 | 156 => ma == 0 && f.mb == 0 && t == 0 && f.c == 0 && noLit f && decide (fn ≤ 1) && (fn == 1 || ff f.d)
  | 160 => decide (t ≤ 1) && ff f.c && fn == 0 && ma == 0 && f.mb == 0 && litB f && lit32 f
  | 161 => t == 0 && ff f.c && fn == 0 && ma == 0 && f.mb == 0 && litB f && lit32 f
  | 162 => t == 0 && ff f.b && ff f.c && fn == 0 && ma == 0 && f.mb == 0
  | 163 => decide (fn ≤ 3) && ff f.d && ff f.b && ff f.c && t == 0 && ma == 0 && f.mb == 0
  | 164 => (t == 8 || t == 9) && decide (fn % 4 ≠ 3) && !wbit f.fn 2 && ma == 0 && f.mb == 0 &&
      (if wbit f.fn 3 then f.lit.isSome && ff f.b else ff f.c && litB f)
  | 165 => t == 0 && decide (fn ≤ 3) && ma == 0 && f.mb == 0 && f.lit.isSome && ff f.b
  | 166 => ff f.d && ff f.b && ff f.c && fn == 0 && t == 0 && ma == 0 && f.mb == 0
  | 167 => ff f.d && ff f.c && fn == 0 && t == 0 && ma == 0 && f.mb == 0 && litB f
  | 176 => decide (f.d.toNat ≤ 7) && noLit f &&
      (if fn / 4 = 0 then mmaFamily ma f.mb.toNat t (wbit f.fn 0) && (wbit f.fn 0 || ff f.c)
       else decide (fn / 4 ≤ 2) && !wbit f.fn 0 && latentCode ma && latentCode f.mb.toNat && t == 8)
  | 177 => decide (f.d.toNat ≤ 7) && ff f.a && ff f.b && ff f.c && fn == 0 && ma == 0 && f.mb == 0 && (t == 8 || t == 0) && noLit f
  | 178 => decide (f.a.toNat ≤ 7) && ff f.b && ff f.c && decide (fn ≤ 3) && ma == 0 && f.mb == 0 && (t == 8 || t == 0) && noLit f
  | 179 => decide (f.d.toNat ≤ 7) && ff f.b && ff f.c && decide (fn ≤ 3) && ma == 0 && f.mb == 0 && (t == 8 || t == 0) && noLit f
  | 180 => ff f.d && decide (fn ≤ 2) && (t == 8 || (t == 0 && fn == 0)) && ma == 0 && f.mb == 0 && noLit f
  | 181 => bare f
  | 182 => ff f.d && ma == 0 && f.mb == 0 && fn == 0 && t == 0 && noLit f
  | 183 => ff f.c && ma == 0 && f.mb == 0 && fn == 0 && t == 0 && noLit f
  | 184 => ff f.a && ff f.b && ff f.c && decide (fn ≤ 1) && ma == 0 && f.mb == 0 && t == 0 && noLit f
  | _ => false

/-- The word passes steps 1 to 4 of 07 R167. -/
def legalWord (op : Nat) (f : Fields) : Bool := guardOk f.g && f.k != 3 && fieldsOk op f && (mkSuric op f).isSome

/-- The classes whose instructions may carry a literal, and those instructions that must (07 R168). -/
def litClass (op : Nat) : Bool := !(decide (24 ≤ op) && decide (op ≤ 30)) && op != 34 && op != 48 && op != 50 && op != 53 &&
  op != 64 && op != 66 && op != 67 && op != 68 && !(decide (152 ≤ op) && decide (op ≤ 156)) && decide (op < 176)

end Sys2Proof.Machine
end

