-- ==== Sys2Proof/Machine/SlotRules.lean ====
section
/-! DEFINITION. Machine/SlotRules.lean: the reserved field values of the Cameo slot words (15 R397 to R414) and the scalar
registers each slot instruction names (14 R372). -/

namespace Sys2Proof.Machine

/-- Operand B of an element-wise tile instruction: a tile with SC = 0 and S zero, or k0 to k15 with SC = 1 and B zero
(15 R406, R408). -/
def scOk (b : BitVec 3) (s : BitVec 5) (q : BitVec 1) : Bool :=
  if q = 1 then b == 0 && !wbit s 4 else s == 0

/-- The count of a rotation or broadcast: F with SC = 0 and S zero, or kS with SC = 1 and F zero (15 R408). -/
def rotOk {n : Nat} (k : BitVec n) (s : BitVec 5) (q : BitVec 1) : Bool :=
  if q = 1 then k == 0 && !wbit s 4 else s == 0

/-- TCVT's fields (15 R409): types y to z, SAT t, scale n, mode m. -/
def cvtOk (y : BitVec 2) (t : BitVec 1) (n : BitVec 4) (m z : BitVec 2) : Bool :=
  let si := decide (y.toNat ≤ 1)
  let di := decide (z.toNat ≤ 1)
  if si && !di then true
  else if !si && di then t == 0
  else if !si && !di then n == 0
  else n == 0 && m == 0

/-- No field of a slot instruction holds a reserved value (15 R397). -/
def slotOk (i : Instr) : Bool :=
  match i with
  | .kcmpReg _ _ f _ => decide (f.toNat ≤ 5)
  | .kcmpImm _ _ f _ => decide (f.toNat ≤ 5)
  | .brc _ f _ => decide (f.toNat ≤ 1)
  | .lktrd _ n => decide (n.toNat ≤ 10)
  | .tadd _ _ b s _ _ q => scOk b s q
  | .tsub _ _ b s _ _ q => scOk b s q
  | .tmul _ _ b s _ _ q => scOk b s q
  | .tmac _ _ b s _ _ q => scOk b s q
  | .tmin _ _ b s _ q => scOk b s q
  | .tmax _ _ b s _ q => scOk b s q
  | .tabsd _ _ b s _ q => scOk b s q
  | .tcmp _ _ b s _ q f => scOk b s q && decide (f.toNat ≤ 5)
  | .tcvt _ _ y t n m z => cvtOk y t n m z
  | .tshift _ _ y _ n => decide (y.toNat ≤ 1) && decide (n.toNat ≤ 16)
  | .tand _ _ b s q => scOk b s q
  | .tor _ _ b s q => scOk b s q
  | .rrot _ _ s q n => rotOk n s q
  | .rbc _ _ s q n => rotOk n s q
  | .crot _ _ s q n => rotOk n s q
  | .cbc _ _ s q n => rotOk n s q
  | .rred _ _ _ t o => o == 0 || (t == 0 && o != 3)
  | .cred _ _ _ t o => o == 0 || (t == 0 && o != 3)
  | .tgath _ _ _ s h => decide (h.toNat ≤ 20) && !wbit s 4
  | _ => true

/-- The scalar registers that a slot instruction names (14 R372, 15 R397). -/
def slotRegs (i : Instr) : List Nat :=
  match i with
  | .kaddReg d a b => [d.toNat, a.toNat, b.toNat]
  | .ksubReg d a b => [d.toNat, a.toNat, b.toNat]
  | .kmulReg d a b => [d.toNat, a.toNat, b.toNat]
  | .kaddImm d a _ => [d.toNat, a.toNat]
  | .ksubImm d a _ => [d.toNat, a.toNat]
  | .kmulImm d a _ => [d.toNat, a.toNat]
  | .kmov d a => [d.toNat, a.toNat]
  | .kldi d _ => [d.toNat]
  | .kldiHi d _ => [d.toNat]
  | .kld d a _ => [d.toNat, a.toNat]
  | .kst d a _ => [d.toNat, a.toNat]
  | .kcmpReg d a _ b => [d.toNat, a.toNat, b.toNat]
  | .kcmpImm d a _ _ => [d.toNat, a.toNat]
  | .brc a _ _ => [a.toNat]
  | .loopReg a _ => [a.toNat]
  | .toksendReg _ b => [b.toNat]
  | .tokrecv d _ => [d.toNat]
  | .bandchk d => [d.toNat]
  | .lktrd d _ => [d.toNat]
  | .evt a => [a.toNat]
  | .sbind _ a => [a.toNat]
  | .tadd _ _ _ s _ _ q => if q = 1 then [s.toNat] else []
  | .tsub _ _ _ s _ _ q => if q = 1 then [s.toNat] else []
  | .tmul _ _ _ s _ _ q => if q = 1 then [s.toNat] else []
  | .tmac _ _ _ s _ _ q => if q = 1 then [s.toNat] else []
  | .tmin _ _ _ s _ q => if q = 1 then [s.toNat] else []
  | .tmax _ _ _ s _ q => if q = 1 then [s.toNat] else []
  | .tabsd _ _ _ s _ q => if q = 1 then [s.toNat] else []
  | .tcmp _ _ _ s _ q _ => if q = 1 then [s.toNat] else []
  | .tand _ _ _ s q => if q = 1 then [s.toNat] else []
  | .tor _ _ _ s q => if q = 1 then [s.toNat] else []
  | .rrot _ _ s q _ => if q = 1 then [s.toNat] else []
  | .rbc _ _ s q _ => if q = 1 then [s.toNat] else []
  | .crot _ _ s q _ => if q = 1 then [s.toNat] else []
  | .cbc _ _ s q _ => if q = 1 then [s.toNat] else []
  | .tgath _ _ _ s _ => [s.toNat]
  | _ => []

/-- The first scalar register of each engine's range and the register after its last (14 R372). -/
def engineRegs (e : Nat) : Nat × Nat :=
  if e = 0 then (16, 24) else if e = 1 then (0, 16) else if e = 2 then (24, 28) else (28, 32)

/-- Every scalar register the instruction names belongs to engine `e` (14 R372). -/
def ownsRegs (e : Nat) (i : Instr) : Bool :=
  (slotRegs i).all (fun r => decide ((engineRegs e).1 ≤ r) && decide (r < (engineRegs e).2))

end Sys2Proof.Machine
end

