-- ==== Sys2Proof/WellFormed.lean ====
section
/-! DEFINITION. WellFormed.lean: which instructions have an encoding that the hardware decodes (07 R167, 15 R397). -/

namespace Sys2Proof

/-- A Suric instruction is well formed when its word passes steps 1 to 4 of 07 R167 and names this very instruction; a slot
instruction when it holds no reserved field value (15 R397); an event has no encoding and is well formed as it stands. -/
def WellFormed (i : Instr) : Bool :=
  match Machine.suricOf i with
  | some (op, _, f) => Machine.legalWord op f && decide (Machine.mkSuric op f = some i)
  | none => Machine.slotOk i

end Sys2Proof
end

