-- ==== Sys2Proof/Decode.lean ====
section
/-! DEFINITION. Decode.lean: Suric words and Cameo slot words to instructions and back (07 R165 to R168, R178; 15 R395 to
R414). Total on every word; a word the hardware refuses is rejected by name. -/

namespace Sys2Proof

open Machine

/-- Why a Suric word is refused, in the order of 07 R167. -/
inductive Reject where
  /-- OP is reserved (step 1). -/
  | opcode
  /-- The guard or the hint is reserved (step 2). -/
  | guardHint
  /-- A literal where the class forbids it, or none where the instruction requires one (step 3). -/
  | literal
  /-- A field holds a value that is not defined (step 4). -/
  | field
deriving DecidableEq, Repr

/-- Bit [2] of a word: a literal follows (07 R165). -/
def wantsLiteral (w : DWord) : Bool := w.getLsbD 2

/-- The opcode of a word (07 R165). -/
def opcodeOf (w : DWord) : Nat := fld w 56 8

/-- The fields of a word with its literal (07 R165). -/
def fieldsOf (w : DWord) (lit : DWord) : Fields :=
  { g := w.extractLsb' 51 5, d := w.extractLsb' 43 8, a := w.extractLsb' 35 8, b := w.extractLsb' 27 8,
    c := w.extractLsb' 19 8, ma := w.extractLsb' 15 4, mb := w.extractLsb' 11 4, fn := w.extractLsb' 7 4,
    t := w.extractLsb' 3 4, k := w.extractLsb' 0 2, lit := if wantsLiteral w then some lit else none }

/-- Whether an opcode is one of the map's (07 R178). -/
def knownOp (op : Nat) : Bool :=
  (decide (1 ≤ op) && decide (op ≤ 30)) || (decide (32 ≤ op) && decide (op ≤ 37)) ||
  (decide (48 ≤ op) && decide (op ≤ 60)) || (decide (64 ≤ op) && decide (op ≤ 68)) ||
  (decide (80 ≤ op) && decide (op ≤ 92)) || (decide (96 ≤ op) && decide (op ≤ 101)) ||
  (decide (104 ≤ op) && decide (op ≤ 110)) || (decide (112 ≤ op) && decide (op ≤ 120)) ||
  (decide (128 ≤ op) && decide (op ≤ 138)) || (decide (144 ≤ op) && decide (op ≤ 149)) ||
  (decide (152 ≤ op) && decide (op ≤ 156)) || (decide (160 ≤ op) && decide (op ≤ 167)) ||
  (decide (176 ≤ op) && decide (op ≤ 184))

/-- Steps 1 to 3 of 07 R167, which need the first word alone. -/
def headCheck (w : DWord) : Option Reject :=
  let op := opcodeOf w
  if !knownOp op then some .opcode
  else if !guardOk (w.extractLsb' 51 5) || w.extractLsb' 0 2 == 3#2 then some .guardHint
  else if wantsLiteral w && !litClass op then some .literal
  else if !wantsLiteral w && (op == 33 || op == 165 || (op == 164 && w.getLsbD 10)) then some .literal
  else none

/-- The instruction of a word and its literal, or the reason it is refused (07 R167). -/
def decodeSuric (w lit : DWord) : Except Reject Instr :=
  match headCheck w with
  | some r => .error r
  | none =>
    let f := fieldsOf w lit
    if fieldsOk (opcodeOf w) f then
      match mkSuric (opcodeOf w) f with
      | some i => .ok i
      | none => .error .field
    else .error .field

/-- Length in bytes of the instruction that starts with this word (07 R168). -/
def lengthOf (w : DWord) : Nat := if wantsLiteral w then 16 else 8

/-- The instruction at the start of a byte string and the bytes after it; none where the string is too short. -/
def decodeBytes (bs : List Byte) : Option (Except Reject (Instr × List Byte)) :=
  if bs.length < 8 then none
  else
    let w : DWord := BitVec.ofNat 64 (leAt bs 0 8)
    if wantsLiteral w && decide (bs.length < 16) then none
    else
      let lit : DWord := BitVec.ofNat 64 (leAt bs 8 8)
      some (match decodeSuric w lit with
        | .ok i => .ok (i, bs.drop (lengthOf w))
        | .error r => .error r)

/-- The word of an opcode and fields (07 R165). -/
def packWord (op : Nat) (f : Fields) : DWord :=
  BitVec.ofNat 8 op ++ f.g ++ f.d ++ f.a ++ f.b ++ f.c ++ f.ma ++ f.mb ++ f.fn ++ f.t ++
    (if f.lit.isSome then 1#1 else 0#1) ++ f.k

/-- The word of a Suric instruction, and its literal (07 R165, R168). -/
def encode (i : Instr) : Option (DWord × Option DWord) :=
  match suricOf i with
  | some (op, _, f) => some (packWord op f, f.lit)
  | none => none

/-- The scalar slot instruction of a word, its reserved field values not yet refused (15 R398, R399). -/
def decodeScalarRaw (w : Word) : Option Instr :=
  if w = 0 then some .noOperation
  else if w &&& 0xFC00F07F = 0x04000000 then some (.kaddReg (w.extractLsb' 21 5) (w.extractLsb' 16 5) (w.extractLsb' 7 5))
  else if w &&& 0xFC00F000 = 0x04008000 then some (.kaddImm (w.extractLsb' 21 5) (w.extractLsb' 16 5) (w.extractLsb' 0 12))
  else if w &&& 0xFC00F07F = 0x08000000 then some (.ksubReg (w.extractLsb' 21 5) (w.extractLsb' 16 5) (w.extractLsb' 7 5))
  else if w &&& 0xFC00F000 = 0x08008000 then some (.ksubImm (w.extractLsb' 21 5) (w.extractLsb' 16 5) (w.extractLsb' 0 12))
  else if w &&& 0xFC00F07F = 0x0C000000 then some (.kmulReg (w.extractLsb' 21 5) (w.extractLsb' 16 5) (w.extractLsb' 7 5))
  else if w &&& 0xFC00F000 = 0x0C008000 then some (.kmulImm (w.extractLsb' 21 5) (w.extractLsb' 16 5) (w.extractLsb' 0 12))
  else if w &&& 0xFC00FFFF = 0x10000000 then some (.kmov (w.extractLsb' 21 5) (w.extractLsb' 16 5))
  else if w &&& 0xFC1F0000 = 0x14000000 then some (.kldi (w.extractLsb' 21 5) (w.extractLsb' 0 16))
  else if w &&& 0xFC1F0000 = 0x14100000 then some (.kldiHi (w.extractLsb' 21 5) (w.extractLsb' 0 16))
  else if w &&& 0xFC00F000 = 0x18008000 then some (.kld (w.extractLsb' 21 5) (w.extractLsb' 16 5) (w.extractLsb' 0 12))
  else if w &&& 0xFC00F000 = 0x1C008000 then some (.kst (w.extractLsb' 21 5) (w.extractLsb' 16 5) (w.extractLsb' 0 12))
  else if w &&& 0xFC00807F = 0x20000000 then some (.kcmpReg (w.extractLsb' 21 5) (w.extractLsb' 16 5) (w.extractLsb' 12 3) (w.extractLsb' 7 5))
  else if w &&& 0xFC008000 = 0x20008000 then some (.kcmpImm (w.extractLsb' 21 5) (w.extractLsb' 16 5) (w.extractLsb' 12 3) (w.extractLsb' 0 12))
  else if w &&& 0xFFFFFC00 = 0x24000000 then some (.br (w.extractLsb' 0 10))
  else if w &&& 0xFFE08C00 = 0x28000000 then some (.brc (w.extractLsb' 16 5) (w.extractLsb' 12 3) (w.extractLsb' 0 10))
  else if w &&& 0xFFE0FC00 = 0x2C000000 then some (.loopReg (w.extractLsb' 16 5) (w.extractLsb' 0 10))
  else if w &&& 0xFC00FC00 = 0x2C008000 then some (.loopImm (w.extractLsb' 16 10) (w.extractLsb' 0 10))
  else if w &&& 0xFFFFFFFF = 0x30000000 then some (.halt)
  else if w &&& 0xFFFFC07F = 0x34000000 then some (.toksendReg (w.extractLsb' 12 2) (w.extractLsb' 7 5))
  else if w &&& 0xFFFFC000 = 0x34008000 then some (.toksendImm (w.extractLsb' 12 2) (w.extractLsb' 0 12))
  else if w &&& 0xFC1FCFFF = 0x38000000 then some (.tokrecv (w.extractLsb' 21 5) (w.extractLsb' 12 2))
  else if w &&& 0xFC1FFFFF = 0x3C000000 then some (.bandchk (w.extractLsb' 21 5))
  else if w &&& 0xFC1FF000 = 0x40008000 then some (.lktrd (w.extractLsb' 21 5) (w.extractLsb' 0 12))
  else if w &&& 0xFFE0FFFF = 0x44000000 then some (.evt (w.extractLsb' 16 5))
  else none

/-- The tile slot instruction of a word, likewise (15 R406, R408). -/
def decodeTileRaw (w : Word) : Option Instr :=
  if w = 0 then some .noOperation
  else if w &&& 0xFC0000FF = 0x04000000 then some (.tadd (w.extractLsb' 23 3) (w.extractLsb' 20 3) (w.extractLsb' 17 3) (w.extractLsb' 12 5) (w.extractLsb' 10 2) (w.extractLsb' 9 1) (w.extractLsb' 8 1))
  else if w &&& 0xFC0000FF = 0x08000000 then some (.tsub (w.extractLsb' 23 3) (w.extractLsb' 20 3) (w.extractLsb' 17 3) (w.extractLsb' 12 5) (w.extractLsb' 10 2) (w.extractLsb' 9 1) (w.extractLsb' 8 1))
  else if w &&& 0xFC0000FF = 0x0C000000 then some (.tmul (w.extractLsb' 23 3) (w.extractLsb' 20 3) (w.extractLsb' 17 3) (w.extractLsb' 12 5) (w.extractLsb' 10 2) (w.extractLsb' 9 1) (w.extractLsb' 8 1))
  else if w &&& 0xFC0000FF = 0x10000000 then some (.tmac (w.extractLsb' 23 3) (w.extractLsb' 20 3) (w.extractLsb' 17 3) (w.extractLsb' 12 5) (w.extractLsb' 10 2) (w.extractLsb' 9 1) (w.extractLsb' 8 1))
  else if w &&& 0xFC0002FF = 0x14000000 then some (.tmin (w.extractLsb' 23 3) (w.extractLsb' 20 3) (w.extractLsb' 17 3) (w.extractLsb' 12 5) (w.extractLsb' 10 2) (w.extractLsb' 8 1))
  else if w &&& 0xFC0002FF = 0x18000000 then some (.tmax (w.extractLsb' 23 3) (w.extractLsb' 20 3) (w.extractLsb' 17 3) (w.extractLsb' 12 5) (w.extractLsb' 10 2) (w.extractLsb' 8 1))
  else if w &&& 0xFC0002FF = 0x1C000000 then some (.tabsd (w.extractLsb' 23 3) (w.extractLsb' 20 3) (w.extractLsb' 17 3) (w.extractLsb' 12 5) (w.extractLsb' 10 2) (w.extractLsb' 8 1))
  else if w &&& 0xFC0002F8 = 0x20000000 then some (.tcmp (w.extractLsb' 23 3) (w.extractLsb' 20 3) (w.extractLsb' 17 3) (w.extractLsb' 12 5) (w.extractLsb' 10 2) (w.extractLsb' 8 1) (w.extractLsb' 0 3))
  else if w &&& 0xFC018FFF = 0x24000000 then some (.tsel (w.extractLsb' 23 3) (w.extractLsb' 20 3) (w.extractLsb' 17 3) (w.extractLsb' 12 3))
  else if w &&& 0xFC0FF100 = 0x28000000 then some (.tcvt (w.extractLsb' 23 3) (w.extractLsb' 20 3) (w.extractLsb' 10 2) (w.extractLsb' 9 1) (w.extractLsb' 4 4) (w.extractLsb' 2 2) (w.extractLsb' 0 2))
  else if w &&& 0xFC0FF360 = 0x2C000000 then some (.tshift (w.extractLsb' 23 3) (w.extractLsb' 20 3) (w.extractLsb' 10 2) (w.extractLsb' 7 1) (w.extractLsb' 0 5))
  else if w &&& 0xFC000EFF = 0x30000000 then some (.tand (w.extractLsb' 23 3) (w.extractLsb' 20 3) (w.extractLsb' 17 3) (w.extractLsb' 12 5) (w.extractLsb' 8 1))
  else if w &&& 0xFC000EFF = 0x34000000 then some (.tor (w.extractLsb' 23 3) (w.extractLsb' 20 3) (w.extractLsb' 17 3) (w.extractLsb' 12 5) (w.extractLsb' 8 1))
  else if w &&& 0xFC01FFFF = 0x38000000 then some (.tlut (w.extractLsb' 23 3) (w.extractLsb' 20 3) (w.extractLsb' 17 3))
  else if w &&& 0xFC0E0EC0 = 0x40000000 then some (.rrot (w.extractLsb' 23 3) (w.extractLsb' 20 3) (w.extractLsb' 12 5) (w.extractLsb' 8 1) (w.extractLsb' 0 6))
  else if w &&& 0xFC0E0EC0 = 0x44000000 then some (.rbc (w.extractLsb' 23 3) (w.extractLsb' 20 3) (w.extractLsb' 12 5) (w.extractLsb' 8 1) (w.extractLsb' 0 6))
  else if w &&& 0xFC0FF13F = 0x48000000 then some (.rred (w.extractLsb' 23 3) (w.extractLsb' 20 3) (w.extractLsb' 10 2) (w.extractLsb' 9 1) (w.extractLsb' 6 2))
  else if w &&& 0xFC0E0EF0 = 0x50000000 then some (.crot (w.extractLsb' 23 3) (w.extractLsb' 20 3) (w.extractLsb' 12 5) (w.extractLsb' 8 1) (w.extractLsb' 0 4))
  else if w &&& 0xFC0E0EF0 = 0x54000000 then some (.cbc (w.extractLsb' 23 3) (w.extractLsb' 20 3) (w.extractLsb' 12 5) (w.extractLsb' 8 1) (w.extractLsb' 0 4))
  else if w &&& 0xFC0FF13F = 0x58000000 then some (.cred (w.extractLsb' 23 3) (w.extractLsb' 20 3) (w.extractLsb' 10 2) (w.extractLsb' 9 1) (w.extractLsb' 6 2))
  else if w &&& 0xFC0FFFFF = 0x60000000 then some (.txmv (w.extractLsb' 23 3) (w.extractLsb' 20 3))
  else if w &&& 0xFC000FE0 = 0x64000000 then some (.tgath (w.extractLsb' 23 3) (w.extractLsb' 20 3) (w.extractLsb' 17 3) (w.extractLsb' 12 5) (w.extractLsb' 0 5))
  else if w &&& 0xFF8FFFF8 = 0x68000000 then some (.tmatq (w.extractLsb' 20 3) (w.extractLsb' 2 1) (w.extractLsb' 0 2))
  else if w &&& 0xFC7FFFFF = 0x6C000000 then some (.tmatr (w.extractLsb' 23 3))
  else none

/-- The stream slot instruction of a word, likewise (15 R413, R414). -/
def decodeStreamRaw (w : Word) : Option Instr :=
  if w = 0 then some .noOperation
  else if w &&& 0xF01FFFFF = 0x10000000 then some (.sbind (w.extractLsb' 26 2) (w.extractLsb' 21 5))
  else if w &&& 0xF300FFFF = 0x20000000 then some (.srdTile (w.extractLsb' 26 2) (w.extractLsb' 23 1) (w.extractLsb' 20 3) (w.extractLsb' 16 4))
  else if w &&& 0xF300FFFF = 0x21000000 then some (.srdWeight (w.extractLsb' 26 2) (w.extractLsb' 22 2) (w.extractLsb' 16 6))
  else if w &&& 0xF300FFFF = 0x30000000 then some (.swrTile (w.extractLsb' 26 2) (w.extractLsb' 23 1) (w.extractLsb' 20 3) (w.extractLsb' 16 4))
  else if w &&& 0xF33FFFFF = 0x31000000 then some (.swrStream (w.extractLsb' 26 2) (w.extractLsb' 22 2))
  else if w &&& 0xF3FFFFFF = 0x40000000 then some (.sflush (w.extractLsb' 26 2))
  else none

/-- A slot instruction, refused when a field holds a reserved value (15 R397). -/
def checkSlot (i : Option Instr) : Option Instr :=
  match i with
  | some j => if slotOk j then some j else none
  | none => none

def decodeScalar (w : Word) : Option Instr := checkSlot (decodeScalarRaw w)
def decodeTile (w : Word) : Option Instr := checkSlot (decodeTileRaw w)
def decodeStream (w : Word) : Option Instr := checkSlot (decodeStreamRaw w)

/-- The slot word of a Cameo instruction (15 R398, R406, R413). -/
def encodeSlot (i : Instr) : Option Word :=
  match i with
  | .noOperation => some 0
  | .kaddReg d a b => some ((0x1#6) ++ d ++ a ++ (0x0#4) ++ b ++ (0x0#7))
  | .kaddImm d a i => some ((0x1#6) ++ d ++ a ++ (0x8#4) ++ i)
  | .ksubReg d a b => some ((0x2#6) ++ d ++ a ++ (0x0#4) ++ b ++ (0x0#7))
  | .ksubImm d a i => some ((0x2#6) ++ d ++ a ++ (0x8#4) ++ i)
  | .kmulReg d a b => some ((0x3#6) ++ d ++ a ++ (0x0#4) ++ b ++ (0x0#7))
  | .kmulImm d a i => some ((0x3#6) ++ d ++ a ++ (0x8#4) ++ i)
  | .kmov d a => some ((0x4#6) ++ d ++ a ++ (0x0#16))
  | .kldi d i => some ((0x5#6) ++ d ++ (0x0#5) ++ i)
  | .kldiHi d i => some ((0x5#6) ++ d ++ (0x10#5) ++ i)
  | .kld d a i => some ((0x6#6) ++ d ++ a ++ (0x8#4) ++ i)
  | .kst d a i => some ((0x7#6) ++ d ++ a ++ (0x8#4) ++ i)
  | .kcmpReg d a f b => some ((0x8#6) ++ d ++ a ++ (0x0#1) ++ f ++ b ++ (0x0#7))
  | .kcmpImm d a f i => some ((0x8#6) ++ d ++ a ++ (0x1#1) ++ f ++ i)
  | .br t => some ((0x90000#22) ++ t)
  | .brc a f t => some ((0x140#11) ++ a ++ (0x0#1) ++ f ++ (0x0#2) ++ t)
  | .loopReg a e => some ((0x160#11) ++ a ++ (0x0#6) ++ e)
  | .loopImm c e => some ((0xB#6) ++ c ++ (0x20#6) ++ e)
  | .halt => some ((0x30000000#32))
  | .toksendReg e b => some ((0xD000#18) ++ e ++ b ++ (0x0#7))
  | .toksendImm e i => some ((0xD002#18) ++ e ++ i)
  | .tokrecv d e => some ((0xE#6) ++ d ++ (0x0#7) ++ e ++ (0x0#12))
  | .bandchk d => some ((0xF#6) ++ d ++ (0x0#21))
  | .lktrd d n => some ((0x10#6) ++ d ++ (0x8#9) ++ n)
  | .evt a => some ((0x220#11) ++ a ++ (0x0#16))
  | .tadd d a b s y t q => some ((0x1#6) ++ d ++ a ++ b ++ s ++ y ++ t ++ q ++ (0x0#8))
  | .tsub d a b s y t q => some ((0x2#6) ++ d ++ a ++ b ++ s ++ y ++ t ++ q ++ (0x0#8))
  | .tmul d a b s y t q => some ((0x3#6) ++ d ++ a ++ b ++ s ++ y ++ t ++ q ++ (0x0#8))
  | .tmac d a b s y t q => some ((0x4#6) ++ d ++ a ++ b ++ s ++ y ++ t ++ q ++ (0x0#8))
  | .tmin d a b s y q => some ((0x5#6) ++ d ++ a ++ b ++ s ++ y ++ (0x0#1) ++ q ++ (0x0#8))
  | .tmax d a b s y q => some ((0x6#6) ++ d ++ a ++ b ++ s ++ y ++ (0x0#1) ++ q ++ (0x0#8))
  | .tabsd d a b s y q => some ((0x7#6) ++ d ++ a ++ b ++ s ++ y ++ (0x0#1) ++ q ++ (0x0#8))
  | .tcmp d a b s y q f => some ((0x8#6) ++ d ++ a ++ b ++ s ++ y ++ (0x0#1) ++ q ++ (0x0#5) ++ f)
  | .tsel d a b m => some ((0x9#6) ++ d ++ a ++ b ++ (0x0#2) ++ m ++ (0x0#12))
  | .tcvt d a y t n m z => some ((0xA#6) ++ d ++ a ++ (0x0#8) ++ y ++ t ++ (0x0#1) ++ n ++ m ++ z)
  | .tshift d a y r n => some ((0xB#6) ++ d ++ a ++ (0x0#8) ++ y ++ (0x0#2) ++ r ++ (0x0#2) ++ n)
  | .tand d a b s q => some ((0xC#6) ++ d ++ a ++ b ++ s ++ (0x0#3) ++ q ++ (0x0#8))
  | .tor d a b s q => some ((0xD#6) ++ d ++ a ++ b ++ s ++ (0x0#3) ++ q ++ (0x0#8))
  | .tlut d a b => some ((0xE#6) ++ d ++ a ++ b ++ (0x0#17))
  | .rrot d a s q n => some ((0x10#6) ++ d ++ a ++ (0x0#3) ++ s ++ (0x0#3) ++ q ++ (0x0#2) ++ n)
  | .rbc d a s q n => some ((0x11#6) ++ d ++ a ++ (0x0#3) ++ s ++ (0x0#3) ++ q ++ (0x0#2) ++ n)
  | .rred d a y t o => some ((0x12#6) ++ d ++ a ++ (0x0#8) ++ y ++ t ++ (0x0#1) ++ o ++ (0x0#6))
  | .crot d a s q n => some ((0x14#6) ++ d ++ a ++ (0x0#3) ++ s ++ (0x0#3) ++ q ++ (0x0#4) ++ n)
  | .cbc d a s q n => some ((0x15#6) ++ d ++ a ++ (0x0#3) ++ s ++ (0x0#3) ++ q ++ (0x0#4) ++ n)
  | .cred d a y t o => some ((0x16#6) ++ d ++ a ++ (0x0#8) ++ y ++ t ++ (0x0#1) ++ o ++ (0x0#6))
  | .txmv d a => some ((0x18#6) ++ d ++ a ++ (0x0#20))
  | .tgath d a b s h => some ((0x19#6) ++ d ++ a ++ b ++ s ++ (0x0#7) ++ h)
  | .tmatq a c w => some ((0xD0#9) ++ a ++ (0x0#17) ++ c ++ w)
  | .tmatr d => some ((0x1B#6) ++ d ++ (0x0#23))
  | .sbind s a => some ((0x1#4) ++ s ++ a ++ (0x0#21))
  | .srdTile s c t r => some ((0x2#4) ++ s ++ (0x0#2) ++ c ++ t ++ r ++ (0x0#16))
  | .srdWeight s k r => some ((0x2#4) ++ s ++ (0x1#2) ++ k ++ r ++ (0x0#16))
  | .swrTile s c t r => some ((0x3#4) ++ s ++ (0x0#2) ++ c ++ t ++ r ++ (0x0#16))
  | .swrStream s b => some ((0x3#4) ++ s ++ (0x1#2) ++ b ++ (0x0#22))
  | .sflush s => some ((0x4#4) ++ s ++ (0x0#26))
  | _ => none

/-- The instruction that the table's word names: a 32-bit word is a Cameo slot word, read as a scalar slot, then as a tile
slot, then as a stream slot (log 5); a longer one is a Suric word, and its literal above bit 63. -/
def decodeTableWord (nbits w : Nat) : Option Instr :=
  if nbits ≤ 32 then
    let x : Word := BitVec.ofNat 32 w
    match decodeScalar x with
    | some i => some i
    | none =>
      match decodeTile x with
      | some i => some i
      | none => decodeStream x
  else
    match decodeSuric (BitVec.ofNat 64 w) (BitVec.ofNat 64 (w / 2 ^ 64)) with
    | .ok i => some i
    | .error _ => none

end Sys2Proof
end

