-- ==== Sys2Proof/Machine/Atomic.lean ====
section
/-! DEFINITION. Machine/Atomic.lean: the new value that an atomic leaves (05 R133, 10 R271 to R273). -/

namespace Sys2Proof.Machine

/-- ADD, MIN or MAX (codes 0, 1, 2) of one element: integers wrap and compare in their signedness; floats round RNE once,
take a NaN as absent and order −0 below +0; every NaN result is the canonical one (05 R133, 10 R271). -/
def foldElem (fn t a b : Nat) : Nat :=
  let n := tWidth t
  match tFmt t with
  | some m =>
    let x := fdecode m a
    let y := fdecode m b
    if fn = 0 then
      (if x.isNan || y.isNan || addInvalid x y then fcanon m else (rnd m .rne false (fadd false x y)).1)
    else if x.isNan && y.isNan then fcanon m
    else if x.isNan then b
    else if y.isNan then a
    else if fn = 2 then (if fbelow x y then b else a)
    else (if fbelow y x then b else a)
  | none =>
    let sx := fun (v : Nat) => if tSigned t then sxt v n else (v : Int)
    if fn = 0 then (a + b) % 2 ^ n
    else if fn = 1 then (if sx b < sx a then b else a)
    else (if sx a < sx b then b else a)

/-- The same over the elements of a register or pair. -/
def foldOp (fn t a b : Nat) : Nat :=
  packElems (tWidth t) ((upto (tCount t)).map (fun i => foldElem fn t (elemN a (tWidth t) i) (elemN b (tWidth t) i)))

/-- The new value of an atomic of operation `fn` and type `t` (10 R271); for the compare and swap, `c` is compared. -/
def atomNew (fn t o b c : Nat) : Nat :=
  if fn ≤ 2 then foldOp fn t o b
  else if fn = 3 then o &&& b
  else if fn = 4 then o ||| b
  else if fn = 5 then o ^^^ b
  else if fn = 6 then b
  else if fn = 7 then (if o ≥ b then 0 else o + 1)
  else if fn = 8 then (if o = 0 ∨ o > b then b else o - 1)
  else if o = c then b else o

/-- An atomic's lanes applied one after another, ascending: their old values, and the last new one (10 R272). -/
def atomFold (fn t : Nat) : List (Nat × Nat × Nat) → Nat → List Nat × Nat
  | [], v => ([], v)
  | (_, b, c) :: rest, v =>
    let (olds, last) := atomFold fn t rest (atomNew fn t v b c)
    (v :: olds, last)

/-- Bytes of an atomic of a type (10 R271). -/
def atomBytes (t : Nat) : Nat := if t ≥ 14 then 8 else 4

end Sys2Proof.Machine
end

