-- ==== Sys2Proof/Config.lean ====
section
/-! DEFINITION. Config.lean: what the spec leaves open, as constants without a body. Nothing can be proved of their values. -/

namespace Sys2Proof

/-- A value the spec leaves open, drawn at the tick the state's counter holds (log 4). -/
opaque Config.freeValue : Nat → Nat → Nat

/-- What a special function would return within its bound (09 R243): a fixed function of the instruction word and the
operand bits, used only where it meets the bound (log 10). -/
opaque Config.special : DWord → Nat → Nat → Nat

/-- Whether an error in 6 or more bytes of a codeword is detected, and what is read when it is not (02 R29, log 7). -/
opaque Config.undetected : Nat → Option (List Byte)

/-- The eight check symbols of a codeword of 128 bytes, by a code whose generator the spec does not give (02 R28, R29). -/
opaque Config.checkSymbols : List Byte → List Byte

/-- The port that the hash of a block address picks among n ports (22 R513). -/
opaque Config.portHash : Nat → Nat → Nat

/-- The images in the module's flash, 0 root and 1 service, and whether their signatures verify (22 R516). -/
opaque Config.image : Nat → List Byte
opaque Config.imageOk : Nat → Bool

/-- The SM3 digest of bytes, and the SM2 signature of a report under the device's key (22 R516, R517). -/
opaque Config.digest : List Byte → List Byte
opaque Config.signature : List Byte → List Byte

/-- Bytes held by the memory of another node, when the fabric answers (22 R513, log 13). -/
opaque Config.remoteByte : Nat → Nat → Byte

/-- How another node answers an access, drawn at a number that tells accesses apart, by its physical address (22 R515, log 13). -/
opaque Config.peerAnswer : Nat → Nat → Nat

/-- How the contents of a section of a dump are laid out as bytes, by its type: the spec gives the contents and no layout (22 R519,
log 49). -/
opaque Config.dumpLayout : Nat → List Nat → List Byte

/-- What training an endpoint at boot brings, by the moment: die links and ports under their endpoint numbers, memory channels from 256
on: 0 it fails, 1 it is up, 2 it is up and its neighbour takes packed blocks (03 R67, 22 R516). -/
opaque Config.training : Nat → Nat → Nat

/-- A head's scan reference clock at 90 kHz at the start of one of its frames (22 R512). -/
opaque Config.rtpTime : Nat → Nat → Nat

end Sys2Proof
end

