-- ==== Sys2Proof/Machine/Map.lean ====
section
/-! DEFINITION. Machine/Map.lean: sparse tables, their lookup, insertion and canonical form. -/

namespace Sys2Proof.Machine

/-- The entry a table lists under `k`. -/
def lookup {α : Type} : SMap α → Nat → Option α
  | [], _ => none
  | (k, v) :: m, j => if k = j then some v else lookup m j

/-- The table without the entries under `k`. -/
def remove {α : Type} (m : SMap α) (k : Nat) : SMap α := m.filter (fun e => e.1 ≠ k)

/-- The entry put before the first one with a greater name. -/
def place {α : Type} (k : Nat) (v : α) : SMap α → SMap α
  | [] => [(k, v)]
  | (j, u) :: m => if k < j then (k, v) :: (j, u) :: m else (j, u) :: place k v m

/-- The table with `v` under `k`. -/
def put {α : Type} (m : SMap α) (k : Nat) (v : α) : SMap α := place k v (remove m k)

/-- The value under `k`, `d` where nothing is listed. -/
def getD {α : Type} (d : α) (m : SMap α) (k : Nat) : α := (lookup m k).getD d

/-- The table whose value under `k` is `v`, an entry equal to the default `d` not listed. -/
def setD {α : Type} [DecidableEq α] (d : α) (m : SMap α) (k : Nat) (v : α) : SMap α :=
  if v = d then remove m k else put m k v

/-- The table with the value under `k` changed by `f`, where one is listed. -/
def adjust {α : Type} (m : SMap α) (k : Nat) (f : α → α) : SMap α :=
  match lookup m k with
  | some v => put m k (f v)
  | none => m

/-- The keys of a table rise strictly. -/
def rising {α : Type} : SMap α → Bool
  | [] => true
  | [_] => true
  | (a, _) :: (b, v) :: m => decide (a < b) && rising ((b, v) :: m)

/-- The canonical form of a table with default `d`: keys strictly rising, no entry equal to the default. -/
def canonical {α : Type} [DecidableEq α] (d : α) (m : SMap α) : Bool :=
  rising m && m.all (fun e => decide (e.2 ≠ d))

/-- The form memory keeps: addresses strictly rising, and no zero byte listed, since an unlisted one reads zero (02 R31). -/
def Memory.wf (m : SMap Byte) : Bool := canonical 0#8 m

/-- A fixed-length list with element `i` replaced. -/
def setAt {α : Type} (l : List α) (i : Nat) (v : α) : List α := l.set i v

/-- Element `i` of a list of bytes, words or flags, `d` past its end. -/
def nthD {α : Type} (d : α) (l : List α) (i : Nat) : α := l.getD i d

/-- The bytes of memory from key `a`, `n` of them. -/
def readRun (m : SMap Byte) (a : Nat) : Nat → List Byte
  | 0 => []
  | n + 1 => getD 0#8 m a :: readRun m (a + 1) n

/-- The memory with these bytes from key `a`. -/
def writeRun (m : SMap Byte) (a : Nat) : List Byte → SMap Byte
  | [] => m
  | b :: bs => writeRun (setD 0#8 m a b) (a + 1) bs

end Sys2Proof.Machine
end

