-- ==== Sys2Proof/Machine/State.lean ====
section
/-! DEFINITION. Machine/State.lean: the state of the device as plain data, the reasons a step can stop, and the state after
reset. INVENTORY.md lists every field with the rule that names it. -/

namespace Sys2Proof.Machine

/-- Access paths (01 R24), in the bit order of 07 R174. -/
inductive Path where
  | L | C | T | S | X | D | H | F
deriving DecidableEq, Repr

/-- Causes of a translation fault, coded as 04 R102. -/
inductive Cause where
  | notMapped | permission | format | physRange
deriving DecidableEq, Repr

/-- Why an access is not performed: a fault of a cause, or an uncorrectable block (02 R50). -/
inductive AccErr where
  | fault (c : Cause)
  | dataError
deriving DecidableEq, Repr

/-- A packed block: tag and image (03 R53, R54). -/
structure PBlock where
  tag : Nat
  img : List Byte
deriving DecidableEq, Repr

/-- A block tag of an L2 set with its image (04 R83). -/
structure L2Block where
  pid : Nat
  atag : Nat
  vb : Nat
  pa : Nat
  blk : PBlock
  sp : List Nat
  /-- Valid bits of its two 64-byte lines. -/
  lv : Nat
  dirty : Bool
  rd : Bool
  wr : Bool
  ex : Bool
  comp : Bool
  pol : Nat
  gen : Nat
  win : Bool
deriving DecidableEq, Repr

/-- A leaf translation (04 R89, R92): the page it covers and what it grants. -/
structure Leaf where
  vbase : Nat
  size : Nat
  pbase : Nat
  apl : Nat
  comp : Bool
  pol : Nat
  ex : Bool
  wr : Bool
  rd : Bool
deriving DecidableEq, Repr

/-- A TLB entry (04 R89, R95). -/
structure TlbEntry where
  pid : Nat
  atag : Nat
  leaf : Leaf
deriving DecidableEq, Repr

/-- A cached non-leaf entry of a walker (04 R89): the table that level `lv` of these address bits names. -/
structure WalkEntry where
  pid : Nat
  atag : Nat
  lv : Nat
  pre : Nat
  table : Nat
deriving DecidableEq, Repr

/-- A line of a core-side cache (04 R74, R76), most recently used first in its list. -/
structure CLine where
  pid : Nat
  atag : Nat
  line : Nat
  /-- Valid bits of its 32-byte sectors. -/
  sv : Nat
  rd : Bool
  wr : Bool
  ex : Bool
  bytes : List Byte
deriving DecidableEq, Repr

/-- A promotion tag entry (02 R38). -/
structure PTag where
  dirty : Bool
  pri : Nat
  frow : Nat
  seq : Nat
deriving DecidableEq, Repr

/-- What a memory request does at its home slice (10 R258, R259, R271 to R277). -/
inductive MemOp where
  | load
  | store (bytes : List Byte)
  /-- An atomic: operation, type, and for each lane in order its operands b and c. -/
  | atomic (fn t : Nat) (ops : List (Nat × Nat × Nat))
  | ldr
  | stc (t : Nat) (ops : List (Nat × Nat))
  | pref
deriving DecidableEq, Repr

/-- Where a request stands (10 R257): on its way to the home slice, waiting for a walk or for memory, back from memory,
checked there, accepted, refused, merged before its core has learnt of its acceptance, or answered with the values it read. -/
inductive Stage where
  | toHome
  | needWalk
  | needMem
  | fetched (b : Option PBlock)
  | checked
  | accepted
  | refused (e : AccErr)
  | merged
  | replied (vals : List Nat)
  | remote
deriving DecidableEq, Repr

/-- A request of a core on path L in flight (10 R255 to R259, 12 R317 to R325). -/
structure Req where
  core : Nat
  wslot : Nat
  /-- Group slot and grid of the issuing warp. -/
  gslot : Option Nat
  grid : Nat
  iid : Nat
  /-- Lanes served; the issuing path for a uniform form. -/
  lanes : Word
  part : Nat
  asid : Nat
  va : VA
  size : Nat
  op : MemOp
  stage : Stage
  /-- Destination register, how its bytes are extended (size code of 07 R171), and the word of a wide load. -/
  dst : Nat
  ext : Nat
  off : Nat
  uniform : Bool
  /-- An acquire: its lanes wait for the value; and whether its scope is QUAD or wider (10 R260). -/
  acquire : Bool
  wide : Bool
  noL1 : Bool
  stream : Bool
  /-- The line was invalidated or written while the request was in flight: its data fills no L1. -/
  noFill : Bool
  /-- It has left the core's outgoing queue (12 R319). -/
  sent : Bool
  /-- The block as the check found it, held for a load accepted but not yet performed (log 9). -/
  snap : List Byte
  /-- Read and write permission of the block, where its data may fill the L1 (04 R76, R84). -/
  fill : Option (Bool × Bool)
deriving DecidableEq, Repr

/-- A fault of a lane of an instruction (04 R102, R103). -/
structure LaneFault where
  lane : Nat
  va : VA
  cause : Cause
  /-- Access type: 0 READ, 1 WRITE, 2 ATOMIC, 3 EXECUTE. -/
  acc : Nat
  /-- Path code of 04 R102. -/
  path : Nat
deriving DecidableEq, Repr

/-- A memory instruction whose lanes wait until every access is accepted or refused (10 R257). -/
structure Infl where
  iid : Nat
  pc : VA
  len : Nat
  inst : DWord
  lanes : Word
  pathMask : Word
  open_ : List Nat
  faults : List LaneFault
  derr : List (Nat × VA)
deriving DecidableEq, Repr

/-- Fault records that a warp or an engine waits to reserve (04 R104). -/
structure Stall where
  pc : VA
  /-- The instruction's first word and length. -/
  inst : DWord
  len : Nat
  faults : List LaneFault
  /-- The faults are those of a held row of the ACCST of this number (11 R523). -/
  accst : Option Nat
  retryAt : Nat
  backoff : Nat
deriving DecidableEq, Repr

/-- A trap to be delivered (17 R443, R444). -/
structure Trap where
  code : Nat
  detail : Nat
  aux : Nat
  mask : Word
  elem : Nat
  addr : DWord
  inst : DWord
  pc : VA
  len : Nat
deriving DecidableEq, Repr

/-- What a lane waits for without issuing (17 R466, 10 R257, 08 R219): the group barrier, the barrier object that its
operand names while the phase is `ph`, the answers to a memory instruction, child grids launched before `bound`. -/
inductive LWait where
  | none
  | barGrp
  | barObj (quad : Bool) (addr : Nat) (ph : Bool)
  | mem (iid : Nat)
  | cwait (bound : Nat)
  /-- The wait has ended while the lane was held by a handler: its instruction completes when it next issues. -/
  | passed
deriving DecidableEq, Repr

/-- A thread's lane word and what travels with it (17 R466, 16 R437, R438). -/
structure Lane where
  live : Bool
  pc : VA
  pb : Byte
  level : Nat
  waitc : Nat
  wait : LWait
  trp : Bool
  l16 : Bool
  tx : Nat
  ty : Nat
  tz : Nat
  group : Nat
  wix : Nat
  /-- Stores of other threads of the core whose value a load of this thread returned, or that a thread it synchronised with
  may have made (12 R322 to R324). -/
  saw : List Nat
deriving DecidableEq, Repr

/-- A pending imprecise record (17 R451). -/
structure Imprecise where
  pcb : Nat
  flags : BitVec 5
  since : Nat
deriving DecidableEq, Repr

/-- An ACCST row held or in flight (11 R523, 17 R464). -/
structure HeldRow where
  /-- Number of the ACCST's queue entry. -/
  num : Nat
  pc : VA
  inst : DWord
  pathMask : Word
  tile : Nat
  va : VA
  bytes : List Byte
  sent : Bool
  /-- The row was sent again at a restoration: the warp waits until it is accepted (17 R467). -/
  gate : Bool
deriving DecidableEq, Repr

/-- The launch record (16 R421). -/
structure LaunchRec where
  kaddr : VA
  gx : Nat
  gy : Nat
  gz : Nat
  bx : Nat
  byy : Nat
  bz : Nat
  regs : Nat
  acc : Nat
  sems : Nat
  cont : Nat
  depth : Nat
  neigh : Nat
  spad : Nat
  io : Bool
  es : Bool
  bm : Bool
  bmaddr : VA
  bmlen : Nat
  dep0 : Option (Nat × Nat)
  dep1 : Option (Nat × Nat)
  tba : DWord
  fplog : DWord
  tem : Word
  spill : VA
  spilln : Nat
  res : DWord
deriving DecidableEq, Repr

/-- A warp (17 R466 and the rules cited there). -/
structure Warp where
  gslot : Option Nat
  part : Nat
  asid : Nat
  grid : Nat
  sysDepth : Nat
  pri : Nat
  rec_ : LaunchRec
  quadrant : Nat
  isCont : Bool
  windex : Nat
  lanes : SMap Lane
  vr : SMap Word
  sr : SMap Word
  qb : Byte
  tiles : SMap Word
  proj : SMap Byte
  fil : SMap Byte
  trCause : Word
  trPc : DWord
  trMask : Word
  trElem : Word
  trAddr : DWord
  trInst : DWord
  tba : DWord
  tem : Word
  fplog : DWord
  clOpen : Bool
  cmask : Word
  hmode : Bool
  hpc : VA
  err : Bool
  etile : Nat
  errPc : VA
  /-- Matrix data errors recorded behind the one that ERR and ETILE show: tile and PC (11 R313, log 68). -/
  errMore : List (Nat × VA)
  rerun : Nat
  icount : Nat
  skid : Nat
  raisedHalt : Bool
  imp : Option Imprecise
  placedAt : Nat
  lastIssue : Nat
  yielded : Bool
  infl : List Infl
  rows : List HeldRow
  /-- Reservations refused and waiting, the oldest first (04 R104). -/
  stall : List Stall
  /-- The path that stands at an ENQ without room: no other path of the warp issues (05 R115). -/
  enqAt : Option Word
  trapPend : Option Trap
  /-- A free continuation warp waits to be saved, with this REASON (17 R460). -/
  saving : Option Nat
deriving DecidableEq, Repr

/-- Progress of the command at the head of a ring (05 R117, R131, R135, 17 R465). -/
structure Ring where
  /-- An ENQ of the group has named the ring: its entry is an entry, and not other data of the program (05 R114). -/
  used : Bool
  act : Bool
  /-- Chunks or windows completed. -/
  cursor : Nat
  pass : Nat
  /-- The command's writes are performed up to here, the chunk not yet counted. -/
  moved : Nat
  /-- Every chunk is complete; the command may signal. -/
  fin : Bool
  /-- CHECKSUM state of the stream so far. -/
  crc : Word
  /-- The engine parked the ring, and has not yet discarded or resumed the command (05 R136). -/
  parked : Bool
  /-- The ring owes an engine-fault trap (17 R457). -/
  owes : Bool
  /-- Descriptor words of the command's chain, as they were read when it started (05 R124). -/
  descr : List Nat
deriving DecidableEq, Repr

/-- A resident group (16 R427, 17 R465). -/
structure Group where
  part : Nat
  asid : Nat
  grid : Nat
  linear : Nat
  member : Nat
  sysDepth : Nat
  rec_ : LaunchRec
  base : Nat
  spad : SMap Byte
  sem : SMap Nat
  /-- Lane keys (warp slot × 32 + lane) waiting at BAR.grp. -/
  gbar : List Nat
  rings : SMap Ring
  /-- Launch numbers of children launched and not complete. -/
  children : List Nat
  /-- Slots of the same core or of others that hold the members of the set: (core, slot). -/
  members : List (Nat × Nat)
  /-- A swap-out (1), debug halt (2), fatal halt (3), hold (0) or resize (4) waits to save the group. -/
  saving : Option Nat
  nfault : Nat
  haltPc : VA
  /-- Scratchpad words whose check bits are uncorrectable (05 R109). -/
  spadErr : List Nat
  /-- Every thread has ended and the warp slots are free (16 R431). -/
  ended : Bool
deriving DecidableEq, Repr

/-- A continuation record (16 R438) with its place in the queue. -/
structure ContRec where
  tpc : VA
  kind : Nat
  free : Bool
  /-- The deferring warp belonged to no group (log 30). -/
  apart : Bool
  level : Nat
  npay : Nat
  nres : Nat
  rdy : Bool
  group : Nat
  grid : Nat
  part : Nat
  gslot : Nat
  tx : Nat
  ty : Nat
  tz : Nat
  windex : Nat
  pay : List Word
  /-- Core cycle at which the record became eligible, and its rank. -/
  since : Nat
  rank : Nat
  uid : Nat
  /-- The core whose queue it joined: what its thread stored stands with that core until it is performed (08 R213). -/
  core : Nat
  /-- Stores of others that the deferring thread had seen, which its releases go on covering (12 R324). -/
  saw : List Nat
deriving DecidableEq, Repr

/-- A record that no resident group holds on its core: DEFER.F's, and any that a warp of no group left (16 R438, log 30). -/
def ContRec.loose (r : ContRec) : Bool := r.free || r.apart

/-- A hit: t, u, v, kind and primitive number (13 R351). -/
structure Hit where
  t : Nat
  u : Nat
  v : Nat
  kind : Nat
  pid : Nat
deriving DecidableEq, Repr

/-- A ray: origin, tmin, direction, tmax, and the flags of TRACE. -/
structure Ray where
  ws : List Nat
  first : Bool
  cull : Bool
deriving DecidableEq, Repr

/-- The records of a leaf that are still to be tested: the kind, its steps, the next record's address, and how many (13 R352). -/
structure RayLeaf where
  kind : Nat
  steps : List DWord
  va : Nat
  left : Nat
deriving DecidableEq, Repr

/-- The lane that issued a TRACE: its warp, the cycle in which that was placed, and the instruction. -/
structure RaySrc where
  wslot : Nat
  placed : Nat
  lane : Nat
  pc : VA
  word : DWord
  len : Nat
deriving DecidableEq, Repr

/-- A traversal in progress (13 R352, R354): the children that are pending, the limit, the hit so far, the leaf under test, the
first half of a node whose second is still to be read, and the result words once it has ended. -/
structure RayJob where
  /-- Who issued it, and the words it ends with if every read was made then, where a look ahead found them (log 29). -/
  src : Option RaySrc
  old : Option (List Nat)
  ray : Ray
  pending : List Nat
  best : Nat
  hit : Option Hit
  leaf : Option RayLeaf
  half : Option (Nat × List Byte)
  res : Option (List Nat)
deriving DecidableEq, Repr

/-- Work of a unit in flight: a texture sample on its way to its registers or its record, a ray on its way to its record, a promotion, a projection load (10 R270, R288, R289, 11 R303). -/
inductive UnitOp where
  | tex (wslot : Nat) (lane : Nat) (dst : Nat) (words : List Nat)
  | texC (rec_ : Nat) (words : List Nat)
  | ray (rec_ : Nat) (job : RayJob)
  | promote (wslot : Nat) (dst : Nat) (va : VA) (len : Nat) (pri : Nat) (sem : Nat) (prom : Bool)
  | pload (wslot : Nat) (iid : Nat) (va : VA) (first : Nat) (n : Nat)
deriving DecidableEq, Repr

/-- Unit work with the context it is done for. -/
structure UnitJob where
  part : Nat
  asid : Nat
  gslot : Option Nat
  grid : Nat
  op : UnitOp
deriving DecidableEq, Repr

/-- A matrix queue entry (11 R293), numbered in the order of issue. The register sources are those read at issue
(11 R294). -/
structure QEntry where
  num : Nat
  wslot : Nat
  pc : VA
  inst : DWord
  kind : Nat
  tile : Nat
  fn : Nat
  ma : Nat
  mb : Nat
  t : Nat
  a : List Nat
  b : List Nat
  xs : List Nat
  slab : Nat
  src : Word
  wset : Word
  pathMask : Word
  dst : Nat
  /-- First register of the group that a latent MMA transforms. -/
  grp : Nat
  va : VA
  stride : Nat
  started : Bool
  /-- Slab bytes taken when the entry started. -/
  proj : List Byte
deriving DecidableEq, Repr

/-- What the transform buffer of a slice holds (11 R305): the warp, mode, register group, formats and slab base of its last latent
MMA, the group's words and the slab bytes that the stage took, the patterns it gave and its flags. -/
structure Xform where
  wslot : Nat
  mode : Nat
  grp : Nat
  ma : Nat
  mb : Nat
  slab : Nat
  src : List Nat
  proj : List Byte
  out : List (List Nat)
  flags : BitVec 5
deriving DecidableEq, Repr

/-- A retire record (16 R431). -/
structure RetireRec where
  part : Nat
  grid : Nat
  linear : Nat
  children : List Nat
deriving DecidableEq, Repr

/-- An imprecise record on its way to its log (17 R449 to R451): the context and log of the warp that raised it, its fields, and
the stores that its release orders before it. -/
structure ImpWrite where
  part : Nat
  asid : Nat
  grid : Nat
  fplog : DWord
  pcb : Nat
  flags : BitVec 5
  /-- Linear group number, 0xFFFFFFFF for a free continuation warp. -/
  group : Nat
  windex : Nat
  isCont : Bool
  after : List Nat
deriving DecidableEq, Repr

/-- A SIMT core (01 R14). -/
structure Core where
  cyc : Nat
  /-- The quadrant that issued last in the current core cycle (log 1). -/
  lastQ : Nat
  groups : SMap Group
  warps : SMap Warp
  l1 : List CLine
  kc : List CLine
  ic : List CLine
  contq : List ContRec
  retire : SMap RetireRec
  /-- Intersection kind slots: key (partition × 2^32 + grid) × 8 + slot; the steps. -/
  kinds : SMap (List DWord)
  units : SMap UnitJob
  slices : SMap (List QEntry)
  /-- The transform buffers of the slices (11 R305). -/
  xform : SMap Xform
  impq : List ImpWrite
  /-- Corrected errors of scratchpad words, for service firmware (05 R109). -/
  spadCorr : Nat
deriving DecidableEq, Repr

/-- A dispatched grid (16 R424, R425). `uid` is the launch number of a child grid, by which its parent's group knows it. -/
structure Grid where
  uid : Nat
  rec_ : LaunchRec
  asid : Nat
  pri : Nat
  depth : Nat
  /-- Queue and sequence number, for a grid of a queue. -/
  src : Option (Nat × Nat)
  /-- Parent grid and group, for a child. -/
  parent : Option (Nat × Nat)
  total : Nat
  next : Nat
  retired : Nat
  children : Nat
  aborted : Bool
  haltPc : VA
  spilled : List ContRec
deriving DecidableEq, Repr

/-- A child grid waiting for dispatch (16 R426), with the address of its counts for LAUNCHI (08 R218). -/
structure Child where
  rec_ : LaunchRec
  asid : Nat
  pri : Nat
  depth : Nat
  uid : Nat
  parent : Nat
  group : Nat
  counts : Option VA
deriving DecidableEq, Repr

/-- A fault record accepted and not yet answered (17 R454 to R456). -/
structure FaultRec where
  seq : Nat
  grid : Nat
  unit : Nat
  wslot : Nat
  lmask : Word
  pc : VA
  va : VA
  cause : Nat
  acc : Nat
  /-- First word and length of the faulting instruction. -/
  inst : DWord
  len : Nat
  engine : Option Nat
  /-- Number of the ACCST whose row was refused (11 R523). -/
  accst : Option Nat
  answer : Option Nat
deriving DecidableEq, Repr

/-- A save slot in use (17 R463). The state itself stands in memory; what the layout of the slot has no place for is kept
beside it (log 40). -/
structure SaveSlot where
  reason : Nat
  asid : Nat
  grid : Nat
  /-- Linear group number, or 0xFFFFFFFF for a free continuation warp. -/
  linear : Nat
  /-- The debug or fatal halt has been answered, or there is none. -/
  answered : Bool
  /-- Members of a neighbour set are restored together: first slot of the set. -/
  lead : Nat
  children : List Nat
  rings : SMap Ring
  /-- PC of each warp's recorded matrix data error; held ACCST rows of each warp. -/
  errPc : SMap VA
  errMore : SMap (List (Nat × VA))
  rows : SMap (List HeldRow)
  /-- Lanes of each warp that hold or held a thread, with the PC and the wait of one that waited at a barrier object, or whose
  wait had ended before its instruction could complete; the region's uncorrectable words as they were saved. -/
  held : SMap (List (Nat × Option (VA × LWait)))
  spadErr : SMap Word
  fatal : Bool
deriving DecidableEq, Repr

/-- A notification entry awaiting its batch (18 R491, R493). -/
structure NotEntry where
  typ : Nat
  asid : Nat
  arg0 : Nat
  arg1 : Nat
  since : Nat
deriving DecidableEq, Repr

/-- A queue pair started from its context (22 R510). -/
structure QPair where
  ctx : List Byte
  sq : Nat
  eq : Nat
  failed : Bool
  tries : Nat
  /-- The response to the last message served, which may have to be sent again, and the sequence number of that message: 0
  acknowledged, with the bytes of a READ; 1 remote access error; 2 remote operation error (02 R50); 3 invalid request. -/
  reply : Nat × List Byte
  last : Option Nat
  /-- What the endpoint sent last on this queue pair: a response, or 4, the NAK of a sequence number. -/
  said : Nat × List Byte
deriving DecidableEq, Repr

/-- An RDMA message the device has sent to the notification host and not had acknowledged (18 R493, 22 R510). -/
structure SentMsg where
  addr : Nat
  /-- The remote key of the ring's memory region (18 R490). -/
  rkey : Nat
  data : List Byte
  imm : Option Nat
  /-- The sequence number of its first packet. -/
  psn : Nat
deriving DecidableEq, Repr

/-- A partition's own state. `win` is its control window in 32-bit words (22 R508). -/
structure Part where
  win : SMap Word
  gridCtr : Nat
  grids : SMap Grid
  childq : List Child
  lastq : SMap Nat
  /-- Records dispatched: key queue × 2^32 + sequence; (placed, completed). -/
  marks : SMap (Bool × Bool)
  faults : List FaultRec
  held : List Nat
  slots : SMap SaveSlot
  /-- Dies on which a group, named by its grid and linear number, has waited 65,536 core cycles to be placed (16 R428). -/
  blockedDies : SMap (Nat × Nat)
  notif : List NotEntry
  qps : SMap QPair
  sent : List SentMsg
  att : Option Nat
  clock : Nat
  /-- Dirty blocks lost, not yet answered by PART_FATAL (18 R482): slice and block number. -/
  fatal : List (Nat × Nat)
deriving DecidableEq, Repr

/-- A Locket latch (14 R386), kept under frame × 1024 + band. -/
structure Latch where
  pose : List Word
  tag : DWord
  seq : Word
  fresh : Bool
deriving DecidableEq, Repr

/-- An event raised by a head: the words of its entry, and the rows that must be answered before it: line core, binding,
rows (14 R389, R394). -/
structure CamEvent where
  value : Nat
  after : List (Nat × Nat × Nat)
deriving DecidableEq, Repr

/-- A video packet of a network head: its destination address, UDP port and differentiated services code, its RTP header and payload
(22 R512). -/
structure VideoPkt where
  dip : List Byte
  udp : Nat
  dscp : Nat
  body : List Byte
deriving DecidableEq, Repr

/-- A display head (14 R365 to R371, R386 to R391). -/
structure Head where
  configured : Bool
  cfg : List Byte
  nhd : List Byte
  cfgSeen : List Byte
  f : Nat
  line : Nat
  scanned : Nat
  prescnt : Nat
  miss : Nat
  adopt0 : Nat
  adopt1 : Nat
  pubcnt : Nat
  slot : Option Nat
  desc : List Byte
  /-- Table from which the current publication was adopted; publications that Cameo has finished with, whose RELF is still to be
  written: table, slot, FRAME (13 R363). -/
  slotTab : VA
  relOwed : List (VA × Nat × Nat)
  /-- Events raised that still wait for writes of the head before them (14 R394). -/
  events : List CamEvent
  lastLatch : Option Latch
  latches : SMap Latch
  /-- Poses under which the bands of the previous frame were presented. -/
  posesOld : SMap (List Word)
  nextLatchF : Nat
  nextLatchB : Nat
  /-- Whether the line cores hold an image, and one that waits for the next frame start. -/
  haveImage : Bool
  newImage : Option (List Byte)
  loading : Bool
  sizeNew : Bool
  disabling : Bool
  /-- Lines of pixels presented in the current frame: key line × 8192 + x. -/
  scan : SMap Word
  /-- What became of the bands of the current frame: 0 complete; 1 abandoned, 2 trapped, 3 without an image, to be presented
  by fallback; 4 presented by fallback. -/
  bands : SMap Nat
  /-- Bands of the current frame that failed after a line of them could not be written to the present buffer; lines of the present
  buffer with unspecified bytes, image × 8192 + line (14 R390). -/
  pbBad : List Nat
  pbLost : List Nat
  /-- Video packets of a network head's last scanned line, and the sequence number of its next (22 R512). -/
  rtp : List VideoPkt
  rtpSeq : Nat
deriving DecidableEq, Repr

/-- A hardware loop level (14 R380). -/
structure Loop where
  start : Nat
  stop : Nat
  count : Nat
deriving DecidableEq, Repr

/-- An engine of a line core (14 R372). Loops are active levels, innermost first. -/
structure Engine where
  pc : Nat
  loops : List Loop
  halted : Bool
  /-- Cameo cycle before which the next bundle does not issue (15 R402). -/
  ready : Nat
deriving DecidableEq, Repr

/-- A bound stream (14 R377, R378). -/
structure Stream where
  eng : Nat
  kind : Nat
  addr : Nat
  nrows : Nat
  nel : Nat
  stride : Int
  /-- Rows popped or supplied so far. -/
  pos : Nat
  /-- Rows fetched ahead (read) or waiting to be written (write), oldest first; a row that could not be read carries the
  code of the trap that takes it. -/
  rows : List (Option Nat × List Half)
  /-- Rows fetched or written so far. -/
  done_ : Nat
  /-- Trap code of a refused memory-write row not yet reported. -/
  refused : Option Nat
  /-- Line-buffer writes and bindings made before it was bound (15 R415), and the band that bound it. -/
  bound : Nat
  band : Nat
  /-- Pieces of waiting memory-write rows that have their answer: row and block of it, 0 or 1 (14 R394). -/
  wrote : List (Nat × Nat)
deriving DecidableEq, Repr

/-- A piece of a memory-write row that had left its line core and had no answer when its stream went (14 R378, R387): its head and
band, the binding that supplied it, and whether a refusal of that binding is reported already. -/
structure LateRow where
  head : Nat
  band : Nat
  key : Nat
  told : Bool
  va : VA
  bytes : List Byte
deriving DecidableEq, Repr

/-- What a token orders: the line-buffer writes of its engine before a number, and rows of its streams up to a number, each stream
named by its binding (14 R374). -/
structure Cover where
  num : Nat
  rows : List (Nat × Nat)
deriving DecidableEq, Repr

/-- A token of a bundle that has issued, not yet pushed: from, to, its word, and what it orders. -/
structure Push where
  src : Nat
  dst : Nat
  v : Word
  cover : Cover
deriving DecidableEq, Repr

/-- An element of the line buffer before a write (14 R374): its number, its old value, who wrote it, in which cycle and as which
write, the binding and row of a stream if it was one, and the engines for which no token orders the write yet. -/
structure LbPast where
  elem : Nat
  old : Half
  eng : Nat
  cyc : Nat
  num : Nat
  row : Option (Nat × Nat)
  blind : List Nat
deriving DecidableEq, Repr

/-- A matrix queue entry of a line core (14 R392). -/
structure MEntry where
  a : List Half
  set : Nat
  acc : Bool
  started : Option Nat
  w : List Half
  /-- The product, once finished. -/
  out : Option (List Word)
deriving DecidableEq, Repr

/-- What a result in flight writes when it lands (14 R379). -/
inductive LandTo where
  | k (r : Nat) (v : Word)
  | tile (t : Nat) (vals : List Half)
  | row (t r : Nat) (vals : List Half)
  | wrow (set r : Nat) (vals : List Half)
deriving DecidableEq, Repr

/-- A result in flight: the cycle it lands at, its issue cycle and its slot. -/
structure Landing where
  due : Nat
  issued : Nat
  slot : Nat
  dest : LandTo
deriving DecidableEq, Repr

/-- A band in progress (14 R387, R388). -/
structure Band where
  head : Nat
  f : Nat
  b : Nat
  scanRows : Nat
  /-- A write of a presented line was refused (14 R390). -/
  pbFail : Bool
deriving DecidableEq, Repr

/-- What a slot of a bundle does when the bundle issues (15 R396): its sources are read already. -/
inductive Fx where
  | land (l : Landing)
  | lb (addr : Nat) (v : Word)
  /-- A token for an engine, and for each write stream of the engine that sends it the rows that must have landed. -/
  | push (dst : Nat) (v : Word) (after : List (Nat × Nat))
  | pop (src : Nat)
  | jump (t : Nat)
  | loop (l : Loop)
  | skip (t : Nat)
  | halt
  | bind (st : Nat) (x : Stream)
  | pull (st : Nat)
  | supply (st : Nat) (row : List Half)
  | enq (e : MEntry)
  | deq (ix : Nat)
  | evt (v : Word)
deriving DecidableEq, Repr

/-- The snapshot of a trap (14 R383). -/
structure Snapshot where
  code : Nat
  engs : SMap Engine
  k : SMap Word
  fifos : SMap (List Word)
  streams : SMap Stream
  tiles : SMap Half
  mq : List MEntry
deriving DecidableEq, Repr

/-- What the slots of the bundle being issued have done: go on, wait, or trap with a code (15 R396, R397). -/
inductive BStatus where
  | ok
  | waits
  | trap (code : Nat)
deriving DecidableEq, Repr

/-- A line core (14 R372 to R383). -/
structure LineCore where
  head : Option Nat
  engs : SMap Engine
  count : SMap Nat
  entry : SMap Nat
  imem : SMap (BitVec 128)
  k : SMap Word
  tiles : SMap Half
  lb : SMap Byte
  /-- Writes of the band so far, and what they replaced (14 R374). -/
  lbNum : Nat
  lbPast : List LbPast
  /-- Uncorrectable line-buffer words of 8 bytes, tile rows ((cluster × 8 + tile) × 16 + row) and weight rows
  (set × 64 + row). -/
  lbErr : List Nat
  tileErr : List Nat
  wErr : List Nat
  streams : SMap Stream
  fifos : SMap (List Word)
  /-- Of each token in a FIFO, the writes that it orders (14 R374). -/
  covers : SMap (List Cover)
  mq : List MEntry
  wsets : SMap Half
  landings : List Landing
  cyc : Nat
  nextEng : Nat
  band : Option Band
  lastBand : Option (Nat × Nat)
  trapQ : Option Nat
  snap : Option Snapshot
  susp : Bool
  late : List LateRow
  /-- Tokens of bundles that have issued, not yet pushed. -/
  pushes : List Push
  /-- Stream whose refused row the bundle being issued takes as its trap (14 R378). -/
  took : Option Nat
  /-- The bundle being issued: what its slots have found, and what they will do. -/
  bst : BStatus
  fx : List Fx
deriving DecidableEq, Repr

/-- What a transaction carries beside its header: nothing, bytes, or a whole block, packed or expanded (03 R66). -/
inductive Load where
  | none
  | bytes (bs : List Byte)
  | block (b : PBlock)
deriving DecidableEq, Repr

/-- A transaction in a replay buffer: the sequence number of its first flit, the fabric tag of its requester (22 R515), its
header, and what it carries. -/
structure Xact where
  seq : Nat
  gid : Nat
  head : List Byte
  load : Load
deriving DecidableEq, Repr

/-- The sending endpoint of a die link or fabric port (03 R67, 22 R514). -/
structure Port where
  up : Bool
  /-- The packed capability that its neighbour advertised at the last training, and the one it advertised itself. -/
  packed : Bool
  own : Bool
  fails : Nat
  training : Bool
  /-- Transactions sent whose flits are not acknowledged, oldest first (22 R514). -/
  replay : List Xact
  nextSeq : Nat
deriving DecidableEq, Repr

/-- The registers of the secure controller. -/
structure Root where
  chmap : SMap Word
  pkctl : SMap Word
  dshare : Word
  cxtb : SMap DWord
  hdown : SMap Word
  fswbase : SMap DWord
  fswctl : SMap Word
  pwgt : SMap Word
  fgp : SMap Word
  node : Nat
  route : SMap (BitVec 144)
  slctl : SMap Word
  /-- List banks: key (partition × 2 + bank) × 128 + entry. -/
  slist : SMap Byte
  corst : SMap Word
  slcst : SMap Word
  chst : SMap Word
  rszstat : Word
  m0 : List Byte
  m1 : List Byte
  /-- The IP address that root firmware gave a partition's endpoint, its 16 bytes as a number (22 R510). -/
  epaddr : SMap Nat
  dumpbase : DWord
  /-- The dump that service firmware last wrote at DUMPBASE (22 R519). -/
  dump : List Byte
  bootStep : Nat
  heldInReset : Bool
  coreClock : Nat
  cameoSlow : Bool
  /-- The previous slice list of a partition under sweep (18 R479, R481). -/
  oldList : SMap (List Nat)
  /-- Requests numbered below it carry the generation before a partition's last commit (18 R478). -/
  sweepId : SMap Nat
deriving DecidableEq, Repr

/-- A line of a metadata cache (03 R64): the metadata block it holds, counted from the first of the region, and its bytes. -/
structure MetaLine where
  blk : Nat
  dirty : Bool
  bytes : List Byte
deriving DecidableEq, Repr

/-- DRAM and its controllers (02, 03). Memory keys are ((channel × 32 + bank) × 196,608 + row) × 2,048 + column. `chk` holds
the eight check symbols of a data unit (02 R28) under the key of its first byte; `mcache` the sets of the metadata caches,
most recently used first, under channel × 256 + set. -/
structure Dram where
  mem : SMap Byte
  chk : SMap (List Byte)
  mcache : SMap (List MetaLine)
  ptag : SMap PTag
  pctr : SMap Nat
  errs : SMap Nat
  corr : SMap Nat
  /-- Logged by the controllers: metadata blocks (03 R65), and blocks that a scrub found uncorrectable (02 R49). -/
  metaLog : List Nat
  scrubLog : List Nat
  resetting : List Nat
  quota : SMap Nat
  autoq : List (Nat × Nat × Nat × Nat)
deriving DecidableEq, Repr

/-- Who issues the instruction being executed: a path of a warp, a slot of a line core's bundle, or no one. -/
inductive Cur where
  | idle
  /-- Core, warp slot, the lanes of the path, its PC, the first word, the instruction's length, issued alone. -/
  | warp (core wslot : Nat) (mask : Word) (pc : VA) (word : DWord) (len : Nat)
  /-- Line core, engine, slot 0 to 3. -/
  | slot (lc eng slot : Nat)
deriving DecidableEq, Repr

/-- One choice of what acts next (log 1). -/
inductive Act where
  /-- A quadrant of a core issues (16 R435, R436). -/
  | issue (core quadrant : Nat)
  /-- The second path of a pair issues (16 R436). -/
  | pair (core wslot : Nat) (mask : Word)
  /-- Core cycles pass without issue. -/
  | idleCore (core n : Nat)
  /-- The next engine of a line core issues its bundle (14 R372). -/
  | line (lc : Nat)
  /-- A head's scan reaches its next line (14 R369). -/
  | scanLine (head : Nat)
  /-- Errors of memory: in a DRAM codeword (02 R29); in a scratchpad word, of one bit, when its reader meets it, or of more
  (05 R109); in a line core's line buffer, tile or weight
  row (14 R376, R382), or a block of a slice, when it is found (18 R482). -/
  | upsetDram (chan bank row blk bytes : Nat)
  /-- An uncorrectable error in a line of a metadata cache, when it is found (03 R64, R65). -/
  | upsetMeta (chan blk : Nat)
  | upsetSpad (core gslot word bits : Nat)
  | upsetLine (lc kind row : Nat)
  | upsetBlock (slice part atag vb : Nat)
  /-- Microseconds of the fixed clock pass for a partition (18 R491). -/
  | clock (part n : Nat)
  /-- The notification host acknowledges this many of the oldest messages (22 R510). -/
  | hostAck (part n : Nat)
  /-- An RDMA message of an operation that the responder does not accept arrives (22 R510). -/
  | rdmaOther (part : Nat) (qp : PacketHdr) (bytes : Nat)
  /-- The far end of a die link or port acknowledges this many of the oldest transactions (22 R514). -/
  | linkAck (link n : Nat)
  /-- An event of the opcode table. -/
  | event (i : Instr)
deriving DecidableEq, Repr

/-- The device. -/
structure State where
  root : Root
  dram : Dram
  l2 : SMap (List L2Block)
  tlb : SMap (List TlbEntry)
  wcache : SMap (List WalkEntry)
  /-- LDR reservations (10 R276): key (core × 64 + warp slot) × 32 + lane; partition, ASID tag, granule. -/
  resv : SMap (Nat × Nat × Nat)
  reqs : SMap Req
  parts : SMap Part
  cores : SMap Core
  heads : SMap Head
  lcs : SMap LineCore
  ports : SMap Port
  /-- The last answer to another node's access: 0 served, with the bytes read; 1 PHYS_RANGE, 2 PERMISSION, 3 data error
  (22 R515). -/
  peerReply : Nat × List Byte
  agenda : List Act
  cur : Cur
  tick : Nat
  nextId : Nat
deriving DecidableEq, Repr

/-- Faults: a step that the spec gives nothing to. -/
inductive Fault where
  /-- Raised by a Suric meaning applied outside the issue of a warp, or by a slot meaning applied outside a bundle: no
  step of the machine does so. Safe: such a state is not one of the machine's. -/
  | noIssuer
deriving DecidableEq, Repr

/-- Refusals. -/
inductive Refusal where
  /-- Raised by an arm of `exec` whose instruction has no meaning yet. Safe. -/
  | notModelled (mnemonic : String)
deriving DecidableEq, Repr

/-- A launch record of zeros, the form a warp or grid slot has before it is filled. -/
def LaunchRec.zero : LaunchRec :=
  { kaddr := 0, gx := 0, gy := 0, gz := 0, bx := 0, byy := 0, bz := 0, regs := 0, acc := 0, sems := 0, cont := 0,
    depth := 0, neigh := 0, spad := 0, io := false, es := false, bm := false, bmaddr := 0, bmlen := 0, dep0 := none,
    dep1 := none, tba := 0, fplog := 0, tem := 0, spill := 0, spilln := 0, res := 0 }

/-- A core after module reset (18 R470, R487). -/
def Core.init : Core :=
  { cyc := 0, lastQ := 3, groups := [], warps := [], l1 := [], kc := [], ic := [], contq := [], retire := [], kinds := [],
    units := [], slices := [], xform := [], impq := [], spadCorr := 0 }

/-- A partition after module reset: FBCTL and NQCTL LOG2N are 6 and NQCOAL COUNT is 1 (04 R101, 18 R490). -/
def Part.init : Part :=
  { win := [(0x12, 6#32), (0x42, 6#32), (0x46, 0x10000#32)], gridCtr := 0, grids := [], childq := [], lastq := [],
    marks := [], faults := [], held := [], slots := [], blockedDies := [], notif := [], qps := [],
    sent := [], att := none, clock := 0, fatal := [] }

/-- A head after module reset, and again when it is enabled (14 R371). -/
def Head.init : Head :=
  { configured := false, cfg := [], nhd := [], cfgSeen := [], f := 0, line := 0, scanned := 0, prescnt := 0, miss := 0,
    adopt0 := 0, adopt1 := 0, pubcnt := 0, slot := none, desc := [], slotTab := 0, relOwed := [], events := [],
    lastLatch := none, latches := [], posesOld := [], nextLatchF := 0, nextLatchB := 0, haveImage := false, newImage := none,
    loading := false, sizeNew := false, disabling := false, scan := [], bands := [], pbBad := [], pbLost := [], rtp := [], rtpSeq := 0 }

/-- A line core after module reset, and again when it is assigned (14 R366). -/
def LineCore.init : LineCore :=
  { head := none, engs := [], count := [], entry := [], imem := [], k := [], tiles := [], lb := [], lbNum := 0, lbPast := [], lbErr := [],
    tileErr := [], wErr := [], streams := [], fifos := [], covers := [], mq := [], wsets := [], landings := [], cyc := 0, nextEng := 0, band := none,
    lastBand := none, trapQ := none, snap := none, susp := false, late := [], pushes := [], took := none, bst := .ok, fx := [] }

def Engine.init : Engine := { pc := 0, loops := [], halted := true, ready := 0 }

def Port.init : Port :=
  { up := false, packed := false, own := false, fails := 0, training := false, replay := [], nextSeq := 0 }

def Ring.init : Ring :=
  { used := false, act := false, cursor := 0, pass := 0, moved := 0, fin := false, crc := 0xFFFFFFFF#32, parked := false, owes := false,
    descr := [] }

/-- Measurement registers hold zeros until boot writes them (log 3). -/
def zero32 : List Byte := List.replicate 32 0#8

def Root.init : Root :=
  { chmap := [], pkctl := [], dshare := 0, cxtb := [], hdown := [], fswbase := [], fswctl := [], pwgt := [], fgp := [],
    node := 0, route := [], slctl := [], slist := [], corst := [], slcst := [], chst := [], rszstat := 0, m0 := zero32,
    m1 := zero32, epaddr := [], dumpbase := 0, dump := [], bootStep := 0, heldInReset := false, coreClock := 14, cameoSlow := false,
    oldList := [], sweepId := [] }

def Dram.init : Dram :=
  { mem := [], chk := [], mcache := [], ptag := [], pctr := [], errs := [], corr := [], metaLog := [], scrubLog := [],
    resetting := [], quota := [], autoq := [] }

/-- The machine right after module reset: every resource FREE and holding zeros, every row of DRAM a reset row
(18 R470, 22 R516, R521). -/
def State.reset : State :=
  { root := Root.init, dram := Dram.init, l2 := [], tlb := [], wcache := [], resv := [], reqs := [], parts := [],
    cores := [], heads := [], lcs := [], ports := [], peerReply := (0, []), agenda := [], cur := .idle, tick := 0, nextId := 0 }

end Sys2Proof.Machine
end

