-- ==== Sys2Proof/Machine/Packed.lean ====
section
/-! DEFINITION. Machine/Packed.lean: the packed form of a 128-byte block (03 R53 to R58). -/

namespace Sys2Proof.Machine

/-- Sectors that a tag stores; none for a reserved tag (03 R54). -/
def tagSectors (tag : Nat) : Option Nat :=
  if tag ≤ 2 then some 1 else if tag = 3 ∨ tag = 5 then some 2 else if tag = 4 ∨ tag = 6 ∨ tag = 7 then some 3
  else if tag = 15 then some 4 else none

/-- Word and delta width of a base-and-delta tag (03 R54). -/
def tagWD (tag : Nat) : Nat × Nat :=
  if tag = 2 then (8, 1) else if tag = 3 then (8, 2) else if tag = 4 then (8, 4) else if tag = 5 then (4, 1)
  else if tag = 6 then (4, 2) else (2, 1)

/-- The 128 bytes of a zero block. -/
def zeroBlock : List Byte := List.replicate 128 0#8

/-- The block a packed image decodes to; none for a reserved tag (03 R55, R58). -/
def decodeBlock (b : PBlock) : Option (List Byte) :=
  if b.tag = 0 then some zeroBlock
  else if b.tag = 1 then some ((List.replicate 16 (sliceBytes b.img 0 8)).flatten)
  else if b.tag = 15 then some (sliceBytes b.img 0 128)
  else if b.tag ≤ 7 then
    let (w, d) := tagWD b.tag
    let base := leAt b.img 0 w
    some (((upto (128 / w)).map (fun i =>
      toBytes w (wrapN ((base : Int) + sxt (leAt b.img (w + d * i) d) (8 * d)) (8 * w)))).flatten)
  else none

/-- Whether the words of a block fit base and delta widths (03 R56). -/
def fitsWD (w d : Nat) (blk : List Byte) : Bool :=
  let ws := wordsOf w blk (128 / w)
  let base := ws.headD 0
  ws.all (fun x =>
    let diff := wrapN ((x : Int) - base) (8 * w)
    wrapN (sxt diff (8 * d)) (8 * w) == diff)

/-- The image of a base-and-delta encoding (03 R55). -/
def imageWD (w d : Nat) (blk : List Byte) : List Byte :=
  let ws := wordsOf w blk (128 / w)
  let base := ws.headD 0
  toBytes w base ++ (ws.map (fun (x : Nat) => toBytes d (wrapN ((x : Int) - base) (8 * d)))).flatten

/-- An image filled with zeros to the sectors its tag stores (03 R53). -/
def padImage (tag : Nat) (img : List Byte) : PBlock :=
  ⟨tag, sliceBytes img 0 (32 * (tagSectors tag).getD 4)⟩

/-- The canonical encoding of a block (03 R57). -/
def encodeBlock (blk : List Byte) : PBlock :=
  if blk.all (· == 0) then padImage 0 []
  else if (wordsOf 8 blk 16).all (· == (wordsOf 8 blk 16).headD 0) then padImage 1 (blk.take 8)
  else if fitsWD 8 1 blk then padImage 2 (imageWD 8 1 blk)
  else if fitsWD 8 2 blk then padImage 3 (imageWD 8 2 blk)
  else if fitsWD 4 1 blk then padImage 5 (imageWD 4 1 blk)
  else if fitsWD 8 4 blk then padImage 4 (imageWD 8 4 blk)
  else if fitsWD 4 2 blk then padImage 6 (imageWD 4 2 blk)
  else if fitsWD 2 1 blk then padImage 7 (imageWD 2 1 blk)
  else ⟨15, blk⟩

/-- The stored form that a write leaves (03 R62). -/
def storeForm (capable : Bool) (blk : List Byte) : PBlock := if capable then encodeBlock blk else ⟨15, blk⟩

end Sys2Proof.Machine
end

