-- ==== Sys2Proof/Machine/Links.lean ====
section
/-! DEFINITION. Machine/Links.lean: die links and fabric ports, what they carry, and the packed capability of their neighbours
(01 R13, R17, R23, 03 R66, R67, 22 R513, R514). -/

namespace Sys2Proof.Machine

/-! ### Dies -/

/-- The frame die (01 R12); compute dies are 0 to 3. -/
def dieFD : Nat := 4

/-- The die of a core (01 R522), of a slice (18 R470), of a channel (04 R89, log 63). -/
def dieOfCore (c : Nat) : Nat := c / 48
def dieOfSlice (h : Nat) : Nat := h / 32
def dieOfChan (c : Nat) : Nat := c / 16

/-- The die of a fabric port: 36 on each compute die, in order of their numbers (01 R12, log 63). -/
def dieOfPort (i : Nat) : Nat := i / 36

/-- The endpoint on die `a` of the die link to die `b`: every two dies are linked (01 R13); the 144 ports come first. -/
def dieLink (a b : Nat) : Nat := 144 + 5 * a + b

/-! ### Transactions -/

/-- Data flits of what a transaction carries: two sectors or 64 bytes in a flit (03 R66). -/
def Load.flits : Load → Nat
  | .none => 0
  | .bytes bs => cdiv bs.length 64
  | .block b => cdiv ((tagSectors b.tag).getD 4) 2

/-- Flits of a transaction: its header and its data. -/
def Xact.flits (x : Xact) : Nat := 1 + x.load.flits

/-- A block as a link carries it to a neighbour: packed where that neighbour can take it, else expanded (01 R23, 03 R66). -/
def carriedAs (packed : Bool) : Load → Load
  | .block b => .block (if packed then b else ⟨15, (decodeBlock b).getD zeroBlock⟩)
  | l => l

/-- An endpoint. -/
def portOf (s : State) (i : Nat) : Port := getD Port.init s.ports i
def modPort (s : State) (i : Nat) (f : Port → Port) : State := { s with ports := put s.ports i (f (portOf s i)) }

/-- Flits that wait for acknowledgement. -/
def Port.waiting (p : Port) : Nat := (p.replay.map Xact.flits).foldl (· + ·) 0

/-- A transaction sent: its flits take the next sequence numbers and wait for acknowledgement. -/
def Port.send (p : Port) (gid : Nat) (head : List Byte) (load : Load) : Port :=
  let x : Xact := ⟨p.nextSeq, gid, head, carriedAs p.packed load⟩
  { p with replay := p.replay ++ [x], nextSeq := p.nextSeq + x.flits }

/-- The oldest transactions leave until `n` flits have room in a buffer of 512: they were acknowledged while the new one
waited (22 R514). -/
def makeSpace (n : Nat) : List Xact → List Xact
  | [] => []
  | x :: rest =>
    if (((x :: rest).map Xact.flits).foldl (· + ·) 0) + n ≤ 512 then x :: rest else makeSpace n rest

/-- Waiting transactions numbered on from `n`, in order, and the number after them. -/
def renumberFlits : Nat → List Xact → List Xact × Nat
  | n, [] => ([], n)
  | n, x :: rest => let (xs, m) := renumberFlits (n + x.flits) rest; ({ x with seq := n } :: xs, m)

/-- An endpoint after training: up, with the capability its neighbour advertises now; waiting blocks are expanded where it has
withdrawn it (03 R67). -/
def Port.trained (p : Port) (packed : Bool) : Port :=
  let xs := p.replay.map (fun x => { x with load := carriedAs packed x.load })
  let (xs, n) := renumberFlits ((p.replay.head?.map Xact.seq).getD p.nextSeq) xs
  { p with up := true, packed := packed, own := true, training := false, fails := 0, replay := xs, nextSeq := n }

/-- A transaction that crosses from one die to another over their link (01 R13). -/
def cross (s : State) (a b : Nat) (head : List Byte) (load : Load) : State :=
  if a = b then s else modPort s (dieLink a b) (fun p => p.send 0 head load)

/-! ### Fabric -/

/-- Ports that are up and lead to a node (22 R513). -/
def portsTo (s : State) (node : Nat) : List Nat :=
  (upto 144).filter (fun i => (getD 0#144 s.root.route node).getLsbD i && (portOf s i).up)

/-- Some port of a node's route mask is up (22 R513). -/
def reachable (s : State) (node : Nat) : Bool := !(portsTo s node).isEmpty

/-- The port of a node's mask that the hash of a block picks (22 R513). -/
def portFor (s : State) (node vb : Nat) : Option Nat :=
  let ps := portsTo s node
  ps[Config.portHash vb ps.length % ps.length]?

/-- Fields of FGP (22 R515). -/
def fgpOn (s : State) (p : Nat) : Bool := wbit (getD 0#32 s.root.fgp p) 31
def fgpGid (s : State) (p : Nat) : Nat := fld (getD 0#32 s.root.fgp p) 0 16

/-- A transaction sent on a port; where its buffer is full it waits for acknowledgements first (22 R514). -/
def sendOn (s : State) (i gid : Nat) (head : List Byte) (load : Load) : State :=
  modPort s i (fun p =>
    Port.send { p with replay := makeSpace (1 + (carriedAs p.packed load).flits) p.replay } gid head load)

/-- A transaction of a partition sent from a die to another node, over the link to its port's die (01 R13, 22 R513 to R515). -/
def sendFabric (s : State) (die part node vb : Nat) (head : List Byte) (load : Load) : State :=
  match portFor s node vb with
  | none => s
  | some i => sendOn (cross s die (dieOfPort i) head load) i (fgpGid s part) head load

/-- Whether the port of a node and block has room for a transaction of these flits (22 R514). -/
def fabricRoom (s : State) (node vb n : Nat) : Bool :=
  match portFor s node vb with
  | none => true
  | some i => decide ((portOf s i).waiting + n ≤ 512)

/-- The header of a request: the address it names. -/
def headAt (a : Nat) : List Byte := toBytes 8 a

end Sys2Proof.Machine
end

