-- ==== Sys2Proof/Machine/Dram.lean ====
section
/-! DEFINITION. Machine/Dram.lean: from physical address to row (02 R34 to R37), the row guard word and error rules (02 R28 to
R31, R49 to R51), the promotion slots (02 R38 to R43) and the packing metadata (03 R59 to R65). -/

namespace Sys2Proof.Machine

/-- A block's place: channel, class, block index of the channel, bank, row and data unit (02 R36). -/
structure Loc where
  chan : Nat
  near : Bool
  j : Nat
  bank : Nat
  row : Nat
  blk : Nat
deriving DecidableEq, Repr

/-- Fields of a channel-map entry (02 R34). -/
def chValid (w : Word) : Bool := wbit w 31
def chPart (w : Word) : Nat := fld w 27 4
def chLsz (w : Word) : Nat := fld w 24 3
def chGen (w : Word) : Nat := fld w 16 8
def chChan (w : Word) : Nat := fld w 0 6

def chEntry (s : State) (c : Nat) : Word := getD 0#32 s.root.chmap c

/-- The channel keeps a metadata region and stores packed forms (03 R59). -/
def packEn (s : State) (chan : Nat) : Bool := wbit (getD 0#32 s.root.pkctl chan) 31

/-- First far block index of the metadata region (03 R61). -/
def metaBase : Nat := 93512640

/-- The place of block `j` of a channel (02 R36). -/
def locOf (chan : Nat) (near : Bool) (j : Nat) : Loc :=
  let q := j / 15
  { chan := chan, near := near, j := j, bank := (q % 32) ^^^ ((q / 32) % 32),
    row := if near then q / 32 else 1024 + q / 32, blk := j % 15 }

/-- The place of a local physical address for a partition, or the physical_range fault (02 R36, R37, R46, 03 R61). In a set
whose entries differ against 02 R35, an entry that is not the partition's names no place (log 64). -/
def locate (s : State) (part pa : Nat) : Option Loc :=
  let near := nbit pa 40
  let c := nbits pa 34 6
  let e := chEntry s c
  if !chValid e || chLsz e == 7 || chPart e != part then none
  else
    let m := 2 ^ chLsz e
    let c0 := c - c % m
    let u := nbits pa 0 40 - c0 * 2 ^ 34
    let g := u / 256
    let x := chEntry s (c0 + g % m)
    let chan := chChan x
    let j := 2 * (g / m) + nbits u 7 1
    let cap := if near then 245760 else if packEn s chan then metaBase else 93880320
    if j ≥ cap ∨ !chValid x ∨ chPart x ≠ part ∨ s.dram.resetting.contains chan then none else some (locOf chan near j)

/-- Key of a byte of a row in DRAM. -/
def rowKey (chan bank row col : Nat) : Nat := ((chan * 32 + bank) * 196608 + row) * 2048 + col

/-- Key of a promotion tag. -/
def ptagKey (chan bank slot : Nat) : Nat := (chan * 32 + bank) * 512 + slot

/-- The tags of a bank that are valid: slot and entry (02 R38). -/
def bankTags (s : State) (chan bank : Nat) : List (Nat × PTag) :=
  (s.dram.ptag.filter (fun e => decide (e.1 / 512 = chan * 32 + bank))).map (fun e => (e.1 % 512, e.2))

/-- The slot that holds a far row (02 R39). -/
def promSlot (s : State) (chan bank row : Nat) : Option Nat :=
  (bankTags s chan bank).find? (fun e => e.2.frow == row) |>.map (·.1)

/-- The row an access is served from: the promotion slot of a promoted far row, else the row itself (02 R39). -/
def servedRow (s : State) (chan bank row : Nat) : Nat :=
  if row < 1024 then row
  else match promSlot s chan bank row with
    | some t => 512 + t
    | none => row

/-- The guard word a written row carries (02 R30). -/
def guardWord (chan bank row : Nat) : Nat := 0xA5 * 2 ^ 56 + chan * 2 ^ 50 + bank * 2 ^ 45 + row * 2 ^ 27

/-- What a guard word says: reset, good, or every block uncorrectable (02 R31). -/
inductive Guard where
  | reset | good | bad
deriving DecidableEq, Repr

def guardSays (s : State) (chan bank at_ row : Nat) : Guard :=
  let g := ofBytes (readRun s.dram.mem (rowKey chan bank at_ 2040) 8) / 2 ^ 27
  if g = 0 then .reset
  else if g = guardWord chan bank row / 2 ^ 27 then .good else .bad

/-- The guard of a row where it is served from. -/
def guardOf (s : State) (chan bank row : Nat) : Guard := guardSays s chan bank (servedRow s chan bank row) row

/-- Key of the count of a stored codeword's erroneous bytes: the unit of the row it is served from. -/
def errKey (s : State) (chan bank row blk : Nat) : Nat := rowKey chan bank (servedRow s chan bank row) (blk * 128)

/-- A correction counted for a bank (02 R49). -/
def countCorr (s : State) (chan bank : Nat) : State :=
  let k := chan * 32 + bank
  { s with dram := { s.dram with corr := setD 0 s.dram.corr k (getD 0 s.dram.corr k + 1) } }

/-- The bytes of a data unit: zeros in a reset row; else as stored, up to 3 erroneous bytes corrected, 4 or 5 detected, 6 or
more as the hardware happens to see them (02 R29, R31). -/
def readUnit (s : State) (chan bank row blk n : Nat) : Except AccErr (List Byte) × State :=
  match guardOf s chan bank row with
  | .reset => (.ok (List.replicate n 0#8), s)
  | .bad => (.error .dataError, s)
  | .good =>
    let e := getD 0 s.dram.errs (errKey s chan bank row blk)
    let stored := readRun s.dram.mem (rowKey chan bank (servedRow s chan bank row) (blk * 128)) n
    if e = 0 then (.ok stored, s)
    else if e ≤ 3 then (.ok stored, countCorr s chan bank)
    else if e ≤ 5 then (.error .dataError, s)
    else match Config.undetected s.tick with
      | some bs => (.ok (sliceBytes bs 0 n), s)
      | none => (.error .dataError, s)

/-- The tag of a promoted row marked dirty (02 R39). -/
def markDirty (s : State) (chan bank row : Nat) : State :=
  match promSlot s chan bank row with
  | some t =>
    { s with dram := { s.dram with ptag := adjust s.dram.ptag (ptagKey chan bank t) (fun p => { p with dirty := true }) } }
  | none => s

/-- A table with an entry under the key of each data unit of a row whose first byte is `a`. -/
def putUnits {α : Type} (m : SMap α) (a : Nat) (v : α) : SMap α := (upto 15).foldl (fun m b => put m (a + 128 * b) v) m

/-- The guard word, check symbols and error counts of a row made ready for a write: a reset row gets its guard word and the
check symbols of fifteen zero blocks (02 R31); a row with a guard word of another row gets its own, its blocks staying
uncorrectable until each is written (02 R51, log 7). -/
def readyRow (s : State) (chan bank row : Nat) : State :=
  let a := rowKey chan bank (servedRow s chan bank row) 0
  let guarded := writeRun s.dram.mem (a + 2040) (toBytes 8 (guardWord chan bank row))
  match guardOf s chan bank row with
  | .good => s
  | .reset => { s with dram := { s.dram with
      mem := guarded, chk := putUnits s.dram.chk a (Config.checkSymbols zeroBlock),
      errs := s.dram.errs.filter (fun e => !(decide (a ≤ e.1) && decide (e.1 < a + 2048))) } }
  | .bad => { s with dram := { s.dram with mem := guarded, errs := putUnits s.dram.errs a 5 } }

/-- The bytes written to a data unit, with its check symbols, in which what is not stored counts as zeros (02 R29, R31). -/
def writeUnit (s : State) (chan bank row blk : Nat) (bytes : List Byte) : State :=
  let s := readyRow (if row ≥ 1024 then markDirty s chan bank row else s) chan bank row
  let k := errKey s chan bank row blk
  { s with dram := { s.dram with
      mem := writeRun s.dram.mem k bytes,
      chk := put s.dram.chk k (Config.checkSymbols (sliceBytes bytes 0 128)),
      errs := remove s.dram.errs k } }

/-! ### Packing metadata -/

/-- Metadata nibble index of a block (03 R61), and the metadata block that holds it, counted from the first of its region. -/
def metaIndex (l : Loc) : Nat := if l.near then l.j else 245760 + l.j
def metaBlk (l : Loc) : Nat := metaIndex l / 256

/-- The place of a metadata block of a channel. -/
def metaLoc (chan n : Nat) : Loc := locOf chan false (metaBase + n)

/-- The set of a metadata cache that holds a metadata block: eight lines of one of 256 sets (03 R64, log 8). -/
def metaKey (chan n : Nat) : Nat := chan * 256 + n % 256

/-- A line put first in its set; of a full set the line used longest ago leaves, written back where it is dirty (03 R64). -/
def metaPut (s : State) (chan : Nat) (ln : MetaLine) : State :=
  let ls := ln :: (getD [] s.dram.mcache (metaKey chan ln.blk)).filter (fun x => x.blk != ln.blk)
  let s := match ls[8]? with
    | some v =>
      let m := metaLoc chan v.blk
      if v.dirty then writeUnit s chan m.bank m.row m.blk v.bytes else s
    | none => s
  { s with dram := { s.dram with mcache := put s.dram.mcache (metaKey chan ln.blk) (ls.take 8) } }

/-- The region of a virtual address (04 R73). -/
inductive Region where
  | priv | shared | aperture
deriving DecidableEq, Repr

def regionOf (va : VA) : Region :=
  if !va.getLsbD 56 then .priv else if !va.getLsbD 55 then .shared else .aperture

/-- The ASID tag of an access (04 R73). -/
def atagOf (asid : Nat) (va : VA) : Nat := if regionOf va = .priv then asid else 0

/-- The ASID tag and block number of a request. -/
def Req.atag (r : Req) : Nat := atagOf r.asid r.va
def Req.vb (r : Req) : Nat := r.va.toNat / 128

/-- A request that its home slice has accepted and not yet performed. -/
def Req.pendingAt (r : Req) (b : L2Block) : Bool :=
  r.part == b.pid && r.atag == b.atag && r.vb == b.vb && (r.stage == .checked || r.stage == .accepted)

/-- A request changes memory. -/
def Req.writes (r : Req) : Bool :=
  match r.op with
  | .store _ | .atomic _ _ _ | .stc _ _ => true
  | _ => false

/-- A block whose slice alone holds what was written to it: it is dirty, or a write accepted there is not performed yet (log 9).
-/
def onlyCopy (s : State) (b : L2Block) : Bool := b.dirty || s.reqs.any (fun e => e.2.writes && e.2.pendingAt b)

/-- Clean blocks of the L2 that a metadata block covers leave it (03 R65): the test names the partition and physical block. -/
def dropCovered (s : State) (chan n : Nat) : State :=
  let covered := fun (b : L2Block) => !onlyCopy s b && (match locate s b.pid (nbits (b.pa * 128) 0 41) with
    | some l => l.chan == chan && metaBlk l == n
    | none => false)
  { s with l2 := (s.l2.map (fun e => (e.1, e.2.filter (fun b => !covered b)))).filter (fun e => !e.2.isEmpty) }

/-- An uncorrectable metadata block is logged, and the clean blocks it covers leave the L2 (03 R65). -/
def metaFail (s : State) (chan n : Nat) : State :=
  let s := dropCovered s chan n
  { s with dram := { s.dram with metaLog := (chan * 2 ^ 32 + metaBase + n) :: s.dram.metaLog } }

/-- The metadata block of a channel through its controller's cache, a miss filling a line (03 R64). -/
def metaLine (s : State) (chan n : Nat) : Except AccErr MetaLine × State :=
  match (getD [] s.dram.mcache (metaKey chan n)).find? (fun x => x.blk == n) with
  | some ln => (.ok ln, metaPut s chan ln)
  | none =>
    let m := metaLoc chan n
    match readUnit s chan m.bank m.row m.blk 128 with
    | (.ok bs, s) => (.ok ⟨n, false, bs⟩, metaPut s chan ⟨n, false, bs⟩)
    | (.error e, s) => (.error e, metaFail s chan n)

/-- A line of a metadata cache found uncorrectable: a clean one is fetched again when it is needed, a dirty one leaves its
metadata block uncorrectable (03 R64, R65). -/
def metaUpset (s : State) (chan n : Nat) : State :=
  let ls := getD [] s.dram.mcache (metaKey chan n)
  let s := { s with dram := { s.dram with mcache := put s.dram.mcache (metaKey chan n) (ls.filter (fun x => x.blk != n)) } }
  if ls.any (fun x => x.blk == n && x.dirty) then
    let m := metaLoc chan n
    let s := readyRow (markDirty s chan m.bank m.row) chan m.bank m.row
    { s with dram := { s.dram with errs := put s.dram.errs (errKey s chan m.bank m.row m.blk) 5 } }
  else s

/-- A metadata block rewritten by root firmware through its diagnostic window (03 R65). -/
def metaRewrite (s : State) (chan n : Nat) (bytes : List Byte) : State :=
  let ls := (getD [] s.dram.mcache (metaKey chan n)).filter (fun x => x.blk != n)
  let m := metaLoc chan n
  writeUnit { s with dram := { s.dram with mcache := put s.dram.mcache (metaKey chan n) ls } } chan m.bank m.row m.blk bytes

/-- The stored tag of a block of a packing channel; an uncorrectable metadata block fails (03 R61, R65). Where software has
broken 03 R60, the tag is whatever the metadata region holds (log 64). -/
def readTag (s : State) (l : Loc) : Except AccErr Nat × State :=
  let x := metaIndex l
  match metaLine s l.chan (metaBlk l) with
  | (.ok ln, s) =>
    let b := (nthD 0#8 ln.bytes (x / 2 % 128)).toNat
    (.ok (if x % 2 = 0 then b % 16 else b / 16), s)
  | (.error e, s) => (.error e, s)

/-- The tag stored for a block; fails when its metadata block is uncorrectable (03 R61, R65). -/
def writeTag (s : State) (l : Loc) (tag : Nat) : Except AccErr Unit × State :=
  let x := metaIndex l
  match metaLine s l.chan (metaBlk l) with
  | (.ok ln, s) =>
    let b := (nthD 0#8 ln.bytes (x / 2 % 128)).toNat
    let b' := if x % 2 = 0 then b - b % 16 + tag else b % 16 + 16 * tag
    (.ok (), metaPut s l.chan { ln with dirty := true, bytes := setAt ln.bytes (x / 2 % 128) (BitVec.ofNat 8 b') })
  | (.error e, s) => (.error e, s)

/-- A block read at its bank in the form it is stored (02 R36, 03 R61). -/
def dramRead (s : State) (l : Loc) : Except AccErr PBlock × State :=
  if packEn s l.chan then
    match readTag s l with
    | (.error e, s) => (.error e, s)
    | (.ok tag, s) =>
      match tagSectors tag with
      | none => (.error .dataError, s)
      | some n =>
        match readUnit s l.chan l.bank l.row l.blk (32 * n) with
        | (.ok bs, s) => (.ok ⟨tag, bs⟩, s)
        | (.error e, s) => (.error e, s)
  else
    match readUnit s l.chan l.bank l.row l.blk 128 with
    | (.ok bs, s) => (.ok ⟨15, bs⟩, s)
    | (.error e, s) => (.error e, s)

/-- A block written at its bank with its tag; fails when the metadata block that covers it is uncorrectable (03 R64, R65). -/
def dramWrite (s : State) (l : Loc) (b : PBlock) : Except AccErr Unit × State :=
  if packEn s l.chan then
    match writeTag s l b.tag with
    | (.error e, s) => (.error e, s)
    | (.ok _, s) => (.ok (), writeUnit s l.chan l.bank l.row l.blk b.img)
  else
    (.ok (), writeUnit s l.chan l.bank l.row l.blk ((decodeBlock b).getD zeroBlock))

/-! ### Promotion slots -/

/-- Outcome codes of a promotion or demotion (02 R42). -/
def ocPROMOTED := 0
def ocPRESENT := 1
def ocNOVICTIM := 2
def ocPINLIMIT := 3
def ocNEAR := 4
def ocUNMAPPED := 5
def ocDEMOTED := 6
def ocNOTPRESENT := 7

/-- SEQ fields of a bank renumbered densely from zero in their order, the counter set to their number (02 R43). -/
def renumber (s : State) (chan bank : Nat) : State :=
  let tags := bankTags s chan bank
  let rank := fun (p : PTag) => (tags.filter (fun e => decide (e.2.seq < p.seq))).length
  { s with dram := { s.dram with
      ptag := s.dram.ptag.map (fun e =>
        if e.1 / 512 = chan * 32 + bank then (e.1, { e.2 with seq := rank e.2 }) else e),
      pctr := setD 0 s.dram.pctr (chan * 32 + bank) tags.length } }

/-- The next SEQ of a bank: its counter's value, which then goes up by one; renumbered first where it would wrap (02 R43, log 6).
-/
def nextSeq (s : State) (chan bank : Nat) : Nat × State :=
  let s := if getD 0 s.dram.pctr (chan * 32 + bank) ≥ 2 ^ 40 - 1 then renumber s chan bank else s
  let n := getD 0 s.dram.pctr (chan * 32 + bank)
  (n, { s with dram := { s.dram with pctr := setD 0 s.dram.pctr (chan * 32 + bank) (n + 1) } })

/-- The entries of a table under the keys of a row, moved to the keys of another, and the table without that other row's. -/
def rowEntries {α : Type} (m : SMap α) (a b : Nat) : SMap α :=
  (m.filter (fun e => decide (a ≤ e.1) && decide (e.1 < a + 2048))).map (fun e => (e.1 - a + b, e.2))
def withoutRow {α : Type} (m : SMap α) (b : Nat) : SMap α :=
  m.filter (fun e => !(decide (b ≤ e.1) && decide (e.1 < b + 2048)))

/-- A whole row copied bit for bit, check unit and erroneous bytes with it (02 R39). -/
def copyRow (s : State) (chan bank src dst : Nat) : State :=
  let a := rowKey chan bank src 0
  let b := rowKey chan bank dst 0
  { s with dram := { s.dram with
      mem := (rowEntries s.dram.mem a b).foldl (fun acc e => setD 0#8 acc e.1 e.2) (withoutRow s.dram.mem b),
      chk := (rowEntries s.dram.chk a b).foldl (fun acc e => put acc e.1 e.2) (withoutRow s.dram.chk b),
      errs := (rowEntries s.dram.errs a b).foldl (fun acc e => put acc e.1 e.2) (withoutRow s.dram.errs b) } }

/-- The demotion of one row (02 R41). -/
def demoteRow (s : State) (chan bank row : Nat) : Nat × State :=
  match promSlot s chan bank row with
  | none => (ocNOTPRESENT, s)
  | some t =>
    let dirty := ((lookup s.dram.ptag (ptagKey chan bank t)).map PTag.dirty).getD false
    let s := if dirty then copyRow s chan bank (512 + t) row else s
    (ocDEMOTED, { s with dram := { s.dram with ptag := remove s.dram.ptag (ptagKey chan bank t) } })

/-- The victim of a promotion at priority `p`: lowest PRI, then lowest SEQ (02 R40). -/
def victim (tags : List (Nat × PTag)) (p : Nat) : Option (Nat × PTag) :=
  tags.foldl (fun best e =>
    if e.2.pri ≤ p ∧ e.2.pri < 3 then
      match best with
      | none => some e
      | some b => if e.2.pri < b.2.pri ∨ (e.2.pri = b.2.pri ∧ e.2.seq < b.2.seq) then some e else best
    else best) none

/-- The row copied into a slot with a new tag (02 R40). -/
def fillSlot (s : State) (chan bank row t p : Nat) : State :=
  let (q, s) := nextSeq s chan bank
  let s := copyRow s chan bank row (512 + t)
  { s with dram := { s.dram with
      ptag := put s.dram.ptag (ptagKey chan bank t) { dirty := false, pri := p, frow := row, seq := q } } }

/-- Whether a channel belongs to an interleave set in DRAINING (18 R484). -/
def chanDraining (s : State) (chan : Nat) : Bool := fld (getD 0#32 s.root.chst chan) 0 3 == 3

/-- The promotion of one row at priority `p` (02 R40, 18 R484). -/
def promoteRow (s : State) (chan bank row p : Nat) : Nat × State :=
  let tags := bankTags s chan bank
  let pinned := (tags.filter (fun e => e.2.pri == 3)).length
  if chanDraining s chan then (ocNOVICTIM, s)
  else if row < 1024 then (ocNEAR, s)
  else match tags.find? (fun e => e.2.frow == row) with
    | some (t, old) =>
      if p = 3 ∧ old.pri < 3 ∧ pinned ≥ 448 then (ocPINLIMIT, s)
      else
        let (q, s) := nextSeq s chan bank
        (ocPRESENT, { s with dram := { s.dram with
          ptag := adjust s.dram.ptag (ptagKey chan bank t) (fun e => { e with pri := max e.pri p, seq := q }) } })
    | none =>
      if p = 3 ∧ pinned ≥ 448 then (ocPINLIMIT, s)
      else match (upto 512).find? (fun t => (lookup s.dram.ptag (ptagKey chan bank t)).isNone) with
        | some t => (ocPROMOTED, fillSlot s chan bank row t p)
        | none =>
          match victim tags p with
          | none => (ocNOVICTIM, s)
          | some (t, v) =>
            let s := if v.dirty then copyRow s chan bank (512 + t) v.frow else s
            let s := { s with dram := { s.dram with ptag := remove s.dram.ptag (ptagKey chan bank t) } }
            (ocPROMOTED, fillSlot s chan bank row t p)

/-- Every row of a channel made a reset row, its promotion tags and metadata cache cleared (02 R46, 03 R64); the promotion
counters of its banks stay, which 02 R46 does not name (log 6). -/
def clearChannel (s : State) (chan : Nat) : State :=
  let a := rowKey chan 0 0 0
  let b := rowKey (chan + 1) 0 0 0
  { s with dram := { s.dram with
      mem := s.dram.mem.filter (fun e => !(decide (a ≤ e.1) && decide (e.1 < b))),
      chk := s.dram.chk.filter (fun e => !(decide (a ≤ e.1) && decide (e.1 < b))),
      mcache := s.dram.mcache.filter (fun e => decide (e.1 / 256 ≠ chan)),
      errs := s.dram.errs.filter (fun e => !(decide (a ≤ e.1) && decide (e.1 < b))),
      ptag := s.dram.ptag.filter (fun e => decide (e.1 / 512 / 32 ≠ chan)),
      autoq := s.dram.autoq.filter (fun e => decide (e.1 ≠ chan)) } }

end Sys2Proof.Machine
end

