-- ==== Sys2Proof/Machine/MemPath.lean ====
section
/-! DEFINITION. Machine/MemPath.lean: home slices (04 R80 to R88), translation (04 R73 to R75, R89 to R95), the merge of
writes at the home slice (03 R70, R71) and the core-side caches (04 R76 to R79). -/

namespace Sys2Proof.Machine

/-- The state of a partition. -/
def partOf (s : State) (p : Nat) : Part := getD Part.init s.parts p
def setPart (s : State) (p : Nat) (x : Part) : State := { s with parts := put s.parts p x }
def modPart (s : State) (p : Nat) (f : Part → Part) : State := setPart s p (f (partOf s p))

/-- The state of a core. -/
def coreOf (s : State) (c : Nat) : Core := getD Core.init s.cores c
def setCore (s : State) (c : Nat) (x : Core) : State := { s with cores := put s.cores c x }
def modCore (s : State) (c : Nat) (f : Core → Core) : State := setCore s c (f (coreOf s c))

/-- Fields of SLCTL (18 R477). -/
def slctl (s : State) (p : Nat) : Word := getD 0#32 s.root.slctl p
def slBusy (s : State) (p : Nat) : Bool := wbit (slctl s p) 31
def slBank (s : State) (p : Nat) : Nat := fld (slctl s p) 24 1
def slGen (s : State) (p : Nat) : Nat := fld (slctl s p) 16 8
def nsl (s : State) (p : Nat) : Nat := fld (slctl s p) 0 8

/-- The current slice list of a partition (04 R81, 18 R477). -/
def sliceList (s : State) (p : Nat) : List Nat :=
  (upto (nsl s p)).map (fun k => fld (getD 0#8 s.root.slist ((p * 2 + slBank s p) * 128 + k)) 0 7)

/-- The hash of a block number and ASID tag (04 R81). -/
def blockHash (vb atag : Nat) : Nat := nbits (vb ^^^ (vb >>> 19) ^^^ (vb >>> 38) ^^^ (atag <<< 7)) 0 19

/-- The home of a block in a slice list (04 R81); an empty list, of which the rule leaves k mod 0 open, has none (log 65). -/
def homeIn (l : List Nat) (vb atag : Nat) : Option Nat :=
  if l.length = 0 then none else l[blockHash vb atag % l.length]?

/-- The home slice of a block in the current generation (04 R81). -/
def homeSlice (s : State) (p vb atag : Nat) : Option Nat := homeIn (sliceList s p) vb atag

/-- The home of the previous generation while the sweep runs (18 R479). -/
def oldHome (s : State) (p vb atag : Nat) : Option Nat :=
  if slBusy s p then homeIn (getD [] s.root.oldList p) vb atag else none

/-- The set of a block in a slice (04 R81). -/
def setOf (vb : Nat) : Nat := (nbits vb 0 25 ^^^ nbits vb 25 25) % 3072
def l2Key (slice vb : Nat) : Nat := slice * 3072 + setOf vb

def isBlock (pid atag vb : Nat) (b : L2Block) : Bool := b.pid == pid && b.atag == atag && b.vb == vb

/-- The block an L2 slice holds, both its lines valid (03 R68, 04 R74, R80). -/
def l2Find (s : State) (slice pid atag vb : Nat) : Option L2Block :=
  (getD [] s.l2 (l2Key slice vb)).find? (fun b => isBlock pid atag vb b && b.lv == 3)

def setL2 (s : State) (k : Nat) (bs : List L2Block) : State :=
  { s with l2 := if bs.isEmpty then remove s.l2 k else put s.l2 k bs }

/-- A block removed from a slice. -/
def l2Drop (s : State) (slice pid atag vb : Nat) : State :=
  setL2 s (l2Key slice vb) ((getD [] s.l2 (l2Key slice vb)).filter (fun b => !isBlock pid atag vb b))

/-- Sector count of a block. -/
def sectors (b : PBlock) : Nat := (tagSectors b.tag).getD 4

/-- A dirty block written back to DRAM over the link to its channel's die; one whose metadata is uncorrectable is lost, fatally to
its partition; one outside every mapped set is lost to the tenant (04 R82, 03 R65, 18 R482, R485). -/
def writeBack (s : State) (slice : Nat) (b : L2Block) : State :=
  if !b.dirty then s
  else match locate s b.pid (b.pa * 128) with
    | none => s
    | some l =>
      let s := cross s (dieOfSlice slice) (dieOfChan l.chan) (headAt (b.pa * 128)) (.block b.blk)
      match dramWrite s l (if packEn s l.chan then b.blk else ⟨15, (decodeBlock b.blk).getD zeroBlock⟩) with
      | (.ok _, s) => s
      | (.error _, s) => modPart s b.pid (fun p => { p with fatal := p.fatal ++ [(slice, b.vb)] })

/-! ### Accesses performed at a block -/

/-- A request changed. -/
def modReq (s : State) (rid : Nat) (f : Req → Req) : State := { s with reqs := adjust s.reqs rid f }
def setStage (s : State) (rid : Nat) (st : Stage) : State := modReq s rid (fun r => { r with stage := st })
def dropReq (s : State) (rid : Nat) : State := { s with reqs := remove s.reqs rid }

/-- Key of a thread. -/
def threadKey (core wslot lane : Nat) : Nat := (core * 64 + wslot) * 32 + lane

/-- The threads that a request acts for: its lanes. DESIGN CHOICE: a uniform LDR or STC issued in a handler names no lane, so no thread
holds a reservation for it: LDR sets none and STC fails (log 70). -/
def Req.threads (r : Req) : List Nat :=
  if r.wslot ≥ 64 then [] else (maskLanes r.lanes).map (threadKey r.core r.wslot)

/-- The threads whose reservations a request leaves alone: those of a uniform form, which is one access of them all, and the
thread of a lane that accesses alone; of several lanes that store the same bytes each is the others' other thread (10 R278). -/
def Req.own (r : Req) : List Nat := if r.uniform || r.threads.length == 1 then r.threads else []

/-- The reservations on the granules of a range end, but for these threads' own (10 R278). -/
def clearResv (s : State) (p atag : Nat) (va n : Nat) (own : List Nat) : State :=
  { s with resv := s.resv.filter (fun e =>
      !(e.2.1 == p && e.2.2.1 == atag && decide (va / 64 ≤ e.2.2.2) && decide (e.2.2.2 ≤ (va + (n - 1)) / 64) &&
        !own.contains e.1)) }

/-- A reservation set for each thread of a request (10 R276). -/
def setResv (s : State) (r : Req) : State :=
  { s with resv := r.threads.foldl (fun m k => put m k (r.part, r.atag, r.va.toNat / 64)) s.resv }

/-- Whether the thread of a conditional store holds the reservation of its granule, the lowest of a uniform form's, and the
reservations of its threads given up (10 R277). -/
def takeResv (s : State) (r : Req) : Bool × State :=
  let held := match r.threads with
    | k :: _ => lookup s.resv k == some (r.part, r.atag, r.va.toNat / 64)
    | [] => false
  (held, { s with resv := s.resv.filter (fun e => !r.threads.contains e.1) })

/-- The decoded bytes of a block; an undecodable image is an uncorrectable block (03 R58). -/
def blockBytes (b : L2Block) : Except AccErr (List Byte) :=
  match decodeBlock b.blk with
  | some bs => .ok bs
  | none => .error .dataError

/-- Whether a block is packed-capable: its page is compressible and its channel packs (03 R62). -/
def packCapable (s : State) (b : L2Block) : Bool :=
  match locate s b.pid (b.pa * 128) with
  | some l => b.comp && packEn s l.chan
  | none => false

/-- A block with new bytes in the form 03 R62 gives, dirty (03 R70). -/
def rewritten (s : State) (b : L2Block) (bytes : List Byte) : L2Block :=
  { b with blk := storeForm (packCapable s b) bytes, dirty := true }

/-- What the access of a request makes of the bytes of its range: the bytes it leaves there, if it writes, and the values it
returns; an atomic's old values in lane order, then its new one (10 R258, R259, R272, R277). -/
def MemOp.does (op : MemOp) (size : Nat) (held : Bool) (bs : List Byte) : Option (List Byte) × List Nat :=
  match op with
  | .load | .ldr => (none, [ofBytes bs])
  | .store new => (some new, [])
  | .atomic fn t ops => let (olds, last) := atomFold fn t ops (ofBytes bs); (some (toBytes size last), olds ++ [last])
  | .stc _ ops => if held then (some (toBytes size (ops.headD (0, 0)).2), [0, (ops.headD (0, 0)).2]) else (none, [1])
  | .pref => (none, [])

/-- Where a request stands once it is performed: a store is done, or has its acceptance still to be told (10 R257). -/
def finished (s : State) (rid : Nat) (r : Req) (snap : List Byte) (vals : List Nat) : State :=
  match r.op with
  | .store _ => if r.stage = .checked then setStage s rid .merged else dropReq s rid
  | _ => modReq s rid (fun q => { q with stage := .replied vals, snap := snap })

/-- A request performed on the bytes of its block, the reservations with it: what the block then holds (03 R70, R71). -/
def performOn (s : State) (rid : Nat) (r : Req) (b : L2Block) : State × L2Block :=
  match blockBytes b with
  | .error _ => (s, b)
  | .ok bs =>
    let o := r.va.toNat % 128
    let (held, s) := match r.op with
      | .stc _ _ => takeResv s r
      | .ldr => (false, setResv s r)
      | _ => (false, s)
    let (new, vals) := r.op.does r.size held (sliceBytes bs o r.size)
    match new with
    | none => (finished s rid r bs vals, b)
    | some x =>
      let after := patchBytes bs o (x.take (128 - o))
      (finished (clearResv s b.pid b.atag r.va.toNat r.size r.own) rid r after vals, rewritten s b after)

/-- The accepted requests of a block that a test picks, performed on it in their order. -/
def performAll (s : State) (b : L2Block) (p : Req → Bool) : State × L2Block :=
  (s.reqs.filter (fun e => e.2.pendingAt b && p e.2)).foldl (fun a e => performOn a.1 e.1 e.2 a.2) (s, b)

/-- A block as what was accepted for it leaves it, written back where it is dirty. -/
def serveOnce (s : State) (slice : Nat) (b : L2Block) : State × L2Block :=
  let (s, b) := performAll s b (fun _ => true)
  (writeBack s slice b, b)

/-- A block that leaves its slice: what was accepted there is performed first (log 9), then a dirty block is written back
(04 R82, R98). -/
def retireBlock (s : State) (slice : Nat) (b : L2Block) : State := (serveOnce s slice b).1

/-! ### Frame window and room -/

/-- FSWCTL and FSWBASE of a partition: frames reserved per set, and the window (13 R364). -/
def fwFrames (s : State) (p : Nat) : Nat :=
  let c := getD 0#32 s.root.fswctl p
  if wbit c 31 then fld c 0 4 else 0
def inWindow (s : State) (p pa : Nat) : Bool :=
  let base := fld (getD 0#64 s.root.fswbase p) 21 31
  let size := fld (getD 0#32 s.root.fswctl p) 4 16
  wbit (getD 0#32 s.root.fswctl p) 31 && decide (base ≤ pa / 2 ^ 21) && decide (pa / 2 ^ 21 < base + size)

/-- The sector slots open to window blocks, or to the others: the reserved ones are the last of the set (13 R364, log 65). -/
def slotsFor (s : State) (p : Nat) (win : Bool) : List Nat :=
  let n := 32 - 2 * fwFrames s p
  (upto 32).filter (fun i => decide (i < n) != win)

/-- Whether a block stands in slots of the part of its set that its address belongs to now. -/
def wellPlaced (s : State) (b : L2Block) : Bool :=
  b.win == inWindow s b.pid (b.pa * 128) && b.sp.all (fun i => (slotsFor s b.pid b.win).contains i)

/-- Blocks that a change of the frame window has left in the wrong part of a set leave it. -/
def evictMisplaced (s : State) (slice : Nat) (bs : List L2Block) : State × List L2Block :=
  ((bs.filter (fun b => !wellPlaced s b)).foldl (fun s b => retireBlock s slice b) s, bs.filter (wellPlaced s))

/-- Victims leave the set, least recently used first, until `need` sector slots and one tag are free in the part of the set
that the block belongs to (04 R80, R82, 13 R364). -/
def makeRoom (s : State) (slice : Nat) (win : Bool) (cap need : Nat) : Nat → List L2Block → State × List L2Block
  | 0, bs => (s, bs)
  | n + 1, bs =>
    let mine := bs.filter (fun b => b.win == win)
    let used := (mine.map (fun b => sectors b.blk)).foldl (· + ·) 0
    if used + need ≤ cap ∧ mine.length < cap then (s, bs)
    else match mine with
      | [] => (s, bs)
      | v :: _ => makeRoom (retireBlock s slice v) slice win cap need n (bs.filter (fun b => !isBlock v.pid v.atag v.vb b))

/-- Of the slots open to a block, the lowest that no block of its set uses (log 65). -/
def freeSlots (open_ : List Nat) (bs : List L2Block) (n : Nat) : List Nat :=
  let used := (bs.map L2Block.sp).flatten
  (open_.filter (fun i => !used.contains i)).take n

/-- Of blocks of a set, those that it still lists (03 R65). -/
def stillThere (s : State) (k : Nat) (bs : List L2Block) : List L2Block := bs.filter (fun b => (getD [] s.l2 k).contains b)

/-- A block that its part of the set can never hold: it is served and not retained (13 R364). -/
def tooBig (s : State) (b : L2Block) : Bool :=
  decide ((slotsFor s b.pid (inWindow s b.pid (b.pa * 128))).length < sectors b.blk)

/-- A block installed in its set, most recently used, or least recently used under STREAM (04 R82, R84). -/
def l2Install (s : State) (slice : Nat) (b : L2Block) (asLru : Bool) : State :=
  let k := l2Key slice b.vb
  let win := inWindow s b.pid (b.pa * 128)
  let open_ := slotsFor s b.pid win
  let (s, kept) := evictMisplaced s slice ((getD [] s.l2 k).filter (fun x => !isBlock b.pid b.atag b.vb x))
  if tooBig s b then retireBlock (setL2 s k (stillThere s k kept)) slice b
  else
    let (s, rest) := makeRoom s slice win open_.length (sectors b.blk) 33 kept
    let b := { b with win := win, sp := freeSlots open_ rest (sectors b.blk) }
    setL2 s k (if asLru then b :: stillThere s k rest else stillThere s k rest ++ [b])

/-- Stores and atomics that have reached a block performed there, so that a read sees them (04 R91). -/
def settleBlock (s : State) (slice : Nat) (b : L2Block) : State × L2Block :=
  let (t, c) := performAll s b Req.writes
  if c = b then (t, b) else (l2Install t slice c (c.pol == 2), c)

/-- The unit of translation of a home slice (04 R89). -/
def xlatUnit (slice : Nat) : Nat := slice / 32 * 16 + slice % 32 / 2

/-- The local node number (22 R513). -/
def nodeOf (pa : Nat) : Nat := nbits pa 41 11
def isLocal (s : State) (pa : Nat) : Bool := nodeOf pa == s.root.node

/-- First offset of the control windows in the near class, and the whole of the range they take (22 R507). -/
def winBase : Nat := 0xFFC0000000
def inWinRange (pa : Nat) : Bool := nbit pa 40 && decide (nbits pa 0 40 ≥ winBase)

/-- A block that memory answered is not installed once another fill of it is: the request looks again. -/
def cancelFetch (s : State) (pid atag vb : Nat) : State :=
  { s with reqs := s.reqs.map (fun e =>
      match e.2.stage with
      | .fetched _ =>
        if e.2.part = pid ∧ e.2.va.toNat / 128 = vb ∧ (e.2.va.getLsbD 56 ∨ e.2.asid = atag) then
          (e.1, { e.2 with stage := .toHome })
        else e
      | _ => e) }

/-- A filled block put into its slice; one that its part of the set can never hold is served and not retained (13 R364). -/
def l2Place (s : State) (slice : Nat) (b : L2Block) (asLru : Bool) : State × L2Block :=
  if tooBig s b then serveOnce s slice b else (l2Install s slice b asLru, b)

/-- A block from DRAM installed in its home with the attributes of its leaf; an access through an automatic-promotion leaf
that activated a far row asks for its promotion (04 R82, R94, 18 R479, R484). -/
def installBlock (s : State) (slice pid atag vb pa : Nat) (lf : Leaf) (blk : PBlock) (asLru : Bool) : L2Block × State :=
  let b : L2Block :=
    { pid := pid, atag := atag, vb := vb, pa := pa / 128, blk := blk, sp := [], lv := 3, dirty := false, rd := lf.rd,
      wr := lf.wr, ex := lf.ex, comp := lf.comp, pol := lf.pol, gen := slGen s pid, win := inWindow s pid pa }
  let s := cancelFetch s pid atag vb
  let (s, b) := l2Place s slice b (asLru || lf.pol == 2)
  match locate s pid (nbits pa 0 41) with
  | some l =>
    if lf.apl ≠ 0 ∧ l.row ≥ 1024 ∧ !chanDraining s l.chan then
      (b, { s with dram := { s.dram with autoq := s.dram.autoq ++ [(l.chan, l.bank, l.row, lf.apl - 1)] } })
    else (b, s)
  | none => (b, s)

/-- A block read at its bank for a slice, over the links between their dies; a reserved tag is an uncorrectable block
(01 R13, 02 R36, 03 R58, R68). -/
def fetchBlock (s : State) (slice : Nat) (l : Loc) (pa : Nat) : Except AccErr PBlock × State :=
  let s := cross s (dieOfSlice slice) (dieOfChan l.chan) (headAt pa) .none
  match dramRead s l with
  | (.error e, s) => (.error e, s)
  | (.ok b, s) =>
    if (decodeBlock b).isNone then (.error .dataError, s)
    else (.ok b, cross s (dieOfChan l.chan) (dieOfSlice slice) (headAt pa) (.block b))

/-- The block of a physical address fetched from DRAM with these attributes and installed in its home (04 R82, 18 R479). -/
def fillFrom (s : State) (slice pid atag vb pa : Nat) (lf : Leaf) : Except AccErr L2Block × State :=
  match locate s pid (nbits pa 0 41) with
  | none => (.error (.fault .physRange), s)
  | some l =>
    match fetchBlock s slice l pa with
    | (.error e, s) => (.error e, s)
    | (.ok blk, s) => let (b, s) := installBlock s slice pid atag vb pa lf blk false; (.ok b, s)

/-- A block of a partition moved from its old home to its new one, which asks for it over the link between their dies (01 R13,
18 R479, R480); the flag says whether it was there. -/
def moveBlock (s : State) (p atag vb : Nat) : Bool × State :=
  match oldHome s p vb atag, homeSlice s p vb atag with
  | some o, some h =>
    let probe := fun (l : Load) => cross (cross s (dieOfSlice h) (dieOfSlice o) (headAt (vb * 128)) .none) (dieOfSlice o) (dieOfSlice h)
      (headAt (vb * 128)) l
    match l2Find s o p atag vb with
    | some b =>
      if o = h then (true, setL2 s (l2Key h vb) ((getD [] s.l2 (l2Key h vb)).map (fun x =>
        if isBlock p atag vb x then { x with gen := slGen s p } else x)))
      else
        let s := l2Drop (probe (.block b.blk)) o p atag vb
        (true, l2Install s h { b with gen := slGen s p } false)
    | none => (false, if o = h then s else probe .none)
  | _, _ => (false, s)

/-- The block as its home holds it now, moved there first where the old home still has it. -/
def homeHit (s : State) (p atag vb : Nat) : Option (Nat × L2Block) × State :=
  match homeSlice s p vb atag with
  | none => (none, s)
  | some h =>
    match l2Find s h p atag vb with
    | some b => (some (h, b), s)
    | none =>
      match moveBlock s p atag vb with
      | (true, s) => ((l2Find s h p atag vb).map (fun b => (h, b)), s)
      | (false, s) => (none, s)

/-- The leaf that stands for the physical aperture (04 R75). -/
def apertureLeaf (s : State) (va : VA) : Leaf :=
  { vbase := 0, size := 0, pbase := s.root.node * 2 ^ 41 + nbits va.toNat 0 41, apl := 0, comp := false, pol := 0,
    ex := false, wr := true, rd := true }

/-- The aperture address of a local physical address (04 R75). -/
def apertureVA (pa : Nat) : VA := BitVec.ofNat 57 (3 * 2 ^ 55 + nbits pa 0 41)

/-- The block of an aperture address at its home, filled where it is absent. -/
def apertureBlock (s : State) (p : Nat) (va : VA) : Except AccErr (Nat × L2Block) × State :=
  let vb := va.toNat / 128
  match homeHit s p 0 vb with
  | (some x, s) => (.ok x, s)
  | (none, s) =>
    match homeSlice s p vb 0 with
    | none => (.error (.fault .physRange), s)
    | some h =>
      let pa := nbits va.toNat 0 41
      if nbits va.toNat 41 14 ≠ 0 ∨ inWinRange pa then (.error (.fault .physRange), s)
      else match fillFrom s h p 0 vb (s.root.node * 2 ^ 41 + pa / 128 * 128) (apertureLeaf s va) with
        | (.ok b, s) => (.ok (h, b), s)
        | (.error e, s) => (.error e, s)

/-- The 8-byte read of a walker at an aperture address, from the die of its unit, after the writes that have reached the block; an
address that is not local or not in the partition is a FORMAT fault (01 R12, R13, 04 R91). -/
def read8 (s : State) (die p pa : Nat) : Except AccErr Nat × State :=
  if nodeOf pa ≠ s.root.node ∨ (locate s p (nbits pa 0 41)).isNone then (.error (.fault .format), s)
  else match apertureBlock s p (apertureVA pa) with
    | (.error e, s) => (.error e, s)
    | (.ok (h, b), s) =>
      let (s, b) := settleBlock (cross s die (dieOfSlice h) (headAt pa) .none) h b
      match blockBytes b with
      | .error e => (.error e, cross s (dieOfSlice h) die (headAt pa) .none)
      | .ok bs => (.ok (leAt bs (pa % 128) 8), cross s (dieOfSlice h) die (headAt pa) (.bytes (sliceBytes bs (pa % 128) 8)))

/-- The die of a translation unit: sixteen on each compute die (01 R12, 04 R89). -/
def dieOfUnit (u : Nat) : Nat := u / 16

/-- Index of a level of the tables (04 R91). -/
def levelIx (va lv : Nat) : Nat :=
  if lv = 0 then nbits va 48 9 else if lv = 1 then nbits va 39 9 else if lv = 2 then nbits va 30 9
  else if lv = 3 then nbits va 21 9 else nbits va 16 5

/-- The page size of a level (04 R91). -/
def levelSize (lv : Nat) : Nat := if lv = 2 then 2 ^ 30 else if lv = 3 then 2 ^ 21 else 2 ^ 16

/-- The leaf rules of 04 R93. -/
def leafOk (e lv va : Nat) : Bool :=
  let size := nbits e 61 2
  let addr := nbits e 8 44 * 256
  ((lv == 2 && size == 3) || (lv == 3 && size == 2) || (lv == 4 && size == 1)) &&
  addr % levelSize lv == 0 && nbits e 0 8 == 0 && nbits e 55 2 != 3 &&
  (!nbit e 53 || nbit e 52) && nbit e 58 == nbit va 56 && (nbits e 59 2 == 0 || !nbit addr 40)

/-- The leaf an entry gives (04 R92). -/
def leafOf (e lv va : Nat) : Leaf :=
  { vbase := va / levelSize lv * levelSize lv, size := levelSize lv, pbase := nbits e 8 44 * 256, apl := nbits e 59 2,
    comp := nbit e 57, pol := nbits e 55 2, ex := nbit e 54, wr := nbit e 53, rd := nbit e 52 }

/-- The address bits that name the table below a level. -/
def levelPre (va lv : Nat) : Nat :=
  if lv = 0 then va / 2 ^ 48 else if lv = 1 then va / 2 ^ 39 else if lv = 2 then va / 2 ^ 30 else va / 2 ^ 21

/-- The table that a cached non-leaf entry names (04 R89). -/
def cachedTable (s : State) (u p atag va lv : Nat) : Option Nat :=
  (getD [] s.wcache u).find? (fun e => e.pid == p && e.atag == atag && e.lv == lv && e.pre == levelPre va lv)
    |>.map (·.table)

/-- A non-leaf entry cached; the spec gives the walk cache no size, and the model none (log 65). -/
def cacheTable (s : State) (u : Nat) (e : WalkEntry) : State :=
  { s with wcache := put s.wcache u (e :: getD [] s.wcache u) }

/-- The levels of a walk from level `lv` at table `t` (04 R91), `n` levels left. -/
def walkFrom (s : State) (u p atag va : Nat) : Nat → Nat → Nat → Except AccErr Leaf × State
  | 0, _, _ => (.error (.fault .format), s)
  | n + 1, lv, t =>
    match (if lv < 4 then cachedTable s u p atag va lv else none) with
    | some t' => walkFrom s u p atag va n (lv + 1) t'
    | none =>
      match read8 s (dieOfUnit u) p (t + 8 * levelIx va lv) with
      | (.error e, s) => (.error e, s)
      | (.ok e, s) =>
        if !nbit e 63 then (.error (.fault .notMapped), s)
        else if nbits e 61 2 = 0 then
          if lv = 4 ∨ nbits e 52 9 ≠ 0 ∨ nbits e 0 8 ≠ 0 ∨ (lv < 3 ∧ nbits e 8 4 ≠ 0) then (.error (.fault .format), s)
          else
            let t' := nbits e 8 44 * 256
            walkFrom (cacheTable s u ⟨p, atag, lv, levelPre va lv, t'⟩) u p atag va n (lv + 1) t'
        else if leafOk e lv va then (.ok (leafOf e lv va), s)
        else (.error (.fault .format), s)

/-- The walk of a missing translation by unit `u` (04 R90, R91). -/
def walk (s : State) (u p atag va : Nat) : Except AccErr Leaf × State :=
  let cx := getD 0#64 s.root.cxtb p
  if !wbit cx 63 then (.error (.fault .notMapped), s)
  else match read8 s (dieOfUnit u) p (fld cx 15 37 * 32768 + 8 * atag) with
    | (.error e, s) => (.error e, s)
    | (.ok ce, s) =>
      if !nbit ce 63 then (.error (.fault .notMapped), s)
      else if nbits ce 52 11 ≠ 0 ∨ nbits ce 0 12 ≠ 0 then (.error (.fault .format), s)
      else walkFrom s u p atag va 5 0 (nbits ce 12 40 * 4096)

/-- The TLB entry of a unit that serves an address (04 R89, R95). -/
def tlbFind (s : State) (u p atag va : Nat) : Option Leaf :=
  (getD [] s.tlb u).find? (fun e => e.pid == p && e.atag == atag && decide (e.leaf.vbase ≤ va) &&
    decide (va < e.leaf.vbase + e.leaf.size)) |>.map (·.leaf)

/-- A translation put into a TLB of 4,096 entries; of a full one the entry put in longest ago leaves (04 R89, log 65). -/
def tlbAdd (s : State) (u p atag : Nat) (lf : Leaf) : State :=
  { s with tlb := put s.tlb u ((⟨p, atag, lf⟩ :: getD [] s.tlb u).take 4096) }

/-- A translation by the unit of a home slice: from its TLB, or by a walk that fills it (04 R89, R91). -/
def translate (s : State) (slice p atag va : Nat) : Except AccErr Leaf × State :=
  let u := xlatUnit slice
  match tlbFind s u p atag va with
  | some lf => (.ok lf, s)
  | none =>
    match walk s u p atag va with
    | (.ok lf, s) => (.ok lf, tlbAdd s u p atag lf)
    | (.error e, s) => (.error e, s)

/-- The physical address that a leaf gives (04 R92). -/
def leafPA (lf : Leaf) (va : Nat) : Nat := lf.pbase + (va - lf.vbase)

/-- Where an access finds its bytes: a block at its home slice, memory of another node, or a control window (22 R507). -/
inductive Target where
  | block (slice : Nat) (b : L2Block)
  | remote (node pa : Nat) (lf : Leaf)
  | window (part off : Nat)
deriving DecidableEq, Repr

/-- Who makes an access: partition, ASID, path, whether the aperture is open to it besides (04 R75), the core it comes
from or the fabric port it arrived on, if any, and whether it keeps blocks packed (03 R69). -/
structure Who where
  part : Nat
  asid : Nat
  path : Path
  ap : Bool
  core : Option Nat := none
  port : Option Nat := none
  packed : Bool := false
deriving DecidableEq, Repr

/-- The die that an access comes from and its answer goes to: its core's, its port's, or the frame die for Cameo, the Ethernet port
and the device itself (01 R12, R13, log 63). -/
def Who.die (w : Who) : Option Nat :=
  match w.core, w.port, w.path with
  | some c, _, _ => some (dieOfCore c)
  | none, some i, _ => some (dieOfPort i)
  | none, none, .D | none, none, .H => some dieFD
  | none, none, _ => none

/-- An access and its answer cross the links between its die and its home slice's (01 R13). -/
def crossings (s : State) (w : Who) (slice : Nat) (va : VA) (out back : Load) : State :=
  match w.die with
  | none => s
  | some d =>
    let s := cross s d (dieOfSlice slice) (headAt va.toNat) out
    cross s (dieOfSlice slice) d (headAt va.toNat) back

/-- An access and its answer cross to the home slice of an address and back. -/
def toAndFro (s : State) (w : Who) (va : VA) (out back : Load) : State :=
  match homeSlice s w.part (va.toNat / 128) (atagOf w.asid va) with
  | some h => crossings s w h va out back
  | none => s

/-- How a home slice answers a read of bytes of a block: Cameo's fetch stage, a copy that keeps blocks packed and a peer that reads
a whole block receive it as it is held, every other reader expanded bytes (01 R23, 03 R68, R69). -/
def answerAs (w : Who) (b : L2Block) (bs : List Byte) : Load :=
  if w.path = .D ∨ w.packed = true ∨ (w.path = .F ∧ bs.length = 128) then .block b.blk else .bytes bs

/-- The bytes of a write as they travel to a home slice: a whole block goes packed where its writer keeps blocks packed
(03 R66, R69). -/
def Who.sends (w : Who) (bs : List Byte) : Load := if w.packed ∧ bs.length = 128 then .block (encodeBlock bs) else .bytes bs

/-- The target of an access at its home slice, every miss served in the same step (04 R75, R82, R84, 22 R507). -/
def homeTarget (s : State) (w : Who) (va : VA) : Except AccErr Target × State :=
  if regionOf va = .aperture then
    if !(w.ap || w.asid == 0) then (.error (.fault .permission), s)
    else if nbits va.toNat 41 14 ≠ 0 then (.error (.fault .physRange), s)
    else if inWinRange (nbits va.toNat 0 41) then
      let o := nbits va.toNat 0 40 - winBase
      if w.path = .L ∧ o / 65536 = w.part ∧ o < 0x100000 then (.ok (.window w.part (o % 65536)), s)
      else (.error (.fault .physRange), s)
    else match apertureBlock s w.part va with
      | (.ok (h, b), s) => (.ok (.block h b), s)
      | (.error e, s) => (.error e, s)
  else
    let atag := atagOf w.asid va
    let vb := va.toNat / 128
    match homeHit s w.part atag vb with
    | (some (h, b), s) => (.ok (.block h b), s)
    | (none, s) =>
      match homeSlice s w.part vb atag with
      | none => (.error (.fault .physRange), s)
      | some h =>
        match translate s h w.part atag va.toNat with
        | (.error e, s) => (.error e, s)
        | (.ok lf, s) =>
          let pa := leafPA lf va.toNat
          if !isLocal s pa then (.ok (.remote (nodeOf pa) pa lf), s)
          else if inWinRange (nbits pa 0 41) then (.error (.fault .physRange), s)
          else match fillFrom s h w.part atag vb (pa / 128 * 128) lf with
            | (.ok b, s) => (.ok (.block h b), s)
            | (.error e, s) => (.error e, s)

/-- Where a write of a whole block replaces one that memory can't give: its home slice, address and leaf. The write needs W,
and the metadata block that covers it (02 R51, 03 R58, R65). -/
def replaceSite (s : State) (w : Who) (va : VA) : Except AccErr (Nat × Nat × Leaf) × State :=
  let atag := atagOf w.asid va
  match homeSlice s w.part (va.toNat / 128) atag with
  | none => (.error (.fault .physRange), s)
  | some h =>
    match (if regionOf va = .aperture then (.ok (apertureLeaf s va), s) else translate s h w.part atag va.toNat) with
    | (.error e, s) => (.error e, s)
    | (.ok lf, s) =>
      let pa := if regionOf va = .aperture then s.root.node * 2 ^ 41 + nbits va.toNat 0 41 else leafPA lf va.toNat
      match locate s w.part (nbits pa 0 41) with
      | none => (.error (.fault .physRange), s)
      | some l =>
        if !lf.wr then (.error (.fault .permission), s)
        else if packEn s l.chan then
          match readTag s l with
          | (.ok _, s) => (.ok (h, pa / 128 * 128, lf), s)
          | (.error e, s) => (.error e, s)
        else (.ok (h, pa / 128 * 128, lf), s)

/-- The target of a write: as `homeTarget`, but a write of the whole block does not need what the block held (02 R51). -/
def writeTarget (s : State) (w : Who) (va : VA) (full : Bool) : Except AccErr Target × State :=
  match homeTarget s w va with
  | (.error .dataError, s) =>
    if !full then (.error .dataError, s)
    else match replaceSite s w va with
      | (.error e, s) => (.error e, s)
      | (.ok (h, pa, lf), s) =>
        let (b, s) := installBlock s h w.part (atagOf w.asid va) (va.toNat / 128) pa lf ⟨15, zeroBlock⟩ false
        (.ok (.block h b), s)
  | r => r

/-- What an access needs of the block tag (04 R85). -/
inductive Need where
  | rd | wr | rw | ex
deriving DecidableEq, Repr

def permits (rd wr ex : Bool) : Need → Bool
  | .rd => rd
  | .wr => wr
  | .rw => rd && wr
  | .ex => ex

/-- A block made the most recently used of its set. -/
def touch (s : State) (slice : Nat) (b : L2Block) : State :=
  if b.pol = 2 then s
  else
    let k := l2Key slice b.vb
    setL2 s k ((getD [] s.l2 k).filter (fun x => !isBlock b.pid b.atag b.vb x) ++
      (getD [] s.l2 k).filter (isBlock b.pid b.atag b.vb))

/-- A block replaced by new bytes (03 R70). -/
def l2Replace (s : State) (slice : Nat) (b : L2Block) (bytes : List Byte) : State :=
  l2Install s slice (rewritten s b bytes) (b.pol == 2)

/-- How another node answers an access of this number: it serves it, or refuses it with PHYS_RANGE, or fails it with a data error
(22 R513, R515, log 13). -/
def peerVerdict (n pa : Nat) : Option AccErr :=
  let v := Config.peerAnswer n pa % 3
  if v = 0 then none else if v = 1 then some (.fault .physRange) else some .dataError

/-- An access forwarded by its home slice to another node: what it carries there and what comes back; served with `v`, or refused. -/
def farAccess {α : Type} (s : State) (w : Who) (va : VA) (node pa : Nat) (out back : Load) (v : α) : Except AccErr α × State :=
  if !reachable s node then (.error .dataError, toAndFro s w va out .none)
  else
    let die := ((homeSlice s w.part (va.toNat / 128) (atagOf w.asid va)).map dieOfSlice).getD dieFD
    match peerVerdict s.tick pa with
    | some e => (.error e, sendFabric (toAndFro s w va out .none) die w.part node (va.toNat / 128) (headAt pa) out)
    | none => (.ok v, sendFabric (toAndFro s w va out back) die w.part node (va.toNat / 128) (headAt pa) out)

/-- Bytes of another node's memory as the fabric answers them (22 R513, log 13). -/
def remoteBytes (s : State) (pa n : Nat) : List Byte := (upto n).map (fun i => Config.remoteByte s.tick (pa + i))

/-- A read of at most 128 bytes inside one block at the home slice (04 R85, 03 R71). A read of a control window that is no load of
a register reads zero (22 R507). -/
def homeRead (s : State) (w : Who) (need : Need) (va : VA) (n : Nat) : Except AccErr (List Byte) × State :=
  match homeTarget s w va with
  | (.error e, s) => (.error e, toAndFro s w va .none .none)
  | (.ok (.window _ _), s) => (.ok (List.replicate n 0#8), s)
  | (.ok (.remote node pa lf), s) =>
    if !permits lf.rd lf.wr lf.ex need then (.error (.fault .permission), toAndFro s w va .none .none)
    else
      let bs := remoteBytes s pa n
      farAccess s w va node pa .none (.bytes bs) bs
  | (.ok (.block h b), s) =>
    if !permits b.rd b.wr b.ex need then (.error (.fault .permission), toAndFro s w va .none .none)
    else match blockBytes b with
      | .error e => (.error e, toAndFro s w va .none .none)
      | .ok bs =>
        let out := sliceBytes bs (va.toNat % 128) n
        (.ok out, touch (crossings s w h va .none (answerAs w b out)) h b)

/-- A read-modify-write of bytes inside one block under its home lock (03 R70, R71): `f` gives the new bytes and a result. A write
of a control window that is no store of a register is ignored, and what also reads is refused there (22 R507). -/
def homeRmw {α : Type} (s : State) (w : Who) (need : Need) (va : VA) (n : Nat) (own : List Nat)
    (f : List Byte → List Byte × α) : Except AccErr α × State :=
  let given := f (List.replicate n 0#8)
  let refuse := fun (e : AccErr) (s : State) => (Except.error e, toAndFro s w va (w.sends given.1) .none)
  match writeTarget s w va (n = 128) with
  | (.error e, s) => refuse e s
  | (.ok (.window _ _), s) => if need = .wr then (.ok given.2, s) else (.error (.fault .permission), s)
  | (.ok (.remote node pa lf), s) =>
    if !permits lf.rd lf.wr lf.ex need then refuse (.fault .permission) s
    else
      let (new, r) := f (remoteBytes s pa n)
      farAccess s w va node pa (w.sends new) .none r
  | (.ok (.block h b), s) =>
    if !permits b.rd b.wr b.ex need then refuse (.fault .permission) s
    else match (if n = 128 then .ok zeroBlock else blockBytes b) with
      | .error e => refuse e s
      | .ok bs =>
        let (new, r) := f (sliceBytes bs (va.toNat % 128) n)
        let s := crossings s w h va (w.sends new) .none
        let s := l2Replace s h b (patchBytes bs (va.toNat % 128) (new.take (128 - va.toNat % 128)))
        (.ok r, clearResv s b.pid b.atag va.toNat n own)

/-- A write of at most 128 bytes inside one block (03 R70, 04 R85). -/
def homeWrite (s : State) (w : Who) (va : VA) (bytes : List Byte) : Except AccErr Unit × State :=
  homeRmw s w .wr va bytes.length [] (fun _ => (bytes, ()))

/-- A read of `n` bytes that may cross blocks, block by block; `k` bounds the blocks. -/
def readSpan (s : State) (w : Who) (need : Need) (va : VA) : Nat → Nat → Except AccErr (List Byte) × State
  | _, 0 => (.ok [], s)
  | n, k + 1 =>
    if n = 0 then (.ok [], s)
    else
      let m := min n (128 - va.toNat % 128)
      match homeRead s w need va m with
      | (.error e, s) => (.error e, s)
      | (.ok bs, s) =>
        match readSpan s w need (va + BitVec.ofNat 57 m) (n - m) k with
        | (.error e, s) => (.error e, s)
        | (.ok cs, s) => (.ok (bs ++ cs), s)

/-- A write of bytes that may cross blocks, block by block. -/
def writeSpan (s : State) (w : Who) (va : VA) : List Byte → Nat → Except AccErr Unit × State
  | _, 0 => (.ok (), s)
  | bs, k + 1 =>
    if bs.isEmpty then (.ok (), s)
    else
      let m := min bs.length (128 - va.toNat % 128)
      match homeWrite s w va (bs.take m) with
      | (.error e, s) => (.error e, s)
      | (.ok _, s) => writeSpan s w (va + BitVec.ofNat 57 m) (bs.drop m) k

/-- Blocks that a range touches, at most. -/
def spanBlocks (n : Nat) : Nat := n / 128 + 2

def readN (s : State) (w : Who) (va : VA) (n : Nat) : Except AccErr (List Byte) × State :=
  readSpan s w .rd va n (spanBlocks n)

def writeN (s : State) (w : Who) (va : VA) (bs : List Byte) : Except AccErr Unit × State :=
  writeSpan s w va bs (spanBlocks bs.length)

/-- The device's own access of a structure at a physical address: through the aperture where the address is local, over the
fabric where it names another node, a data error where that node can't be reached (01 R22, 04 R88, R91, 17 R463). DESIGN CHOICE: it
stands on path H and comes from the frame die, for 01 R24 names no agent for it (log 63). -/
def devWho (p : Nat) : Who := { part := p, asid := 0, path := .H, ap := true }

/-- An access of the device to another node. -/
def devFar {α : Type} (s : State) (p pa : Nat) (out : Load) (v : α) : Except AccErr α × State :=
  if !reachable s (nodeOf pa) then (.error .dataError, s)
  else
    let t := sendFabric s dieFD p (nodeOf pa) (pa / 128) (headAt pa) out
    match peerVerdict s.tick pa with
    | some e => (.error e, t)
    | none => (.ok v, t)

def readPA (s : State) (p pa n : Nat) : Except AccErr (List Byte) × State :=
  if isLocal s pa then readN s (devWho p) (apertureVA pa) n else devFar s p pa .none (remoteBytes s pa n)
def writePA (s : State) (p pa : Nat) (bs : List Byte) : Except AccErr Unit × State :=
  if isLocal s pa then writeN s (devWho p) (apertureVA pa) bs else devFar s p pa (.bytes bs) ()

/-! ### Core-side caches -/

def isLine (p atag line : Nat) (l : CLine) : Bool := l.pid == p && l.atag == atag && l.line == line

def lineFind (c : List CLine) (p atag line : Nat) : Option CLine := c.find? (isLine p atag line)

/-- A line put first in its cache, the set cut to its ways (04 R76). -/
def lineAdd (c : List CLine) (ways : Nat) (l : CLine) : List CLine :=
  let rest := c.filter (fun x => !isLine l.pid l.atag l.line x)
  let mine := rest.filter (fun x => x.line % 256 == l.line % 256)
  l :: rest.filter (fun x => x.line % 256 != l.line % 256 || (mine.take (ways - 1)).contains x)

/-- A hit line made the most recently used. -/
def lineTouch (c : List CLine) (l : CLine) : List CLine := l :: c.filter (fun x => !isLine l.pid l.atag l.line x)

/-- Which of the two fetch caches a fetch on path C uses (04 R76). -/
inductive FetchKind where
  | const | inst
deriving DecidableEq, Repr

def cacheOf (c : Core) : FetchKind → List CLine
  | .const => c.kc
  | .inst => c.ic
def setCache (c : Core) (k : FetchKind) (l : List CLine) : Core :=
  match k with
  | .const => { c with kc := l }
  | .inst => { c with ic := l }

/-- A fetch on path C of bytes inside one 64-byte line: a hit, or a fill from the home slice that needs RD or X
(04 R75, R76, R78, R79). -/
def fetchC (s : State) (core part asid : Nat) (k : FetchKind) (va : VA) (n : Nat) : Except AccErr (List Byte) × State :=
  let atag := atagOf asid va
  let line := va.toNat / 64
  let c := coreOf s core
  if regionOf va = .aperture ∧ asid ≠ 0 then (.error (.fault .permission), s)
  else match lineFind (cacheOf c k) part atag line with
  | some l => (.ok (sliceBytes l.bytes (va.toNat % 64) n), setCore s core (setCache c k (lineTouch (cacheOf c k) l)))
  | none =>
    let need : Need := if k = .const then .rd else .ex
    match homeRead s { part := part, asid := asid, path := .C, ap := false, core := some core } need (BitVec.ofNat 57 (line * 64)) 64 with
    | (.error e, s) => (.error e, s)
    | (.ok bs, s) =>
      let ways := if k = .const then 4 else 8
      let l : CLine := { pid := part, atag := atag, line := line, sv := 3, rd := k == .const, wr := false, ex := k == .inst, bytes := bs }
      (.ok (sliceBytes bs (va.toNat % 64) n),
        modCore s core (fun c => setCache c k (lineAdd (cacheOf c k) ways l)))

/-- A fetch that may cross lines, 64 bytes at a time. -/
def fetchSpan (s : State) (core part asid : Nat) (k : FetchKind) (va : VA) : Nat → Nat → Except AccErr (List Byte) × State
  | _, 0 => (.ok [], s)
  | n, j + 1 =>
    if n = 0 then (.ok [], s)
    else
      let m := min n (64 - va.toNat % 64)
      match fetchC s core part asid k va m with
      | (.error e, s) => (.error e, s)
      | (.ok bs, s) =>
        match fetchSpan s core part asid k (va + BitVec.ofNat 57 m) (n - m) j with
        | (.error e, s) => (.error e, s)
        | (.ok cs, s) => (.ok (bs ++ cs), s)

/-- Every line of a core's L1 invalidated, data in flight filling none (10 R260). -/
def invalidateL1 (s : State) (core : Nat) : State :=
  let s := modCore s core (fun c => { c with l1 := [] })
  { s with reqs := s.reqs.map (fun e => if e.2.core = core then (e.1, { e.2 with noFill := true }) else e) }

end Sys2Proof.Machine
end

