-- ==== Sys2Proof/Machine/Window.lean ====
section
/-! DEFINITION. Machine/Window.lean: the registers of a partition's control window by their offsets (22 R508), and the
notification buffer (18 R490 to R494). -/

namespace Sys2Proof.Machine

/-- Offsets of the registers of a control window (22 R508). -/
def oMQBASE : Nat := 0x0000
def oMQCTL : Nat := 0x0008
def oMQTAIL : Nat := 0x000C
def oMQHEAD : Nat := 0x0010
def oFBBASE : Nat := 0x0040
def oFBCTL : Nat := 0x0048
def oFBTAIL : Nat := 0x004C
def oFBHEAD : Nat := 0x0050
def oRESUME : Nat := 0x0080
def oPRECTL : Nat := 0x0088
def oPRESTAT : Nat := 0x0090
def oSVBASE : Nat := 0x00C0
def oSVCTL : Nat := 0x00C8
def oNQADDR : Nat := 0x0100
def oNQCTL : Nat := 0x0108
def oNQTAIL : Nat := 0x0110
def oNQHEAD : Nat := 0x0114
def oNQCOAL : Nat := 0x0118
def oNQDROP : Nat := 0x011C
def oLQBASE (q : Nat) : Nat := 0x0200 + 64 * q
def oLQCTL (q : Nat) : Nat := 0x0208 + 64 * q
def oLQTAIL (q : Nat) : Nat := 0x020C + 64 * q
def oLQHEAD (q : Nat) : Nat := 0x0210 + 64 * q
def oLQCDONE (q : Nat) : Nat := 0x0214 + 64 * q
def oLQPDONE (q : Nat) : Nat := 0x0218 + 64 * q
def oLQSTAT (q : Nat) : Nat := 0x021C + 64 * q
def oHDCFG (h : Nat) : Nat := 0x2000 + 64 * h
def oNHDEST (n : Nat) : Nat := 0x2400 + 32 * n
def oQPBASE : Nat := 0x3000
def oQPCTL : Nat := 0x3008
def oEPINFO : Nat := 0x3010
def oATTNONCE : Nat := 0x3040
def oATTREQ : Nat := 0x3060

/-- A 32-bit register of a window. -/
def Part.w32 (p : Part) (off : Nat) : Nat := (getD 0#32 p.win (off / 4)).toNat
def Part.setW32 (p : Part) (off v : Nat) : Part := { p with win := setD 0#32 p.win (off / 4) (BitVec.ofNat 32 v) }

/-- A 64-bit register of a window, its low word at its offset. -/
def Part.w64 (p : Part) (off : Nat) : Nat := p.w32 off + 2 ^ 32 * p.w32 (off + 4)
def Part.setW64 (p : Part) (off v : Nat) : Part := (p.setW32 off v).setW32 (off + 4) (v / 2 ^ 32)

def win32 (s : State) (p off : Nat) : Nat := (partOf s p).w32 off
def win64 (s : State) (p off : Nat) : Nat := (partOf s p).w64 off
def setWin32 (s : State) (p off v : Nat) : State := modPart s p (fun x => x.setW32 off v)
def setWin64 (s : State) (p off v : Nat) : State := modPart s p (fun x => x.setW64 off v)

/-- `a - b` modulo 2^32. -/
def sub32 (a b : Nat) : Nat := (a + 2 ^ 32 - b % 2 ^ 32) % 2 ^ 32

/-- `a + b` modulo 2^32. -/
def add32 (a b : Nat) : Nat := (a + b) % 2 ^ 32

/-- `x exceeds y` in serial order (16 R423). -/
def exceeds32 (x y : Nat) : Bool := decide (1 ≤ sub32 x y) && decide (sub32 x y ≤ 2 ^ 31 - 1)

/-- A notification entry put in the buffer of 1,024, a CAMEO entry dropped when the buffer is full and any other kept at its
producer, behind those in the buffer (18 R493, R494). -/
def pushNote (s : State) (part typ asid arg0 arg1 : Nat) : State :=
  modPart s part (fun p =>
    if typ = 5 ∧ p.notif.length ≥ 1024 then p.setW32 oNQDROP (add32 (p.w32 oNQDROP) 1)
    else { p with notif := p.notif ++ [{ typ := typ, asid := asid, arg0 := arg0, arg1 := arg1, since := p.clock }] })

end Sys2Proof.Machine
end

