-- ==== Sys2Proof/Machine/Grids.lean ====
section
/-! DEFINITION. Machine/Grids.lean: grids from dispatch to completion, and their abort (16 R425, R431; 17 R453; 18 R492). -/

namespace Sys2Proof.Machine

/-- The group in a slot of a core. -/
def groupAt (s : State) (core g : Nat) : Option Group := lookup (coreOf s core).groups g
def modGroup (s : State) (core g : Nat) (f : Group → Group) : State :=
  modCore s core (fun c => { c with groups := adjust c.groups g f })

/-- The warp in a slot of a core. -/
def warpAt? (s : State) (core ws : Nat) : Option Warp := lookup (coreOf s core).warps ws
def modWarp (s : State) (core ws : Nat) (f : Warp → Warp) : State :=
  modCore s core (fun c => { c with warps := adjust c.warps ws f })

/-- Warp slots that a group occupies. -/
def groupWarps (c : Core) (g : Nat) : List Nat := (c.warps.filter (fun e => e.2.gslot == some g)).map (·.1)

/-- Groups of a neighbour set (16 R421, R429). -/
def LaunchRec.setSize (r : LaunchRec) : Nat := 2 ^ r.neigh

/-- Groups of one neighbour set (16 R429). -/
def sameSet (x y : Group) : Bool :=
  y.part == x.part && y.grid == x.grid && y.linear / y.rec_.setSize == x.linear / x.rec_.setSize

/-- The group-bound records of a group (16 R438). -/
def boundRecords (s : State) (core g : Nat) (x : Group) : List ContRec :=
  (coreOf s core).contq.filter (fun r => !r.loose && r.gslot == g) ++
  (match lookup (partOf s x.part).grids x.grid with
   | some gr => gr.spilled.filter (fun r => !r.loose && r.group == x.linear)
   | none => [])

/-- Every thread of a group has ended, those that its group-bound records still resume included (16 R431). -/
def threadsEnded (s : State) (core g : Nat) (x : Group) : Bool :=
  x.ended && (groupWarps (coreOf s core) g).isEmpty && (boundRecords s core g x).isEmpty

/-- The slot number that a request of no resident warp carries. -/
def noWarp : Nat := 64

/-- The requests of a warp go on without it: what was accepted is still performed (08 R209). -/
def orphanReqs (s : State) (core ws : Nat) : State :=
  { s with reqs := s.reqs.map (fun e =>
      if e.2.core = core ∧ e.2.wslot = ws then (e.1, { e.2 with wslot := noWarp }) else e) }

/-- The reservations of a warp's threads end (10 R278). -/
def clearWarpResv (s : State) (core ws : Nat) : State :=
  { s with resv := s.resv.filter (fun e => !(decide (threadKey core ws 0 ≤ e.1) && decide (e.1 < threadKey core (ws + 1) 0))) }

/-- Whether unit work belongs to a warp slot, and not to a continuation record. -/
def UnitOp.ofWarp (ws : Nat) : UnitOp → Bool
  | .tex w _ _ _ => w == ws
  | .texC _ _ => false
  | .ray _ _ => false
  | .promote w _ _ _ _ _ _ => w == ws
  | .pload w _ _ _ _ => w == ws

/-- A warp leaves its slot. -/
def dropWarp (s : State) (core ws : Nat) : State :=
  let s := clearWarpResv (orphanReqs s core ws) core ws
  modCore s core (fun c =>
    { c with warps := remove c.warps ws, units := c.units.filter (fun e => !e.2.op.ofWarp ws),
             slices := c.slices.map (fun e => (e.1, e.2.filter (fun q => q.wslot != ws))),
             xform := c.xform.filter (fun e => e.2.wslot != ws) })

/-- The name of an intersection kind slot of a grid on a core (13 R348). -/
def kindKey (part grid k : Nat) : Nat := (part * 2 ^ 32 + grid) * 8 + k

/-- Intersection slots are kept for grids with a group on the core (13 R348). -/
def dropKinds (c : Core) : Core :=
  { c with kinds := c.kinds.filter (fun k => c.groups.any (fun g => k.1 / 8 == g.2.part * 2 ^ 32 + g.2.grid)) }

/-- A group leaves its core with its warps and its group-bound continuation records. -/
def dropGroup (s : State) (core g : Nat) : State :=
  let s := (groupWarps (coreOf s core) g).foldl (fun s ws => dropWarp s core ws) s
  let s := modCore s core (fun c =>
    { c with groups := remove c.groups g, contq := c.contq.filter (fun r => r.loose || r.gslot != g),
             units := c.units.filter (fun e => e.2.gslot != some g) })
  modCore s core dropKinds

/-- CDONE and PDONE of a queue move over the records that have completed or been placed (16 R419, R425). -/
def advanceMarks (q : Nat) : Nat → Part → Part
  | 0, p => p
  | n + 1, p =>
    let pd := p.w32 (oLQPDONE q)
    let p := if (getD (false, false) p.marks (q * 2 ^ 32 + pd)).1 then p.setW32 (oLQPDONE q) (add32 pd 1) else p
    let cd := p.w32 (oLQCDONE q)
    let p := if (getD (false, false) p.marks (q * 2 ^ 32 + cd)).2 then
        { (p.setW32 (oLQCDONE q) (add32 cd 1)) with marks := remove p.marks (q * 2 ^ 32 + cd) } else p
    advanceMarks q n p

/-- A record of a queue counted as placed, or as completed besides. -/
def markRecord (p : Part) (q seq : Nat) (completed : Bool) : Part :=
  let p := { p with marks := put p.marks (q * 2 ^ 32 + seq) (true, completed) }
  advanceMarks q (p.marks.length + 1) p

/-- A child grid is no longer waited for, wherever its group stands (08 R219, 16 R431). -/
def forgetChild (s : State) (part uid : Nat) : State :=
  let s := { s with cores := s.cores.map (fun e => (e.1,
      { e.2 with
        groups := e.2.groups.map (fun g => (g.1, { g.2 with children := g.2.children.filter (· != uid) })),
        retire := e.2.retire.map (fun r => (r.1, { r.2 with children := r.2.children.filter (· != uid) })) })) }
  modPart s part (fun p => { p with slots := p.slots.map (fun e => (e.1, { e.2 with children := e.2.children.filter (· != uid) })) })

/-- A grid leaves the scheduler as completed: its queue record or its parent learns of it, and an entry names it when it
came from a queue or was aborted (16 R425, 17 R453, 18 R492). -/
def finishGrid (s : State) (part num : Nat) (g : Grid) (aborted : Bool) : State :=
  let s := modPart s part (fun p => { p with grids := remove p.grids num })
  match g.src with
  | some (q, seq) =>
    let s := modPart s part (fun p => markRecord p q seq true)
    pushNote s part (if aborted then 2 else 1) g.asid (q * 2 ^ 58 + seq)
      (num + (if aborted then g.haltPc.toNat * 2 ^ 64 else 0))
  | none =>
    let s := match g.parent with
      | some (pg, _) => modPart s part (fun p => { p with grids := adjust p.grids pg (fun x => { x with children := x.children - 1 }) })
      | none => s
    let s := forgetChild s part g.uid
    if aborted then pushNote s part 2 g.asid (2 ^ 57) (num + g.haltPc.toNat * 2 ^ 64) else s

/-- A group or free continuation warp of a core that is kept for its fatal halt, by slot (17 R453). -/
def groupKept (c : Core) (g : Nat) : Bool := (lookup c.groups g).any (fun x => x.saving == some 3)
def warpKept (c : Core) (ws : Nat) : Bool := (lookup c.warps ws).any (fun w => w.gslot.isNone && w.saving == some 3)

/-- Unit work that goes on for a unit kept for its halt: it completes and writes its destination (17 R452, R459). -/
def UnitJob.kept (c : Core) (u : UnitJob) : Bool :=
  match u.gslot with
  | some g => groupKept c g
  | none => c.warps.any (fun w => u.op.ofWarp w.1 && warpKept c w.1)

/-- Every group, free continuation warp, continuation record and unit work of a grid discarded, but for a group or warp
that is kept for its halt, with what belongs to it (17 R452, R453, R459). -/
def discardGrid (s : State) (part num : Nat) : State :=
  let s := s.cores.foldl (fun s e =>
    let c := e.2
    let gs := (c.groups.filter (fun g => g.2.part == part && g.2.grid == num && g.2.saving != some 3)).map (·.1)
    let ws := (c.warps.filter (fun w => w.2.gslot.isNone && w.2.part == part && w.2.grid == num &&
      w.2.saving != some 3)).map (·.1)
    let s := gs.foldl (fun s g => dropGroup s e.1 g) s
    let s := ws.foldl (fun s w => dropWarp s e.1 w) s
    modCore s e.1 (fun c =>
      { c with contq := c.contq.filter (fun r => !(r.part == part && r.grid == num) || (!r.loose && groupKept c r.gslot)),
               retire := c.retire.filter (fun r => !(r.2.part == part && r.2.grid == num)),
               units := c.units.filter (fun u => !(u.2.part == part && u.2.grid == num) || u.2.kept c) })) s
  modPart s part (fun p =>
    { p with slots := p.slots.filter (fun e => !(e.2.grid == num) || e.2.fatal),
             faults := p.faults.filter (fun r => r.grid != num) })

/-- The abort of a grid and of its children, dispatched or waiting (17 R453); `n` bounds the nesting (16 R426). -/
def abortGrid (part : Nat) : Nat → State → Nat → VA → State
  | 0, s, _, _ => s
  | n + 1, s, num, pc =>
    match lookup (partOf s part).grids num with
    | none => s
    | some g =>
      let s := discardGrid s part num
      let kids := ((partOf s part).grids.filter (fun e => match e.2.parent with | some (pg, _) => pg == num | none => false)).map (·.1)
      let s := kids.foldl (fun s k => abortGrid part n s k 0#57) s
      let s := modPart s part (fun p => { p with childq := p.childq.filter (fun c => c.parent != num) })
      finishGrid s part num { g with aborted := true, haltPc := pc } true

/-- Abort of a grid with every level of children (sr.depth is at most 10). -/
def abort (s : State) (part num : Nat) (pc : VA) : State := abortGrid part 12 s num pc

end Sys2Proof.Machine
end

