-- ==== Sys2Proof/Machine/Ops.lean ====
section
/-! DEFINITION. Machine/Ops.lean: the named operations of a warp: its registers, predicates and lanes (06 R137 to R149), the
imprecise log (17 R449 to R451), taking a trap and returning from it (17 R444 to R448), halts (17 R452), fault records
(04 R101 to R104) and the end of threads (08 R209, 16 R431). -/

namespace Sys2Proof.Machine

/-- The issue of an instruction: core, warp slot, lanes of the path, its PC, the first word, its length. -/
structure Iss where
  core : Nat
  wslot : Nat
  mask : Word
  pc : VA
  word : DWord
  len : Nat
deriving DecidableEq, Repr

/-- The issue that the step in progress performs. -/
def issOf (s : State) : Option Iss :=
  match s.cur with
  | .warp core wslot mask pc word len => some ⟨core, wslot, mask, pc, word, len⟩
  | _ => none

/-- A warp before any of its state is set; also what an empty slot reads as. -/
def Warp.blank : Warp :=
  { gslot := none, part := 0, asid := 0, grid := 0, sysDepth := 0, pri := 0, rec_ := LaunchRec.zero, quadrant := 0,
    isCont := false, windex := 0, lanes := [], vr := [], sr := [], qb := 0x80#8, tiles := [], proj := [], fil := [],
    trCause := 0, trPc := 0, trMask := 0, trElem := 0, trAddr := 0, trInst := 0, tba := 0, tem := 0, fplog := 0,
    clOpen := false, cmask := 0, hmode := false, hpc := 0, err := false, etile := 0, errPc := 0, errMore := [], rerun := 0, icount := 0,
    skid := 0, raisedHalt := false, imp := none, placedAt := 0, lastIssue := 0, yielded := false, infl := [], rows := [],
    stall := [], enqAt := none, trapPend := none, saving := none }

def warpAt (s : State) (core ws : Nat) : Warp := (warpAt? s core ws).getD Warp.blank

/-- The warp that issues. -/
def Iss.warp (x : Iss) (s : State) : Warp := warpAt s x.core x.wslot
def Iss.mod (x : Iss) (s : State) (f : Warp → Warp) : State := modWarp s x.core x.wslot f

/-! ### Registers -/

/-- A vector register of a lane (06 R137). -/
def vget (w : Warp) (lane n : Nat) : Word := getD 0#32 w.vr (lane * 256 + n)
def vset (w : Warp) (lane n : Nat) (v : Word) : Warp := { w with vr := setD 0#32 w.vr (lane * 256 + n) v }

/-- A uniform register, s0 to s62 (06 R137). -/
def sget (w : Warp) (n : Nat) : Word := getD 0#32 w.sr n
def sset (w : Warp) (n : Nat) (v : Word) : Warp := { w with sr := setD 0#32 w.sr n v }

/-- The word that a register number names in a lane: 255 reads zero (06 R137). DEDUCED: a uniform register has its one value also for
a lane without a thread in a clasp region (log 24). -/
def rread (w : Warp) (lane r : Nat) : Nat :=
  if r < 192 then (vget w lane r).toNat else if r < 255 then (sget w (r - 192)).toNat else 0

/-- The 64-bit value of a pair (06 R141). -/
def rread2 (w : Warp) (lane r : Nat) : Nat := if r = 255 then 0 else rread w lane r + 2 ^ 32 * rread w lane (r + 1)

/-- A word written to a register of a lane; 255 discards it, and a lane without a thread holds nothing (06 R137, 09 R254). -/
def rwrite (w : Warp) (lane r v : Nat) : Warp :=
  if r < 192 then (if (lookup w.lanes lane).isSome then vset w lane r (BitVec.ofNat 32 v) else w)
  else if r < 255 then sset w (r - 192) (BitVec.ofNat 32 v) else w

/-- Whether a register number is uniform as a source (06 R140). -/
def isUni (r : Nat) : Bool := decide (192 ≤ r)

/-! ### Predicates and guards -/

/-- The predicate byte of a lane; a lane without a thread supplies 0x80 (06 R143, 08 R211). -/
def pbyte (w : Warp) (lane : Nat) : Byte :=
  match lookup w.lanes lane with
  | some l => l.pb
  | none => 0x80#8

/-- The predicate that a predicate-select byte, or a guard, names in a lane (07 R166, 08 R189); number 7 of either file is
always true (06 R143). -/
def predRead (w : Warp) (lane sel : Nat) : Bool :=
  (sel % 8 == 7 || wbit (if nbit sel 3 then w.qb else pbyte w lane) (sel % 8)) != nbit sel 4

/-- A byte with bit `i` set to `b`. -/
def setBit8 (x : Byte) (i : Nat) (b : Bool) : Byte :=
  if b then x ||| BitVec.twoPow 8 i else x &&& ~~~(BitVec.twoPow 8 i)

/-- A predicate written; p7 and q7 discard it (06 R143). -/
def predWrite (w : Warp) (lane sel : Nat) (b : Bool) : Warp :=
  if sel % 8 = 7 then w
  else if nbit sel 3 then { w with qb := setBit8 w.qb (sel % 8) b }
  else { w with lanes := adjust w.lanes lane (fun l => { l with pb := setBit8 l.pb (sel % 8) b }) }

/-- Whether a guard is a p predicate (06 R140, 07 R166). -/
def guardP (g : BitVec 5) : Bool := !g.getLsbD 3 && g != 7#5

/-- The lanes of a path whose guard is true (07 R166). -/
def guarded (w : Warp) (mask : Word) (g : BitVec 5) : List Nat := (maskLanes mask).filter (fun l => predRead w l g.toNat)

/-- Whether a uniform execution passes its guard (06 R140). -/
def guardUni (w : Warp) (g : BitVec 5) : Bool := predRead w 0 g.toNat || g == 7#5

/-! ### Lanes -/

def modLanes (w : Warp) (mask : Word) (f : Nat → Lane → Lane) : Warp :=
  { w with lanes := w.lanes.map (fun e => if mask.getLsbD e.1 && decide (e.1 < 32) then (e.1, f e.1 e.2) else e) }

/-- The lanes of a mask stand at the next instruction; in handler mode the handler does (07 R168, 17 R446). -/
def advance (w : Warp) (mask : Word) (len : Nat) : Warp :=
  if w.hmode then { w with hpc := w.hpc + BitVec.ofNat 57 len }
  else modLanes w mask (fun _ l => { l with pc := l.pc + BitVec.ofNat 57 len, wait := .none })

/-- The issuing path steps to its next instruction. -/
def Iss.next (x : Iss) (s : State) : State := x.mod s (fun w => advance w x.mask x.len)

/-- Lanes of a warp that hold a thread that has not ended. -/
def liveMask (w : Warp) : Word := laneMask (fun l => match lookup w.lanes l with | some t => t.live | none => false)

/-- sr.group of a linear number, in the grid dimensions of a record (16 R428). -/
def groupXYZ (r : LaunchRec) (g : Nat) : Nat × Nat × Nat := (g % r.gx, g / r.gx % r.gy, g / (r.gx * r.gy))

/-! ### Kinds of requests -/

/-- Whether a request is a load whose value has not returned. -/
def MemOp.isLoad : MemOp → Bool
  | .load | .ldr => true
  | _ => false

/-- Whether a request is a prefetch, of which nothing is told. -/
def MemOp.isPref : MemOp → Bool
  | .pref => true
  | _ => false

/-- Whether a request writes. -/
def MemOp.isWrite : MemOp → Bool
  | .store _ | .atomic _ _ _ | .stc _ _ => true
  | _ => false

/-- Whether a value is still owed by a request. -/
def MemOp.returns : MemOp → Bool
  | .store _ | .pref => false
  | _ => true

/-! ### The imprecise log -/

/-- The core cycle of a core. -/
def cycOf (s : State) (core : Nat) : Nat := (coreOf s core).cyc

/-- Who a warp's accesses on path L are made for. -/
def warpWho (core : Nat) (w : Warp) : Who := { part := w.part, asid := w.asid, path := .L, ap := false, core := some core }

/-- A record written to its log: a slot reserved or the drop counted in one step on WRITTEN, then the record; a fault or data
error discards it (17 R449 to R451). -/
def performImp (s : State) (core : Nat) (r : ImpWrite) : State :=
  let n := fld r.fplog 58 5
  if !wbit r.fplog 63 ∨ n < 4 ∨ n > 20 then s
  else
    let base : VA := BitVec.ofNat 57 (fld r.fplog 6 51 * 64)
    let who : Who := { part := r.part, asid := r.asid, path := .L, ap := false, core := some core }
    let step := fun (bs : List Byte) =>
      let written := leAt bs 0 8
      let used := (written + 2 ^ 64 - leAt bs 8 8) % 2 ^ 64
      if used < 2 ^ n then (toBytes 8 (written + 1) ++ bs.drop 8, some written)
      else (bs.take 16 ++ toBytes 8 (leAt bs 16 8 + 1), (none : Option Nat))
    match homeRmw s who .rw base 24 [] step with
    | (.ok (some seq), s) =>
      let lo := r.pcb * 32 + r.flags.toNat
      let hi := r.group * 2 ^ 32 + r.windex * 2 ^ 27 + (if r.isCont then 2 ^ 26 else 0) + (if nbit seq n then 0 else 2 ^ 25) + core
      (writeN s who (base + BitVec.ofNat 57 (64 + 16 * (seq % 2 ^ n))) (toBytes 8 lo ++ toBytes 8 hi)).2
    | (_, s) => s

/-- The records whose earlier stores are acknowledged written, and those that go on waiting for their release (17 R451). -/
def drainImps (core : Nat) : List ImpWrite → State → List ImpWrite × State
  | [], s => ([], s)
  | r :: rs, s =>
    if r.after.all (fun i => (lookup s.reqs i).isNone) then drainImps core rs (performImp s core r)
    else let (ws, s) := drainImps core rs s; (r :: ws, s)
def drainImp (s : State) (core : Nat) : State :=
  let (ws, s) := drainImps core (coreOf s core).impq s
  modCore s core (fun c => { c with impq := ws })

/-- The stores that a record of a warp is written behind: its write is a release at SYSTEM scope of the warp's stores and of those
its threads have seen (17 R451). -/
def impAfter (s : State) (core ws : Nat) : List Nat :=
  (s.reqs.filter (fun e => e.2.core == core && e.2.wslot == ws && e.2.op.isWrite)).map (·.1) ++
  (warpAt s core ws).lanes.flatMap (fun l => l.2.saw)

/-- Whether a warp has no pending record, or one that can be written now. -/
def impReady (s : State) (core ws : Nat) : Bool :=
  (warpAt s core ws).imp.isNone || (impAfter s core ws).all (fun i => (lookup s.reqs i).isNone)

/-- The pending record of a warp sent to its log (17 R451). -/
def writeImp (s : State) (core ws : Nat) : State :=
  let w := warpAt s core ws
  match w.imp with
  | none => s
  | some r =>
    let rec_ : ImpWrite :=
      { part := w.part, asid := w.asid, grid := w.grid, fplog := w.fplog, pcb := r.pcb, flags := r.flags,
        group := (match w.gslot with
          | some g => (match groupAt s core g with | some x => x.linear | none => 0xFFFFFFFF)
          | none => 0xFFFFFFFF),
        windex := w.windex, isCont := w.isCont, after := impAfter s core ws }
    let s := modWarp s core ws (fun w => { w with imp := none })
    drainImp (modCore s core (fun c => { c with impq := c.impq ++ [rec_] })) core

/-- Flags of classes that are not enabled, raised at a PC (17 R451). -/
def addFlags (s : State) (core ws : Nat) (pc : VA) (fl : Flags) : State :=
  if fl = 0#5 then s
  else
    let w := warpAt s core ws
    let pcb := fld pc 5 52
    let fresh : Imprecise := { pcb := pcb, flags := fl, since := cycOf s core }
    match w.imp with
    | some r =>
      if r.pcb = pcb then modWarp s core ws (fun w => { w with imp := some { r with flags := r.flags ||| fl } })
      else modWarp (writeImp s core ws) core ws (fun w => { w with imp := some fresh })
    | none => modWarp s core ws (fun w => { w with imp := some fresh })

/-! ### Halts and traps -/

/-- The reason to save that a halt leaves: a fatal one stands. -/
def worseHalt (o : Option Nat) (reason : Nat) : Option Nat := if o = some 3 then o else some reason

/-- A halt is under way. -/
def isHalt (o : Option Nat) : Bool := o == some 2 || o == some 3

/-- A halt broadcast reaches a warp: it counts its instructions from here on (17 R452). -/
def Warp.halted (w : Warp) : Warp := { w with skid := 0, raisedHalt := false }

/-- A halt broadcast to every warp of a group, unless one is under way already (17 R452). -/
def haltGroup (s : State) (core g reason : Nat) : State :=
  match groupAt s core g with
  | none => s
  | some x =>
    let s := if isHalt x.saving then s
      else modCore s core (fun c => { c with warps := c.warps.map (fun e => if e.2.gslot = some g then (e.1, e.2.halted) else e) })
    modGroup s core g (fun x => { x with saving := worseHalt x.saving reason })

/-- The halt of a free continuation warp (17 R452). -/
def haltFree (s : State) (core ws reason : Nat) : State :=
  modWarp s core ws (fun w =>
    { (if isHalt w.saving then w else w.halted) with saving := worseHalt w.saving reason })

/-- The halt of a warp's group, or of a free continuation warp, with a REASON: 2 debug, 3 fatal (17 R452). A fatal halt
aborts the grid at once, the halted unit kept for its save (17 R453). -/
def haltUnit (s : State) (core ws reason : Nat) (pc : VA) : State :=
  let w := warpAt s core ws
  let s := match w.gslot with
    | some g => modGroup (haltGroup s core g reason) core g (fun x => { x with haltPc := pc })
    | none => haltFree s core ws reason
  let s := modWarp s core ws (fun w => { w with raisedHalt := true })
  if reason = 3 then abort s w.part w.grid pc else s

/-- tr.cause (17 R444). -/
def causeWord (t : Trap) : Word := BitVec.ofNat 32 (t.aux % 256 * 65536 + t.detail % 256 * 256 + t.code % 256)

/-- The trap state registers as the device writes them; in handler mode tr.mask and tr.elem are 0 (17 R444, R447). -/
def writeTrapRegs (w : Warp) (t : Trap) : Warp :=
  { w with trCause := causeWord t, trPc := t.pc.setWidth 64, trMask := if w.hmode then 0#32 else t.mask,
           trElem := if w.hmode then 0#32 else BitVec.ofNat 32 t.elem, trAddr := t.addr, trInst := t.inst }

/-- Taking a trap (17 R444 to R447): the trap state registers are written; with tr.tba 0, or in handler mode, the group
halts fatally; otherwise the pending imprecise record is written, the trapped lanes are held and execution begins at
tr.tba. While the record's release still waits for stores, so does the trap. The caller has moved the lanes that keep their
progress. -/
def takeTrap (s : State) (core ws : Nat) (t : Trap) : State :=
  let w := warpAt s core ws
  let fatal := w.hmode || w.tba == 0#64
  if !fatal && !impReady s core ws then modWarp s core ws (fun w => { w with trapPend := some t })
  else if fatal then
    haltUnit (modWarp s core ws (fun w => { writeTrapRegs w t with trapPend := none })) core ws 3 t.pc
  else
    let s := writeImp (modWarp s core ws (fun w => { writeTrapRegs w t with trapPend := none })) core ws
    modWarp s core ws (fun w =>
      { modLanes w t.mask (fun _ l => { l with trp := true, l16 := t.len == 16 }) with
        hmode := true, hpc := BitVec.ofNat 57 (fld w.tba 3 54 * 8), enqAt := none })

/-- The trap of the issuing instruction. -/
def Iss.trap (x : Iss) (s : State) (code detail : Nat) (mask : Word) (elem : Nat) (addr : DWord) : State :=
  takeTrap s x.core x.wslot
    { code := code, detail := detail, aux := 0, mask := mask, elem := elem, addr := addr, inst := x.word, pc := x.pc,
      len := x.len }

/-- The traps that leave every lane at the instruction: illegal instruction, operand or clasp (17 R443, R444). -/
def Iss.illegal (x : Iss) (s : State) (code detail : Nat) : State := x.trap s code detail x.mask 0 0

/-- The return from the handler (17 R448): trapped lanes named in tr.mask resume at tr.pc, the others after the trapping
instruction. -/
def returnLanes (w : Warp) : Warp :=
  let go : VA := BitVec.ofNat 57 (fld w.trPc 3 54 * 8)
  { modLanes w 0xFFFFFFFF#32 (fun i l =>
      if l.trp then
        let pc := if w.trMask.getLsbD i then go else l.pc + (if l.l16 then 16#57 else 8#57)
        { l with trp := false, l16 := false, pc := pc, wait := if pc = l.pc then l.wait else .none }
      else l) with hmode := false }

/-! ### Fault records -/

/-- Faults in the order of their lanes, those of one lane, the halves of its access, in that of their addresses. -/
def insertFault (f : LaneFault) : List LaneFault → List LaneFault
  | [] => [f]
  | g :: gs =>
    if f.lane < g.lane ∨ (f.lane = g.lane ∧ f.va.toNat ≤ g.va.toNat) then f :: g :: gs else g :: insertFault f gs
def byLane (fs : List LaneFault) : List LaneFault := fs.foldr insertFault []

/-- Faults that stand in the order of their lanes, grouped by page and access type, each group under the fault of its lowest lane
with all its lanes. -/
def gatherFaults : List LaneFault → List (LaneFault × Word)
  | [] => []
  | f :: fs =>
    let rest := gatherFaults fs
    let bit : Word := if f.lane < 32 then BitVec.twoPow 32 f.lane else 0#32
    let same := fun (e : LaneFault × Word) => e.1.va.toNat / 65536 == f.va.toNat / 65536 && e.1.acc == f.acc
    match rest.find? same with
    | some e => (f, bit ||| e.2) :: rest.filter (fun e => !same e)
    | none => (f, bit) :: rest

/-- Faults of one instruction grouped by page and access type, in the order of their lowest lanes (04 R103). Number 32 stands
for the access of a handler's instruction, which names no lane. Where the lanes of a group fault with different causes, its
record tells the lowest lane's (log 67). -/
def groupFaults (fs : List LaneFault) : List (LaneFault × Word) := gatherFaults (byLane fs)

/-- Causes in the coding of 04 R102. -/
def causeCode : Cause → Nat
  | .notMapped => 0
  | .permission => 1
  | .format => 2
  | .physRange => 3

/-- The 32 bytes of a fault record (04 R102). -/
def faultBytes (va lmask asid part core wslot pc phase cause acc path gslot nrec seq : Nat) : List Byte :=
  toBytes 8 va ++ toBytes 8 (lmask * 2 ^ 32 + asid * 2 ^ 20 + part * 2 ^ 16 + core * 256 + wslot * 4) ++ toBytes 8 pc ++
  toBytes 8 (phase * 2 ^ 63 + cause * 2 ^ 52 + acc * 2 ^ 48 + path * 2 ^ 45 + gslot * 2 ^ 40 + nrec * 2 ^ 32 + seq)

/-- Key of a resident unit: a group, or a free continuation warp. -/
def groupUnit (core g : Nat) : Nat := core * 64 + g
def warpUnit (core ws : Nat) : Nat := 2 ^ 20 + core * 64 + ws

/-- Slots free in the fault buffer; none while it is disabled (04 R101). -/
def faultRoom (s : State) (part : Nat) : Nat :=
  let ctl := win32 s part oFBCTL
  if nbit ctl 31 then 2 ^ nbits ctl 0 5 - sub32 (win32 s part oFBTAIL) (win32 s part oFBHEAD) else 0

/-- One record written into its slot and put among those that wait for an answer (04 R101, R102); where the buffer's memory
refuses the write, the record's bytes are lost and TAIL advances all the same (log 67). -/
def putFault (s : State) (part core wslot gslot asid : Nat) (unit : Nat) (pc : VA) (inst : DWord) (len nrec : Nat) (grid : Nat)
    (engine accst : Option Nat) (f : LaneFault) (lmask : Word) : State :=
  let seq := win32 s part oFBTAIL
  let n := nbits (win32 s part oFBCTL) 0 5
  let base := nbits (win64 s part oFBBASE) 12 40 * 4096
  let bs := faultBytes f.va.toNat lmask.toNat (atagOf asid f.va) part core (if engine.isSome then 0 else wslot)
    (if engine.isSome then 0 else pc.toNat) (if nbit seq n then 0 else 1) (causeCode f.cause) f.acc f.path gslot nrec seq
  let s := (writePA s part (base + 32 * (seq % 2 ^ n)) bs).2
  let r : FaultRec :=
    { seq := seq, grid := grid, unit := unit, wslot := wslot, lmask := lmask, pc := pc, va := f.va,
      cause := causeCode f.cause, acc := f.acc, inst := inst, len := len, engine := engine, accst := accst, answer := none }
  modPart s part (fun p => { p.setW32 oFBTAIL (add32 seq 1) with faults := p.faults ++ [r] })

/-- A unit is to be swapped out (17 R454); a halt already pending governs. -/
def wantSave (o : Option Nat) (reason : Nat) : Option Nat :=
  match o with
  | some 3 => o
  | some 2 => o
  | _ => some reason

/-- The records of a warp instruction written, and the swap-out of its group wanted (04 R103, R104, 17 R454). -/
def grantFaults (s : State) (core ws : Nat) (st : Stall) : State :=
  let w := warpAt s core ws
  let gs := groupFaults st.faults
  let unit := match w.gslot with | some g => groupUnit core g | none => warpUnit core ws
  let s := gs.foldl (fun s e =>
    putFault s w.part core ws (w.gslot.getD 0) w.asid unit st.pc st.inst st.len gs.length w.grid none st.accst e.1 e.2) s
  let s := pushNote s w.part 4 w.asid (win32 s w.part oFBTAIL) 0
  match w.gslot with
  | some g => modGroup s core g (fun x => { x with saving := wantSave x.saving 1, nfault := x.nfault + gs.length })
  | none => modWarp s core ws (fun w => { w with saving := wantSave w.saving 1 })

/-- A refused reservation: when it is tried again, the wait doubling from 64 to 65,536 core cycles (04 R104). -/
def Stall.later (st : Stall) (now : Nat) : Stall := { st with retryAt := now + st.backoff, backoff := min (2 * st.backoff) 65536 }

/-- The records of a warp instruction reserved all at once; or the stall under refusal, behind the reservations of the warp
that wait already (04 R103, R104). -/
def reserveFaults (s : State) (core ws : Nat) (pc : VA) (inst : DWord) (len : Nat) (faults : List LaneFault)
    (accst : Option Nat) : State :=
  let w := warpAt s core ws
  let st : Stall := { pc := pc, inst := inst, len := len, faults := faults, accst := accst, retryAt := 0, backoff := 64 }
  if faults.isEmpty then s
  else if w.stall.isEmpty && decide ((groupFaults faults).length ≤ faultRoom s w.part) then grantFaults s core ws st
  else modWarp s core ws (fun w => { w with stall := w.stall ++ [st.later (cycOf s core)] })

/-- The oldest waiting reservation of a warp asked for again (04 R104). -/
def retryFaults (s : State) (core ws : Nat) : State :=
  let w := warpAt s core ws
  match w.stall with
  | [] => s
  | st :: rest =>
    if cycOf s core < st.retryAt then s
    else if (groupFaults st.faults).length ≤ faultRoom s w.part then
      grantFaults (modWarp s core ws (fun w => { w with stall := rest })) core ws st
    else modWarp s core ws (fun w => { w with stall := st.later (cycOf s core) :: rest })

/-- Lanes that a uniform access charges its faults to: the issuing path, or none of a handler (10 R257, 17 R447). -/
def Iss.chargeLanes (x : Iss) (s : State) : List Nat := if (x.warp s).hmode then [32] else maskLanes x.mask

/-- A synchronous access of the issuing instruction failed: a translation fault is recorded and the path stays; a data
error is the precise trap (17 R443, R444). -/
def Iss.accessFailed (x : Iss) (s : State) (lanes : List Nat) (va : VA) (acc path : Nat) (e : AccErr) : State :=
  match e with
  | .fault c => reserveFaults s x.core x.wslot x.pc x.word x.len (lanes.map (fun l => ⟨l, va, c, acc, path⟩)) none
  | .dataError =>
    x.trap s 8 (if path = 4 then 3 else 0) (laneMask (fun l => lanes.contains l)) 0 (va.setWidth 64)

/-! ### The end of threads -/

/-- Whether nothing of a warp is outstanding: no memory instruction, queue entry or row. -/
def warpQuiet (c : Core) (ws : Nat) (w : Warp) : Bool :=
  w.infl.isEmpty && w.rows.isEmpty && c.slices.all (fun e => e.2.all (fun q => q.wslot != ws)) &&
  c.units.all (fun u => match u.2.op with | .promote a _ _ _ _ _ _ => a != ws | _ => true)

/-- A warp whose threads have all ended leaves its slot, its pending record written first (16 R431, 17 R451). -/
def endWarp (s : State) (core ws : Nat) : State := dropWarp (writeImp s core ws) core ws

/-- Warps that hold no live thread and are quiet leave their slots: a continuation warp alone, the warps of a group when
every one of them has ended (16 R431). -/
def reap (s : State) (core : Nat) : State :=
  let c := coreOf s core
  let gone := fun (e : Nat × Warp) => liveMask e.2 == 0#32 && warpQuiet c e.1 e.2 && e.2.saving.isNone
  let done := c.warps.filter (fun e => gone e && (match e.2.gslot with
    | none => true
    | some g => e.2.isCont || c.warps.all (fun o => o.2.gslot != some g || o.2.isCont || gone o)))
  let s := done.foldl (fun s e => endWarp s core e.1) s
  modCore s core (fun c => { c with groups := c.groups.map (fun e =>
    if (groupWarps c e.1).isEmpty then (e.1, { e.2 with ended := true }) else e) })

/-! ### What threads have seen -/

/-- Stores added to what a thread has seen; those acknowledged since are forgotten. -/
def Lane.sees (s : State) (rids : List Nat) (l : Lane) : Lane :=
  { l with saw := (l.saw.filter (fun r => (lookup s.reqs r).isSome) ++ rids).eraseDups }

/-- Stores added to what lanes of a warp, or all in a handler, have seen. -/
def sees (s : State) (core ws : Nat) (lanes : Word) (rids : List Nat) : State :=
  modWarp s core ws (fun w => { w with lanes := w.lanes.map (fun e =>
    if w.hmode || lanes.getLsbD e.1 then (e.1, e.2.sees s rids) else e) })

/-- What a thread may learn of when it synchronises with others at WARP or GROUP scope: the writes in flight of the threads of
its group, or of its warp, and the stores of others that these have seen (12 R321 to R324, log 66). -/
def groupWrites (s : State) (core ws : Nat) : List Nat :=
  let g := (warpAt s core ws).gslot
  let mine := fun (k : Nat) (h : Option Nat) => k == ws || (g.isSome && h == g)
  (s.reqs.filter (fun e => e.2.core == core && e.2.op.isWrite && mine e.2.wslot e.2.gslot)).map (·.1) ++
  (coreOf s core).warps.flatMap (fun e => if mine e.1 e.2.gslot then e.2.lanes.flatMap (fun l => l.2.saw) else [])

/-! ### The group barrier -/

/-- The threads of a group that have not ended, as keys of its group barrier, over the 64 warp slots; continuation threads do
not count (10 R283, 16 R439). -/
def groupThreads (c : Core) (g : Nat) : List Nat :=
  (upto 64).flatMap (fun ws => match lookup c.warps ws with
    | some w => if w.gslot = some g ∧ w.isCont = false then (maskLanes (liveMask w)).map (fun l => ws * 32 + l) else []
    | none => [])

/-- A waiting lane released: it stands at the next instruction, or will complete when the handler returns. -/
def releaseLane (len : Nat) (l : Lane) : Lane :=
  if l.trp then { l with wait := .passed } else { l with wait := .none, pc := l.pc + BitVec.ofNat 57 len }

/-- The group barrier completes once every thread that has not ended has arrived (10 R283); its release is an acquire at GROUP
scope (10 R285). -/
def checkGroupBarrier (s : State) (core g : Nat) : State :=
  match groupAt s core g with
  | none => s
  | some x =>
    let c := coreOf s core
    if x.gbar.isEmpty ∨ !(groupThreads c g).all (fun k => x.gbar.contains k) then s
    else
      let rids := match groupWarps c g with | ws :: _ => groupWrites s core ws | [] => []
      let s := modGroup s core g (fun x => { x with gbar := [] })
      modCore s core (fun c => { c with warps := c.warps.map (fun e =>
        if e.2.gslot = some g then
          (e.1, { e.2 with lanes := e.2.lanes.map (fun l =>
            if l.2.wait = .barGrp then (l.1, releaseLane 8 (l.2.sees s rids)) else l) })
        else e) })

/-- Threads end: with a warp's last one its pending record is written, they no longer count towards group barriers, and ended
warps leave (08 R209, 10 R283, 17 R451). -/
def endThreads (s : State) (core ws : Nat) (mask : Word) : State :=
  let w := warpAt s core ws
  let s := modWarp s core ws (fun w => modLanes w mask (fun _ l => { l with live := false, wait := .none }))
  let s := if liveMask (warpAt s core ws) = 0#32 then writeImp s core ws else s
  let s := match w.gslot with
    | some g => checkGroupBarrier s core g
    | none => s
  reap s core

end Sys2Proof.Machine
end

