-- ==== Sys2Proof/Machine/Operands.lean ====
section
/-! DEFINITION. Machine/Operands.lean: operand forms of Suric instructions: modifiers (07 R176, R177), literals (07 R168), the
registers each instruction names and the operand rules that raise the illegal-operand trap (06 R138, R140, R141, R145; the
operand rules of 08 to 11). -/

namespace Sys2Proof.Machine

/-! ### Modifiers -/

/-- A sign operation on a value of `n` bits: 0 none, 1 negate, 2 absolute, 3 negated absolute (07 R176, 06 R151). -/
def signOp (n k x : Nat) : Nat :=
  let top := 2 ^ (n - 1)
  if k = 0 then x
  else if k = 1 then (if nbit x (n - 1) then x - top else x + top)
  else if k = 2 then x % top
  else x % top + top

/-- A view of a 32-bit source, extended as its type states (06 R151, 07 R176). -/
def viewOp (signed : Bool) (code x : Nat) : Nat :=
  let cut := fun (lo n : Nat) => if signed then wrapN (sxt (nbits x lo n) n) 32 else nbits x lo n
  if code = 0 then x % 2 ^ 32
  else if code ≤ 2 then cut (16 * (code - 1)) 16
  else if code ≤ 6 then cut (8 * (code - 3)) 8
  else cut (4 * (code - 7)) 4

/-- The source element that each destination element takes, for the two elements of a 16-bit type (07 R176). -/
def lanes2 (code : Nat) : List Nat :=
  if code % 4 = 0 then [0, 1] else if code % 4 = 1 then [1, 0] else if code % 4 = 2 then [0, 0] else [1, 1]

/-- The swizzles of the ×4 types (07 R177). -/
def swizzle4 (code : Nat) : List Nat :=
  ([[0, 1, 2, 3], [0, 0, 0, 0], [1, 1, 1, 1], [2, 2, 2, 2], [3, 3, 3, 3], [3, 2, 1, 0], [1, 0, 3, 2], [2, 3, 0, 1],
    [1, 2, 3, 0], [3, 0, 1, 2], [0, 0, 2, 2], [1, 1, 3, 3], [0, 1, 0, 1], [2, 3, 2, 3], [0, 2, 1, 3],
    [0, 0, 1, 1]] : List (List Nat)).getD code []

/-- The swizzles of the ×8 types (07 R177). -/
def swizzle8 (code : Nat) : List Nat :=
  ([[0, 1, 2, 3, 4, 5, 6, 7], [0, 0, 0, 0, 0, 0, 0, 0], [1, 1, 1, 1, 1, 1, 1, 1], [2, 2, 2, 2, 2, 2, 2, 2],
    [3, 3, 3, 3, 3, 3, 3, 3], [4, 4, 4, 4, 4, 4, 4, 4], [5, 5, 5, 5, 5, 5, 5, 5], [6, 6, 6, 6, 6, 6, 6, 6],
    [7, 7, 7, 7, 7, 7, 7, 7], [7, 6, 5, 4, 3, 2, 1, 0], [1, 0, 3, 2, 5, 4, 7, 6], [4, 5, 6, 7, 0, 1, 2, 3],
    [2, 3, 0, 1, 6, 7, 4, 5], [0, 0, 2, 2, 4, 4, 6, 6], [1, 1, 3, 3, 5, 5, 7, 7],
    [0, 1, 2, 3, 0, 1, 2, 3]] : List (List Nat)).getD code []

/-- A source of type `t` after its modifier (07 R176, R177). -/
def modOp (t code x : Nat) : Nat :=
  if t ≤ 1 then viewOp (t == 0) code x
  else if t ≤ 3 then packElems 16 ((lanes2 code).map (elemN x 16))
  else if t = 4 ∨ t = 5 ∨ t = 11 ∨ t = 12 then packElems 8 ((swizzle4 code).map (elemN x 8))
  else if t = 6 ∨ t = 7 ∨ t = 13 then packElems 4 ((swizzle8 code).map (elemN x 4))
  else if t = 8 then signOp 32 code x
  else if t = 14 then signOp 64 code x
  else if t = 15 then x
  else packElems 16 ((lanes2 code).map (fun k => signOp 16 (code / 4) (elemN x 16 k)))

/-- Registers of a value of a type: one, or a pair (06 R141, R150). -/
def tRegs (t : Nat) : Nat := if t ≥ 14 then 2 else 1

/-- A source of `n` registers of a lane: one word or a pair. -/
def srcN (w : Warp) (lane n r : Nat) : Nat := if n = 2 then rread2 w lane r else rread w lane r

/-- Operand A of a type, with its modifier. -/
def opA (w : Warp) (lane : Nat) (f : Fields) (t : Nat) : Nat := modOp t f.ma.toNat (srcN w lane (tRegs t) f.a.toNat)

/-- Operand B of `n` registers: a literal or a register (07 R168). -/
def rawB (w : Warp) (lane : Nat) (f : Fields) (n : Nat) : Nat :=
  match f.lit with
  | some v => if n = 2 then v.toNat else fld v 0 32
  | none => srcN w lane n f.b.toNat

/-- Operand B of a type, with its modifier. -/
def opB (w : Warp) (lane : Nat) (f : Fields) (t : Nat) : Nat := modOp t f.mb.toNat (rawB w lane f (tRegs t))

/-- Operand C of a type; it takes no modifier (09 R226). -/
def opC (w : Warp) (lane : Nat) (f : Fields) (t : Nat) : Nat := srcN w lane (tRegs t) f.c.toNat

/-- The destination register words of a value of a type. -/
def dstWords (d t v : Nat) : List (Nat × Nat) :=
  if t ≥ 14 then (if d = 255 then [] else [(d, v % 2 ^ 32), (d + 1, v / 2 ^ 32 % 2 ^ 32)]) else [(d, v % 2 ^ 32)]

/-! ### The registers an instruction names -/

/-- How a register operand is used: `u` forms must be uniform, `v` forms must be vector registers. -/
inductive Role where
  | src | dst | usrc | udst | vsrc | vdst
deriving DecidableEq, Repr

/-- One register operand: first register, count, alignment, role, and whether it is a group, in which v255 does not stand. -/
structure Use where
  reg : Nat
  n : Nat
  al : Nat
  role : Role
  grp : Bool
deriving DecidableEq, Repr

/-- The operands of an instruction: registers, predicates written and read, tiles; whether its own description defines
vector sources beside a uniform destination; whether it refuses a p guard. -/
structure Shape where
  uses : List Use
  pdst : List Nat
  psrc : List Nat
  tiles : List Nat
  ownUni : Bool
  qOnly : Bool
deriving DecidableEq, Repr

def Role.isDst : Role → Bool
  | .dst | .udst | .vdst => true
  | _ => false

/-- One register or pair in a role. -/
def reg (r : Role) (x : BitVec 8) (n : Nat) : Use := ⟨x.toNat, n, n, r, false⟩

/-- A group of registers in a role. -/
def grp (r : Role) (x : BitVec 8) (n al : Nat) : Use := ⟨x.toNat, n, al, r, true⟩

/-- Operand B where it is a register. -/
def regB (r : Role) (f : Fields) (n : Nat) : List Use := if f.lit.isSome then [] else [reg r f.b n]

def shapeOf (uses : List Use) : Shape := ⟨uses, [], [], [], false, false⟩
def Shape.preds (s : Shape) (dst src : List (BitVec 8)) : Shape :=
  { s with pdst := dst.map BitVec.toNat, psrc := src.map BitVec.toNat }
def Shape.own (s : Shape) : Shape := { s with ownUni := true }
def Shape.noP (s : Shape) : Shape := { s with qOnly := true }
def Shape.tile (s : Shape) (x : BitVec 8) : Shape := { s with tiles := x.toNat :: s.tiles }

/-- Elements of a packed conversion word (09 R238). -/
def packM (code : Nat) : Nat := if code ≤ 7 then 2 else if code ≤ 12 then 4 else 8

/-- Base and index of a class M instruction (07 R171, 10 R257). -/
def memUses (f : Fields) : List Use :=
  reg .src f.a 2 ::
    (if fld f.fn 0 2 = 0 then [] else if fld f.fn 0 2 = 3 then [reg .src f.b 2] else [reg .src f.b 1])

/-- The data operand of a class M instruction by its size (07 R171, 10 R258). -/
def dataUse (r : Role) (f : Fields) : Use :=
  if f.t = 6 then grp r f.d 4 4 else if f.t = 5 then reg r f.d 2 else reg r f.d 1

/-- Width in registers of a trap state register (06 R148). -/
def trWidth (n : Nat) : Nat := if n = 1 ∨ n = 4 ∨ n = 5 ∨ n = 6 ∨ n = 8 then 2 else 1

/-- The operands of the instructions of 08. -/
def shapeInt (op : Nat) (f : Fields) : Shape :=
  let n := tRegs f.t.toNat
  match op with
  | 1 | 2 | 3 | 4 | 7 | 8 | 9 => shapeOf ([reg .dst f.d n, reg .src f.a n] ++ regB .src f n)
  | 5 => shapeOf ([reg .dst f.d n, reg .src f.a n, reg .src f.c n] ++ regB .src f n)
  | 6 => shapeOf ([reg .dst f.d 2, reg .src f.a 1, reg .src f.c 2] ++ regB .src f 1)
  | 10 | 14 | 15 | 16 | 20 => shapeOf ([reg .dst f.d 1, reg .src f.a 1, reg .src f.c 1] ++ regB .src f 1)
  | 11 | 12 | 13 => shapeOf ([reg .dst f.d n, reg .src f.a n] ++ regB .src f 1)
  | 17 | 18 => shapeOf [reg .dst f.d 1, reg .src f.a n]
  | 19 | 24 | 25 | 26 | 27 | 28 | 32 => shapeOf [reg .dst f.d n, reg .src f.a n]
  | 21 => (shapeOf (reg .src f.a n :: regB .src f n)).preds [f.d] []
  | 22 => (shapeOf ([reg .dst f.d n, reg .src f.a n] ++ regB .src f n)).preds [] [f.c]
  | 23 => shapeOf ([reg .dst f.d 2, reg .src f.a 2] ++ regB .src f n)
  | 29 => shapeOf [reg .dst f.d 1, reg .src f.a 1, reg .src f.c 1]
  | 30 => (shapeOf [reg .src f.a n]).preds [f.d] []
  | 33 => shapeOf [reg .dst f.d n]
  | 34 => shapeOf [reg .dst f.d (if f.b = 0x18 then 2 else 1)]
  | 35 => (shapeOf [reg .dst f.d 1]).preds [] [if f.fn = 1 then 8#8 else 0#8]
  | 36 => if f.fn = 0 then shapeOf (reg .src f.a 1 :: regB .src f 1)
      else (shapeOf (reg .usrc f.a 1 :: regB .usrc f 1)).noP
  | 37 => (shapeOf []).preds [f.d] [f.a, f.b, f.c]
  | 49 | 51 => shapeOf [reg .src f.a 2]
  | 50 => shapeOf [reg .dst f.d 2]
  | 54 | 55 => (shapeOf []).noP
  | 58 => shapeOf [reg .dst f.d 1, reg .src f.a 2]
  | 59 => shapeOf ([reg .dst f.d 1, reg .src f.a 2] ++ regB .src f 2)
  | 66 => (shapeOf [reg .udst f.d (trWidth f.b.toNat)]).noP
  | 67 => (shapeOf [reg .usrc f.a (trWidth f.b.toNat)]).noP
  | _ => shapeOf []

/-- The operands of the instructions of 09. -/
def shapeFlt (op : Nat) (f : Fields) : Shape :=
  let n := tRegs f.t.toNat
  let sr := if wbit f.fn 2 then [reg .src f.c 1] else []
  match op with
  | 80 | 81 | 83 | 84 | 89 | 90 => shapeOf ([reg .dst f.d n, reg .src f.a n] ++ regB .src f n)
  | 82 | 91 => shapeOf ([reg .dst f.d n, reg .src f.a n, reg .src f.c n] ++ regB .src f n)
  | 85 | 92 => (shapeOf (reg .src f.a n :: regB .src f n)).preds [f.d] []
  | 86 => shapeOf [reg .dst f.d n, reg .src f.a n]
  | 87 => (shapeOf (reg .src f.a n :: regB .src f 1)).preds [f.d] []
  | 88 => shapeOf ([reg .dst f.d n, reg .src f.a n] ++ regB .src f 1)
  | 96 | 97 | 98 => shapeOf ([reg .dst f.d n, reg .src f.a (tRegs f.b.toNat)] ++ sr)
  | 99 => shapeOf ([reg .dst f.d 1, grp .src f.a (packM f.b.toNat) (packM f.b.toNat)] ++ sr)
  | 100 => shapeOf [grp .dst f.d (packM f.b.toNat) (packM f.b.toNat), reg .src f.a 1]
  | 101 | 116 => (shapeOf [reg .dst f.d 1, reg .src f.a 1]).own
  | 104 | 105 | 106 | 107 | 108 | 110 => shapeOf [reg .dst f.d 1, reg .src f.a 1]
  | 109 => shapeOf [reg .dst f.d 2, reg .src f.a 1]
  | 112 => shapeOf ([reg .dst f.d 1, reg .src f.a 1] ++ regB .src f 1)
  | 113 => (shapeOf [reg .usrc f.a 2]).noP
  | 114 => shapeOf ([reg .dst f.d n, reg .src f.a n] ++ regB .src f 1)
  | 115 => if f.fn.toNat ≤ 2 then ((shapeOf [reg .dst f.d 1]).preds [] [f.a]).own else ((shapeOf []).preds [f.d] [f.a]).own
  | 117 => shapeOf [reg .vdst f.d 1, reg .src f.a 1]
  | 118 => if f.fn = 2 then (shapeOf [reg .dst f.d 1, reg .src f.a n]).own else shapeOf [reg .vdst f.d 1, reg .src f.a n]
  | 119 => (shapeOf ([reg .udst f.d n, reg .vsrc f.a n] ++ regB .usrc f 1)).own.noP
  | 120 => (shapeOf ([reg .vdst f.d n, reg .usrc f.a n] ++ regB .usrc f 1)).own.noP
  | _ => shapeOf []

/-- The operands of the instructions of 10. -/
def shapeMem (op : Nat) (f : Fields) : Shape :=
  let n := tRegs f.t.toNat
  match op with
  | 128 | 130 | 131 | 133 | 148 => shapeOf (dataUse .dst f :: memUses f)
  | 129 | 132 | 134 => shapeOf (dataUse .src f :: memUses f)
  | 135 => shapeOf (memUses f)
  | 136 => if f.t.toNat ≥ 4 then shapeOf [] else shapeOf (memUses f)
  | 137 | 138 => (shapeOf ([reg .udst f.d 1, reg .usrc f.a 2] ++ regB .usrc f 1)).noP
  | 144 => shapeOf [reg .dst f.d n, reg .src f.a 2, reg .src f.b n]
  | 145 => shapeOf [reg .dst f.d n, reg .src f.a 2, reg .src f.b n, reg .src f.c n]
  | 146 => shapeOf [reg .src f.a 2, reg .src f.b n]
  | 147 => shapeOf ([reg .dst f.d n, reg .src f.a 2, reg .src f.b n] ++ (if f.fn = 9 then [reg .src f.c n] else []))
  | 149 => shapeOf [reg .dst f.d 1, reg .src f.a 2, reg .src f.b n]
  | 154 =>
    if f.fn = 0 then shapeOf []
    else if f.fn = 1 then (shapeOf [reg .usrc f.a 1]).noP
    else if f.fn = 2 then (shapeOf [reg .udst f.d 1, reg .usrc f.a 1]).noP
    else (shapeOf [reg .usrc f.a 1, reg .usrc f.b 1]).noP
  | 155 | 156 =>
    if f.fn = 0 then (shapeOf [reg .usrc f.a 1, reg .usrc f.b 1]).noP
    else (shapeOf [reg .udst f.d 1, reg .usrc f.a 1, reg .usrc f.b 1]).noP
  | 160 | 161 => (shapeOf ([reg .udst f.d 1, reg .usrc f.a 1] ++ regB .usrc f 1)).noP
  | 162 => (shapeOf [reg .udst f.d 1, reg .usrc f.a 1]).noP
  | 163 => (shapeOf [reg .usrc f.a 1]).noP
  | 164 =>
    if wbit f.fn 3 then shapeOf [grp .src f.a 4 4, reg .usrc f.c 2]
    else shapeOf ([if f.t = 8 then grp .dst f.d 4 4 else reg .dst f.d 2, grp .src f.a 4 4] ++ regB .usrc f 2)
  | 165 => shapeOf [grp .src f.a 8 4, reg .usrc f.c 2]
  | 166 => shapeOf [reg .src f.a 1]
  | 167 => shapeOf (reg .src f.a 1 :: regB .src f 2)
  | _ => shapeOf []

/-- The operands of the instructions of 11. -/
def shapeMat (op : Nat) (f : Fields) : Shape :=
  match op with
  | 176 => (shapeOf ([grp .vsrc f.a 24 8, grp .vsrc f.b 24 8] ++ (if wbit f.fn 0 then [grp .vsrc f.c 4 4] else []))).tile f.d
  | 177 => ((shapeOf []).tile f.d).noP
  | 178 => (shapeOf [grp .vdst f.d 8 8]).tile f.a
  | 179 => (shapeOf [grp .vsrc f.a 8 8]).tile f.d
  | 180 => ((shapeOf [reg .usrc f.a 2, reg .usrc f.b 1]).tile f.c).noP
  | 181 => (shapeOf []).noP
  | 182 => (shapeOf [reg .usrc f.a 2]).noP
  | 183 => shapeOf [grp .vdst f.d 8 8, grp .vsrc f.a 4 4, reg .vsrc f.b 1]
  | 184 => (shapeOf [reg .udst f.d 1]).noP
  | _ => shapeOf []

/-- The operands of the instruction of an opcode. -/
def shape (op : Nat) (f : Fields) : Shape :=
  if op < 80 then shapeInt op f else if op < 128 then shapeFlt op f else if op < 176 then shapeMem op f else shapeMat op f

/-! ### Operand rules -/

/-- A register operand is one the grid may name (06 R137, R138, R141). -/
def Use.ok (regs : Nat) (u : Use) : Bool :=
  if u.reg = 255 then !u.grp && decide (u.n ≤ 2) && u.role != .vsrc
  else if u.reg < 192 then
    decide (u.reg % u.al = 0) && decide (u.reg + u.n ≤ regs) && u.role != .usrc && u.role != .udst
  else
    decide (u.reg % u.al = 0) && decide (u.reg + u.n ≤ 255) && u.role != .vsrc && u.role != .vdst

/-- Whether a register operand is a uniform destination (06 R140). -/
def Use.uniDst (u : Use) : Bool := u.role.isDst && decide (192 ≤ u.reg) && decide (u.reg < 255)

/-- Whether the instruction has a uniform destination: a uniform register or a q predicate (06 R140, 08 R189). -/
def Shape.uniDst (s : Shape) : Bool := s.uses.any Use.uniDst || s.pdst.any (fun x => nbit x 3)

/-- Whether every source is uniform: registers, v255, and q predicates (06 R140). -/
def Shape.uniSrc (s : Shape) : Bool :=
  s.uses.all (fun u => u.role.isDst || isUni u.reg) && s.psrc.all (fun x => nbit x 3)

/-- Payload words of an instruction that ends its threads with a record (08 R213, 10 R289), and the result words that join them. -/
def payWords (op : Nat) (f : Fields) : Nat :=
  if op = 53 then f.ma.toNat * 4 + f.mb.toNat / 4
  else if op = 165 ∨ (op = 164 ∧ wbit f.fn 3) then f.d.toNat
  else 0
def resWords (op : Nat) (f : Fields) : Nat :=
  if op = 165 then 4 else if op = 164 ∧ wbit f.fn 3 then (if f.t = 8#4 then 4 else 2) else 0

/-- The limits in the descriptions of instructions that their words and the launch record alone decide (07 R167 step 5): the
format of MXEXP (09 R240), the ring of ENQ (10 R287), the numbers of RDSR, TRD and TWR (06 R146, R148), the payload and resume
target of TEX.C and TRACE (10 R289), the payload of DEFER (08 R213) and the group of DEFER.G (08 R214), a literal length of PROMOTE
or DEMOTE (10 R267), the bitmap of DONE (10 R291). -/
def limitsOk (w : Warp) (op : Nat) (f : Fields) : Bool :=
  match op with
  | 34 => decide (f.b.toNat ≤ 0x1A) && !(isUni f.d.toNat && f.d != 255 && [0x00, 0x02, 0x03, 0x04].contains f.b.toNat)
  | 53 => decide (payWords op f ≤ w.rec_.cont) && decide (payWords op f ≤ w.rec_.regs) && (f.fn != 0 || w.gslot.isSome)
  | 66 | 67 => decide (f.b.toNat ≤ 8)
  | 101 => (decide (9 ≤ f.b.toNat) && decide (f.b.toNat ≤ 13)) || f.b == 0
  | 137 | 138 => f.lit.isNone || (rawB w 0 f 1 != 0 && decide (rawB w 0 f 1 ≤ 67108864))
  | 163 => fld f.fn 0 2 != 3
  | 164 | 165 =>
    resWords op f == 0 ||
    (decide (payWords op f ≤ 32) && decide (payWords op f + resWords op f ≤ w.rec_.cont) &&
     decide (payWords op f + resWords op f ≤ w.rec_.regs) && (match f.lit with | some v => fld v 0 3 == 0 | none => true))
  | 166 => w.rec_.bm
  | _ => true

/-- The operand rules that an instruction keeps (07 R167 step 5): registers and tiles the grid has, the uniform rules, and the
limits of its description. -/
def operandsOk (w : Warp) (op : Nat) (f : Fields) : Bool :=
  let s := shape op f
  limitsOk w op f &&
  s.uses.all (Use.ok w.rec_.regs) && s.tiles.all (fun t => decide (t < w.rec_.acc)) &&
  (!s.uniDst || s.ownUni || (s.uniSrc && !guardP f.g)) && (!s.qOnly || !guardP f.g)

/-- Memory instructions without a register destination that may be all-uniform (06 R140). -/
def noDstMem (op : Nat) (f : Fields) : Bool :=
  op == 129 || op == 132 || op == 134 || op == 146 || op == 135 || (op == 136 && decide (f.t.toNat ≤ 2))

/-- Whether an instruction executes once, on the uniform pipe, by 06 R140. -/
def uniformForm (op : Nat) (f : Fields) : Bool :=
  let s := shape op f
  !guardP f.g && s.uniSrc &&
  (s.uniDst || noDstMem op f || (op == 36 && f.fn == 1) || op == 67 || ((op == 49 || op == 51) && isUni f.a.toNat))

/-- The instructions a handler may issue (17 R447). -/
def handlerAllows (op : Nat) (f : Fields) : Bool :=
  uniformForm op f || op == 152 || op == 160 || op == 161 || op == 162 || op == 163 || op == 66 || op == 67 || op == 119 ||
  op == 120 || op == 65 || op == 68 || (op == 48 && !guardP f.g) ||
  (op == 50 && decide (192 ≤ f.d.toNat) && !guardP f.g)

/-- Instructions that issue alone whatever their operands (08 R187, 09 R225, 10 R255, 11 R293). -/
def aloneOp (op : Nat) : Bool :=
  op == 54 || op == 55 || op == 65 || op == 66 || op == 67 || op == 68 || op == 101 ||
  (decide (112 ≤ op) && decide (op ≤ 120)) || op == 137 || op == 138 || (decide (154 ≤ op) && decide (op ≤ 156)) ||
  (decide (160 ≤ op) && decide (op ≤ 163)) || decide (176 ≤ op)

/-- Whether an instruction issues alone in its cycle (06 R140, 07 R169, 16 R436). -/
def issuesAlone (op : Nat) (f : Fields) : Bool := aloneOp op || f.k == 1 || uniformForm op f

/-- Collectives and lane accesses: the instructions that read registers of other lanes (09 R244, R254). -/
def crossLane (op : Nat) : Bool :=
  op == 101 || op == 112 || (decide (114 ≤ op) && decide (op ≤ 120)) || op == 176 || op == 178 || op == 179 || op == 183 || op == 164

end Sys2Proof.Machine
end

