-- ==== Sys2Proof/Machine/Flags.lean ====
section
/-! DEFINITION. Machine/Flags.lean: how an instruction is admitted (07 R167, 17 R447), how its results and flags are delivered
per lane, on the uniform pipe, and for a collective (06 R140, R142; 09 R227, R244). -/

namespace Sys2Proof.Machine

/-- What one execution of an instruction writes in a lane, and the flags of each element position. -/
structure LaneRes where
  regs : List (Nat × Nat)
  preds : List (Nat × Bool)
  flags : List Flags
deriving DecidableEq, Repr

/-- A result of registers alone. -/
def LaneRes.ofRegs (rs : List (Nat × Nat)) : LaneRes := ⟨rs, [], []⟩
/-- A result of one predicate. -/
def LaneRes.ofPred (sel : BitVec 8) (b : Bool) (fl : List Flags) : LaneRes := ⟨[], [(sel.toNat, b)], fl⟩

def orFlags (fl : List Flags) : Flags := fl.foldl (· ||| ·) 0#5

/-- The flags of a result. -/
def LaneRes.all (r : LaneRes) : Flags := orFlags r.flags

/-- The result written in a lane. -/
def LaneRes.put (w : Warp) (lane : Nat) (r : LaneRes) : Warp :=
  let w := r.regs.foldl (fun w e => rwrite w lane e.1 e.2) w
  r.preds.foldl (fun w e => predWrite w lane e.1 e.2) w

/-- Flag classes enabled to trap (06 R148, R161). -/
def enabledFlags (w : Warp) : Flags := w.tem.setWidth 5

/-- Element positions that raised a flag of a set, bit k for element k (09 R227). -/
def elemBits (en : Flags) : List Flags → Nat
  | [] => 0
  | fl :: rest => (if fl &&& en = 0#5 then 0 else 1) + 2 * elemBits en rest

/-- Results of lanes delivered: a lane that raises an enabled flag is left unwritten and traps, the others are written and
go on; other flags go to the imprecise log (09 R227, 17 R446). -/
def deliver (x : Iss) (s : State) (rs : List (Nat × LaneRes)) : State :=
  let w := x.warp s
  let en := enabledFlags w
  let good := rs.filter (fun e => e.2.all &&& en == 0#5)
  let bad := rs.filter (fun e => e.2.all &&& en != 0#5)
  let s := x.mod s (fun w => good.foldl (fun w e => e.2.put w e.1) w)
  let fl := orFlags (rs.map (fun e => e.2.all))
  let s := addFlags s x.core x.wslot x.pc (fl &&& ~~~en)
  if bad.isEmpty then x.next s
  else
    let mask := laneMask (fun l => bad.any (fun e => e.1 == l))
    let s := x.mod s (fun w => advance w (x.mask &&& ~~~mask) x.len)
    x.trap s 7 (orFlags (bad.map (fun e => e.2.all)) &&& en).toNat mask
      (bad.foldl (fun k e => k ||| elemBits en e.2.flags) 0) 0

/-- The one result of an all-uniform form, its flags charged to the issuing path (06 R140, 09 R227). -/
def deliverUni (x : Iss) (s : State) (r : LaneRes) : State :=
  let en := enabledFlags (x.warp s)
  let s := addFlags s x.core x.wslot x.pc (r.all &&& ~~~en)
  if r.all &&& en = 0#5 then x.next (x.mod s (fun w => r.put w 0))
  else x.trap s 7 (r.all &&& en).toNat x.mask (elemBits en r.flags) 0

/-- The lowest lane of a path, 0 for none. -/
def Iss.lane0 (x : Iss) : Nat := (lowLane? x.mask).getD 0

/-- An instruction that each guarded lane performs on its own operands, or once on uniform ones (06 R140, 07 R166). -/
def perLane (op : Nat) (f : Fields) (compute : Warp → Nat → LaneRes) (x : Iss) (s : State) : State :=
  let w := x.warp s
  if uniformForm op f then
    if guardUni w f.g then deliverUni x s (compute w x.lane0) else x.next s
  else deliver x s ((guarded w x.mask f.g).map (fun l => (l, compute w l)))

/-- Source set and write set of a collective; none when its q guard is false (09 R244). -/
def collSets (w : Warp) (x : Iss) (f : Fields) : Option (List Nat × List Nat) :=
  if f.g.getLsbD 3 && !guardUni w f.g then none
  else if w.clOpen && !w.hmode then some (lanes32, guarded w w.cmask f.g)
  else some (guarded w x.mask f.g, guarded w x.mask f.g)

/-- The delivery of a collective: its flags are charged to every lane of the write set, and an enabled one leaves every
lane unwritten (09 R227). -/
def deliverAll (x : Iss) (s : State) (wset : List Nat) (fl : Flags) (put : Warp → Warp) : State :=
  let en := enabledFlags (x.warp s)
  let s := addFlags s x.core x.wslot x.pc (fl &&& ~~~en)
  if fl &&& en = 0#5 then x.next (x.mod s put)
  else
    let mask := if wset.isEmpty then x.mask else laneMask (fun l => wset.contains l)
    let s := x.mod s (fun w => advance w (x.mask &&& ~~~mask) x.len)
    x.trap s 7 (fl &&& en).toNat mask 1 0

/-- The operands and mode allow the instruction, or it traps: in handler mode an instruction that handlers may not issue,
then an operand that breaks a rule (07 R167, 17 R447). -/
def admitted (op : Nat) (f : Fields) (body : Iss → State → State) (x : Iss) (s : State) : State :=
  let w := x.warp s
  if w.hmode && !handlerAllows op f then x.illegal s 1 1
  else if !operandsOk w op f then x.illegal s 2 0
  else body x s

/-- A Suric instruction performed by the path that issues it. -/
def issue (op : Nat) (f : Fields) (body : Iss → State → State) (s : State) : Host.Outcome State Fault Refusal :=
  match issOf s with
  | some x => .next { admitted op f body x s with cur := .idle }
  | none => .fault .noIssuer

end Sys2Proof.Machine
end

