-- ==== Sys2Proof/Machine/Order.lean ====
section
/-! DEFINITION. Machine/Order.lean: the release and acquire actions at each scope (10 R260, 12 R321 to R328). -/

namespace Sys2Proof.Machine

/-- Whether an order code acquires or releases, and its scope: 0 WARP, 1 GROUP, 2 QUAD, 3 DEVICE, 4 SYSTEM (07 R171). -/
def maAcquires (ma : Nat) : Bool := (decide (1 ≤ ma) && decide (ma ≤ 5)) || decide (11 ≤ ma)
def maReleases (ma : Nat) : Bool := decide (6 ≤ ma)
def maScope (ma : Nat) : Nat := (ma - 1) % 5

/-- Whether a request was issued by one of these threads of a warp; a handler acts for every thread of its warp, and its own
requests name no lane. -/
def Req.byLanes (r : Req) (core ws : Nat) (hmode : Bool) (lanes : Word) : Bool :=
  r.core == core && r.wslot == ws && (hmode || r.lanes == 0#32 || r.lanes &&& lanes != 0#32)

/-- What the threads of these lanes of a warp, or of all in a handler, have seen of other threads' stores. -/
def sawOf (w : Warp) (lanes : Word) : List Nat :=
  w.lanes.flatMap (fun e => if w.hmode || lanes.getLsbD e.1 then e.2.saw else [])

/-- Whether a release by these threads at a scope may be performed: their loads have returned and, at QUAD or wider, their
stores and atomics are acknowledged and so are the stores of other threads of the core that their loads returned or that
happen before it (10 R260, 12 R323, R324). -/
def releaseReady (s : State) (core ws : Nat) (lanes : Word) (scope : Nat) : Bool :=
  let w := warpAt s core ws
  let saw := sawOf w lanes
  s.reqs.all (fun e =>
    !(e.2.byLanes core ws w.hmode lanes && (e.2.op.isLoad || (decide (2 ≤ scope) && e.2.op.isWrite))) &&
    !(decide (2 ≤ scope) && saw.contains e.1))

/-- Whether every value that these threads' loads and atomics owe has returned: an acquire that is no access of its own takes
effect after them (12 R322). -/
def valuesBack (s : State) (core ws : Nat) (lanes : Word) : Bool :=
  s.reqs.all (fun e => !(e.2.byLanes core ws (warpAt s core ws).hmode lanes && e.2.op.returns))

/-- The acquire action on a core at a scope, QUAD or wider invalidating its L1 (10 R260); from then on the lanes' releases cover
what those they synchronised with had stored (12 R322, R323, log 66). -/
def acquireBy (s : State) (core ws : Nat) (lanes : Word) (wide : Bool) : State :=
  let s := sees s core ws lanes (groupWrites s core ws)
  if wide then invalidateL1 s core else s

end Sys2Proof.Machine
end

