-- ==== Sys2Proof/Machine/Memory.lean ====
section
/-! DEFINITION. Machine/Memory.lean: loads, stores and atomics of global memory, constant loads, prefetch and cache control
(10 R255 to R262, R265, R266, R271 to R277): their addresses, the requests they send to home slices, and how their lanes
wait for the answers. -/

namespace Sys2Proof.Machine

/-! ### Addresses -/

/-- Bytes of an access by its size code (07 R171). -/
def sizeOf (t : Nat) : Nat := if t ≤ 1 then 1 else if t ≤ 3 then 2 else if t = 4 then 4 else if t = 5 then 8 else 16

/-- The signed literal offset (07 R168). -/
def litOff (f : Fields) : Int := match f.lit with | some v => sxt v.toNat 64 | none => 0

/-- The effective address of class M (07 R171, 10 R257). -/
def eaM (w : Warp) (lane : Nat) (f : Fields) (size : Nat) : VA :=
  let kind := fld f.fn 0 2
  let idx : Int :=
    if kind = 0 then 0 else if kind = 1 then rread w lane f.b.toNat else if kind = 2 then sxt (rread w lane f.b.toNat) 32
    else rread2 w lane f.b.toNat
  BitVec.ofInt 57 (rread2 w lane f.a.toNat + idx * 2 ^ fld f.fn 2 2 + sxt f.c.toNat 8 * size + litOff f)

/-- The effective address of class A (07 R172). -/
def eaA (w : Warp) (lane : Nat) (f : Fields) : VA := BitVec.ofInt 57 (rread2 w lane f.a.toNat + litOff f)

/-- The lanes that perform a memory instruction: the guarded ones, or one for a uniform form (06 R140, 10 R257). -/
def actors (op : Nat) (f : Fields) (x : Iss) (w : Warp) : List Nat :=
  if uniformForm op f then (if guardUni w f.g then [x.lane0] else []) else guarded w x.mask f.g

/-- The lanes that an instruction names in tr.mask for the actors that offend (10 R257). -/
def blame (op : Nat) (f : Fields) (x : Iss) (lanes : List Nat) : Word :=
  if uniformForm op f then x.mask else laneMask (fun l => lanes.contains l)

/-- The trap of the lanes whose address breaks a rule (10 R257, 17 R444): 4 misaligned, 5 scratchpad range. -/
def addrTrap (op : Nat) (f : Fields) (x : Iss) (s : State) (code : Nat) (bad : List (Nat × VA)) : State :=
  x.trap s code 0 (blame op f x (bad.map (·.1))) 0
    (match bad with | (_, va) :: _ => va.setWidth 64 | [] => 0#64)

/-- Whether an address is a multiple of a size. -/
def alignedVA (va : VA) (n : Nat) : Bool := va.toNat % n == 0

/-- Lanes that name the same bytes, served by one access, in the order of their lowest lanes (10 R257). -/
def sameBytes : List (Nat × VA) → List (VA × List Nat)
  | [] => []
  | (l, va) :: rest =>
    let gs := sameBytes rest
    match gs.find? (fun g => g.1 == va) with
    | some g => (va, l :: g.2) :: gs.filter (fun g => g.1 != va)
    | none => (va, [l]) :: gs

/-- The single-copy-atomic parts of an access: itself, or two halves of 8 bytes, with the word each begins (10 R258). -/
def parts (va : VA) (size : Nat) : List (VA × Nat × Nat) :=
  if size = 16 then [(va, 8, 0), (va + 8#57, 8, 2)] else [(va, size, 0)]

/-! ### Requests -/

/-- Whether a request is of these 64 bytes. -/
def Req.onLine (r : Req) (core part atag line : Nat) : Bool :=
  r.core == core && r.part == part && r.atag == atag && r.va.toNat / 64 == line

/-- A request given its number. -/
def pushReq (s : State) (r : Req) : Nat × State :=
  (s.nextId, { s with reqs := put s.reqs s.nextId r, nextId := s.nextId + 1 })

/-- Data on its way to the core may no longer fill a line (12 R319). -/
def markNoFill (s : State) (core part atag line : Nat) : State :=
  { s with reqs := s.reqs.map (fun e => if e.2.onLine core part atag line then (e.1, { e.2 with noFill := true }) else e) }

/-- The L1 line whose sector serves an access of a core; the aperture is closed to contexts whose ASID is not 0 (04 R75, R76). -/
def l1Line (s : State) (core part asid : Nat) (va : VA) : Option CLine :=
  if regionOf va = .aperture ∧ asid ≠ 0 then none
  else (lineFind (coreOf s core).l1 part (atagOf asid va) (va.toNat / 64)).filter (fun l => nbit l.sv (va.toNat / 32 % 2))

/-- An L1 line removed. -/
def l1Drop (s : State) (core part atag line : Nat) : State :=
  modCore s core (fun c => { c with l1 := c.l1.filter (fun l => !isLine part atag line l) })
/-- A line removed that data on its way may not fill again either (12 R319). -/
def l1Forget (s : State) (core part atag line : Nat) : State := l1Drop (markNoFill s core part atag line) core part atag line

/-- An L1 line with bytes written. DESIGN CHOICE: a store's hit is no use of its line in the order of replacement, for 04 R77 does
not say (log 65). -/
def l1Patch (s : State) (core part atag : Nat) (va : VA) (bs : List Byte) : State :=
  modCore s core (fun c => { c with l1 := c.l1.map (fun l =>
    if isLine part atag (va.toNat / 64) l then { l with bytes := patchBytes l.bytes (va.toNat % 64) bs } else l) })

/-- A request of a warp's instruction. -/
def warpReq (x : Iss) (w : Warp) (iid : Nat) (lanes : Word) (va : VA) (size : Nat) (op : MemOp) (dst ext off : Nat)
    (uniform acq wide noL1 stream : Bool) : Req :=
  { core := x.core, wslot := x.wslot, gslot := w.gslot, grid := w.grid, iid := iid, lanes := lanes, part := w.part, asid := w.asid, va := va, size := size,
    op := op, stage := .toHome, dst := dst, ext := ext, off := off, uniform := uniform, acquire := acq, wide := wide,
    noL1 := noL1, stream := stream, noFill := false, sent := false, snap := [], fill := none }

/-- A value of a load extended to the registers it fills (10 R258). -/
def extend (t v : Nat) : Nat :=
  if t = 1 then wrapN (sxt v 8) 32 else if t = 3 then wrapN (sxt v 16) 32 else v

/-- A load's bytes written to its destination in the lanes it serves (10 R258). -/
def loadWrite (w : Warp) (lanes : List Nat) (dst ext off size v : Nat) : Warp :=
  if dst = 255 then w
  else
    let put := fun (w : Warp) (l : Nat) =>
      if size = 8 then rwrite (rwrite w l (dst + off) (v % 2 ^ 32)) l (dst + off + 1) (v / 2 ^ 32)
      else rwrite w l dst (extend ext v)
    if isUni dst then put w 0 else lanes.foldl put w

/-! ### Instructions that wait for answers -/

/-- The instruction of number `iid` has every answer: the lanes of its path that were not refused go on; translation faults are reported,
data errors are the precise trap. While a handler runs, lanes refused for a data error issue again after it (10 R257,
17 R446). -/
def finishInfl (s : State) (core ws iid : Nat) : State :=
  let w := warpAt s core ws
  match w.infl.find? (fun f => f.iid == iid) with
  | none => s
  | some f =>
    if !f.open_.isEmpty then s
    else
      let bad := laneMask (fun l => f.faults.any (fun e => e.lane == l) || f.derr.any (fun e => e.1 == l))
      let whole := f.faults.isEmpty && f.derr.isEmpty
      let handler := f.lanes == 0#32
      let s := modWarp s core ws (fun w =>
        let w := { w with infl := w.infl.filter (fun g => g.iid != iid) }
        let w := modLanes w f.pathMask (fun i l =>
          if l.wait = .mem iid then (if bad.getLsbD i then { l with wait := .none } else releaseLane f.len l) else l)
        if handler && whole && w.hmode then { w with hpc := w.hpc + BitVec.ofNat 57 f.len } else w)
      let s := reserveFaults s core ws f.pc f.inst f.len f.faults none
      let w := warpAt s core ws
      let s :=
        if f.derr.isEmpty ∨ w.trapPend.isSome ∨ (w.hmode ∧ !handler) then s
        else
          let lowest := f.derr.foldl (fun (b : Nat × VA) e =>
            if e.1 < b.1 ∨ (e.1 = b.1 ∧ e.2.toNat < b.2.toNat) then e else b) (33, 0#57)
          let t : Trap :=
            { code := 8, detail := 0, aux := 0, mask := laneMask (fun l => f.derr.any (fun e => e.1 == l)), elem := 0,
              addr := lowest.2.setWidth 64, inst := f.inst, pc := f.pc, len := f.len }
          modWarp s core ws (fun w => { w with trapPend := some t })
      reap s core

/-- Requests sent: the lanes of the path wait for their answers together (10 R257, 08 R212). -/
def sendInfl (x : Iss) (s : State) (op : Nat) (f : Fields) (lanes : List Nat) (iid : Nat) (rids : List Nat)
    (faults : List LaneFault) : State :=
  let m := if uniformForm op f then x.mask else laneMask (fun l => lanes.contains l)
  let hm := (x.warp s).hmode
  let rec_ : Infl :=
    { iid := iid, pc := x.pc, len := x.len, inst := x.word, lanes := if hm then 0#32 else m, pathMask := x.mask,
      open_ := rids, faults := faults, derr := [] }
  let s := x.mod s (fun w =>
    let w := { w with infl := w.infl ++ [rec_] }
    if hm then w else modLanes w x.mask (fun _ l => { l with wait := .mem iid }))
  if rids.isEmpty then finishInfl s x.core x.wslot iid else s

/-- One answer to an instruction: a fault of its lanes, a data error, or neither. -/
def answerInfl (s : State) (core ws iid rid : Nat) (lanes : Word) (va : VA) (acc : Nat) (e : Option AccErr) : State :=
  if ws = noWarp then s
  else
    let s := modWarp s core ws (fun w => { w with infl := w.infl.map (fun f =>
      if f.iid = iid then
        let ls := if f.lanes = 0#32 then [32] else maskLanes lanes
        let g : Infl := { f with open_ := f.open_.filter (· != rid) }
        match e with
        | some (.fault c) => { g with faults := g.faults ++ ls.map (fun l => ⟨l, va, c, acc, 0⟩) }
        | some .dataError => { g with derr := g.derr ++ ls.map (fun l => (l, va)) }
        | none => g
      else f) })
    finishInfl s core ws iid

/-- A number for an instruction that waits. -/
def freshIid (s : State) : Nat × State := (s.nextId, { s with nextId := s.nextId + 1 })

/-! ### Loads -/

/-- Stores of the core in flight that overlap an access: a hit may return them before they are acknowledged (12 R325). -/
def storesOver (s : State) (core part atag : Nat) (va : VA) (n : Nat) : List Nat :=
  (s.reqs.filter (fun e => e.2.core == core && e.2.part == part && e.2.atag == atag && e.2.op.isWrite &&
    decide (e.2.va.toNat < va.toNat + n) && decide (va.toNat < e.2.va.toNat + e.2.size))).map (·.1)

/-- Whether a value of a line is still on its way to the core: then a later load follows it to the home slice (12 R319). -/
def valueInFlight (s : State) (core part atag line : Nat) : Bool :=
  s.reqs.any (fun e => e.2.onLine core part atag line && e.2.op.returns)

/-- The parts of a load: those the L1 serves are written, the others sent (10 R258, R260, 04 R77). -/
def loadParts (x : Iss) (w : Warp) (iid : Nat) (f : Fields) (dst ext : Nat) (uniform acq wide mayHit : Bool) (op : MemOp) :
    List (VA × Nat × Nat × List Nat) → State → List Nat × State
  | [], s => ([], s)
  | (va, n, off, lanes) :: rest, s =>
    let atag := atagOf w.asid va
    let line := va.toNat / 64
    let m := if w.hmode then 0#32 else if uniform then x.mask else laneMask (fun l => lanes.contains l)
    match (if mayHit && !valueInFlight s x.core w.part atag line then l1Line s x.core w.part w.asid va else none) with
    | some cl =>
      let v := leAt cl.bytes (va.toNat % 64) n
      let seen := storesOver s x.core w.part atag va n
      let s := modCore s x.core (fun c => { c with l1 := lineTouch c.l1 cl })
      let s := x.mod s (fun w => loadWrite w lanes dst ext off n v)
      let s := if acq then acquireBy s x.core x.wslot m false else s
      let s := if seen.isEmpty then s else sees s x.core x.wslot m seen
      loadParts x w iid f dst ext uniform acq wide mayHit op rest s
    | none =>
      let (rid, s) := pushReq s (warpReq x w iid m va n op dst ext off uniform acq wide (f.mb != 0#4) (f.mb == 2#4))
      let (rids, s) := loadParts x w iid f dst ext uniform acq wide mayHit op rest s
      (rid :: rids, s)

def loadBody (op : Nat) (mop : MemOp) (f : Fields) (x : Iss) (s : State) : State :=
  let w := x.warp s
  let size := sizeOf f.t.toNat
  let lanes := actors op f x w
  let eas := lanes.map (fun l => (l, eaM w l f size))
  let bad := eas.filter (fun e => !alignedVA e.2 size)
  if lanes.isEmpty then x.next s
  else if !bad.isEmpty then addrTrap op f x s 4 bad
  else
    let acq := maAcquires f.ma.toNat
    let wide := acq && decide (2 ≤ maScope f.ma.toNat)
    let (iid, s) := freshIid s
    let ps := (sameBytes eas).flatMap (fun g => (parts g.1 size).map (fun p => (p.1, p.2.1, p.2.2, g.2)))
    let (rids, s) := loadParts x w iid f f.d.toNat f.t.toNat (uniformForm op f) acq wide (!wide && mop == .load) mop ps s
    sendInfl x s op f lanes iid rids []

/-- LD (10 R258, R260). -/
def execLd (f : Fields) (s : State) : Host.Outcome State Fault Refusal := issue 128 f (loadBody 128 .load f) s

/-- LDR (10 R276). -/
def execLdr (f : Fields) (s : State) : Host.Outcome State Fault Refusal := issue 148 f (loadBody 148 .ldr f) s

/-! ### Stores -/

/-- Whether an instruction with a release must still wait before its access (10 R260, 12 R324). -/
def holdsRelease (x : Iss) (s : State) (lanes : List Nat) (ma : Nat) : Bool :=
  maReleases ma && !releaseReady s x.core x.wslot (laneMask (fun l => lanes.contains l)) (maScope ma)

/-- The lanes whose earlier accesses a release of these actors waits for: the whole path for a uniform form. -/
def releasers (op : Nat) (f : Fields) (x : Iss) (lanes : List Nat) : List Nat :=
  if uniformForm op f then maskLanes x.mask else lanes

/-- The parts of a store: one refused by a read-only L1 line faults at the core; the others update the line and are sent
(04 R77, 10 R259). -/
def storeParts (x : Iss) (w : Warp) (iid : Nat) (f : Fields) (uniform : Bool) :
    List (VA × List Byte × List Nat) → State → (List Nat × List LaneFault) × State
  | [], s => (([], []), s)
  | (va, bs, lanes) :: rest, s =>
    let atag := atagOf w.asid va
    let ro := match l1Line s x.core w.part w.asid va with | some cl => !cl.wr | none => false
    let m := if w.hmode then 0#32 else if uniform then x.mask else laneMask (fun l => lanes.contains l)
    if ro then
      let ((rids, fs), s) := storeParts x w iid f uniform rest s
      ((rids, (if w.hmode then [32] else maskLanes m).map (fun l => ⟨l, va, .permission, 1, 0⟩) ++ fs), s)
    else
      let s := markNoFill s x.core w.part atag (va.toNat / 64)
      let s := if regionOf va = .aperture ∧ w.asid ≠ 0 then s else l1Patch s x.core w.part atag va bs
      let (rid, s) := pushReq s (warpReq x w iid m va bs.length (.store bs) 255 f.t.toNat 0 uniform false false (f.mb != 0#4) (f.mb == 2#4))
      let ((rids, fs), s) := storeParts x w iid f uniform rest s
      ((rid :: rids, fs), s)

/-- The bytes of a store's data operand in a lane (10 R256). -/
def storeBytes (w : Warp) (lane : Nat) (f : Fields) (size : Nat) : List Byte :=
  let d := f.d.toNat
  if size = 16 then (upto 4).flatMap (fun i => toBytes 4 (rread w lane (d + i)))
  else toBytes size (if size = 8 then rread2 w lane d else rread w lane d)

def storeBody (op : Nat) (f : Fields) (x : Iss) (s : State) : State :=
  let w := x.warp s
  let size := sizeOf f.t.toNat
  let lanes := actors op f x w
  let eas := lanes.map (fun l => (l, eaM w l f size))
  let bad := eas.filter (fun e => !alignedVA e.2 size)
  if lanes.isEmpty then x.next s
  else if !bad.isEmpty then addrTrap op f x s 4 bad
  else if holdsRelease x s (releasers op f x lanes) f.ma.toNat then s
  else
    let (iid, s) := freshIid s
    let ps := (sameBytes eas).flatMap (fun g =>
      let bs := storeBytes w (g.2.getLastD 0) f size
      (parts g.1 size).map (fun p => (p.1, sliceBytes bs (4 * p.2.2) p.2.1, g.2)))
    let ((rids, fs), s) := storeParts x w iid f (uniformForm op f) ps s
    sendInfl x s op f lanes iid rids fs

/-- ST (10 R257, R259, R260). -/
def execSt (f : Fields) (s : State) : Host.Outcome State Fault Refusal := issue 129 f (storeBody 129 f) s

/-! ### Atomics -/

/-- The requests of an atomic, one for each location, its lanes ascending (10 R272). -/
def atomParts (x : Iss) (w : Warp) (iid : Nat) (f : Fields) (uniform acq wide : Bool) (dst n : Nat)
    (mk : List Nat → MemOp) : List (VA × List Nat) → State → List Nat × State
  | [], s => ([], s)
  | (va, lanes) :: rest, s =>
    let s := markNoFill s x.core w.part (atagOf w.asid va) (va.toNat / 64)
    let m := if w.hmode then 0#32 else if uniform then x.mask else laneMask (fun l => lanes.contains l)
    let (rid, s) := pushReq s (warpReq x w iid m va n (mk lanes) dst 4 0 uniform acq wide (f.mb != 0#4) (f.mb == 2#4))
    let (rids, s) := atomParts x w iid f uniform acq wide dst n mk rest s
    (rid :: rids, s)

/-- An atomic instruction whose operation in each lane takes b and c. -/
def atomBody (op : Nat) (f : Fields) (dst : Nat) (apart : Bool) (mk : List (Nat × Nat × Nat) → MemOp) (x : Iss) (s : State) :
    State :=
  let w := x.warp s
  let t := f.t.toNat
  let n := atomBytes t
  let lanes := actors op f x w
  let eas := lanes.map (fun l => (l, eaA w l f))
  let bad := eas.filter (fun e => !alignedVA e.2 n)
  if lanes.isEmpty then x.next s
  else if !bad.isEmpty then addrTrap op f x s 4 bad
  else if holdsRelease x s (releasers op f x lanes) f.ma.toNat then s
  else
    let acq := maAcquires f.ma.toNat
    let wide := acq && decide (2 ≤ maScope f.ma.toNat)
    let (iid, s) := freshIid s
    let gs := if apart then eas.map (fun e => (e.2, [e.1])) else sameBytes eas
    let (rids, s) := atomParts x w iid f (uniformForm op f) acq wide dst n
      (fun ls => mk (ls.map (fun l => (l, srcN w l (tRegs t) f.b.toNat, srcN w l (tRegs t) f.c.toNat)))) gs s
    sendInfl x s op f lanes iid rids []

/-- The operation of an atomic request. -/
def mkAtomic (fn t : Nat) (ops : List (Nat × Nat × Nat)) : MemOp := .atomic fn t (ops.map (fun o => (o.1, o.2.1, o.2.2)))

/-- ATOM (10 R271, R272). -/
def execAtom (f : Fields) (s : State) : Host.Outcome State Fault Refusal :=
  issue 144 f (atomBody 144 f f.d.toNat false (mkAtomic f.fn.toNat f.t.toNat)) s

/-- ATOMC (10 R273). -/
def execAtomc (f : Fields) (s : State) : Host.Outcome State Fault Refusal :=
  issue 145 f (atomBody 145 f f.d.toNat false (mkAtomic 9 f.t.toNat)) s

/-- RED (10 R274). -/
def execRed (f : Fields) (s : State) : Host.Outcome State Fault Refusal :=
  issue 146 f (atomBody 146 f 255 false (mkAtomic f.fn.toNat f.t.toNat)) s

/-- STC (10 R277): one request for each lane, ascending. -/
def execStc (f : Fields) (s : State) : Host.Outcome State Fault Refusal :=
  issue 149 f (atomBody 149 f f.d.toNat true (fun ops => .stc f.t.toNat (ops.map (fun o => (o.1, o.2.1))))) s

/-! ### Constant loads, prefetch, cache control -/

/-- LDC in the lanes, one after another; the lanes refused (10 R262, 04 R78). -/
def ldcLanes (x : Iss) (w : Warp) (f : Fields) (size : Nat) :
    List (Nat × VA) → State → (List (Nat × Nat) × List (Nat × VA × AccErr)) × State
  | [], s => (([], []), s)
  | (l, va) :: rest, s =>
    let (r, s) := fetchC s x.core w.part w.asid .const va size
    let ((good, bad), s) := ldcLanes x w f size rest s
    match r with
    | .ok bs => (((l, ofBytes bs) :: good, bad), s)
    | .error e => ((good, (l, va, e) :: bad), s)

/-- A load's whole value written in a lane, 16 bytes as four words. -/
def loadAll (w : Warp) (lane dst t v : Nat) : Warp :=
  if dst = 255 then w
  else if t = 6 then (upto 4).foldl (fun w i => rwrite w lane (dst + i) (v / 2 ^ (32 * i) % 2 ^ 32)) w
  else if t = 5 then rwrite (rwrite w lane dst (v % 2 ^ 32)) lane (dst + 1) (v / 2 ^ 32)
  else rwrite w lane dst (extend t v)

def ldcBody (f : Fields) (x : Iss) (s : State) : State :=
  let w := x.warp s
  let size := sizeOf f.t.toNat
  let lanes := actors 130 f x w
  let eas := lanes.map (fun l => (l, eaM w l f size))
  let bad := eas.filter (fun e => !alignedVA e.2 size)
  if lanes.isEmpty then x.next s
  else if !bad.isEmpty then addrTrap 130 f x s 4 bad
  else
    let ((good, refused), s) := ldcLanes x w f size eas s
    let s := x.mod s (fun w => good.foldl (fun w e => loadAll w e.1 f.d.toNat f.t.toNat e.2) w)
    let uni := uniformForm 130 f
    let held := if uni then (if refused.isEmpty then 0#32 else x.mask)
      else laneMask (fun l => refused.any (fun e => e.1 == l))
    let s := if refused.isEmpty then x.next s else x.mod s (fun w =>
      if w.hmode then w else advance w (x.mask &&& ~~~held) x.len)
    let charge := fun (l : Nat) => if uni then x.chargeLanes s else [l]
    let faults := refused.flatMap (fun e => match e.2.2 with
      | .fault c => (charge e.1).map (fun l => (⟨l, e.2.1, c, 0, 1⟩ : LaneFault))
      | .dataError => [])
    let derr := refused.filter (fun e => e.2.2 == .dataError)
    let s := reserveFaults s x.core x.wslot x.pc x.word x.len faults none
    if derr.isEmpty then s
    else x.trap s 8 0 (if uni then x.mask else laneMask (fun l => derr.any (fun e => e.1 == l))) 0
      (match derr with | (_, va, _) :: _ => va.setWidth 64 | [] => 0#64)

/-- LDC (10 R262). -/
def execLdc (f : Fields) (s : State) : Host.Outcome State Fault Refusal := issue 130 f (ldcBody f) s

/-- PREF (10 R265): one request for each line; nothing waits for it. -/
def prefBody (f : Fields) (x : Iss) (s : State) : State :=
  let w := x.warp s
  let eas := (actors 135 f x w).map (fun l => (l, BitVec.ofNat 57 ((eaM w l f 1).toNat / 64 * 64)))
  let s := (sameBytes eas).foldl (fun s g =>
    (pushReq s (warpReq x w 0 0#32 g.1 64 .pref 255 4 0 false false false (f.mb != 0#4) (f.mb == 2#4))).2) s
  x.next s

/-- PREF (10 R265). -/
def execPref (f : Fields) (s : State) : Host.Outcome State Fault Refusal := issue 135 f (prefBody f) s

/-- The lines of a core-side cache that stay: all but those removed by CCTL (10 R266). -/
def cctlBody (f : Fields) (x : Iss) (s : State) : State :=
  let w := x.warp s
  let which := fld f.t 0 2
  let drop := fun (keep : CLine → Bool) (c : Core) =>
    if which = 0 then { c with l1 := c.l1.filter keep }
    else if which = 1 then { c with kc := c.kc.filter keep }
    else { c with ic := c.ic.filter keep }
  if wbit f.t 2 then
    if (if uniformForm 136 f ∨ !guardP f.g then !guardUni w f.g else (guarded w x.mask f.g).isEmpty) then x.next s
    else
      let s := if which = 0 then invalidateL1 s x.core else modCore s x.core (drop (fun _ => false))
      x.next s
  else
    let vas := (actors 136 f x w).map (fun l => eaM w l f 1)
    let s := vas.foldl (fun s va =>
      let atag := atagOf w.asid va
      let line := va.toNat / 64
      let s := if which = 0 then markNoFill s x.core w.part atag line else s
      modCore s x.core (drop (fun l => !isLine w.part atag line l))) s
    x.next s

/-- CCTL (10 R266). -/
def execCctl (f : Fields) (s : State) : Host.Outcome State Fault Refusal := issue 136 f (cctlBody f) s

end Sys2Proof.Machine
end

