-- ==== Sys2Proof/Machine/Scratch.lean ====
section
/-! DEFINITION. Machine/Scratch.lean: the scratchpad of a group and of its neighbours
(05 R105 to R110, 10 R263, R264, R275), semaphores (05 R111, R112, 10 R286) and barrier objects (05 R128, R129). -/

namespace Sys2Proof.Machine

/-! ### Scratchpad -/

/-- Bytes of a group's scratchpad region (05 R105). -/
def Group.size (g : Group) : Nat := g.rec_.spad * 256

/-- Whether a range holds an uncorrectable word (05 R109). -/
def spadBad (g : Group) (o n : Nat) : Bool := g.spadErr.any (fun w => decide (o / 4 ≤ w) && decide (w ≤ (o + (n - 1)) / 4))

/-- Bytes of a region; a byte never written is zero (05 R105). -/
def spadRead (g : Group) (o n : Nat) : List Byte := readRun g.spad o n

/-- Bytes written to a region; a whole word written loses its error (05 R109). -/
def spadWrite (g : Group) (o : Nat) (bs : List Byte) : Group :=
  { g with spad := writeRun g.spad o bs,
           spadErr := g.spadErr.filter (fun w => !(decide (o ≤ 4 * w) && decide (4 * w + 4 ≤ o + bs.length))) }

/-- Where a scratchpad address lies: core, group slot, offset; none out of range (05 R108, R110). -/
def spadTarget (x : Iss) (s : State) (quad : Bool) (ea n : Nat) : Option (Nat × Nat × Nat) :=
  let w := x.warp s
  match w.gslot with
  | none => none
  | some g =>
    match groupAt s x.core g with
    | none => none
    | some own =>
      if !quad then (if ea + n ≤ own.size then some (x.core, g, ea) else none)
      else if ea / 2 ^ 21 ≠ 0 then none
      else
        let m := ea / 2 ^ 19
        let o := ea % 2 ^ 19
        let place := if own.members.isEmpty then (if m = 0 then some (x.core, g) else none) else own.members[m]?
        match place with
        | none => none
        | some (c, k) =>
          match groupAt s c k with
          | some t => if o + n ≤ t.size && (own.members.isEmpty || sameSet own t) then some (c, k, o) else none
          | none => none

/-- A group's bytes at a target; none where a word is uncorrectable. -/
def targetRead (s : State) (tg : Nat × Nat × Nat) (n : Nat) : Option (List Byte) :=
  match groupAt s tg.1 tg.2.1 with
  | some g => if spadBad g tg.2.2 n then none else some (spadRead g tg.2.2 n)
  | none => none

def targetWrite (s : State) (tg : Nat × Nat × Nat) (bs : List Byte) : State :=
  modGroup s tg.1 tg.2.1 (fun g => spadWrite g tg.2.2 bs)

/-- What the lanes of a scratchpad instruction do, once each address is aligned and in range: `go` performs one lane and
answers the registers it writes, or none where a word it reads is uncorrectable (10 R257, R263, 05 R109). -/
def spadLanes (x : Iss) (go : Nat → Nat × Nat × Nat → State → Option (List (Nat × Nat)) × State) :
    List (Nat × Nat × Nat × Nat) → State → List Nat × State
  | [], s => ([], s)
  | (l, tg) :: rest, s =>
    match go l tg s with
    | (some rs, s) => spadLanes x go rest (x.mod s (fun w => rs.foldl (fun w e => rwrite w l e.1 e.2) w))
    | (none, s) => let (bad, s) := spadLanes x go rest s; (l :: bad, s)

/-- A scratchpad instruction of an access size: alignment, range, then its lanes in ascending order (10 R257, R263). -/
def spadBody (op : Nat) (quad : Bool) (size : Nat) (ea : Warp → Nat → VA) (f : Fields)
    (go : Warp → Nat → Nat × Nat × Nat → State → Option (List (Nat × Nat)) × State) (x : Iss) (s : State) : State :=
  let w := x.warp s
  let lanes := actors op f x w
  let eas := lanes.map (fun l => (l, ea w l))
  let bad := eas.filter (fun e => !alignedVA e.2 size)
  let out := eas.filter (fun e => (spadTarget x s quad e.2.toNat size).isNone)
  if lanes.isEmpty then x.next s
  else if !bad.isEmpty then addrTrap op f x s 4 bad
  else if !out.isEmpty then addrTrap op f x s 5 out
  else
    let (err, s) := spadLanes x (go w)
      (eas.filterMap (fun e => (spadTarget x s quad e.2.toNat size).map (fun t => (e.1, t)))) s
    if err.isEmpty then x.next s
    else
      let m := blame op f x err
      let s := x.mod s (fun w => if w.hmode then w else advance w (x.mask &&& ~~~m) x.len)
      x.trap s 8 1 m 0 (match eas.find? (fun e => err.contains e.1) with | some e => e.2.setWidth 64 | none => 0#64)

/-- The destination registers of a load value. -/
def loadRegs (f : Fields) (v : Nat) : List (Nat × Nat) :=
  let t := f.t.toNat
  let d := f.d.toNat
  if d = 255 then []
  else if t = 6 then (upto 4).map (fun i => (d + i, v / 2 ^ (32 * i) % 2 ^ 32))
  else if t = 5 then [(d, v % 2 ^ 32), (d + 1, v / 2 ^ 32)]
  else [(d, extend t v)]

def spadLoad (f : Fields) (_ : Warp) (_ : Nat) (tg : Nat × Nat × Nat) (s : State) :
    Option (List (Nat × Nat)) × State :=
  match targetRead s tg (sizeOf f.t.toNat) with
  | some bs => (some (loadRegs f (ofBytes bs)), s)
  | none => (none, s)

def spadStore (f : Fields) (w : Warp) (l : Nat) (tg : Nat × Nat × Nat) (s : State) :
    Option (List (Nat × Nat)) × State :=
  (some [], targetWrite s tg (storeBytes w l f (sizeOf f.t.toNat)))

/-- The address of a class M scratchpad access. -/
def eaSpad (f : Fields) (w : Warp) (l : Nat) : VA := eaM w l f (sizeOf f.t.toNat)

/-- LDSP (10 R263). -/
def execLdsp (f : Fields) (s : State) : Host.Outcome State Fault Refusal :=
  issue 131 f (spadBody 131 false (sizeOf f.t.toNat) (eaSpad f) f (spadLoad f)) s

/-- STSP (10 R263): of lanes that name one word the highest lands. -/
def execStsp (f : Fields) (s : State) : Host.Outcome State Fault Refusal :=
  issue 132 f (spadBody 132 false (sizeOf f.t.toNat) (eaSpad f) f (spadStore f)) s

/-- Some lane acts, and every such lane's address is aligned and in range: the instruction performs its lanes (10 R257). -/
def spadGoes (op : Nat) (quad : Bool) (size : Nat) (ea : Warp → Nat → VA) (f : Fields) (x : Iss) (s : State) : Bool :=
  let w := x.warp s
  let lanes := actors op f x w
  !lanes.isEmpty && lanes.all (fun l => alignedVA (ea w l) size && (spadTarget x s quad (ea w l).toNat size).isSome)

/-- LDQ (10 R264): code 3 acquires at QUAD scope after the access (10 R260). -/
def execLdq (f : Fields) (s : State) : Host.Outcome State Fault Refusal :=
  issue 133 f (fun x s =>
    let t := spadBody 133 true (sizeOf f.t.toNat) (eaSpad f) f (spadLoad f) x s
    if f.ma = 3#4 && spadGoes 133 true (sizeOf f.t.toNat) (eaSpad f) f x s then
      acquireBy t x.core x.wslot (laneMask (fun l => (actors 133 f x (x.warp s)).contains l)) true
    else t) s

/-- STQ (10 R264): code 8 releases at QUAD scope. -/
def execStq (f : Fields) (s : State) : Host.Outcome State Fault Refusal :=
  issue 134 f (fun x s =>
    let lanes := actors 134 f x (x.warp s)
    if !lanes.isEmpty && holdsRelease x s (releasers 134 f x lanes) f.ma.toNat then s
    else spadBody 134 true (sizeOf f.t.toNat) (eaSpad f) f (spadStore f) x s) s

/-- One lane of ATOMSP (10 R271, R275). -/
def atomspLane (f : Fields) (w : Warp) (l : Nat) (tg : Nat × Nat × Nat) (s : State) :
    Option (List (Nat × Nat)) × State :=
  let t := f.t.toNat
  let n := atomBytes t
  match targetRead s tg n with
  | none => (none, s)
  | some bs =>
    let o := ofBytes bs
    let v := atomNew f.fn.toNat t o (srcN w l (tRegs t) f.b.toNat) (srcN w l (tRegs t) f.c.toNat)
    (some (dstWords f.d.toNat t o), targetWrite s tg (toBytes n v))

/-- ATOMSP (10 R275). -/
def execAtomsp (f : Fields) (s : State) : Host.Outcome State Fault Refusal :=
  issue 147 f (spadBody 147 false (atomBytes f.t.toNat) (fun w l => eaA w l f) f (atomspLane f)) s

/-! ### Semaphores -/

/-- A semaphore of a group: index 0 reads 0xFFFF (05 R111). -/
def semGet (g : Group) (i : Nat) : Nat := if i = 0 then 0xFFFF else getD 0 g.sem i

/-- A semaphore with an amount added (05 R112); additions to index 0 are discarded. -/
def semAdd (g : Group) (i : Nat) (d : Int) : Group :=
  if i = 0 then g else { g with sem := setD 0 g.sem i (satadd (semGet g i) d) }

/-- The group of an instruction that names a semaphore within its declared number, else none (10 R286, 08 R214). -/
def semGroup (x : Iss) (s : State) (i : Nat) : Option (Nat × Group) :=
  match (x.warp s).gslot with
  | none => none
  | some g =>
    match groupAt s x.core g with
    | some y => if i ≤ y.rec_.sems then some (g, y) else none
    | none => none

/-- A uniform instruction that names a semaphore in A: a warp of no group has none, and with a true guard an index above W is
an illegal operand (10 R286, 07 R166, 08 R214). -/
def semBody (f : Fields) (body : Iss → Nat → Group → Nat → State → State) (x : Iss) (s : State) : State :=
  let w := x.warp s
  let i := rread w 0 f.a.toNat
  if w.gslot.isNone then x.illegal s 2 0
  else if !guardUni w f.g then x.next s
  else match semGroup x s i with
    | none => x.illegal s 2 0
    | some (g, y) => body x g y i s

/-- SEMADD (10 R286). -/
def execSemadd (f : Fields) (s : State) : Host.Outcome State Fault Refusal :=
  issue 160 f (semBody f (fun x g y i s =>
    let v := nbits (rawB (x.warp s) 0 f 1) 0 16
    let y := semAdd y i (if f.t = 0 then sxt v 16 else (v : Int))
    let s := modGroup s x.core g (fun _ => y)
    x.next (x.mod s (fun w => rwrite w 0 f.d.toNat (semGet y i))))) s

/-- SEMWAIT (10 R286): the path stays at the instruction until the semaphore reaches the threshold. -/
def execSemwait (f : Fields) (s : State) : Host.Outcome State Fault Refusal :=
  issue 161 f (semBody f (fun x _ y i s =>
    if semGet y i < nbits (rawB (x.warp s) 0 f 1) 0 16 then s
    else x.next (x.mod s (fun w => rwrite w 0 f.d.toNat (semGet y i))))) s

/-- SEMRD (10 R286). -/
def execSemrd (f : Fields) (s : State) : Host.Outcome State Fault Refusal :=
  issue 162 f (semBody f (fun x _ y i s => x.next (x.mod s (fun w => rwrite w 0 f.d.toNat (semGet y i))))) s

/-! ### Barrier objects -/

/-- Fields of a barrier object (05 R128). -/
def objPend (v : Nat) : Int := sxt (nbits v 40 24) 24
def objPhase (v : Nat) : Bool := nbit v 39
def objOvf (v : Nat) : Bool := nbit v 38
def objRsv (v : Nat) : Nat := nbits v 32 6
def objExp (v : Nat) : Nat := nbits v 16 16
def objRem (v : Nat) : Nat := nbits v 0 16

/-- A barrier object of these fields. -/
def mkObj (pend : Int) (phase ovf : Bool) (rsv exp rem : Nat) : Nat :=
  wrapN pend 24 * 2 ^ 40 + (if phase then 2 ^ 39 else 0) + (if ovf then 2 ^ 38 else 0) + rsv * 2 ^ 32 + exp * 2 ^ 16 + rem

/-- One update of a barrier object: bytes added to PEND, and an arrival or none. It sets OVF alone when PEND leaves its
range; it completes the phase when nothing is left (05 R129). -/
def objUpdate (v : Nat) (d : Int) (arrive : Bool) : Nat :=
  let p := objPend v + d
  if p < -8388608 ∨ p > 8388607 then mkObj (objPend v) (objPhase v) true (objRsv v) (objExp v) (objRem v)
  else
    let r := if arrive then (objRem v + 65535) % 65536 else objRem v
    if r = 0 ∧ p = 0 then mkObj 0 (!objPhase v) (objOvf v) (objRsv v) (objExp v) (objExp v)
    else mkObj p (objPhase v) (objOvf v) (objRsv v) (objExp v) r

/-- Whether a lane of a group waits for the object at a place of core `c`, slot `k`, offset `o`, in phase `ph`. -/
def waitsFor (own : Group) (core g c k o : Nat) (ph : Bool) (wt : LWait) : Bool :=
  match wt with
  | .barObj false a p => p == ph && c == core && k == g && a == o
  | .barObj true a p =>
    p == ph && a % 2 ^ 19 == o &&
    (if own.members.isEmpty then c == core && k == g && a / 2 ^ 19 == 0 else own.members[a / 2 ^ 19]? == some (c, k))
  | _ => false

/-- The lanes that wait for a phase of an object released wherever they are, an acquire at GROUP scope, and at a neighbour's
object at QUAD scope (10 R284, R285). -/
def releaseObj (s : State) (c k o : Nat) (ph : Bool) : State :=
  s.cores.foldl (fun s e =>
    let core := e.1
    let hits := e.2.warps.filter (fun w => match w.2.gslot with
      | some g => (match groupAt s core g with
        | some own => w.2.lanes.any (fun l => waitsFor own core g c k o ph l.2.wait)
        | none => false)
      | none => false)
    let quad := hits.any (fun w => w.2.lanes.any (fun l => match l.2.wait with | .barObj true _ _ => true | _ => false))
    let s := hits.foldl (fun s e => modWarp s core e.1 (fun w =>
      match w.gslot with
      | some g => (match groupAt s core g with
        | some own => { w with lanes := w.lanes.map (fun l =>
            if waitsFor own core g c k o ph l.2.wait then (l.1, releaseLane 8 (l.2.sees s (groupWrites s core e.1))) else l) }
        | none => w)
      | none => w)) s
    if quad then invalidateL1 s core else s) s

/-- The update of the object at a place, and the release of its waiters when the phase completes. -/
def updateObj (s : State) (tg : Nat × Nat × Nat) (d : Int) (arrive : Bool) : State :=
  match groupAt s tg.1 tg.2.1 with
  | none => s
  | some g =>
    let v := ofBytes (spadRead g tg.2.2 8)
    let v' := objUpdate v d arrive
    let s := targetWrite s tg (toBytes 8 v')
    if objPhase v' != objPhase v then releaseObj s tg.1 tg.2.1 tg.2.2 (objPhase v) else s

end Sys2Proof.Machine
end

