-- ==== Sys2Proof/Machine/Sync.lean ====
section
/-! DEFINITION. Machine/Sync.lean: fences, barriers, ENQ and completion bitmaps (10 R280 to R287, R291, R292; 05 R114,
R115). -/

namespace Sys2Proof.Machine

/-! ### Fences -/

/-- The lanes of a path whose guard is true; the whole path's number in handler mode (17 R447). -/
def fenceLanes (x : Iss) (w : Warp) (g : BitVec 5) : List Nat :=
  if w.hmode then (if !guardP g && guardUni w g then [0] else []) else guarded w x.mask g

def fenceBody (f : Fields) (x : Iss) (s : State) : State :=
  let lanes := fenceLanes x (x.warp s) f.g
  let ma := f.ma.toNat
  if lanes.isEmpty then x.next s
  else if holdsRelease x s lanes ma || (maAcquires ma && !valuesBack s x.core x.wslot (laneMask (fun l => lanes.contains l))) then s
  else
    let s := if maAcquires ma then acquireBy s x.core x.wslot (laneMask (fun l => lanes.contains l)) (decide (2 ≤ maScope ma)) else s
    x.next s

/-- FENCE (10 R280, 12 R322): the lanes wait for the release, and for the values of their earlier loads, then the acquire is
performed. -/
def execFence (f : Fields) (s : State) : Host.Outcome State Fault Refusal := issue 152 f (fenceBody f) s

/-- FENCEX (10 R281): with L in P the thread's accesses are acknowledged; with L in Q the acquire action follows. The writes
of other paths that the thread has observed complete stand at their home slices already. -/
def fencexBody (f : Fields) (x : Iss) (s : State) : State :=
  let lanes := fenceLanes x (x.warp s) f.g
  let ma := f.ma.toNat
  let m := laneMask (fun l => lanes.contains l)
  if lanes.isEmpty then x.next s
  else if wbit f.b 0 && holdsRelease x s lanes ma || !valuesBack s x.core x.wslot m then s
  else x.next (if wbit f.c 0 then acquireBy s x.core x.wslot m (decide (2 ≤ maScope ma)) else s)

/-- FENCEX (10 R281). -/
def execFencex (f : Fields) (s : State) : Host.Outcome State Fault Refusal := issue 153 f (fencexBody f) s

/-! ### Barriers -/

/-- The lanes of a wait that ended while a handler held them complete the instruction (17 R457, R462). -/
def hasPassed (w : Warp) (mask : Word) : Bool :=
  (maskLanes mask).any (fun l => match lookup w.lanes l with | some t => t.wait == .passed | none => false)

def barGrpBody (f : Fields) (x : Iss) (s : State) : State :=
  let w := x.warp s
  let lanes := guarded w x.mask f.g
  if hasPassed w x.mask then x.next s
  else if w.isCont then x.illegal s 2 0
  else match w.gslot with
    | none => x.illegal s 2 0
    | some g =>
      if w.clOpen && !w.hmode then x.illegal s 3 0
      else if lanes.isEmpty then x.next s
      else if !releaseReady s x.core x.wslot (laneMask (fun l => lanes.contains l)) 1 then s
      else
        let m := laneMask (fun l => lanes.contains l)
        let s := x.mod s (fun w =>
          modLanes (advance w (x.mask &&& ~~~m) x.len) m (fun _ l => { l with wait := .barGrp }))
        let s := modGroup s x.core g (fun y => { y with gbar := y.gbar ++ lanes.map (fun l => x.wslot * 32 + l) })
        checkGroupBarrier s x.core g

/-- BAR.grp (10 R283, R285). -/
def execBarGrp (f : Fields) (s : State) : Host.Outcome State Fault Refusal := issue 154 f (barGrpBody f) s

/-- The object that an operand names: its place and value, or the trap it raises: misaligned or out of range 5, uncorrectable
8, a reserved field 2 (10 R282). -/
def findObj (x : Iss) (s : State) (quad : Bool) (a : Nat) : Except Nat ((Nat × Nat × Nat) × Nat) :=
  if a % 8 ≠ 0 then .error 5
  else match spadTarget x s quad a 8 with
    | none => .error 5
    | some tg =>
      match targetRead s tg 8 with
      | none => .error 8
      | some bs => if objRsv (ofBytes bs) = 0 then .ok (tg, ofBytes bs) else .error 2

/-- What a barrier instruction does with its object. -/
inductive BarDo where
  | meet | post | await
deriving DecidableEq, Repr

/-- The path waits at the object until its phase differs from `ph` (10 R284). -/
def waitObj (x : Iss) (s : State) (quad : Bool) (a : Nat) (ph : Bool) : State :=
  x.mod s (fun w => modLanes w x.mask (fun _ l => { l with wait := .barObj quad a ph }))

/-- The object forms of BAR, BARX and QBAR (10 R282, R284, R285): one arrival an issue, a release before it and an acquire
after it at the form's scope. -/
def barObjBody (quad : Bool) (d : BarDo) (bytes : Bool) (f : Fields) (x : Iss) (s : State) : State :=
  let w := x.warp s
  let a := rread w 0 f.a.toNat
  let scope := if quad then 2 else 1
  if w.gslot.isNone then x.illegal s 2 0
  else if !guardUni w f.g then x.next s
  else if hasPassed w x.mask then acquireBy (x.next s) x.core x.wslot x.mask quad
  else match findObj x s quad a with
    | .error 2 => x.illegal s 2 0
    | .error 8 => x.trap s 8 1 x.mask 0 (BitVec.ofNat 64 a)
    | .error _ => x.trap s 5 0 x.mask 0 (BitVec.ofNat 64 a)
    | .ok (tg, v) =>
      match d with
      | .await =>
        let ph := nbit (rread w 0 f.b.toNat) 0
        if objPhase v != ph then acquireBy (x.next s) x.core x.wslot x.mask quad else waitObj x s quad a ph
      | _ =>
        if !releaseReady s x.core x.wslot x.mask scope then s
        else
          let add : Int := if bytes then sxt (nbits (rread w 0 f.b.toNat) 0 24) 24 else 0
          let ph := objPhase v
          let done := objPhase (objUpdate v add true) != ph
          let s := updateObj s tg add true
          if d = .post then x.next (x.mod s (fun w => rwrite w 0 f.d.toNat (if ph then 1 else 0)))
          else if done then acquireBy (x.next s) x.core x.wslot x.mask quad
          else waitObj x s quad a ph

/-- BAR.meet (10 R282, R284). -/
def execBarMeet (f : Fields) (s : State) : Host.Outcome State Fault Refusal :=
  issue 154 f (barObjBody false .meet false f) s

/-- BAR.post (10 R282, R284). -/
def execBarPost (f : Fields) (s : State) : Host.Outcome State Fault Refusal :=
  issue 154 f (barObjBody false .post false f) s

/-- BAR.await (10 R282, R284): no arrival. -/
def execBarAwait (f : Fields) (s : State) : Host.Outcome State Fault Refusal :=
  issue 154 f (barObjBody false .await false f) s

/-- BARX.meet (10 R282, R284). -/
def execBarxMeet (f : Fields) (s : State) : Host.Outcome State Fault Refusal :=
  issue 155 f (barObjBody false .meet true f) s

/-- BARX.post (10 R282, R284). -/
def execBarxPost (f : Fields) (s : State) : Host.Outcome State Fault Refusal :=
  issue 155 f (barObjBody false .post true f) s

/-- QBAR.meet (10 R282, R284): on a neighbour's object. -/
def execQbarMeet (f : Fields) (s : State) : Host.Outcome State Fault Refusal :=
  issue 156 f (barObjBody true .meet true f) s

/-- QBAR.post (10 R282, R284). -/
def execQbarPost (f : Fields) (s : State) : Host.Outcome State Fault Refusal :=
  issue 156 f (barObjBody true .post true f) s

/-! ### ENQ -/

/-- The entry of a ring in the engine control block: its first, second, third and last words (05 R114). -/
structure Entry where
  ctl : Nat
  ptr : Nat
  stat : Nat
  last : Nat
deriving DecidableEq, Repr

def ringEntry (g : Group) (e : Nat) : Entry :=
  let d := fun i => ofBytes (spadRead g (32 * e + 8 * i) 8)
  ⟨d 0, d 1, d 2, d 3⟩

def Entry.en (e : Entry) : Bool := nbit e.ctl 0
def Entry.base (e : Entry) : Nat := nbits e.ctl 32 16
def Entry.log2w (e : Entry) : Nat := nbits e.ctl 28 4
def Entry.head (e : Entry) : Nat := nbits e.ptr 32 32
def Entry.tail (e : Entry) : Nat := nbits e.ptr 0 32
def Entry.park (e : Entry) : Bool := nbit e.stat 63

/-- The entry's rules that ENQ checks: enabled, reserved fields zero, a ring of 2^4 to 2^12 words inside the region and
clear of the control block (05 R115). -/
def entryOk (g : Group) (e : Entry) : Bool :=
  e.en && nbits e.ctl 48 16 == 0 && nbits e.ctl 1 27 == 0 && e.last == 0 && decide (4 ≤ e.log2w) && decide (e.log2w ≤ 12) &&
  decide (8 * (e.base + 2 ^ e.log2w) ≤ g.size) && decide (16 ≤ e.base) && decide (128 ≤ g.size)

/-- Command words put into a ring, and TAIL advanced, in one step (05 R115). -/
def ringPut (g : Group) (e : Entry) (ring : Nat) (ws : List Nat) : Group :=
  let g := ((upto ws.length).zip ws).foldl (fun g p =>
    spadWrite g (8 * (e.base + (e.tail + p.1) % 2 ^ e.log2w)) (toBytes 8 p.2)) g
  let g := spadWrite g (32 * ring + 8) (toBytes 4 ((e.tail + ws.length) % 2 ^ 32))
  { g with rings := put g.rings ring { getD Ring.init g.rings ring with used := true } }

def enqBody (f : Fields) (x : Iss) (s : State) : State :=
  let w := x.warp s
  let ring := fld f.fn 0 2
  let a := rread w 0 f.a.toNat
  match w.gslot with
    | none => x.illegal s 2 0
    | some gs =>
      match groupAt s x.core gs with
      | none => x.illegal s 2 0
      | some g =>
        if !guardUni w f.g then x.next s
        else if a % 8 ≠ 0 then x.trap s 4 0 x.mask 0 (BitVec.ofNat 64 a)
        else if a + 8 > g.size then x.trap s 5 0 x.mask 0 (BitVec.ofNat 64 a)
        else if spadBad g a 8 then x.trap s 8 1 x.mask 0 (BitVec.ofNat 64 a)
        else
          let n := nbits (ofBytes (spadRead g a 8)) 32 8
          let e := ringEntry g ring
          if a + 8 * (n + 1) > g.size then x.trap s 5 0 x.mask 0 (BitVec.ofNat 64 a)
          else if spadBad g a (8 * (n + 1)) then x.trap s 8 1 x.mask 0 (BitVec.ofNat 64 a)
          else if spadBad g (32 * ring) 32 then x.trap s 8 1 x.mask 0 (BitVec.ofNat 64 (32 * ring))
          else if !entryOk g e ∨ n + 1 > 2 ^ e.log2w then x.illegal s 2 0
          else if 2 ^ e.log2w < sub32 e.tail e.head + (n + 1) then x.mod s (fun w => { w with enqAt := some x.mask })
          else
            let ws := (upto (n + 1)).map (fun i => ofBytes (spadRead g (a + 8 * i) 8))
            x.next (x.mod (modGroup s x.core gs (fun g => ringPut g e ring ws)) (fun w => { w with enqAt := none }))

/-- ENQ (10 R287, 05 R115): with too little room the warp stays at the instruction, and none of its paths issues. -/
def execEnq (f : Fields) (s : State) : Host.Outcome State Fault Refusal := issue 163 f (enqBody f) s

/-! ### Completion bitmaps -/

/-- A request of the core on the block of an address is in flight. -/
def blockBusy (s : State) (core part atag vb : Nat) : Bool :=
  s.reqs.any (fun e => e.2.core == core && e.2.part == part && e.2.atag == atag && e.2.va.toNat / 128 == vb)

/-- The bits of a bitmap set, one lane after another, each by an atomic at its home slice, of which the core's own line takes the new
value (10 R272, R291). -/
def doneLanes (x : Iss) (w : Warp) : List (Nat × Nat) → State → List (Nat × VA × AccErr) × State
  | [], s => ([], s)
  | (l, i) :: rest, s =>
    let va : VA := w.rec_.bmaddr + BitVec.ofNat 57 (i / 8)
    let atag := atagOf w.asid va
    let r := homeRmw s (warpWho x.core w) .rw va 1 [threadKey x.core x.wslot l] (fun bs =>
      let n := toBytes 1 (ofBytes bs ||| 2 ^ (i % 8))
      (n, n))
    let (bad, s) := doneLanes x w rest (match r.1 with
      | .ok n => l1Patch (markNoFill r.2 x.core w.part atag (va.toNat / 64)) x.core w.part atag va n
      | .error _ => r.2)
    match r.1 with
    | .ok _ => (bad, s)
    | .error e => ((l, va, e) :: bad, s)

/-- Lanes whose synchronous access on a path was refused stay and are reported; the others go on (10 R257, 17 R444). -/
def settle (x : Iss) (s : State) (bad : List (Nat × VA × AccErr)) (stay : List Nat) (acc path : Nat) : State :=
  let held := laneMask (fun l => stay.contains l || bad.any (fun e => e.1 == l))
  let free := bad.isEmpty && stay.isEmpty
  let s := x.mod s (fun w => if w.hmode && !free then w else advance w (x.mask &&& ~~~held) x.len)
  let faults := bad.filterMap (fun e => match e.2.2 with
    | .fault c => some (⟨e.1, e.2.1, c, acc, path⟩ : LaneFault)
    | .dataError => none)
  let derr := bad.filter (fun e => e.2.2 == .dataError)
  let s := reserveFaults s x.core x.wslot x.pc x.word x.len faults none
  match derr with
  | [] => s
  | (_, va, _) :: _ =>
    x.trap s 8 (if path = 4 then 3 else 0) (laneMask (fun l => derr.any (fun e => e.1 == l))) 0 (va.setWidth 64)

def doneBody (f : Fields) (x : Iss) (s : State) : State :=
  let w := x.warp s
  let lanes := guarded w x.mask f.g
  let ixs := lanes.map (fun l => (l, rread w l f.a.toNat))
  if ixs.any (fun e => decide (e.2 ≥ w.rec_.bmlen)) then x.illegal s 2 0
  else if lanes.isEmpty then x.next s
  else if !releaseReady s x.core x.wslot (laneMask (fun l => lanes.contains l)) 3 then s
  else
    let (bad, s) := doneLanes x w ixs s
    settle x s bad [] 2 0

/-- DONE (10 R291). -/
def execDoneBit (f : Fields) (s : State) : Host.Outcome State Fault Refusal := issue 166 f (doneBody f) s

/-- The lanes of TILEWAIT: those whose bit is still 0 or is still being written by the core, and those refused (10 R292). -/
def tileLanes (x : Iss) (w : Warp) (f : Fields) : List Nat → State → (List Nat × List (Nat × VA × AccErr)) × State
  | [], s => (([], []), s)
  | l :: rest, s =>
    let i := rread w l f.a.toNat
    let va : VA := BitVec.ofNat 57 (rawB w l f 2) + BitVec.ofNat 57 (i / 8)
    let busy := blockBusy s x.core w.part (atagOf w.asid va) (va.toNat / 128)
    let r := if busy then (.ok [0#8], s) else homeRead s (warpWho x.core w) .rd va 1
    let ((stay, bad), s) := tileLanes x w f rest r.2
    match r.1 with
    | .ok bs => if nbit (ofBytes bs) (i % 8) then ((stay, bad), s) else ((l :: stay, bad), s)
    | .error e => ((stay, (l, va, e) :: bad), s)

def tilewaitBody (f : Fields) (x : Iss) (s : State) : State :=
  let w := x.warp s
  let lanes := guarded w x.mask f.g
  let ((stay, bad), s) := tileLanes x w f lanes s
  let passes := lanes.any (fun l => !stay.contains l && !bad.any (fun e => e.1 == l))
  let s := settle x s bad stay 0 0
  if passes then acquireBy s x.core x.wslot (laneMask (fun l => lanes.contains l && !stay.contains l)) true else s

/-- TILEWAIT (10 R292). -/
def execTilewait (f : Fields) (s : State) : Host.Outcome State Fault Refusal := issue 167 f (tilewaitBody f) s

end Sys2Proof.Machine
end

