-- ==== Sys2Proof/Machine/Rings.lean ====
section
/-! DEFINITION. Machine/Rings.lean: the commands of the engines' rings: the words at HEAD, the rules that every command keeps,
how a ring parks, and the operands that address words name (05 R113, R114, R117 to R120, R136). -/

namespace Sys2Proof.Machine

/-- An engine at work for a group's ring: core, group slot, ring. -/
structure EngAt where
  core : Nat
  gslot : Nat
  ring : Nat
deriving DecidableEq, Repr

/-- Why a command cannot go on: a status code, or a translation fault (05 R136). -/
inductive EStop where
  | park (code : Nat)
  | fault (va : VA) (c : Cause) (acc : Nat)
deriving DecidableEq, Repr

def EngAt.group (x : EngAt) (s : State) : Option Group := groupAt s x.core x.gslot
def EngAt.mod (x : EngAt) (s : State) (f : Group → Group) : State := modGroup s x.core x.gslot f

def ringOf (g : Group) (ring : Nat) : Ring := getD Ring.init g.rings ring
def setRing (g : Group) (ring : Nat) (r : Ring) : Group := { g with rings := setD Ring.init g.rings ring r }

/-- The path of an engine: T for the transfer channels, S for the SAE (01 R24). -/
def EngAt.who (x : EngAt) (g : Group) : Who :=
  { part := g.part, asid := g.asid, path := if x.ring = 2 then .S else .T, ap := false, core := some x.core }

/-! ### Command words -/

/-- Offset of word `i` of the command at HEAD. -/
def wordAt (e : Entry) (i : Nat) : Nat := 8 * (e.base + (e.head + i) % 2 ^ e.log2w)
def ringWord (g : Group) (e : Entry) (i : Nat) : Nat := ofBytes (spadRead g (wordAt e i) 8)

def hWsem (h : Nat) : Nat := nbits h 56 8
def hSsem (h : Nat) : Nat := nbits h 48 8
def hOpc (h : Nat) : Nat := nbits h 40 8
def hNpay (h : Nat) : Nat := nbits h 32 8
def hThr (h : Nat) : Nat := nbits h 16 16
def hInc (h : Nat) : Nat := nbits h 8 8
def hBar (h : Nat) : Bool := nbit h 1
def hChn (h : Nat) : Bool := nbit h 0

/-- A command: its header and its payload. -/
structure Cmd where
  h : Nat
  ws : List Nat
deriving DecidableEq, Repr

def Cmd.opc (c : Cmd) : Nat := hOpc c.h
def Cmd.w (c : Cmd) (i : Nat) : Nat := nthD 0 c.ws i

/-- The command at HEAD. -/
def cmdAt (g : Group) (e : Entry) : Cmd :=
  let h := ringWord g e 0
  ⟨h, (upto (hNpay h)).map (fun i => ringWord g e (i + 1))⟩

/-- Whether a word of the command at HEAD is uncorrectable (05 R109). -/
def cmdBad (g : Group) (e : Entry) : Bool :=
  spadBad g (wordAt e 0) 8 || (upto (hNpay (ringWord g e 0))).any (fun i => spadBad g (wordAt e (i + 1)) 8)

/-- Fixed words of an opcode of an engine; none where it is unassigned or the other engine's (05 R119). -/
def fixedWords (ring opc : Nat) : Option Nat :=
  if ring < 2 then
    (match opc with
     | 1 => some 3 | 2 => some 9 | 3 => some 5 | 4 => some 5 | 5 => some 6 | 6 => some 3 | 7 => some 2 | _ => none)
  else
    (match opc with
     | 0x10 => some 5 | 0x11 => some 5 | 0x12 => some 3 | _ => none)

/-- The chain word and the barrier word of a command that has them. -/
def Cmd.fixed (c : Cmd) : Nat := c.ws.length - (if hChn c.h then 1 else 0) - (if hBar c.h then 1 else 0)
def Cmd.chainWord (c : Cmd) : Nat := c.w c.fixed
def Cmd.barOff (c : Cmd) : Nat := nbits (c.w (c.ws.length - 1)) 0 19

/-- Reserved bits of an address word (05 R120). -/
def addrOk (w : Nat) : Bool := nbits w 57 6 == 0 && (!nbit w 63 || nbits w 19 38 == 0)

/-- Element bytes of an ESZ code. -/
def eszBytes (z : Nat) : Nat := 2 ^ z

/-- The fields of AFFINE's extents and strides (05 R122). -/
def ext16 (w i : Nat) : Nat := nbits w (16 * i) 16
def Cmd.ext (c : Cmd) (k i : Nat) : Nat := ext16 (c.w k) i
def Cmd.stride (c : Cmd) (k i : Nat) : Int := sxt (nbits (c.w (k + i / 2)) (32 * (i % 2)) 32) 32
def Cmd.affineCount (c : Cmd) (k : Nat) : Nat := c.ext k 0 * c.ext k 1 * c.ext k 2 * c.ext k 3

/-- The reserved fields and values of the fixed words of a command (05 R118, R121, R122, R132). DESIGN CHOICE: the item address of a
BIN that does not read it, with IDX = 1, keeps the rule of every word (log 12). -/
def fixedOk (c : Cmd) : Bool :=
  match c.opc with
  | 1 => addrOk (c.w 0) && addrOk (c.w 1) && nbits (c.w 2) 32 32 == 0
  | 2 =>
    addrOk (c.w 0) && addrOk (c.w 1) && nbits (c.w 8) 3 61 == 0 && decide (nbits (c.w 8) 0 3 ≤ 4) &&
    c.affineCount 2 != 0 && c.affineCount 2 == c.affineCount 3
  | 3 | 4 =>
    addrOk (c.w 0) && addrOk (c.w 1) && addrOk (c.w 2) && nbits (c.w 3) 3 29 == 0 && decide (nbits (c.w 3) 0 3 ≤ 4) &&
    nbits (c.w 4) 32 32 == 0
  | 5 =>
    addrOk (c.w 0) && addrOk (c.w 1) && addrOk (c.w 2) && nbits (c.w 4) 4 12 == 0 && decide (nbits (c.w 4) 0 3 ≤ 4) &&
    nbits (c.w 4) 32 16 != 0 && nbits (c.w 4) 16 16 != 0
  | 6 => addrOk (c.w 0) && nbits (c.w 1) 32 32 == 0
  | 7 =>
    addrOk (c.w 0) && nbits (c.w 1) 16 48 == 0 && nbits (c.w 1) 3 5 == 0 && decide (1 ≤ nbits (c.w 1) 8 8) &&
    decide (nbits (c.w 1) 8 8 ≤ 64)
  | 0x10 =>
    addrOk (c.w 0) && addrOk (c.w 1) && addrOk (c.w 2) && nbits (c.w 3) 8 24 == 0 && decide (nbits (c.w 3) 4 4 ≤ 2) &&
    [0, 1, 8, 14, 15].contains (nbits (c.w 3) 0 4) && nbits (c.w 4) 32 32 == 0
  | 0x11 =>
    addrOk (c.w 0) && addrOk (c.w 1) && addrOk (c.w 2) && addrOk (c.w 3) && nbits (c.w 4) 24 8 == 0 &&
    nbits (c.w 4) 17 3 == 0 && decide (nbits (c.w 4) 20 3 ≤ 3) && decide (1 ≤ nbits (c.w 4) 0 17) &&
    decide (nbits (c.w 4) 0 17 ≤ 65536)
  | 0x12 =>
    addrOk (c.w 0) && addrOk (c.w 1) && nbits (c.w 2) 18 14 == 0 && decide (1 ≤ nbits (c.w 2) 0 17) &&
    decide (nbits (c.w 2) 0 17 ≤ 65536)
  | _ => false

/-- The format rules of a command (05 R118, R119). -/
def cmdOk (ring : Nat) (c : Cmd) : Bool :=
  match fixedWords ring c.opc with
  | none => false
  | some n =>
    nbits c.h 2 6 == 0 && hNpay c.h == n + (if hChn c.h then 1 else 0) + (if hBar c.h then 1 else 0) &&
    (!hChn c.h || decide (c.opc ≤ 5)) && (!hBar c.h || decide (c.opc ≤ 6)) &&
    (!hBar c.h || nbits (c.w (c.ws.length - 1)) 19 45 == 0) &&
    (!hChn c.h || (nbits c.chainWord 48 16 == 0 && nbits c.chainWord 29 3 == 0)) && fixedOk c

/-! ### Parking -/

/-- The upper half of an entry's status word: PARK [31], CODE [23:16], OPC [15:8], RAGOVF [2], IDXOVF [1] (05 R114). -/
def statHi (g : Group) (ring : Nat) : Nat := ofBytes (spadRead g (32 * ring + 20) 4)
def setStatHi (g : Group) (ring v : Nat) : Group := spadWrite g (32 * ring + 20) (toBytes 4 v)

/-- A sticky flag of the status word set. -/
def setSticky (s : State) (x : EngAt) (bit : Nat) : State :=
  x.mod s (fun g => setStatHi g x.ring (statHi g x.ring ||| 2 ^ bit))

/-- The ring parks: PARK, CODE and OPC set, HEAD on the command; codes other than FAULT owe an engine-fault trap (05 R136). -/
def parkGroup (g : Group) (ring code opc : Nat) : Group :=
  let g := setStatHi g ring (2 ^ 31 + code * 2 ^ 16 + opc * 2 ^ 8 + statHi g ring % 8)
  let r := ringOf g ring
  setRing g ring { r with parked := true, owes := decide (code ≠ 4), act := r.act && code == 4 }
def parkRing (s : State) (x : EngAt) (code opc : Nat) : State := x.mod s (fun g => parkGroup g x.ring code opc)

/-- A command stops: it parks with its code; a translation fault first takes its record, and swaps the group out
(05 R120, R136, 04 R103, R104, 17 R454). DESIGN CHOICE: while the buffer has no room the engine asks again at its next turns, with
no wait of 04 R104, which is the warp's (log 67). -/
def stopRing (s : State) (x : EngAt) (opc : Nat) (e : EStop) : State :=
  match e with
  | .park code => parkRing s x code opc
  | .fault va c acc =>
    match x.group s with
    | none => s
    | some g =>
      if faultRoom s g.part < 1 then s
      else
        let f : LaneFault := ⟨0, va, c, acc, if x.ring = 2 then 3 else 2⟩
        let s := putFault s g.part x.core 0 x.gslot g.asid (groupUnit x.core x.gslot) 0#57 0#64 8 1 g.grid (some x.ring) none f 0#32
        let s := pushNote s g.part 4 g.asid (win32 s g.part oFBTAIL) 0
        let s := parkRing s x 4 opc
        x.mod s (fun g => { g with saving := wantSave g.saving 1, nfault := g.nfault + 1 })

/-- A ring whose FAULT is answered with REPLAY continues from its cursor; one whose status word is uncorrectable parks for that
(05 R109, 17 R456). -/
def unparkRing (g : Group) (ring : Nat) : Group :=
  if spadBad g (32 * ring + 20) 4 then parkGroup g ring 5 (cmdAt g (ringEntry g ring)).opc
  else
    let g := setStatHi g ring (statHi g ring % 2 ^ 31)
    setRing g ring { ringOf g ring with parked := false }

/-- A ring whose FAULT is answered with DELIVER stays parked with CODE 4 and owes an engine-fault trap (17 R456). -/
def oweRing (g : Group) (ring : Nat) : Group :=
  setRing g ring { ringOf g ring with parked := true, owes := true, act := false }

/-- The three rings of a group are empty (05 R117). -/
def ringsEmpty (g : Group) : Bool :=
  (upto 3).all (fun i => let e := ringEntry g i; !(ringOf g i).used || e.head == e.tail)

/-- A group has exited completely: its threads have ended and its rings are empty (16 R431, 17 R461). -/
def exited (s : State) (core g : Nat) (x : Group) : Bool := threadsEnded s core g x && ringsEmpty x

/-! ### Operands -/

/-- The code of an access error of an engine. -/
def EStop.ofErr (va : VA) (acc : Nat) : AccErr → EStop
  | .fault c => .fault va c acc
  | .dataError => .park 5

/-- Bytes of memory read block by block; a refusal names the address it met. -/
def engReadMem (who : Who) (va : VA) : Nat → Nat → State → Except EStop (List Byte) × State
  | _, 0, s => (.ok [], s)
  | n, k + 1, s =>
    if n = 0 then (.ok [], s)
    else
      let m := min n (128 - va.toNat % 128)
      match homeRead s who .rd va m with
      | (.error e, s) => (.error (.ofErr va 0 e), s)
      | (.ok bs, s) =>
        match engReadMem who (va + BitVec.ofNat 57 m) (n - m) k s with
        | (.ok cs, s) => (.ok (bs ++ cs), s)
        | r => r

def engWriteMem (who : Who) (va : VA) : List Byte → Nat → State → Except EStop Unit × State
  | _, 0, s => (.ok (), s)
  | bs, k + 1, s =>
    if bs.isEmpty then (.ok (), s)
    else
      let m := min bs.length (128 - va.toNat % 128)
      match homeWrite s who va (bs.take m) with
      | (.error e, s) => (.error (.ofErr va 1 e), s)
      | (.ok _, s) => engWriteMem who (va + BitVec.ofNat 57 m) (bs.drop m) k s

/-- The place an address word names at a byte offset, aligned to `al` for `n` bytes: an offset of the region, or a virtual
address (05 R108, R120). DESIGN CHOICE: a sum that leaves the 57 bits of an address wraps (log 12). -/
def engPlace (g : Group) (aw : Nat) (off : Int) (n al : Nat) : Except EStop (Nat ⊕ VA) :=
  if nbit aw 63 then
    let o : Int := (nbits aw 0 19 : Int) + off
    if o < 0 ∨ o.toNat % al ≠ 0 ∨ o.toNat + n > g.size then .error (.park 3) else .ok (.inl o.toNat)
  else
    let va : VA := BitVec.ofInt 57 ((nbits aw 0 57 : Int) + off)
    if va.toNat % al ≠ 0 then .error (.park 1) else .ok (.inr va)

/-- An operand read. -/
def engRead (x : EngAt) (aw : Nat) (off : Int) (n al : Nat) (s : State) : Except EStop (List Byte) × State :=
  match x.group s with
  | none => (.error (.park 3), s)
  | some g =>
    match engPlace g aw off n al with
    | .error e => (.error e, s)
    | .ok (.inl o) => (if spadBad g o n then .error (.park 5) else .ok (spadRead g o n), s)
    | .ok (.inr va) => engReadMem (x.who g) va n (n / 128 + 2) s

/-- An operand written. -/
def engWrite (x : EngAt) (aw : Nat) (off : Int) (al : Nat) (bs : List Byte) (s : State) : Except EStop Unit × State :=
  match x.group s with
  | none => (.error (.park 3), s)
  | some g =>
    match engPlace g aw off bs.length al with
    | .error e => (.error e, s)
    | .ok (.inl o) => (.ok (), x.mod s (fun g => spadWrite g o bs))
    | .ok (.inr va) => engWriteMem (x.who g) va bs (bs.length / 128 + 2) s

/-- One read-modify-write of an operand of up to 8 bytes, at its home slice or in its bank (05 R133). -/
def engRmw (x : EngAt) (aw : Nat) (off : Int) (n : Nat) (f : Nat → Nat) (s : State) : Except EStop Unit × State :=
  match x.group s with
  | none => (.error (.park 3), s)
  | some g =>
    match engPlace g aw off n n with
    | .error e => (.error e, s)
    | .ok (.inl o) =>
      if spadBad g o n then (.error (.park 5), s)
      else (.ok (), x.mod s (fun g => spadWrite g o (toBytes n (f (ofBytes (spadRead g o n))))))
    | .ok (.inr va) =>
      match homeRmw s (x.who g) .wr va n [] (fun bs => (toBytes n (f (ofBytes bs)), ())) with
      | (.error e, s) => (.error (.ofErr va 1 e), s)
      | (.ok _, s) => (.ok (), s)

/-- Whether a stop is an error, with the state kept only when it is none. -/
def orStop {α : Type} (r : Except EStop α × State) (k : α → State → Except EStop Unit × State) : Except EStop Unit × State :=
  match r with
  | (.ok v, s) => k v s
  | (.error e, s) => (.error e, s)

/-- Steps over a list, the first stop ending them. -/
def engEach {α : Type} (f : α → State → Except EStop Unit × State) : List α → State → Except EStop Unit × State
  | [], s => (.ok (), s)
  | a :: as, s => orStop (f a s) (fun _ s => engEach f as s)

end Sys2Proof.Machine
end

