-- ==== Sys2Proof/Machine/Answers.lean ====
section
/-! DEFINITION. Machine/Answers.lean: what system software answers and orders: RESUME (17 R455, R456), HOLD and RELEASE
(17 R458, R461). -/

namespace Sys2Proof.Machine

/-- Key of a saved unit, by its slot. -/
def slotUnit (i : Nat) : Nat := 2 ^ 21 + i

/-- The fault records that name a unit. -/
def recordsOf (p : Part) (u : Nat) : List FaultRec := p.faults.filter (fun r => r.unit == u)

/-- The fault records of a unit go on under another name. -/
def renameUnit (s : State) (part u v : Nat) : State :=
  modPart s part (fun p => { p with faults := p.faults.map (fun r => if r.unit = u then { r with unit := v } else r) })

/-- The slots of the set that was saved from slot `lead` on (17 R463, 16 R429). -/
def setSlots (p : Part) (lead : Nat) : List Nat := (p.slots.filter (fun e => e.2.lead == lead)).map (·.1)

/-- The fault records that name a saved set. -/
def setRecords (p : Part) (lead : Nat) : List FaultRec := (setSlots p lead).flatMap (fun i => recordsOf p (slotUnit i))

/-- The outcome once the last record of a saved set is answered: any ABORT aborts its grid (17 R456). -/
def settleAnswers (s : State) (part lead : Nat) : State :=
  let p := partOf s part
  let rs := setRecords p lead
  if rs.any (fun r => r.answer.isNone) || rs.all (fun r => r.answer != some 2) then s
  else match lookup p.slots lead with
    | some sl => abort s part sl.grid 0#57
    | none => s

/-- An answer of system software: ACTION 0 REPLAY, 1 DELIVER, 2 ABORT, for a fault record (KIND 0) or a halted group's slot
(KIND 1), with the writes that are ignored (17 R455, R456). -/
def answer (s : State) (part kind key action : Nat) : State :=
  let p := partOf s part
  if kind = 0 then
    match p.faults.find? (fun r => r.seq == key && r.answer.isNone) with
    | none => s
    | some r =>
      let s := modPart s part (fun p => { p with faults := p.faults.map (fun q =>
        if q.seq = key ∧ q.answer.isNone then { q with answer := some action } else q) })
      match lookup p.slots (r.unit - slotUnit 0) with
      | some sl => if slotUnit 0 ≤ r.unit then settleAnswers s part sl.lead else s
      | none => s
  else match lookup p.slots key with
    | none => s
    | some sl =>
      if sl.answered then s
      else if sl.fatal then
        (if action = 2 then modPart s part (fun p => { p with slots := remove p.slots key }) else s)
      else if action = 2 then abort s part sl.grid 0#57
      else modPart s part (fun p => { p with slots := p.slots.map (fun e =>
        if e.2.lead = sl.lead then (e.1, { e.2 with answered := true }) else e) })

/-- A write of RESUME (17 R455). -/
def resumeWrite (s : State) (part v : Nat) : State :=
  if nbits v 0 2 = 3 then s else answer s part (nbits v 2 1) (nbits v 32 32) (nbits v 0 2)

/-- REPLAY (17 R455, R456). -/
def execReplay (part kind key : Nat) (s : State) : Host.Outcome State Fault Refusal := .next (answer s part kind key 0)

/-- DELIVER (17 R455, R456). -/
def execDeliver (part kind key : Nat) (s : State) : Host.Outcome State Fault Refusal := .next (answer s part kind key 1)

/-- ABORT (17 R455, R456). -/
def execAbort (part kind key : Nat) (s : State) : Host.Outcome State Fault Refusal := .next (answer s part kind key 2)

/-! ### Pre-emption -/

/-- A HOLD is collecting (17 R458). -/
def holdBusy (p : Part) : Bool := nbit (p.w64 oPRESTAT) 63

/-- A save wanted for a reason, unless one is already. -/
def orSave (o : Option Nat) (r : Nat) : Option Nat :=
  match o with
  | some x => some x
  | none => some r

/-- Every resident unit of some work is to be saved: groups that have not exited, and free continuation warps (17 R458, R461). -/
def wantSaves (s : State) (core : Nat) (mine : Nat → Nat → Bool) (r : Nat) (c : Core) : Core :=
  { c with
    groups := c.groups.map (fun e =>
      if mine e.2.part e.2.asid && !exited s core e.1 e.2 then (e.1, { e.2 with saving := orSave e.2.saving r }) else e),
    warps := c.warps.map (fun e =>
      if mine e.2.part e.2.asid && e.2.gslot.isNone then (e.1, { e.2 with saving := orSave e.2.saving r }) else e) }

/-- HOLD of an ASID; ignored while another collects (17 R458). -/
def holdAsid (s : State) (part asid : Nat) : State :=
  if holdBusy (partOf s part) then s
  else
    let s := modPart s part (fun p =>
      { (p.setW64 oPRESTAT (2 ^ 63 + asid * 2 ^ 32)) with held := if p.held.contains asid then p.held else asid :: p.held })
    { s with cores := s.cores.map (fun e => (e.1, wantSaves s e.1 (fun p a => p == part && a == asid) 0 e.2)) }

/-- RELEASE of an ASID; ignored while a HOLD collects (17 R458). -/
def releaseAsid (s : State) (part asid : Nat) : State :=
  if holdBusy (partOf s part) then s else modPart s part (fun p => { p with held := p.held.filter (· != asid) })

/-- A write of PRECTL (17 R458). -/
def prectlWrite (s : State) (part v : Nat) : State :=
  if nbits v 30 2 = 1 then holdAsid s part (nbits v 0 12)
  else if nbits v 30 2 = 2 then releaseAsid s part (nbits v 0 12)
  else s

/-- HOLD (17 R458). -/
def execHold (part asid : Nat) (s : State) : Host.Outcome State Fault Refusal := .next (holdAsid s part (asid % 4096))

/-- RELEASE (17 R458). -/
def execRelease (part asid : Nat) (s : State) : Host.Outcome State Fault Refusal := .next (releaseAsid s part (asid % 4096))

/-- Whether a core still has a unit of a context to acknowledge a HOLD for (17 R461, log 41). -/
def unacked (s : State) (part asid core : Nat) (c : Core) : Bool :=
  c.groups.any (fun e => e.2.part == part && e.2.asid == asid && !exited s core e.1 e.2) ||
  c.warps.any (fun e => e.2.part == part && e.2.asid == asid && e.2.gslot.isNone)

/-- HOLD_COMPLETION (17 R461): with every acknowledgement there, BUSY clears and an entry carries PRESTAT. -/
def execHoldCompletion (part : Nat) (s : State) : Host.Outcome State Fault Refusal :=
  let v := (partOf s part).w64 oPRESTAT
  let asid := nbits v 32 12
  if !nbit v 63 || s.cores.any (fun e => unacked s part asid e.1 e.2) then .next s
  else
    let v := v % 2 ^ 63
    .next (pushNote (setWin64 s part oPRESTAT v) part 3 asid v 0)

end Sys2Proof.Machine
end

