-- ==== Sys2Proof/Machine/Channel.lean ====
section
/-! DEFINITION. Machine/Channel.lean: what the channel controllers do of their own accord (02 R33, R38 to R49, 04 R94), and the
training and replay of links and ports (03 R67, 22 R514). -/

namespace Sys2Proof.Machine

/-- A far row of a bank. -/
def farRow (chan bank row : Nat) : Bool :=
  decide (chan < 64) && decide (bank < 32) && decide (1024 ≤ row) && decide (row < 196608)

/-- ROW_PROMOTION (02 R39, R40, R42 to R44). -/
def execRowPromotion (chan bank row pri : Nat) (s : State) : Host.Outcome State Fault Refusal :=
  .next (if farRow chan bank row then (promoteRow s chan bank row (pri % 4)).2 else s)

/-- ROW_DEMOTION (02 R41, R45). -/
def execRowDemotion (chan bank row : Nat) (s : State) : Host.Outcome State Fault Refusal :=
  .next (if farRow chan bank row then (demoteRow s chan bank row).2 else s)

/-- AUTOMATIC_PROMOTION (04 R94): the oldest request of the channel; no one learns of its outcome. -/
def execAutomaticPromotion (chan : Nat) (s : State) : Host.Outcome State Fault Refusal :=
  match s.dram.autoq.find? (fun e => e.1 == chan) with
  | none => .next s
  | some e =>
    let s := { s with dram := { s.dram with autoq := s.dram.autoq.erase e } }
    .next (promoteRow s e.1 e.2.1 e.2.2.1 e.2.2.2).2

/-- SEQ_RENUMBERING (02 R43): before the counter of a bank would wrap. -/
def execSeqRenumbering (chan bank : Nat) (s : State) : Host.Outcome State Fault Refusal :=
  .next (if getD 0 s.dram.pctr (chan * 32 + bank) ≥ 2 ^ 40 - 1 then renumber s chan bank else s)

/-- REFRESH (02 R33): it changes no value. -/
def execRefresh (chan : Nat) (s : State) : Host.Outcome State Fault Refusal :=
  let _ := chan
  .next s

/-- A data unit that the scrub visits: corrected and counted, or logged and left, as every unit of a row is whose guard word
does not match (02 R29, R31, R49). -/
def scrubUnit (chan bank row : Nat) (bad : Bool) (blk : Nat) (s : State) : State :=
  let k := rowKey chan bank row (blk * 128)
  let e := getD 0 s.dram.errs k
  let log := { s with dram := { s.dram with scrubLog := k :: s.dram.scrubLog } }
  if bad then log
  else if e = 0 then s
  else if e ≤ 3 then countCorr { s with dram := { s.dram with errs := remove s.dram.errs k } } chan bank
  else if e ≤ 5 ∨ (Config.undetected s.tick).isNone then log
  else s

/-- The row whose blocks a physical row holds: its own, or for a promotion slot the far row in it, if any (02 R30, R38). -/
def rowHeld (s : State) (chan bank row : Nat) : Option Nat :=
  if row < 512 ∨ 1024 ≤ row then some row
  else (lookup s.dram.ptag (ptagKey chan bank (row - 512))).map PTag.frow

/-- PATROL_SCRUB (02 R49): a row is visited; no requester is faulted. -/
def execPatrolScrub (chan bank row : Nat) (s : State) : Host.Outcome State Fault Refusal :=
  match rowHeld s chan bank row with
  | none => .next s
  | some held =>
    let g := guardSays s chan bank row held
    if g = .reset then .next s
    else .next ((upto 15).foldl (fun s b => scrubUnit chan bank row (g = .bad) b s) s)

/-- CHANNEL_RESET (02 R34, R46): root firmware resets a channel that no valid channel-map entry names. -/
def execChannelReset (chan : Nat) (s : State) : Host.Outcome State Fault Refusal :=
  if s.root.chmap.any (fun e => chValid e.2 && chLsz e.2 != 7 && chChan e.2 == chan) || s.dram.resetting.contains chan then .next s
  else .next { s with dram := { s.dram with resetting := chan :: s.dram.resetting } }

/-- CHANNEL_RESET_COMPLETE (02 R46): every row is a reset row, and accesses are accepted again. -/
def execChannelResetComplete (chan : Nat) (s : State) : Host.Outcome State Fault Refusal :=
  if !s.dram.resetting.contains chan then .next s
  else
    let s := clearChannel s chan
    .next { s with dram := { s.dram with resetting := s.dram.resetting.filter (· != chan) } }

/-- BANDWIDTH_WINDOW (02 R47, R48): a new window of 3,200 memory cycles gives path D its 15 × SHARE block slots. -/
def execBandwidthWindow (chan : Nat) (s : State) : Host.Outcome State Fault Refusal :=
  .next { s with dram := { s.dram with quota := setD 0 s.dram.quota chan (15 * fld s.root.dshare 0 4) } }

/-! ### Links and ports -/

/-- LINK_TRAINING (03 R67, 22 R514): the link is up, with the packed capability that its neighbour advertised; every die link's
does (01 R23). -/
def execLinkTraining (link : Nat) (packed : Bool) (s : State) : Host.Outcome State Fault Refusal :=
  .next (modPort s link (fun p => p.trained (packed || decide (144 ≤ link))))

/-- FLIT_REPLAY (22 R514): the waiting flits are sent again, in order; they are acknowledged or the replay fails, the eighth
failure in a row being a retraining. -/
def execFlitReplay (port : Nat) (ok : Bool) (s : State) : Host.Outcome State Fault Refusal :=
  let p := portOf s port
  if !p.up || p.training || p.replay.isEmpty then .next s
  else if ok then .next (modPort s port (fun p => { p with replay := [], fails := 0 }))
  else .next (modPort s port (fun p => { p with fails := p.fails + 1, training := decide (8 ≤ p.fails + 1) }))

/-- The packed capability that the neighbour of an endpoint advertises when it trains again: a free value (03 R67, log 63). -/
def advertised (s : State) (port : Nat) : Bool := Config.freeValue s.tick port % 2 == 1

/-- PORT_RETRAIN (03 R67, 22 R514): after eight failed replays the port trains: with the capability its neighbour advertises
now it sends its flits again, or it is down. -/
def execPortRetrain (port : Nat) (ok : Bool) (s : State) : Host.Outcome State Fault Refusal :=
  if !(portOf s port).training then .next s
  else if ok then .next (modPort s port (fun p => p.trained (advertised s port || decide (144 ≤ port))))
  else .next (modPort s port (fun p => { p with training := false, fails := 0, up := false, replay := [] }))

/-- Transactions of a link or port acknowledged, oldest first (22 R514). -/
def linkAck (s : State) (link n : Nat) : State := modPort s link (fun p => { p with replay := p.replay.drop n, fails := 0 })

end Sys2Proof.Machine
end

