-- ==== Sys2Proof/Machine/Records.lean ====
section
/-! DEFINITION. Machine/Records.lean: launch records (16 R421, R422) and continuation records (16 R438 to R440). -/

namespace Sys2Proof.Machine

/-- A dependency word of a launch record (16 R421). -/
def parseDep (d : Nat) : Option (Nat × Nat) := if nbit d 63 then some (nbits d 56 6, nbits d 0 32) else none

/-- The launch record that 128 bytes hold (16 R421). -/
def parseRecord (bs : List Byte) : LaunchRec :=
  let d := fun (i : Nat) => leAt bs (8 * i) 8
  { kaddr := BitVec.ofNat 57 (d 0), gx := nbits (d 1) 32 32, gy := nbits (d 1) 0 32, gz := nbits (d 2) 32 32,
    bx := nbits (d 2) 0 10, byy := nbits (d 2) 10 10, bz := nbits (d 2) 20 10, regs := nbits (d 3) 56 8,
    acc := nbits (d 3) 52 4, sems := nbits (d 3) 44 8, cont := nbits (d 3) 38 6, depth := nbits (d 3) 33 5,
    neigh := nbits (d 3) 31 2, spad := nbits (d 3) 20 11, io := nbit (d 3) 19, es := nbit (d 3) 18, bm := nbit (d 3) 17,
    bmaddr := BitVec.ofNat 57 (d 4), bmlen := nbits (d 5) 32 32, dep0 := parseDep (d 6), dep1 := parseDep (d 7),
    tba := BitVec.ofNat 64 (nbits (d 8) 0 57), fplog := BitVec.ofNat 64 (d 9), tem := BitVec.ofNat 32 (nbits (d 10) 0 5),
    spill := BitVec.ofNat 57 (d 11), spilln := nbits (d 12) 32 32, res := BitVec.ofNat 64 (d 3) }

/-- Reserved bits of a launch record read zero (16 R421). -/
def recordRsvOk (bs : List Byte) : Bool :=
  let d := fun (i : Nat) => leAt bs (8 * i) 8
  nbits (d 0) 57 7 == 0 && nbits (d 2) 30 2 == 0 && nbits (d 3) 0 17 == 0 && nbits (d 4) 57 7 == 0 &&
  nbits (d 5) 0 32 == 0 && nbit (d 6) 62 == false && nbits (d 6) 32 24 == 0 && nbit (d 7) 62 == false &&
  nbits (d 7) 32 24 == 0 && nbits (d 8) 57 7 == 0 && nbits (d 10) 5 59 == 0 && nbits (d 11) 57 7 == 0 &&
  nbits (d 12) 0 32 == 0 && d 13 == 0 && d 14 == 0 && d 15 == 0

/-- Threads of a group, and its warps (16 R422). -/
def LaunchRec.threads (r : LaunchRec) : Nat := (r.bx + 1) * (r.byy + 1) * (r.bz + 1)
def LaunchRec.warps (r : LaunchRec) : Nat := cdiv r.threads 32

/-- Warps that one quadrant holds for a register and a tile count (06 R139, R145). -/
def quadrantWarps (regs acc : Nat) : Nat := min (min 16 (512 / regs)) (if acc = 0 then 16 else 32 / acc)

/-- The group counts of a record (16 R422). -/
def countsOk (r : LaunchRec) : Bool :=
  decide (1 ≤ r.gx) && decide (1 ≤ r.gy) && decide (1 ≤ r.gz) && decide (r.gx * r.gy * r.gz ≤ 0xFFFFFFFF) &&
  decide (r.gx * r.gy * r.gz % r.setSize = 0)

/-- The rules of a launch record but for its group counts; a child's record has no order, early start or dependency
(16 R421, R422). -/
def recordOk (bs : List Byte) (child : Bool) : Bool :=
  let r := parseRecord bs
  recordRsvOk bs && decide (r.kaddr.toNat % 8 = 0) && decide (8 ≤ r.regs) && decide (r.regs ≤ 192) &&
  decide (r.regs % 8 = 0) && (r.acc == 0 || r.acc == 1 || r.acc == 2 || r.acc == 4 || r.acc == 8) &&
  decide (r.cont ≤ 32) && decide (1 ≤ r.depth) && decide (r.neigh ≤ 2) && decide (r.spad ≤ 1536) &&
  decide (r.bmaddr.toNat % 8 = 0) && (if r.bm then decide (1 ≤ r.bmlen) else r.bmaddr == 0 && r.bmlen == 0) &&
  decide (r.tba.toNat % 8 = 0) && decide (r.spill.toNat % 256 = 0) && (r.spilln == 0 || r.spill != 0) &&
  decide (r.threads ≤ 1024) && decide (r.warps ≤ 4 * quadrantWarps r.regs r.acc) &&
  (!child || (!r.io && !r.es && r.dep0.isNone && r.dep1.isNone))

/-! ### Continuation records -/

/-- Bytes of a continuation record (16 R438). -/
def contBytes (r : ContRec) : List Byte :=
  let w1 := r.kind * 2 ^ 62 + (if r.free then 2 ^ 61 else 0) + r.level * 2 ^ 56 + r.npay * 2 ^ 50 + r.nres * 2 ^ 47 +
    (if r.rdy then 2 ^ 46 else 0) + r.group
  let w2 := r.grid * 2 ^ 32 + r.tz * 2 ^ 20 + r.ty * 2 ^ 10 + r.tx
  sliceBytes (toBytes 8 r.tpc.toNat ++ toBytes 8 w1 ++ toBytes 8 w2 ++ toBytes 8 0 ++
    r.pay.flatMap (fun w => toBytes 4 w.toNat)) 0 256

/-- Records a core's queue holds (16 R438). -/
def contQueueSize : Nat := 2048

/-- A grid's spill area, as the records it holds, changed. -/
def modGrid (s : State) (part num : Nat) (f : Grid → Grid) : State :=
  modPart s part (fun p => { p with grids := adjust p.grids num f })

/-- A record appended to the core's queue, or to a free spill slot of its grid; none while both are full (16 R438, R440). -/
def addRecord (s : State) (core : Nat) (r : ContRec) : Option State :=
  let c := coreOf s core
  let r := { r with uid := s.nextId, rank := s.nextId, since := c.cyc, core := core }
  let s := { s with nextId := s.nextId + 1 }
  if c.contq.length < contQueueSize then
    some (modCore s core (fun c => { c with contq := c.contq ++ [r] }))
  else
    match lookup (partOf s r.part).grids r.grid with
    | none => none
    | some g =>
      if g.spilled.length < g.rec_.spilln then
        let at_ : VA := g.rec_.spill + BitVec.ofNat 57 (256 * g.spilled.length)
        let s := (writeN s { part := r.part, asid := g.asid, path := .L, ap := false } at_ (contBytes r)).2
        some (modGrid s r.part r.grid (fun g => { g with spilled := g.spilled ++ [r] }))
      else none

end Sys2Proof.Machine
end

