-- ==== Sys2Proof/Machine/Control.lean ====
section
/-! DEFINITION. Machine/Control.lean: branches, calls, the end and deferral of threads, clasp regions, NOP and YIELD, child
grids and CWAIT (08 R207 to R220). -/

namespace Sys2Proof.Machine

/-- The target of a class B instruction (07 R173). -/
def branchTarget (pc : VA) (f : Fields) : VA :=
  let off := f.a.toNat * 65536 + f.b.toNat * 256 + f.c.toNat
  pc + BitVec.ofInt 57 (8 * sxt off 24)

/-- Bits [56:3] of a register pair, as an address (08 R208). -/
def pairTarget (v : Nat) : VA := BitVec.ofNat 57 (nbits v 3 54 * 8)

/-- Whether a clasp region binds the path: open, and not set aside by a handler (08 R211, 17 R446). -/
def clasped (w : Warp) : Bool := w.clOpen && !w.hmode

/-- Lanes go to their targets and the other lanes of the path to the next instruction; inside a clasp region no lane may
leave sequential order (08 R207, R212). -/
def branchTo (x : Iss) (s : State) (lanes : List Nat) (target : Nat → VA) : State :=
  let w := x.warp s
  let seq := x.pc + BitVec.ofNat 57 x.len
  if clasped w && lanes.any (fun l => target l != seq) then x.illegal s 3 0
  else x.mod s (fun w => modLanes w x.mask (fun i l =>
    { l with pc := if lanes.contains i then target i else seq, wait := .none }))

/-- The same in handler mode, where the one path is the handler's. -/
def branchHandler (x : Iss) (s : State) (take : Bool) (target : VA) : State :=
  x.mod s (fun w => { w with hpc := if take then target else x.pc + BitVec.ofNat 57 x.len })

def braBody (f : Fields) (x : Iss) (s : State) : State :=
  let w := x.warp s
  if w.hmode then branchHandler x s (guardUni w f.g) (branchTarget x.pc f)
  else branchTo x s (guarded w x.mask f.g) (fun _ => branchTarget x.pc f)

/-- BRA (08 R207). -/
def execBra (f : Fields) (s : State) : Host.Outcome State Fault Refusal := issue 48 f (braBody f) s

def brxBody (f : Fields) (x : Iss) (s : State) : State :=
  let w := x.warp s
  if w.hmode then branchHandler x s (guardUni w f.g) (pairTarget (rread2 w 0 f.a.toNat))
  else branchTo x s (guarded w x.mask f.g) (fun l => pairTarget (rread2 w l f.a.toNat))

/-- BRX (08 R208). -/
def execBrx (f : Fields) (s : State) : Host.Outcome State Fault Refusal := issue 49 f (brxBody f) s

/-- The link of a call written in the lanes that branch, or once in a uniform pair (08 R207). -/
def writeLink (w : Warp) (f : Fields) (lanes : List Nat) (link : Nat) : Warp :=
  let res := LaneRes.ofRegs (dstWords f.d.toNat 15 link)
  if isUni f.d.toNat then (if lanes.isEmpty then w else res.put w 0)
  else lanes.foldl (fun w l => res.put w l) w

def callBody (f : Fields) (x : Iss) (s : State) : State :=
  let w := x.warp s
  let lanes := if w.hmode then (if guardUni w f.g then [0] else []) else guarded w x.mask f.g
  let link := (x.pc + 8#57).toNat
  let go := branchTarget x.pc f
  if w.hmode then branchHandler x (x.mod s (fun w => writeLink w f lanes link)) (!lanes.isEmpty) go
  else if clasped w && !lanes.isEmpty && go != x.pc + 8#57 then x.illegal s 3 0
  else branchTo x (x.mod s (fun w => writeLink w f lanes link)) lanes (fun _ => go)

/-- CALL (08 R207). -/
def execCall (f : Fields) (s : State) : Host.Outcome State Fault Refusal := issue 50 f (callBody f) s

/-- RET (08 R208). -/
def execRet (f : Fields) (s : State) : Host.Outcome State Fault Refusal := issue 51 f (brxBody f) s

/-- The lanes of a path that do not end go on, then the others end (08 R209, R213). -/
def exitLanes (x : Iss) (s : State) (lanes : List Nat) : State :=
  let gone := laneMask (fun l => lanes.contains l)
  let s := x.mod s (fun w => advance w (x.mask &&& ~~~gone) x.len)
  if lanes.isEmpty then s else endThreads s x.core x.wslot gone

def exitBody (f : Fields) (x : Iss) (s : State) : State :=
  let w := x.warp s
  let lanes := guarded w x.mask f.g
  if clasped w && !lanes.isEmpty then x.illegal s 3 0 else exitLanes x s lanes

/-- EXIT (08 R209). -/
def execExit (f : Fields) (s : State) : Host.Outcome State Fault Refusal := issue 52 f (exitBody f) s

/-- Payload words that DEFER names (08 R213). -/
def deferWords (f : Fields) : Nat := f.ma.toNat * 4 + f.mb.toNat / 4

/-- The continuation record of a lane of a warp (08 R213, 16 R438). -/
def laneRecord (w : Warp) (lane : Nat) (tpc : VA) (kind : Nat) (free : Bool) (level n r : Nat) (rdy : Bool) : ContRec :=
  let l := lookup w.lanes lane
  { tpc := tpc, kind := kind, free := free, apart := w.gslot.isNone, level := level, npay := n, nres := r, rdy := rdy,
    group := (match l with | some t => t.group | none => 0), grid := w.grid, part := w.part, gslot := w.gslot.getD 0,
    tx := (match l with | some t => t.tx | none => 0), ty := (match l with | some t => t.ty | none => 0),
    tz := (match l with | some t => t.tz | none => 0), windex := (match l with | some t => t.wix | none => 0),
    pay := (upto n).map (fun i => vget w lane i) ++ List.replicate r 0#32, since := 0, rank := 0, uid := 0, core := 0,
    saw := (match l with | some t => t.saw | none => []) }

/-- The trace level of a lane (10 R290). -/
def laneLevel (w : Warp) (lane : Nat) : Nat := match lookup w.lanes lane with | some t => t.level | none => 0

/-- Records appended for lanes in ascending order, until there is no more room; the lanes that left one (08 R213,
16 R440). -/
def deferLanes (x : Iss) (mk : Nat → ContRec) : List Nat → State → List Nat × State
  | [], s => ([], s)
  | l :: ls, s =>
    match addRecord s x.core (mk l) with
    | none => ([], s)
    | some s => let (gone, s) := deferLanes x mk ls s; (l :: gone, s)

/-- The reservations of these lanes end (10 R278). -/
def clearLaneResv (s : State) (x : Iss) (lanes : List Nat) : State :=
  { s with resv := s.resv.filter (fun e => !(lanes.any (fun l => threadKey x.core x.wslot l == e.1))) }

/-- Lanes end with the records they left; a lane without room stays at the instruction (08 R213, 16 R440). -/
def endDeferred (x : Iss) (s : State) (lanes gone : List Nat) : State :=
  let s := clearLaneResv s x gone
  let s := x.mod s (fun w => advance w (x.mask &&& ~~~(laneMask (fun l => lanes.contains l))) x.len)
  if gone.isEmpty then s else endThreads s x.core x.wslot (laneMask (fun l => gone.contains l))

def deferBody (free : Bool) (f : Fields) (x : Iss) (s : State) : State :=
  let w := x.warp s
  let n := deferWords f
  let lanes := guarded w x.mask f.g
  if clasped w && !lanes.isEmpty then x.illegal s 3 0
  else
    let (gone, s) := deferLanes x (fun l =>
      laneRecord w l (branchTarget x.pc f) 0 free (laneLevel w l) n 0 true) lanes s
    endDeferred x s lanes gone

/-- DEFER.G (08 R213, R214). -/
def execDeferG (f : Fields) (s : State) : Host.Outcome State Fault Refusal := issue 53 f (deferBody false f) s

/-- DEFER.F (08 R213, R214). -/
def execDeferF (f : Fields) (s : State) : Host.Outcome State Fault Refusal := issue 53 f (deferBody true f) s

def claspBody (f : Fields) (x : Iss) (s : State) : State :=
  let w := x.warp s
  if !guardUni w f.g then x.next s
  else if w.clOpen then x.illegal s 3 0
  else x.next (x.mod s (fun w => { w with clOpen := true, cmask := x.mask }))

/-- CLASP (08 R210, R212). -/
def execClasp (f : Fields) (s : State) : Host.Outcome State Fault Refusal := issue 54 f (claspBody f) s

def unclaspBody (f : Fields) (x : Iss) (s : State) : State :=
  let w := x.warp s
  if !guardUni w f.g then x.next s
  else if !w.clOpen then x.illegal s 3 0
  else x.next (x.mod s (fun w => { w with clOpen := false, cmask := 0#32 }))

/-- UNCLASP (08 R210, R212). -/
def execUnclasp (f : Fields) (s : State) : Host.Outcome State Fault Refusal := issue 55 f (unclaspBody f) s

/-- NOP (08 R215). -/
def execNop (f : Fields) (s : State) : Host.Outcome State Fault Refusal := issue 56 f (fun x s => x.next s) s

/-- YIELD (08 R215): the quadrant's next choice excludes the warp while another is ready (16 R435). -/
def execYield (f : Fields) (s : State) : Host.Outcome State Fault Refusal :=
  issue 57 f (fun x s => x.next (x.mod s (fun w => { w with yielded := true }))) s

/-! ### Child grids -/

/-- Launch statuses (08 R217). -/
def launched : Nat := 0
def notLeader : Nat := 1
def tooDeep : Nat := 2
def badFormat : Nat := 3

/-- What a lane's LAUNCH does: a status, a wait for its release or for room, a refused access, or a child grid. -/
inductive LaunchAct where
  | status (n : Nat)
  | wait
  | failed (va : VA) (e : AccErr)
  | enqueue (r : LaunchRec) (counts : Option VA)

/-- The children of a partition that wait for dispatch fit in a store of 4,096 (16 R426). -/
def childRoom (s : State) (part : Nat) : Bool := decide ((partOf s part).childq.length < 4096)

/-- The first of `n` count words whose read meets a translation fault; a data error is left to the dispatch (08 R218). -/
def countFault (who : Who) (va : VA) : Nat → State → Option (VA × AccErr) × State
  | 0, s => (none, s)
  | n + 1, s =>
    match homeRead s who .rd va 4 with
    | (.error (.fault c), s) => (some (va, .fault c), s)
    | (_, s) => countFault who (va + 4#57) n s

/-- LAUNCH or LAUNCHI by one lane: leader, depth, alignment, release, record (08 R216, R218). -/
def launchLane (x : Iss) (w : Warp) (lane : Nat) (a : Nat) (counts : Option Nat) (s : State) : LaunchAct × State :=
  let leader := w.gslot.isSome && (match lookup w.lanes lane with
    | some t => t.tx == 0 && t.ty == 0 && t.tz == 0
    | none => false)
  let misc : Bool := match counts with | some c => c % 4 != 0 | none => false
  if !leader then (.status notLeader, s)
  else if w.sysDepth = 10 then (.status tooDeep, s)
  else if a % 128 ≠ 0 ∨ misc then (.status badFormat, s)
  else if !releaseReady s x.core x.wslot (laneMask (· == lane)) 3 then (.wait, s)
  else
    match readN s (warpWho x.core w) (BitVec.ofNat 57 a) 128 with
    | (.error e, s) => (.failed (BitVec.ofNat 57 a) e, s)
    | (.ok bs, s) =>
      match counts with
      | none =>
        if !(recordOk bs true && countsOk (parseRecord bs)) then (.status badFormat, s)
        else if !childRoom s w.part then (.wait, s)
        else (.enqueue (parseRecord bs) none, s)
      | some c =>
        match countFault (warpWho x.core w) (BitVec.ofNat 57 c) 3 s with
        | (some (va, e), s) => (.failed va e, s)
        | (none, s) =>
          if !recordOk bs true then (.status badFormat, s)
          else if !childRoom s w.part then (.wait, s)
          else (.enqueue (parseRecord bs) (some (BitVec.ofNat 57 c)), s)

/-- A child grid put among those that wait for dispatch (08 R216, 16 R424, R426). -/
def enqueueChild (x : Iss) (w : Warp) (r : LaunchRec) (counts : Option VA) (s : State) : State :=
  let uid := s.nextId
  let group := match w.gslot with
    | some g => (match groupAt s x.core g with | some y => y.linear | none => 0)
    | none => 0
  let ch : Child :=
    { rec_ := r, asid := w.asid, pri := w.pri, depth := w.sysDepth + 1, uid := uid, parent := w.grid, group := group,
      counts := counts }
  let s := modPart { s with nextId := uid + 1 } w.part (fun p =>
    { p with childq := p.childq ++ [ch],
             grids := adjust p.grids w.grid (fun g => { g with children := g.children + 1 }) })
  match w.gslot with
  | some g => modGroup s x.core g (fun y => { y with children := y.children ++ [uid] })
  | none => s

/-- The lanes of a launch in ascending order: statuses of those that complete, lanes that wait, and the refused ones. -/
def launchLanes (f : Fields) (two : Bool) (x : Iss) (w : Warp) :
    List Nat → State → (List (Nat × Nat) × List Nat × List (Nat × VA × AccErr)) × State
  | [], s => (([], [], []), s)
  | l :: ls, s =>
    let (act, s) := launchLane x w l (rread2 w l f.a.toNat) (if two then some (rawB w l f 2) else none) s
    let s := match act with
      | .enqueue r c => enqueueChild x w r c s
      | _ => s
    let ((done, wait, bad), s) := launchLanes f two x w ls s
    match act with
    | .status n => (((l, n) :: done, wait, bad), s)
    | .enqueue _ _ => (((l, launched) :: done, wait, bad), s)
    | .wait => ((done, l :: wait, bad), s)
    | .failed va e => ((done, wait, (l, va, e) :: bad), s)

/-- LAUNCH and LAUNCHI: lanes that complete receive their status and go on, a lane that waits stays, a lane whose read is
refused is reported (08 R216 to R220). -/
def launchBody (op : Nat) (two : Bool) (f : Fields) (x : Iss) (s : State) : State :=
  let w := x.warp s
  let uni := uniformForm op f
  let lanes := if uni then (if guardUni w f.g then [x.lane0] else []) else guarded w x.mask f.g
  let ((done, wait, bad), s) := launchLanes f two x w lanes s
  if uni ∧ !(wait.isEmpty ∧ bad.isEmpty) then
    match bad with
    | (_, va, e) :: _ => x.accessFailed s (x.chargeLanes s) va 0 0 e
    | [] => s
  else
    let s := x.mod s (fun w => done.foldl (fun w e => rwrite w e.1 f.d.toNat e.2) w)
    let held := laneMask (fun l => wait.contains l || bad.any (fun e => e.1 == l))
    let s := x.mod s (fun w => advance w (x.mask &&& ~~~held) x.len)
    match bad with
    | (l, va, e) :: _ => x.accessFailed s [l] va 0 0 e
    | [] => s

/-- LAUNCH (08 R216, R217). -/
def execLaunch (f : Fields) (s : State) : Host.Outcome State Fault Refusal := issue 58 f (launchBody 58 false f) s

/-- LAUNCHI (08 R218). -/
def execLaunchi (f : Fields) (s : State) : Host.Outcome State Fault Refusal := issue 59 f (launchBody 59 true f) s

/-- The launch number below which a lane in CWAIT waits for child grids. -/
def cwaitBound (s : State) (w : Warp) (lane : Nat) : Nat :=
  match lookup w.lanes lane with
  | some { wait := .cwait b, .. } => b
  | _ => s.nextId

/-- The launch numbers of a group's children that are not complete. -/
def groupChildren (s : State) (core : Nat) (w : Warp) : List Nat :=
  match w.gslot with
  | some g => (match groupAt s core g with | some y => y.children | none => [])
  | none => []

/-- CWAIT: a lane goes on, with an acquire, once every child launched before it issued is complete (08 R219). -/
def cwaitBody (f : Fields) (x : Iss) (s : State) : State :=
  let w := x.warp s
  let kids := groupChildren s x.core w
  let held := (guarded w x.mask f.g).filter (fun l => kids.any (fun k => decide (k < cwaitBound s w l)))
  let wmask := laneMask (fun l => held.contains l)
  let passes := (guarded w x.mask f.g).any (fun l => !held.contains l)
  let s := x.mod s (fun w0 => modLanes (advance w0 (x.mask &&& ~~~wmask) x.len) wmask
    (fun l t => { t with wait := .cwait (cwaitBound s w l) }))
  if passes then acquireBy s x.core x.wslot (laneMask (fun l => (guarded w x.mask f.g).contains l && !held.contains l)) true else s

/-- CWAIT (08 R219). -/
def execCwait (f : Fields) (s : State) : Host.Outcome State Fault Refusal := issue 60 f (cwaitBody f) s

end Sys2Proof.Machine
end

