-- ==== Sys2Proof/Machine/Float.lean ====
section
/-! DEFINITION. Machine/Float.lean: floating-point arithmetic, comparison and rounding (09 R226 to R233). -/

namespace Sys2Proof.Machine

/-- The format of a float type code; FP32 where the type is none (09 R226). -/
def fmtOf (t : Nat) : Fmt := (tFmt t).getD fp32

/-- A result of elements: each element's bits and flags, packed into the destination (09 R226). -/
def fltResult (d : BitVec 8) (t : Nat) (es : List (Nat × Flags)) : LaneRes :=
  ⟨dstWords d.toNat t (packElems (tWidth t) (es.map (·.1))), [], es.map (·.2)⟩

/-- Elements 0 to m − 1 of a type, each computed by `g`. -/
def fltElems (t : Nat) (g : Nat → Nat × Flags) : List (Nat × Flags) := (upto (tCount t)).map g

/-- The clamp of .sat (09 R228). -/
def fsat (m : Fmt) (r : Nat) : Nat :=
  let one := m.bias * 2 ^ m.m
  match fdecode m r with
  | .nan _ => 0
  | v => if v.isZero || v.neg then 0 else if fcmp v (fdecode m one) > 0 then one else r

/-- The flush and clamp steps that end a float instruction (09 R228). -/
def fltFinish (m : Fmt) (fz sat : Bool) (r : Nat × Flags) : Nat × Flags :=
  let r := if fz then flushOut m r else r
  if sat then (fsat m r.1, r.2) else r

/-- Kinds of float arithmetic (09 R228). -/
inductive FKind where
  | add | mul | fma
deriving DecidableEq, Repr

/-- An element of FADD, FMUL or FFMA, from its operands' bits (09 R228). -/
def fltArith (k : FKind) (m : Fmt) (mode : RMode) (fz sat : Bool) (a b c : Nat) : Nat × Flags :=
  let rd := fun (v : Nat) => fdecode m (if fz then flushIn m v else v)
  let x := rd a
  let y := rd b
  let z := rd c
  let sig := x.isSig || y.isSig || (k == .fma && z.isSig)
  let nan := x.isNan || y.isNan || (k == .fma && z.isNan)
  let invalid := match k with
    | .add => addInvalid x y
    | .mul => mulInvalid x y
    | .fma => mulInvalid x y || (!nan && addInvalid (fmul x y) z)
  let r : Nat × Flags :=
    if invalid then (fcanon m, flNV)
    else if nan then (fcanon m, flagIf sig flNV)
    else
      let e := match k with
        | .add => fadd (mode == .rd) x y
        | .mul => fmul x y
        | .fma => fadd (mode == .rd) (fmul x y) z
      rnd m mode false e
  fltFinish m fz sat r

/-- FADD, FMUL and FFMA of a lane (09 R226, R228). -/
def fltArithLane (k : FKind) (f : Fields) (w : Warp) (l : Nat) : LaneRes :=
  let t := f.t.toNat
  let n := tWidth t
  let a := opA w l f t
  let b := opB w l f t
  let c := if k = .fma then opC w l f t else 0
  fltResult f.d t (fltElems t (fun i =>
    fltArith k (fmtOf t) (rmode (fld f.fn 0 2)) (wbit f.fn 2) (wbit f.fn 3) (elemN a n i) (elemN b n i) (elemN c n i)))

/-- An element of FMIN or FMAX (09 R229). -/
def fltMinMax (wantMax strict : Bool) (m : Fmt) (a b : Nat) : Nat × Flags :=
  let x := fdecode m a
  let y := fdecode m b
  let fl := flagIf (x.isSig || y.isSig) flNV
  if x.isNan && y.isNan then (fcanon m, fl)
  else if strict && (x.isNan || y.isNan) then (fcanon m, fl)
  else if x.isNan then (b, fl)
  else if y.isNan then (a, fl)
  else if wantMax then (if fbelow x y then b else a, fl)
  else (if fbelow y x then b else a, fl)

def fltMinMaxLane (wantMax : Bool) (f : Fields) (w : Warp) (l : Nat) : LaneRes :=
  let t := f.t.toNat
  let n := tWidth t
  fltResult f.d t (fltElems t (fun i =>
    fltMinMax wantMax (wbit f.fn 0) (fmtOf t) (elemN (opA w l f t) n i) (elemN (opB w l f t) n i)))

/-- A condition of FSET by its code (09 R230). -/
def fltCond (c : Nat) (x y : FVal) : Bool :=
  let nan := x.isNan || y.isNan
  let d := fcmp x y
  if c = 0 then !nan && d == 0 else if c = 1 then nan || d != 0 else if c = 2 then !nan && decide (d < 0)
  else if c = 3 then !nan && decide (d ≤ 0) else if c = 4 then !nan && decide (d > 0)
  else if c = 5 then !nan && decide (d ≥ 0) else if c = 6 then !nan else nan

/-- A predicate over elements: every one, or any under F[3] (09 R230). -/
def overElems (any : Bool) (bs : List Bool) : Bool := if any then bs.any id else bs.all id

def fltSetLane (f : Fields) (w : Warp) (l : Nat) : LaneRes :=
  let t := f.t.toNat
  let n := tWidth t
  let x := fun i => fdecode (fmtOf t) (elemN (opA w l f t) n i)
  let y := fun i => fdecode (fmtOf t) (elemN (opB w l f t) n i)
  let ks := upto (tCount t)
  .ofPred f.d (overElems (wbit f.fn 3) (ks.map (fun i => fltCond (fld f.fn 0 3) (x i) (y i))))
    (ks.map (fun i => flagIf ((x i).isSig || (y i).isSig) flNV))

/-- An element of FRND (09 R231). -/
def fltRound (m : Fmt) (mode : RMode) (fz nx : Bool) (a : Nat) : Nat × Flags :=
  let v := fdecode m (if fz then flushIn m a else a)
  match v with
  | .nan s => (fcanon m, flagIf s flNV)
  | .inf n => (fsign m n (finfMag m), 0#5)
  | .num neg mant ex =>
    match FVal.toInt mode (.num neg mant ex) with
    | none => (a, 0#5)
    | some (i, inexact) => ((rnd m .rne false (.num neg i.natAbs 0)).1, flagIf (inexact && nx) flNX)

def fltRoundLane (f : Fields) (w : Warp) (l : Nat) : LaneRes :=
  let t := f.t.toNat
  fltResult f.d t (fltElems t (fun i =>
    fltRound (fmtOf t) (rmode (fld f.fn 0 2)) (wbit f.fn 2) (wbit f.fn 3) (elemN (opA w l f t) (tWidth t) i)))

/-- The class of a value (09 R232). -/
def fltClass (m : Fmt) (a : Nat) : Nat :=
  match fdecode m a with
  | .nan s => if s then 0 else 1
  | .inf n => if n then 2 else 9
  | .num neg mant _ =>
    if mant = 0 then (if neg then 5 else 6)
    else if isSub m a then (if neg then 4 else 7)
    else if neg then 3 else 8

def fltClassLane (f : Fields) (w : Warp) (l : Nat) : LaneRes :=
  let t := f.t.toNat
  let mask := if t = 14 then rawB w l f 1 else opB w l f t
  .ofPred f.d (overElems (wbit f.fn 3) ((upto (tCount t)).map (fun i =>
    nbit mask (fltClass (fmtOf t) (elemN (opA w l f t) (tWidth t) i))))) []

/-- An element of FSCALE (09 R233). -/
def fltScale (m : Fmt) (mode : RMode) (fz sat : Bool) (k : Int) (a : Nat) : Nat × Flags :=
  let v := fdecode m (if fz then flushIn m a else a)
  let r : Nat × Flags := match v with
    | .nan s => (fcanon m, flagIf s flNV)
    | v => rnd m mode false (v.scale (clampI k (-2048) 2048))
  fltFinish m fz sat r

def fltScaleLane (f : Fields) (w : Warp) (l : Nat) : LaneRes :=
  let t := f.t.toNat
  let k := sxt (rawB w l f 1) 32
  fltResult f.d t (fltElems t (fun i =>
    fltScale (fmtOf t) (rmode (fld f.fn 0 2)) (wbit f.fn 2) (wbit f.fn 3) k (elemN (opA w l f t) (tWidth t) i)))

/-- FADD (09 R228). -/
def execFadd (f : Fields) (s : State) : Host.Outcome State Fault Refusal := issue 80 f (perLane 80 f (fltArithLane .add f)) s

/-- FMUL (09 R228). -/
def execFmul (f : Fields) (s : State) : Host.Outcome State Fault Refusal := issue 81 f (perLane 81 f (fltArithLane .mul f)) s

/-- FFMA (09 R228). -/
def execFfma (f : Fields) (s : State) : Host.Outcome State Fault Refusal := issue 82 f (perLane 82 f (fltArithLane .fma f)) s

/-- FMIN (09 R229). -/
def execFmin (f : Fields) (s : State) : Host.Outcome State Fault Refusal := issue 83 f (perLane 83 f (fltMinMaxLane false f)) s

/-- FMAX (09 R229). -/
def execFmax (f : Fields) (s : State) : Host.Outcome State Fault Refusal := issue 84 f (perLane 84 f (fltMinMaxLane true f)) s

/-- FSET (09 R230). -/
def execFset (f : Fields) (s : State) : Host.Outcome State Fault Refusal := issue 85 f (perLane 85 f (fltSetLane f)) s

/-- FRND (09 R231). -/
def execFrnd (f : Fields) (s : State) : Host.Outcome State Fault Refusal := issue 86 f (perLane 86 f (fltRoundLane f)) s

/-- FCLASS (09 R232). -/
def execFclass (f : Fields) (s : State) : Host.Outcome State Fault Refusal := issue 87 f (perLane 87 f (fltClassLane f)) s

/-- FSCALE (09 R233). -/
def execFscale (f : Fields) (s : State) : Host.Outcome State Fault Refusal := issue 88 f (perLane 88 f (fltScaleLane f)) s

/-- DADD (09 R228). -/
def execDadd (f : Fields) (s : State) : Host.Outcome State Fault Refusal := issue 89 f (perLane 89 f (fltArithLane .add f)) s

/-- DMUL (09 R228). -/
def execDmul (f : Fields) (s : State) : Host.Outcome State Fault Refusal := issue 90 f (perLane 90 f (fltArithLane .mul f)) s

/-- DFMA (09 R228). -/
def execDfma (f : Fields) (s : State) : Host.Outcome State Fault Refusal := issue 91 f (perLane 91 f (fltArithLane .fma f)) s

/-- DSET (09 R230). -/
def execDset (f : Fields) (s : State) : Host.Outcome State Fault Refusal := issue 92 f (perLane 92 f (fltSetLane f)) s

end Sys2Proof.Machine
end

