-- ==== Sys2Proof/Machine/Convert.lean ====
section
/-! DEFINITION. Machine/Convert.lean: conversions between formats (09 R234 to R239). -/

namespace Sys2Proof.Machine

/-- The rounding step of a conversion: in a mode, or stochastic with the word of operand C (09 R234, 06 R157, R158). -/
def cvtRound (f : Fields) (m : Fmt) (c k : Nat) (v : FVal) : Nat × Flags :=
  if wbit f.fn 2 then rnds m (srbits c k) (wbit f.fn 3) v else rnd m (rmode (fld f.fn 0 2)) (wbit f.fn 3) v

/-- The random word that operand C gives. -/
def srWord (f : Fields) (w : Warp) (l : Nat) : Nat := if wbit f.fn 2 then rread w l f.c.toNat else 0

/-- F2F of a lane (09 R235). -/
def f2fLane (f : Fields) (w : Warp) (l : Nat) : LaneRes :=
  let t := f.t.toNat
  let src := f.b.toNat
  let a := opA w l f src
  fltResult f.d t ((upto (tCount src)).map (fun i =>
    let v := fdecode (fmtOf src) (elemN a (tWidth src) i)
    let r := cvtRound f (fmtOf t) (srWord f w l) i v
    (r.1, r.2 ||| flagIf v.isSig flNV)))

/-- An element of F2I: the integer, saturated, and its flags (09 R236). -/
def cvtToInt (mode : RMode) (signed : Bool) (n : Nat) (v : FVal) : Nat × Flags :=
  let sat := fun (x : Int) => if signed then satS x n else satU x n
  match v with
  | .nan _ => (0, flNV)
  | .inf neg => (wrapN (sat (if neg then -(2 ^ 200) else 2 ^ 200)) n, flNV)
  | v =>
    match v.toInt mode with
    | none => (0, flNV)
    | some (i, inexact) => if sat i = i then (wrapN i n, flagIf inexact flNX) else (wrapN (sat i) n, flNV)

/-- F2I of a lane (09 R236). -/
def f2iLane (f : Fields) (w : Warp) (l : Nat) : LaneRes :=
  let t := f.t.toNat
  let src := f.b.toNat
  let a := opA w l f src
  fltResult f.d t ((upto (tCount src)).map (fun i =>
    cvtToInt (rmode (fld f.fn 0 2)) (tSigned t) (tWidth t) (fdecode (fmtOf src) (elemN a (tWidth src) i))))

/-- I2F of a lane (09 R237). -/
def i2fLane (f : Fields) (w : Warp) (l : Nat) : LaneRes :=
  let t := f.t.toNat
  let src := f.b.toNat
  let a := opA w l f src
  fltResult f.d t ((upto (tCount src)).map (fun i =>
    rnd (fmtOf t) (rmode (fld f.fn 0 2)) (wbit f.fn 3) (FVal.ofInt (intElemOf src a i))))
where
  /-- An element of an integer source, exact. -/
  intElemOf (t x k : Nat) : Int :=
    if tSigned t then sxt (elemN x (tWidth t) k) (tWidth t) else (elemN x (tWidth t) k : Int)

/-- The format of a packing code (09 R238). -/
def packFmt (f : Fields) : Fmt := (cFmt f.b.toNat).getD fp32

/-- Bits that an element takes in the packed word (09 R238, 05 R125). -/
def packW (f : Fields) : Nat :=
  if f.b.toNat = 11 ∨ f.b.toNat = 12 then 6 else 32 / packM f.b.toNat

/-- FPACK of a lane (09 R238). -/
def fpackLane (f : Fields) (w : Warp) (l : Nat) : LaneRes :=
  let es := (upto (packM f.b.toNat)).map (fun k =>
    let v := fdecode fp32 (rread w l (f.a.toNat + k))
    let r := cvtRound f (packFmt f) (srWord f w l) k v
    (r.1, r.2 ||| flagIf v.isSig flNV))
  ⟨[(f.d.toNat, packElems (packW f) (es.map (·.1)))], [], es.map (·.2)⟩

/-- FUNPK of a lane (09 R239). -/
def funpkLane (f : Fields) (w : Warp) (l : Nat) : LaneRes :=
  let a := rread w l f.a.toNat
  let es := (upto (packM f.b.toNat)).map (fun k =>
    let v := fdecode (packFmt f) (elemN a (packW f) k)
    ((rnd fp32 .rne false v).1, flagIf v.isSig flNV))
  ⟨(upto (packM f.b.toNat)).map (fun k => (f.d.toNat + k, (es.getD k (0, 0#5)).1)), [], es.map (·.2)⟩

/-- F2F (09 R235). -/
def execF2f (f : Fields) (s : State) : Host.Outcome State Fault Refusal := issue 96 f (perLane 96 f (f2fLane f)) s

/-- F2I (09 R236). -/
def execF2i (f : Fields) (s : State) : Host.Outcome State Fault Refusal := issue 97 f (perLane 97 f (f2iLane f)) s

/-- I2F (09 R237). -/
def execI2f (f : Fields) (s : State) : Host.Outcome State Fault Refusal := issue 98 f (perLane 98 f (i2fLane f)) s

/-- FPACK (09 R238). -/
def execFpack (f : Fields) (s : State) : Host.Outcome State Fault Refusal := issue 99 f (perLane 99 f (fpackLane f)) s

/-- FUNPK (09 R239). -/
def execFunpk (f : Fields) (s : State) : Host.Outcome State Fault Refusal := issue 100 f (perLane 100 f (funpkLane f)) s

end Sys2Proof.Machine
end

