-- ==== Sys2Proof/Machine/CrossLane.lean ====
section
/-! DEFINITION. Machine/CrossLane.lean: collectives, the Filigree crossbar and single-lane accesses (09 R240, R244 to R254). -/

namespace Sys2Proof.Machine

/-- The destination of a collective: each lane of the write set, or a uniform register once (09 R244). DESIGN CHOICE: of results that
differ by lane a uniform register takes that of the lowest lane of the write set, lane 0 where it is empty (log 24). -/
def putLanes (d : BitVec 8) (t : Nat) (wset : List Nat) (val : Nat → Nat) (w : Warp) : Warp :=
  if isUni d.toNat then (LaneRes.ofRegs (dstWords d.toNat t (val (wset.headD 0)))).put w 0
  else wset.foldl (fun w l => (LaneRes.ofRegs (dstWords d.toNat t (val l))).put w l) w

/-- A collective: `go` gives the flags and the value of each lane from the source set and the write set. -/
def collective (t : Nat) (f : Fields) (go : Warp → List Nat → List Nat → Flags × (Nat → Nat)) (x : Iss) (s : State) : State :=
  let w := x.warp s
  match collSets w x f with
  | none => x.next s
  | some (src, wset) =>
    let r := go w src wset
    deliverAll x s wset r.1 (putLanes f.d t wset r.2)

/-- The mask of a set of lanes. -/
def setMask (ls : List Nat) : Nat := (laneMask (fun l => ls.contains l)).toNat

/-! ### MXEXP -/

/-- emax of a format code (05 R127). -/
def emaxOf (code : Nat) : Int :=
  if code = 9 then 8 else if code = 10 then 15 else if code = 11 then 4 else if code = 12 ∨ code = 13 then 2 else 0

/-- floor(log2) of a non-zero finite magnitude. -/
def floorLog2 : FVal → Int
  | .num _ m e => (m.log2 : Int) + e
  | _ => 0

/-- The larger of two finite magnitudes. -/
def maxMag (x y : FVal) : FVal := if fcmp x.mag y.mag < 0 then y.mag else x.mag

/-- The block scale of a set of values (09 R240, 05 R127). -/
def blockScale (code : Nat) (xs : List FVal) : Nat :=
  if xs.any (fun v => v.isNan || v.isInf) then 0xFF
  else
    let amax := xs.foldl maxMag (.num false 0 0)
    let e := if amax.isZero then -127 else clampI (floorLog2 amax - emaxOf code) (-127) 127
    (e + 127).toNat

/-- MXEXP (09 R240). -/
def execMxexp (f : Fields) (s : State) : Host.Outcome State Fault Refusal :=
  issue 101 f (collective 0 f (fun w src _ =>
    let xs := src.map (fun l => f32 (rread w l f.a.toNat))
    (flagIf (xs.any FVal.isSig) flNV, fun _ => blockScale f.b.toNat xs))) s

/-! ### Filigree -/

/-- An entry of a pattern slot: identity until a table is loaded (09 R250). -/
def filGet (w : Warp) (slot i : Nat) : Nat := (getD (BitVec.ofNat 8 i) w.fil (slot * 128 + i)).toNat

/-- A table put into a slot; an entry equal to the identity is not listed. -/
def filPut (w : Warp) (slot : Nat) (bs : List Byte) : Warp :=
  { w with fil := (upto 128).foldl (fun m i => setD (BitVec.ofNat 8 i) m (slot * 128 + i) (nthD 0#8 bs i)) w.fil }

/-- The word that FIL gives a lane (09 R252). -/
def filWord (f : Fields) (w : Warp) (src : List Nat) (l : Nat) : Nat :=
  packElems 8 ((upto 4).map (fun j =>
    let e := filGet w (f.fn.toNat % 8) (4 * l + j)
    let sl := nbits e 2 5
    if src.contains sl then elemN (if nbit e 7 then rawB w sl f 1 else rread w sl f.a.toNat) 8 (e % 4) else 0))

/-- FIL (09 R252). -/
def execFil (f : Fields) (s : State) : Host.Outcome State Fault Refusal :=
  issue 112 f (collective 0 f (fun w src _ => (0#5, filWord f w src))) s

/-- FILT reads its table as a constant fetch; a misaligned address is an illegal operand (09 R251). -/
def filtBody (f : Fields) (x : Iss) (s : State) : State :=
  let w := x.warp s
  let a := rread2 w 0 f.a.toNat % 2 ^ 57
  if !guardUni w f.g then x.next s
  else if a % 128 ≠ 0 then x.illegal s 2 0
  else
    let va : VA := BitVec.ofNat 57 a
    match fetchSpan s x.core w.part w.asid .const va 128 2 with
    | (.error e, s) => x.accessFailed s (x.chargeLanes s) va 0 1 e
    | (.ok bs, s) => x.next (x.mod s (fun w => filPut w (f.fn.toNat % 8) bs))

/-- FILT (09 R251). -/
def execFilt (f : Fields) (s : State) : Host.Outcome State Fault Refusal := issue 113 f (filtBody f) s

/-! ### SHFL, VOTE -/

/-- The source lane of SHFL; none outside the segment (09 R245). -/
def shflLane (fn l b : Nat) : Option Nat :=
  let w := 32 / 2 ^ nbits fn 2 2
  let g := l - l % w
  let mode := fn % 4
  let b5 := b % 32
  if mode = 0 then some (g + (l ^^^ b5) % w)
  else if mode = 1 then some (g + b5 % w)
  else if mode = 2 then some (g + (l - g + b5) % w)
  else
    let k : Int := (l : Int) + sxt b 6
    if (g : Int) ≤ k ∧ k < (g : Int) + w then some k.toNat else none

/-- SHFL (09 R245). -/
def execShfl (f : Fields) (s : State) : Host.Outcome State Fault Refusal :=
  issue 114 f (collective f.t.toNat f (fun w src _ =>
    let n := tRegs f.t.toNat
    (0#5, fun l =>
      match shflLane f.fn.toNat l (rawB w l f 1) with
      | some k => srcN w (if src.contains k then k else l) n f.a.toNat
      | none => srcN w l n f.a.toNat))) s

/-- What VOTE writes in a register (09 R246). -/
def voteWord (op : Nat) (yes : List Nat) : Nat :=
  if op = 0 then setMask yes else if op = 1 then yes.length else yes.headD 32

/-- What VOTE writes in a predicate (09 R246). -/
def voteBool (op : Nat) (yes src : List Nat) : Bool :=
  if op = 3 then decide (yes.length = src.length)
  else if op = 4 then !yes.isEmpty
  else yes.isEmpty || decide (yes.length = src.length)

def voteBody (f : Fields) (x : Iss) (s : State) : State :=
  let w := x.warp s
  match collSets w x f with
  | none => x.next s
  | some (src, wset) =>
    let yes := src.filter (fun l => predRead w l f.a.toNat)
    let op := f.fn.toNat
    if op ≤ 2 then x.next (x.mod s (putLanes f.d 0 wset (fun _ => voteWord op yes)))
    else
      let b := voteBool op yes src
      x.next (x.mod s (fun w =>
        if f.d.getLsbD 3 then predWrite w 0 f.d.toNat b
        else wset.foldl (fun w l => predWrite w l f.d.toNat b) w))

/-- VOTE (09 R246). -/
def execVote (f : Fields) (s : State) : Host.Outcome State Fault Refusal := issue 115 f (voteBody f) s

/-! ### Reductions -/

/-- Reduction of integer values by an operation code (09 R247). -/
def redInt (signed : Bool) (op : Nat) (xs : List Nat) : Nat :=
  let val := fun (x : Nat) => if signed then sxt x 32 else (x : Int)
  let lo := if signed then 0x80000000 else 0
  let hi := if signed then 0x7FFFFFFF else 0xFFFFFFFF
  if op = 0 then (xs.foldl (· + ·) 0) % 2 ^ 32
  else if op = 1 then xs.foldl (· &&& ·) 0xFFFFFFFF
  else if op = 2 then xs.foldl (· ||| ·) 0
  else if op = 3 then xs.foldl (· ^^^ ·) 0
  else if op = 4 then xs.foldl (fun a x => if val x < val a then x else a) hi
  else xs.foldl (fun a x => if val x > val a then x else a) lo

/-- Reduction of FP32 values: the exact sum rounded once, or the minimum or maximum with NaNs absent (09 R247). DESIGN CHOICE: infinities
of both signs beside a quiet NaN raise no NV (log 24). -/
def redFlt (op : Nat) (xs : List Nat) : Nat × Flags :=
  let vs := xs.map f32
  let sig := flagIf (vs.any FVal.isSig) flNV
  if op = 0 then
    if xs.isEmpty then (0, 0#5)
    else
      let e := exactSum vs
      let opp := vs.all (fun v => !v.isNan) && e.isNan
      let r := rnd fp32 .rne false e
      (r.1, r.2 ||| sig ||| flagIf opp flNV)
  else
    let nums := xs.filter (fun x => !(f32 x).isNan)
    match nums, xs with
    | [], [] => (if op = 4 then finfMag fp32 else fsign fp32 true (finfMag fp32), 0#5)
    | [], _ => (fcanon fp32, sig)
    | y :: ys, _ => (ys.foldl (fun a x => (fltMinMax (op == 5) false fp32 a x).1) y, sig)

/-- Reduction by type and operation (09 R247). -/
def redVals (t op : Nat) (xs : List Nat) : Nat × Flags := if t = 8 then redFlt op xs else (redInt (t == 0) op xs, 0#5)

/-- REDUX (09 R247). -/
def execRedux (f : Fields) (s : State) : Host.Outcome State Fault Refusal :=
  issue 116 f (collective 0 f (fun w src _ =>
    let r := redVals f.t.toNat (f.fn.toNat % 8) (src.map (fun l => opA w l f f.t.toNat))
    (r.2, fun _ => r.1))) s

/-- The lanes whose values a lane's prefix holds (09 R248). -/
def prefixLanes (ex : Bool) (src : List Nat) (l : Nat) : List Nat :=
  src.filter (fun k => decide (k < l) || (!ex && k == l))

/-- SCANX (09 R248). -/
def execScanx (f : Fields) (s : State) : Host.Outcome State Fault Refusal :=
  issue 117 f (collective 0 f (fun w src wset =>
    let r := fun l => redVals f.t.toNat (f.fn.toNat % 8)
      ((prefixLanes (wbit f.fn 3) src l).map (fun k => opA w k f f.t.toNat))
    (orFlags (wset.map (fun l => (r l).2)), fun l => (r l).1))) s

/-- MATCH by its form (09 R249). -/
def matchWord (form : Nat) (val : Nat → Nat) (src : List Nat) (l : Nat) : Nat :=
  let same := src.filter (fun k => val k == val l)
  if form = 0 then setMask same
  else if form = 1 then same.headD 32
  else if src.all (fun k => val k == val (src.headD 0)) then setMask src else 0

/-- MATCH (09 R249). -/
def execMatchLanes (f : Fields) (s : State) : Host.Outcome State Fault Refusal :=
  issue 118 f (collective 0 f (fun w src _ =>
    (0#5, matchWord f.fn.toNat (fun l => srcN w l (tRegs f.t.toNat) f.a.toNat) src))) s

/-! ### Single lanes -/

def lrdBody (f : Fields) (x : Iss) (s : State) : State :=
  let w := x.warp s
  if !guardUni w f.g then x.next s
  else
    let v := srcN w (rawB w 0 f 1 % 32) (tRegs f.t.toNat) f.a.toNat
    x.next (x.mod s (fun w => (LaneRes.ofRegs (dstWords f.d.toNat f.t.toNat v)).put w 0))

/-- LRD (09 R254). -/
def execLrd (f : Fields) (s : State) : Host.Outcome State Fault Refusal := issue 119 f (lrdBody f) s

def lwrBody (f : Fields) (x : Iss) (s : State) : State :=
  let w := x.warp s
  let lane := rawB w 0 f 1 % 32
  if !guardUni w f.g then x.next s
  else if w.clOpen && !w.hmode && !w.cmask.getLsbD lane then x.illegal s 3 0
  else
    let v := srcN w 0 (tRegs f.t.toNat) f.a.toNat
    x.next (x.mod s (fun w => (LaneRes.ofRegs (dstWords f.d.toNat f.t.toNat v)).put w lane))

/-- LWR (09 R254). -/
def execLwr (f : Fields) (s : State) : Host.Outcome State Fault Refusal := issue 120 f (lwrBody f) s

end Sys2Proof.Machine
end

