-- ==== Sys2Proof/Machine/Chain.lean ====
section
/-! DEFINITION. Machine/Chain.lean: transform chains of the transfer engine (05 R124 to R127): their legality, the values of
their streams element by element, the scales they write and their checksum. -/

namespace Sys2Proof.Machine

/-- A stage: its identifier, the format that reaches it, and its descriptor word. -/
structure Stg where
  id : Nat
  inF : Nat
  dw : Nat
deriving DecidableEq, Repr

/-- A chain of a command: the format of its source elements and its stages, the last one first. -/
structure Chn where
  inF : Nat
  rev : List Stg
  outF : Nat
deriving DecidableEq, Repr

/-- Whether a stochastic conversion is legal between formats (05 R126). -/
def srLegal (inF out : Nat) : Bool :=
  decide (6 ≤ out) && decide (out ≤ 10) && inF != out &&
  !((inF ≤ 1 && [6, 7, 8].contains out) || ((inF == 2 || inF == 3) && out == 8) || ((inF == 6 || inF == 7) && out == 8) ||
    ((inF == 9 || inF == 10) && [6, 7, 8].contains out))

/-- The stages that a COPY alone may have, and the place of its destination. -/
structure ChnCtx where
  copy : Bool
  dstSp : Bool
  count : Nat
deriving DecidableEq, Repr

/-- The format that a stage puts out; none where it is illegal there (05 R126). -/
def stageEnd (k : ChnCtx) (inF id dw : Nat) (rest : List Nat) : Option Nat :=
  let wide := decide (8 ≤ cWidth inF)
  match id with
  | 1 =>
    if dw ≠ 0 then none
    else if inF = 14 then some 0 else if inF = 15 then some 1 else if 11 ≤ inF ∧ inF ≤ 13 then some 9 else none
  | 2 =>
    let out := nbits dw 0 5
    if decide (inF ≤ 10) && decide (out ≤ 10) && nbits dw 9 23 == 0 &&
      (!nbit dw 8 || (nbits dw 5 2 == 0 && srLegal inF out)) then some out else none
  | 3 => if [0, 9, 10].contains inF && addrOk dw && k.count % 32 == 0 then some 8 else none
  | 4 =>
    let out := nbits dw 57 5
    if [6, 7, 8].contains inF && [0, 9, 10, 11, 12, 13].contains out && !nbit dw 62 && (!nbit dw 63 || nbits dw 19 38 == 0) &&
      k.count % 32 == 0 && (k.copy || decide (8 ≤ cWidth out)) then some out else none
  | 5 =>
    let n := nbits dw 0 16 * nbits dw 16 16
    if wide && k.copy && nbits dw 32 32 == 0 && n != 0 && k.count % n == 0 then some inF else none
  | 6 =>
    let b := nbits dw 10 5
    let m := nbits dw 5 5
    if wide && k.dstSp && nbits dw 15 49 == 0 && decide (1 ≤ m) && decide (m ≤ 8) && decide (b + m ≤ nbits dw 0 5) &&
      decide (cWidth inF ≤ 8 * 2 ^ b) && rest.all (fun i => i == 7 || i == 0) then some inF else none
  | 7 => if addrOk dw then some inF else none
  | _ => none

/-- The stages of a chain word with their descriptor words; none where the chain is illegal. -/
def buildStages (k : ChnCtx) : List (Nat × Nat) → Nat → List Stg → Option (List Stg × Nat)
  | [], f, acc => some (acc, f)
  | (id, dw) :: rest, f, acc =>
    if id = 0 then (if rest.all (fun e => e.1 == 0) then some (acc, f) else none)
    else if id = 7 ∧ acc.any (fun s => s.id == 7) then none
    else match stageEnd k f id dw (rest.map (·.1)) with
      | none => none
      | some f' => buildStages k rest f' (⟨id, f, dw⟩ :: acc)

/-- The chain of a command, from its chain word and descriptor (05 R124 to R126); none where it is illegal. `esz` is the
element size of a command other than COPY, `len` the source bytes of a COPY. -/
def buildChain (k : ChnCtx) (word : Nat) (descr : List Nat) (esz len : Nat) : Option Chn :=
  let inF := nbits word 24 5
  let w := cWidth inF
  let fits :=
    if k.copy then (if w = 4 then true else if w = 6 then len % 3 == 0 else len % (w / 8) == 0)
    else w == 8 * esz
  if 15 < inF ∨ !fits then none
  else match buildStages k ((upto 6).map (fun i => (nbits word (4 * i) 4, nthD 0 descr i))) inF [] with
    | some (rev, outF) => some ⟨inF, rev, outF⟩
    | none => none

/-! ### Values -/

/-- A 32-bit number mixed from a seed and an element number (05 R127). -/
def mixWord (seed e : Nat) : Nat :=
  let r := (seed + e * 0x9E3779B9) % 2 ^ 32
  let r := r ^^^ (r >>> 16)
  let r := r * 0x85EBCA6B % 2 ^ 32
  r ^^^ (r >>> 13)

/-- A pattern of a format as an exact value; integers in their signedness. -/
def codeVal (f v : Nat) : FVal :=
  match cFmt f with
  | some m => fdecode m v
  | none => .ofInt (if cSigned f then sxt v (cWidth f) else (v % 2 ^ cWidth f : Nat))

/-- CONVERT of an element (05 R127). -/
def convertElem (inF dw e v : Nat) : Nat :=
  let out := nbits dw 0 5
  let mode := rmode (nbits dw 5 2)
  let sat := nbit dw 7
  let n := cWidth out
  let satI := fun (i : Int) => wrapN (if cSigned out then satS i n else satU i n) n
  match cFmt inF, cFmt out with
  | none, none =>
    let i : Int := if cSigned inF then sxt v (cWidth inF) else (v % 2 ^ cWidth inF : Nat)
    if sat then satI i else wrapN i n
  | some m, none =>
    match fdecode m v with
    | .nan _ => 0
    | .inf neg => satI (if neg then -(2 ^ 200) else 2 ^ 200)
    | x => match x.toInt mode with
      | some (i, _) => satI i
      | none => 0
  | _, some m =>
    if nbit dw 8 then (rnds m (mixWord (nbits dw 32 32) e) sat (codeVal inF v)).1 else (rnd m mode sat (codeVal inF v)).1

/-- UNPACK of an element: exact (05 R126). -/
def unpackElem (inF v : Nat) : Nat :=
  match cFmt inF with
  | none => wrapN (if cSigned inF then sxt v 4 else (v % 16 : Nat)) 8
  | some m => (rnd e4m3 .rne false (fdecode m v)).1

/-- DEQUANT of an element under a scale byte (05 R127). -/
def dequantElem (inF x v : Nat) : Nat :=
  let val := codeVal inF v
  if x = 255 ∨ val.isNan then 0x7FC00000
  else (rnd fp32 .rne false (val.scale ((x : Int) - (if inF = 0 then 133 else 127)))).1

/-- emax of QUANT's targets. -/
def quantEmax (out : Nat) : Int :=
  if out = 9 then 8 else if out = 10 then 15 else if out = 11 then 4 else if out = 12 then 2 else if out = 13 then 2 else 0

/-- floor of the base-2 logarithm of a finite non-zero magnitude. -/
def FVal.log2 : FVal → Option Int
  | .num _ m e => if m = 0 then none else some ((m.log2 : Int) + e)
  | _ => none

/-- X of a block of values; none where it holds a NaN or an infinity (05 R127). -/
def quantX (out : Nat) (vals : List FVal) : Option Int :=
  if vals.any (fun v => v.isNan || v.isInf) then none
  else
    let top := vals.foldl (fun (b : Option Int) v => match b, v.log2 with
      | some x, some y => some (max x y)
      | none, y => y
      | x, none => x) none
    match top with
    | none => some (-127)
    | some t => some (clampI (t - quantEmax out) (-127) 127)

/-- The scale byte of a block. -/
def quantScale (out : Nat) (vals : List FVal) : Nat :=
  match quantX out vals with
  | none => 255
  | some x => (x + 127).toNat

/-- QUANT of an element of a block (05 R127). -/
def quantElem (out : Nat) (vals : List FVal) (v : FVal) : Nat :=
  match quantX out vals with
  | none => if out = 9 then 0x7F else if out = 10 then 0x7E else 0
  | some x =>
    match cFmt out with
    | some m => (rnd m .rne true (v.scale (-x))).1
    | none =>
      match (v.scale (6 - x)).toInt .rne with
      | some (i, _) => wrapN (clampI i (-127) 127) 8
      | none => 0

/-- Where an element of a transposed stream comes from (05 R127). -/
def transposeIx (dw j : Nat) : Nat :=
  let rows := nbits dw 0 16
  let cols := nbits dw 16 16
  let n := rows * cols
  let o := j % n
  j / n * n + (o % rows) * cols + o / rows

/-- A source of elements: none where the stream has no element at a number. -/
abbrev Src := Nat → State → Except EStop (Option Nat) × State

/-- The elements of a block of 32 of a stream. DESIGN CHOICE: elements that no segment of a RAGGED command gives are left out, and a
block without any has the scale of an empty block (log 57). -/
def blockVals (src : Src) (b : Nat) : List Nat → State → Except EStop (List Nat) × State
  | [], s => (.ok [], s)
  | i :: is, s =>
    match src (32 * b + i) s with
    | (.error e, s) => (.error e, s)
    | (.ok v, s) =>
      match blockVals src b is s with
      | (.ok vs, s) => (.ok (match v with | some v => v :: vs | none => vs), s)
      | r => r

/-- Element `j` of the stream behind these stages, the last stage first (05 R127). -/
def streamElem (x : EngAt) (src : Src) : List Stg → Src
  | [], j, s => src j s
  | st :: rest, j, s =>
    if st.id = 5 then streamElem x src rest (transposeIx st.dw j) s
    else match streamElem x src rest j s with
      | (.error e, s) => (.error e, s)
      | (.ok none, s) => (.ok none, s)
      | (.ok (some v), s) =>
        match st.id with
        | 1 => (.ok (some (unpackElem st.inF v)), s)
        | 2 => (.ok (some (convertElem st.inF st.dw j v)), s)
        | 3 =>
          (match engRead x st.dw ((j / 32 : Nat) : Int) 1 1 s with
           | (.ok bs, s) => (.ok (some (dequantElem st.inF (ofBytes bs) v)), s)
           | (.error e, s) => (.error e, s))
        | 4 =>
          (match blockVals (streamElem x src rest) (j / 32) lanes32 s with
           | (.ok vs, s) => (.ok (some (quantElem (nbits st.dw 57 5) (vs.map (codeVal st.inF)) (codeVal st.inF v))), s)
           | (.error e, s) => (.error e, s))
        | _ => (.ok (some v), s)

/-- The address word of QUANT's scales, without its OUT field. -/
def quantAddr (dw : Nat) : Nat := setNBits dw 57 5 0

/-- The scale bytes of the blocks from `b`, `n` of them, written for a QUANT behind these stages. -/
def writeScales (x : EngAt) (src : Src) (st : Stg) (rest : List Stg) : Nat → Nat → State → Except EStop Unit × State
  | _, 0, s => (.ok (), s)
  | b, n + 1, s =>
    orStop (blockVals (streamElem x src rest) b lanes32 s) (fun vs s =>
      orStop (engWrite x (quantAddr st.dw) (b : Int) 1
          [BitVec.ofNat 8 (quantScale (nbits st.dw 57 5) (vs.map (codeVal st.inF)))] s)
        (fun _ s => writeScales x src st rest (b + 1) n s))

/-- The scales of every QUANT for elements e0 to e1 - 1. -/
def chainScales (x : EngAt) (src : Src) (e0 e1 : Nat) : List Stg → State → Except EStop Unit × State
  | [], s => (.ok (), s)
  | st :: rest, s =>
    orStop (if st.id = 4 ∧ e0 < e1 then writeScales x src st rest (e0 / 32) ((e1 - 1) / 32 - e0 / 32 + 1) s else (.ok (), s))
      (fun _ s => chainScales x src e0 e1 rest s)

/-! ### The checksum -/

/-- CRC-32C over the lowest `n` bits of a value, the lowest first (05 R127). -/
def crcBits : Nat → Nat → Nat → Nat
  | 0, _, c => c
  | n + 1, v, c =>
    let b := (c ^^^ v) % 2
    crcBits n (v / 2) (if b = 1 then (c / 2) ^^^ 0x82F63B78 else c / 2)

/-- The checksum carried over elements from `e`, `n` of them, at the place of a CHECKSUM stage. -/
def crcElems (x : EngAt) (src : Src) (w : Nat) (rest : List Stg) : Nat → Nat → Nat → State → Except EStop Nat × State
  | _, 0, c, s => (.ok c, s)
  | e, n + 1, c, s =>
    match streamElem x src rest e s with
    | (.error r, s) => (.error r, s)
    | (.ok none, s) => crcElems x src w rest (e + 1) n c s
    | (.ok (some v), s) => crcElems x src w rest (e + 1) n (crcBits w v c) s

/-- The CHECKSUM stage of a chain, and the stages before it. -/
def checksumOf : List Stg → Option (Stg × List Stg)
  | [] => none
  | st :: rest => if st.id = 7 then some (st, rest) else checksumOf rest

/-- The checksum after elements e0 to e1 - 1. -/
def chainCrc (x : EngAt) (src : Src) (ch : Chn) (e0 e1 c : Nat) (s : State) : Except EStop Nat × State :=
  match checksumOf ch.rev with
  | none => (.ok c, s)
  | some (st, rest) => crcElems x src (cWidth st.inF) rest e0 (e1 - e0) c s

/-- The offset that SWIZZLE gives a destination offset (05 R127). -/
def swizzle (ch : Option Chn) (o : Nat) : Nat :=
  match ch with
  | none => o
  | some ch =>
    match ch.rev.find? (fun st => st.id == 6) with
    | none => o
    | some st => o ^^^ (nbits o (nbits st.dw 0 5) (nbits st.dw 5 5) <<< nbits st.dw 10 5)

end Sys2Proof.Machine
end

