-- ==== Sys2Proof/Machine/Special.lean ====
section
/-! DEFINITION. Machine/Special.lean: the special functions (09 R241 to R243). A finite result is what Config.special gives
where that lies within the bound of 09 R243, and the value rounded once where it does not (log 10). -/

namespace Sys2Proof.Machine

/-- Kinds of special function (09 R241). -/
inductive SFn where
  | rcp | rsq | sqrt | ex2 | lg2 | sin | cos | tanh
deriving DecidableEq, Repr

/-- pi and the base-2 logarithm of e, cut to 320 and 128 fraction bits. -/
def piFix : Nat := 0x3243f6a8885a308d313198a2e03707344a4093822299f31d0082efa98ec4e6c89452821e638d01377
def log2eFix : Nat := 0x171547652b82fe1777d0ffda0d23a7d11

/-- A value as a fixed-point number with `p` fraction bits, cut toward minus infinity. -/
def toFix (p : Nat) : FVal → Int
  | .num neg m e =>
    let k := e + p
    let v : Int := if k ≥ 0 then ((m <<< k.toNat : Nat) : Int) else ((m >>> (-k).toNat : Nat) : Int)
    if neg then -v else v
  | _ => 0

/-- 2^fr of a fraction of 96 bits, by its bits from the highest down: `c` is the root for the next bit, with 96 fraction
bits. -/
def exp2Bits (fr : Nat) : Nat → Nat → Nat → Nat
  | 0, _, acc => acc
  | n + 1, c, acc =>
    let acc := if nbit fr (n + 32) then acc * c / 2 ^ 96 else acc
    exp2Bits fr n (isqrt (c <<< 96)) acc

/-- 2^x for x with 96 fraction bits, to more than 50 bits. -/
def exp2Fix (x : Int) : FVal :=
  let i := x / (2 ^ 96 : Nat)
  let fr := (x - i * (2 ^ 96 : Nat)).toNat
  .num false (exp2Bits fr 64 (isqrt (2 <<< 192)) (2 ^ 96)) (i - 96)

/-- Fraction bits of log2 of a number of [1, 2) with 160 fraction bits, `n` of them. -/
def log2Bits : Nat → Nat → Nat → Nat
  | 0, _, acc => acc
  | n + 1, y, acc =>
    let y := y * y / 2 ^ 160
    if y ≥ 2 ^ 161 then log2Bits n (y / 2) (2 * acc + 1) else log2Bits n y (2 * acc)

/-- log2 of a positive number, to 80 fraction bits. -/
def log2Val (m : Nat) (e : Int) : FVal :=
  let top := m.log2
  let y := (m <<< 160) >>> top
  let v : Int := (e + top) * (2 ^ 80 : Nat) + (log2Bits 80 y 0 : Int)
  .num (decide (v < 0)) v.natAbs (-80)

/-- Terms of the Taylor series of sine or cosine with 128 fraction bits: the next term and the sum so far. -/
def taylor (t : Nat) : Nat → Nat → Int → Bool → Int → Int
  | 0, _, _, _, acc => acc
  | n + 1, k, term, neg, acc =>
    let acc := if neg then acc - term else acc + term
    taylor t n (k + 2) (term * t / (2 ^ 128 : Nat) * t / (2 ^ 128 : Nat) / ((k + 1) * (k + 2) : Nat)) (!neg) acc

/-- Sine and cosine of an angle below a quarter turn, with 128 fraction bits. -/
def sinFix (t : Nat) : Int := taylor t 30 1 (t : Int) false 0
def cosFix (t : Nat) : Int := taylor t 30 0 ((2 ^ 128 : Nat) : Int) false 0

/-- Sine, or cosine, of a non-negative finite value. -/
def trigVal (cosine : Bool) (x : FVal) : FVal :=
  let r := (toFix 320 x).toNat % (2 * piFix)
  let q := r * 2 / piFix
  let t := (r - q * piFix / 2) >>> 192
  let q := if cosine then q + 1 else q
  let v := if q % 2 = 0 then sinFix t else cosFix t
  let v := if q % 4 ≥ 2 then -v else v
  .num (decide (v < 0)) v.natAbs (-128)

/-- Hyperbolic tangent of a non-negative finite value. -/
def tanhVal (x : FVal) : FVal :=
  if fcmp x (.num false 1 (-20)) < 0 then x
  else if fcmp x (.num false 40 0) > 0 then .num false 1 0
  else
    let y := 2 * toFix 96 x * (log2eFix : Int) / (2 ^ 128 : Nat)
    let e := (toFix 128 (exp2Fix (-y))).toNat
    .num false (((2 ^ 128 - e) <<< 128) / (2 ^ 128 + e)) (-128)

/-- The exact value of a function of a finite value in its domain, to far more bits than any bound of 09 R243 needs. -/
def specialVal (k : SFn) (x : FVal) : FVal :=
  match k, x with
  | .rcp, v => fdiv 96 (.num false 1 0) v
  | .rsq, v => fdiv 96 (.num false 1 0) (fsqrt 128 v)
  | .sqrt, v => fsqrt 96 v
  | .ex2, v =>
    if fcmp v (.num false 4096 0) > 0 then .num false 1 4096
    else if fcmp v (.num true 4096 0) < 0 then .num false 1 (-4096)
    else exp2Fix (toFix 96 v)
  | .lg2, .num _ m e => log2Val m e
  | .sin, v => let r := trigVal false v.mag; if v.neg then r.flip else r
  | .cos, v => trigVal true v.mag
  | .tanh, v => let r := tanhVal v.mag; if v.neg then r.flip else r
  | _, v => v

/-- Whether two finite values differ by at most k × 2^u, with a margin for the error of the second. -/
def closeTo (v ap : FVal) (k : Nat) (u : Int) : Bool :=
  match v, ap with
  | .num a m e, .num b n g =>
    let q := min (min e g) u - 8
    let x := scaled a m e q
    let y := scaled b n g q
    decide ((x - y).natAbs + y.natAbs / 2 ^ 48 ≤ k <<< (u - q).toNat)
  | _, _ => false

/-- Exponent of an ulp of a format at a value (09 R243). -/
def ulpExp (m : Fmt) : FVal → Int
  | .num _ n e => max ((n.log2 : Int) + e) (1 - (m.bias : Int)) - m.m
  | _ => 0

/-- Whether a finite value meets the bound of a function (09 R243). -/
def meetsBound (k : SFn) (m : Fmt) (x v ap : FVal) : Bool :=
  let wide := m.m == 23
  let ulps := fun (n : Nat) => closeTo v ap n (ulpExp m ap)
  match k with
  | .rcp => wide && ulps 1
  | .rsq => ulps (if wide then 2 else 1)
  | .sqrt => false
  | .ex2 => ulps (if wide then 2 else 1)
  | .lg2 =>
    if wide && decide (fcmp x (.num false 1 (-1)) ≥ 0) && decide (fcmp x (.num false 2 0) ≤ 0) then closeTo v ap 1 (-22)
    else ulps (if wide then 2 else 1)
  | .sin | .cos =>
    if wide && decide (fcmp x.mag (.num false 1 15) > 0) then decide (fcmp v.mag (.num false 1 0) ≤ 0)
    else closeTo v ap 1 (if wide then -21 else -10)
  | .tanh => if wide then closeTo v ap 1 (-21) else ulps 1

/-- Whether a value is a power of two, and of an even exponent. -/
def powerOf2 : FVal → Option Int
  | .num _ m e => if m ≠ 0 ∧ 2 ^ m.log2 = m then some (e + m.log2) else none
  | _ => none

/-- Whether an integer: the operands for which EX2 is exact (09 R243). -/
def isInteger (v : FVal) : Bool := match v.toInt .rz with | some (_, inexact) => !inexact | none => false

/-- Whether the exact result is a number that the function gives exactly (09 R243). -/
def exactCase (k : SFn) (x : FVal) : Bool :=
  match k with
  | .rcp => (powerOf2 x).isSome
  | .rsq => match powerOf2 x with | some e => e % 2 == 0 | none => false
  | .ex2 => isInteger x
  | .lg2 => (powerOf2 x).isSome
  | _ => false

/-- A special operand's result and flags (09 R242). -/
def specialOperand (k : SFn) (m : Fmt) (x : FVal) : Option (Nat × Flags) :=
  let nan := some (fcanon m, flNV)
  let inf := fun n => fsign m n (finfMag m)
  let one := fun n => fsign m n (m.bias * 2 ^ m.m)
  match x with
  | .nan s => some (fcanon m, flagIf s flNV)
  | .inf n =>
    match k with
    | .rcp => some (fsign m n 0, 0#5)
    | .rsq => if n then nan else some (0, 0#5)
    | .sqrt => if n then nan else some (inf false, 0#5)
    | .ex2 => some (if n then 0 else inf false, 0#5)
    | .lg2 => if n then nan else some (inf false, 0#5)
    | .sin | .cos => nan
    | .tanh => some (one n, 0#5)
  | .num n 0 _ =>
    match k with
    | .rcp | .rsq => some (inf n, flDZ)
    | .sqrt | .sin | .tanh => some (fsign m n 0, 0#5)
    | .ex2 | .cos => some (one false, 0#5)
    | .lg2 => some (inf true, flDZ)
  | .num n _ _ =>
    match k with
    | .rsq | .sqrt | .lg2 => if n then nan else none
    | _ => none

/-- Whether a function is odd (09 R243). -/
def SFn.odd (k : SFn) : Bool := k == .sin || k == .tanh

/-- The pattern that the model takes for a finite result: the candidate where it meets the bound, else the value rounded.
An odd function takes the result of the magnitude and the operand's sign, the cosine that of the magnitude (09 R243). -/
def pickResult (k : SFn) (m : Fmt) (cand : Nat) (x : FVal) : Nat :=
  let y := if k.odd || k == .cos then x.mag else x
  let ap := specialVal k y
  let c := fdecode m cand
  let ok := match c with | .num _ _ _ => meetsBound k m y c ap | _ => false
  let r := if ok then cand % 2 ^ m.width else (rnd m .rne false ap).1
  if k.odd && x.neg then (if nbit r (m.e + m.m) then r - 2 ^ (m.e + m.m) else r + 2 ^ (m.e + m.m)) else r

/-- The flags of a result that is not exact (09 R243). -/
def inexactFlags (m : Fmt) (r : Nat) (ap : FVal) : Flags :=
  let fl := (rnd m .rne false ap).2
  if fl &&& flOF ≠ 0#5 then flOF ||| flNX
  else flNX ||| flagIf (nbits r m.m m.e == 0) flUF

/-- A special function of a pattern: result and flags (09 R241 to R243). `cand` is what Config.special gives. -/
def specialFn (k : SFn) (m : Fmt) (mode : RMode) (ieee fz : Bool) (cand a : Nat) : Nat × Flags :=
  let x := fdecode m (if fz then flushIn m a else a)
  let r : Nat × Flags :=
    match specialOperand k m x with
    | some r => r
    | none =>
      let ap := specialVal k x
      if k = .sqrt ∨ (k = .rcp ∧ (ieee ∨ m.m ≠ 23)) then rnd m mode false ap
      else if k = .tanh ∧ m.m = 23 ∧ fcmp x.mag (.num false 37 (-2)) ≥ 0 then (fsign m x.neg (m.bias * 2 ^ m.m), flNX)
      else if exactCase k x then
        (match k with
          | .rcp => rnd m .rne false (match powerOf2 x with | some e => .num x.neg 1 (-e) | none => ap)
          | .rsq => rnd m .rne false (match powerOf2 x with | some e => .num false 1 (-(e / 2)) | none => ap)
          | .ex2 => rnd m .rne false (match x.toInt .rz with
            | some (i, _) => .num false 1 (clampI i (-4096) 4096)
            | none => ap)
          | _ => rnd m .rne false (match powerOf2 x with | some e => FVal.ofInt e | none => ap))
      else if (rnd m .rne false ap).2 &&& flOF ≠ 0#5 then rnd m .rne false ap
      else
        let r := pickResult k m cand x
        (r, inexactFlags m r ap)
  if fz then flushOut m r else r

/-- A special function of every element of A; `slot` tells sine from cosine in the candidate's key. -/
def specialElems (k : SFn) (slot : Nat) (f : Fields) (x : Iss) (w : Warp) (l : Nat) : List (Nat × Flags) :=
  let t := f.t.toNat
  let m := fmtOf t
  fltElems t (fun i =>
    let a := elemN (opA w l f t) (tWidth t) i
    let key := if k.odd || k == .cos then a % 2 ^ (m.e + m.m) else a
    specialFn k m (rmode (fld f.fn 0 2)) (wbit f.fn 3) (wbit f.fn 2) (Config.special x.word slot key) a)

def specialBody (op : Nat) (k : SFn) (f : Fields) (x : Iss) (s : State) : State :=
  perLane op f (fun w l => fltResult f.d f.t.toNat (specialElems k 0 f x w l)) x s

/-- RCP (09 R241). -/
def execRcp (f : Fields) (s : State) : Host.Outcome State Fault Refusal := issue 104 f (specialBody 104 .rcp f) s

/-- RSQ (09 R241). -/
def execRsq (f : Fields) (s : State) : Host.Outcome State Fault Refusal := issue 105 f (specialBody 105 .rsq f) s

/-- SQRT (09 R241). -/
def execSqrt (f : Fields) (s : State) : Host.Outcome State Fault Refusal := issue 106 f (specialBody 106 .sqrt f) s

/-- EX2 (09 R241). -/
def execEx2 (f : Fields) (s : State) : Host.Outcome State Fault Refusal := issue 107 f (specialBody 107 .ex2 f) s

/-- LG2 (09 R241). -/
def execLg2 (f : Fields) (s : State) : Host.Outcome State Fault Refusal := issue 108 f (specialBody 108 .lg2 f) s

/-- The two results of SINCOS, sine in the low register of the pair and cosine in the high one (09 R241). -/
def sincosLane (f : Fields) (x : Iss) (w : Warp) (l : Nat) : LaneRes :=
  let t := f.t.toNat
  let word := fun (es : List (Nat × Flags)) => packElems (tWidth t) (es.map (·.1))
  let sn := specialElems .sin 0 f x w l
  let cs := specialElems .cos 1 f x w l
  ⟨dstWords f.d.toNat 15 (word sn + 2 ^ 32 * word cs), [],
    (upto (tCount t)).map (fun i => (sn.getD i (0, 0#5)).2 ||| (cs.getD i (0, 0#5)).2)⟩

def sincosBody (f : Fields) (x : Iss) (s : State) : State := perLane 109 f (sincosLane f x) x s

/-- SINCOS (09 R241). -/
def execSincos (f : Fields) (s : State) : Host.Outcome State Fault Refusal := issue 109 f (sincosBody f) s

/-- TANH (09 R241). -/
def execTanh (f : Fields) (s : State) : Host.Outcome State Fault Refusal := issue 110 f (specialBody 110 .tanh f) s

end Sys2Proof.Machine
end

