-- ==== Sys2Proof/Machine/Render.lean ====
section
/-! DEFINITION. Machine/Render.lean: the computations of the texture unit and the intersection unit (13 R346 to R360), with
their reads on path X. -/

namespace Sys2Proof.Machine

/-- Who a warp's unit reads are made for. -/
def unitWho (core : Nat) (w : Warp) : Who := { part := w.part, asid := w.asid, path := .X, ap := false, core := some core }

/-! ### Texture -/

/-- A texture descriptor (13 R355). -/
structure TexDesc where
  base : Nat
  w : Nat
  h : Nat
  d : Nat
  levels : Nat
  fmt : Nat
  dim : Nat
  filt : Nat
  au : Nat
  av : Nat
  aw : Nat
deriving DecidableEq, Repr

/-- The descriptor that 32 bytes hold; none where they break the map of 13 R355. -/
def texDesc (bs : List Byte) : Option TexDesc :=
  let q := fun i => leAt bs (8 * i) 8
  let t : TexDesc :=
    { base := nbits (q 0) 0 57, w := nbits (q 1) 48 16 + 1, h := nbits (q 1) 32 16 + 1, d := nbits (q 1) 16 16 + 1,
      levels := nbits (q 1) 12 4 + 1, fmt := nbits (q 1) 8 4, dim := nbits (q 1) 6 2, filt := nbits (q 1) 4 2,
      au := nbits (q 2) 4 2, av := nbits (q 2) 2 2, aw := nbits (q 2) 0 2 }
  let big := max (max t.w t.h) (if t.dim = 2 then t.d else 1)
  if nbits (q 0) 57 7 = 0 ∧ nbits (q 0) 0 8 = 0 ∧ nbits (q 1) 0 4 = 0 ∧ nbits (q 2) 6 58 = 0 ∧ q 3 = 0 ∧ t.fmt < 8 ∧
    t.dim ≠ 3 ∧ t.filt ≠ 3 ∧ t.au ≠ 3 ∧ t.av ≠ 3 ∧ t.aw ≠ 3 ∧ (t.dim ≠ 0 ∨ t.d = 1) ∧ t.levels - 1 ≤ big.log2
  then some t else none

/-- Bytes of a texel (13 R356). -/
def texelBytes (fmt : Nat) : Nat := ([1, 2, 4, 2, 8, 4, 16, 4] : List Nat).getD fmt 1

/-- Extents of level `l`; the layers of an array do not shrink (13 R355). -/
def TexDesc.extents (t : TexDesc) (l : Nat) : Nat × Nat × Nat :=
  (max 1 (t.w >>> l), max 1 (t.h >>> l), if t.dim = 2 then max 1 (t.d >>> l) else t.d)

/-- Bytes of a padded row of level `l`. -/
def TexDesc.pitch (t : TexDesc) (l : Nat) : Nat := cdiv ((t.extents l).1 * texelBytes t.fmt) 256 * 256

/-- Byte offset of level `l` from BASE. -/
def TexDesc.levelAt (t : TexDesc) : Nat → Nat
  | 0 => 0
  | l + 1 => t.levelAt l + t.pitch l * (t.extents l).2.1 * (t.extents l).2.2

/-- Address of a texel (13 R355). -/
def TexDesc.texel (t : TexDesc) (l x y z : Nat) : VA :=
  BitVec.ofNat 57 (t.base + t.levelAt l + (z * (t.extents l).2.1 + y) * t.pitch l + x * texelBytes t.fmt)

/-- A byte over 255 as an FP32 pattern. -/
def unorm8 (b : Nat) : FVal := f32 (rnd fp32 .rne false (fdiv 64 (.num false b 0) (.num false 255 0))).1

/-- The unsigned small floats of 13 R360. -/
def uf11 : Fmt := ⟨5, 6, 15, true, true⟩
def uf10 : Fmt := ⟨5, 5, 15, true, true⟩

/-- The four components of a texel (13 R356); missing ones read 0, 0 and 1. -/
def texelValue (fmt : Nat) (bs : List Byte) : List FVal :=
  let zero : FVal := .num false 0 0
  let one : FVal := .num false 1 0
  let u8 := fun i => unorm8 (leAt bs i 1)
  let h := fun i => fdecode fp16 (leAt bs (2 * i) 2)
  let s := fun i => f32 (leAt bs (4 * i) 4)
  let w := leAt bs 0 4
  match fmt with
  | 0 => [u8 0, zero, zero, one]
  | 1 => [u8 0, u8 1, zero, one]
  | 2 => [u8 0, u8 1, u8 2, u8 3]
  | 3 => [h 0, zero, zero, one]
  | 4 => [h 0, h 1, h 2, h 3]
  | 5 => [s 0, zero, zero, one]
  | 6 => [s 0, s 1, s 2, s 3]
  | _ => [fdecode uf11 (nbits w 0 11), fdecode uf11 (nbits w 11 11), fdecode uf10 (nbits w 22 10), one]

/-- A finite value as a multiple of 2^-160, rounded toward minus infinity; every FP32 value times 2^10 is such a multiple. -/
def fix160 (v : FVal) : Int := toFix 160 v

/-- An index mapped by an address mode: wrap, clamp to edge, mirror (13 R355, R358). -/
def addrMode (mode e : Nat) (i : Int) : Nat :=
  if mode = 0 then (i % (e : Int)).toNat
  else if mode = 1 then (clampI i 0 ((e : Int) - 1)).toNat
  else
    let j := (i % ((2 * e : Nat) : Int)).toNat
    if j < e then j else 2 * e - 1 - j

/-- `n / 2^k` rounded to an integer, ties to even. -/
def rneShift (n : Int) (k : Nat) : Int :=
  let q := n / ((2 ^ k : Nat) : Int)
  let r := n - q * ((2 ^ k : Nat) : Int)
  let half : Int := ((2 ^ (k - 1) : Nat) : Int)
  if r > half ∨ (r = half ∧ q % 2 ≠ 0) then q + 1 else q

/-- Texels taken along an axis of extent `e` at coordinate `c`, with their weights in 1/256 (13 R358). -/
def axisTaps (linear : Bool) (mode e : Nat) (c : FVal) : List (Nat × Nat) :=
  let x := fix160 c * (e : Int)
  let one : Int := ((2 ^ 160 : Nat) : Int)
  if !linear then [(addrMode mode e (x / one), 256)]
  else
    let y := x - one / 2
    let i := y / one
    let w := (rneShift (y - i * one) 152).toNat
    if w = 256 then [(addrMode mode e (i + 1), 256), (addrMode mode e (i + 2), 0)]
    else [(addrMode mode e i, 256 - w), (addrMode mode e (i + 1), w)]

/-- The layer of an array: RNE of the coordinate, clamped to the layers (13 R358). -/
def layerOf (e : Nat) (w : FVal) : Nat :=
  if w.isInf then (if w.neg then 0 else e - 1) else (clampI (rneShift (fix160 w) 160) 0 ((e : Int) - 1)).toNat

/-- Texels of a level with weights in 1/2^24 (13 R358). -/
def levelTaps (t : TexDesc) (l : Nat) (u v w : FVal) : List (VA × Nat) :=
  let (ex, ey, ez) := t.extents l
  let lin := t.filt != 0
  let zs : List (Nat × Nat) :=
    if t.dim = 0 then [(0, 256)]
    else if t.dim = 1 then [(layerOf ez w, 256)]
    else axisTaps lin t.aw ez w
  (zs.flatMap (fun z => (axisTaps lin t.av ey v).flatMap (fun y => (axisTaps lin t.au ex u).map (fun x =>
    (t.texel l x.1 y.1 z.1, x.2 * y.2 * z.2)))))

/-- The texels read on path X; a refused read ends the sample. -/
def readTaps (s : State) (who : Who) (fmt : Nat) : List (VA × Nat) →
    (Except (VA × AccErr) (List (List FVal × Nat))) × State
  | [] => (.ok [], s)
  | (va, w) :: rest =>
    match homeRead s who .rd va (texelBytes fmt) with
    | (.error e, s) => (.error (va, e), s)
    | (.ok bs, s) =>
      match readTaps s who fmt rest with
      | (.error e, s) => (.error e, s)
      | (.ok ts, s) => (.ok ((texelValue fmt bs, w) :: ts), s)

/-- A component of a sample: the exact weighted sum rounded once to FP32 (13 R358), weights in 1/2^32. -/
def sampleSum (ts : List (List FVal × Nat)) (c : Nat) : Nat :=
  (rnd fp32 .rne false (exactSum ((ts.filter (fun t => t.2 != 0)).map (fun t =>
    (fmul (t.1.getD c (.num false 0 0)) (.num false t.2 0)).scale (-32))))).1

/-- The result words of four FP32 components: four registers, or two of FP16 pairs (10 R288, 13 R358). -/
def texWords (t : Nat) (cs : List Nat) : List Nat :=
  if t = 8 then cs
  else
    let h := fun i => (rnd fp16 .rne false (f32 (cs.getD i 0))).1
    [h 0 + 65536 * h 1, h 2 + 65536 * h 3]

/-- The words of a sample that cannot be taken: canonical NaNs (13 R355). -/
def texNan (t : Nat) : List Nat := if t = 8 then List.replicate 4 0x7FC00000 else [0x7E007E00, 0x7E007E00]

/-- What a lane's sample is computed from: coordinates, the level-of-detail operand, the derivatives of the coordinates
along x and y, and how the level is chosen (10 R288, 13 R357). -/
structure TexArg where
  u : Nat
  v : Nat
  w : Nat
  l : Nat
  dx : List Nat
  dy : List Nat
  mode : Nat
deriving DecidableEq, Repr

/-- The larger of two FP32 values, a NaN absent. -/
def f32max (x y : Nat) : Nat := if f32nan x then y else if f32nan y then x else if f32lt x y then y else x

/-- The length of a derivative in texels, each operation rounded (13 R357). -/
def rho (t : TexDesc) (d : List Nat) : Nat :=
  let sq := fun (i e : Nat) =>
    let p := f32mul (d.getD i 0) (rnd fp32 .rne false (.num false e 0)).1
    f32mul p p
  let r := f32add (sq 0 t.w) (sq 1 t.h)
  f32sqrt (if t.dim = 2 then f32add r (sq 2 t.d) else r)

/-- The level of detail, before its clamp (13 R357). -/
def lodOf (t : TexDesc) (a : TexArg) : Nat :=
  if a.mode = 1 then a.l
  else
    let m := f32max (rho t a.dx) (rho t a.dy)
    let lam := (specialFn .lg2 fp32 .rne false false (Config.special 0#64 0 m) m).1
    if a.mode = 2 then f32add lam a.l else lam

/-- The levels sampled, with weights in 1/256 (13 R357). DEDUCED: a NaN that the derivatives leave is absent from the clamp as it is from
the maximum before it, so the lane takes level 0 (log 28). -/
def texLevels (t : TexDesc) (lam : Nat) : List (Nat × Nat) :=
  let last := t.levels - 1
  let top := (rnd fp32 .rne false (.num false last 0)).1
  let c := if f32nan lam || f32lt lam 0 then 0 else if f32lt top lam then top else lam
  let one : Int := ((2 ^ 160 : Nat) : Int)
  if t.filt ≠ 2 then [(min last (fix160 (f32 (f32add c 0x3F000000)) / one).toNat, 256)]
  else
    let x := fix160 (f32 c)
    let i := x / one
    let w := (rneShift (x - i * one) 152).toNat
    let l := i.toNat
    [(min last l, 256 - w), (min last (l + 1), w)]

/-- A texture sample (13 R355 to R358): its words; none for an infinite coordinate that is no array layer, which no rule mentions
(00 R10, log 28); or the refused access. -/
def texSample (s : State) (who : Who) (desc : VA) (t : Nat) (a : TexArg) :
    (Except (VA × AccErr) (Option (List Nat))) × State :=
  match readN s who desc 32 with
  | (.error e, s) => (.error (desc, e), s)
  | (.ok bs, s) =>
    match (if desc.toNat % 32 = 0 then texDesc bs else none) with
    | none => (.ok (some (texNan t)), s)
    | some d =>
      let cs := if d.dim = 0 then [a.u, a.v] else [a.u, a.v, a.w]
      if cs.any f32nan ∨ (a.mode ≠ 0 ∧ f32nan a.l) then (.ok (some (texNan t)), s)
      else
        let lam := lodOf d a
        if (cs.take (if d.dim = 1 then 2 else 3)).any (fun c => (f32 c).isInf) then (.ok none, s)
        else
          let taps := (texLevels d lam).flatMap (fun l =>
            (levelTaps d l.1 (f32 a.u) (f32 a.v) (f32 a.w)).map (fun p => (p.1, p.2 * l.2)))
          match readTaps s who d.fmt taps with
          | (.error e, s) => (.error e, s)
          | (.ok ts, s) => (.ok (some (texWords t ((upto 4).map (sampleSum ts)))), s)

/-! ### Rays -/

/-- A step of an intersection microprogram keeps the rules of 13 R349. -/
def stepOk (st : DWord) : Bool :=
  let opc := fld st 60 4
  let z := fun (lo n : Nat) => fld st lo n == 0
  let imm := wbit st 37
  let b := if imm then z 45 5 else z 0 32
  if opc = 0 then z 0 60
  else if opc = 1 then b && z 32 5
  else if opc = 2 ∨ opc = 3 then b && z 40 5 && z 32 5
  else if opc = 4 then b && z 55 5 && z 40 5 && decide (fld st 34 3 ≤ 5)
  else if opc = 5 then b && z 40 5 && z 34 3
  else if opc = 6 then z 34 6 && z 0 32
  else false

/-- The working registers and flags of a primitive test, and the hit so far (13 R350). -/
structure Test where
  w : List Nat
  f : List Bool
  hit : Option Hit
  stop : Bool
deriving DecidableEq, Repr

/-- One step of a primitive test (13 R350, R351). -/
def runStep (r : Ray) (kind : Nat) (pid : Nat) (st : DWord) (q : Test) : Test :=
  let g := fun (lo : Nat) => q.w.getD (fld st lo 5) 0
  let neg := fun (b : Bool) (x : Nat) => if b then f32neg x else x
  let a := neg (wbit st 39) (g 50)
  let b := neg (wbit st 38) (if wbit st 37 then fld st 0 32 else g 45)
  let d := fld st 55 5
  let fl := q.f.getD (fld st 32 2) false
  match fld st 60 4 with
  | 1 => { q with w := q.w.set d (f32fma a b (g 40)) }
  | 2 => { q with w := q.w.set d (fltMinMax false false fp32 a b).1 }
  | 3 => { q with w := q.w.set d (fltMinMax true false fp32 a b).1 }
  | 4 =>
    let c := fld st 34 3
    let v := if c = 0 then f32lt a b else if c = 1 then f32le a b else if c = 2 then f32eq a b
      else if c = 3 then !f32eq a b else if c = 4 then f32lt b a else f32le b a
    { q with f := q.f.set (fld st 32 2) v }
  | 5 => { q with w := q.w.set d (if fl then a else b) }
  | 6 =>
    if !fl then q
    else
      let den := g 45
      let t := f32div (g 50) den
      let ok := !f32nan t && f32le (q.w.getD 3 0) t && f32le t (r.ws.getD 7 0) &&
        (match q.hit with | some h => f32lt t h.t | none => true) && (!r.cull || f32le 0 den)
      if ok then
        { q with hit := some { t := t, u := f32div (g 40) den, v := f32div (g 55) den, kind := kind, pid := pid },
                 stop := r.first }
      else q
  | _ => { q with stop := true }

/-- The steps of a test from the first, until one ends it. -/
def runSteps (r : Ray) (kind pid : Nat) : List DWord → Test → Test
  | [], q => q
  | st :: rest, q => if q.stop then q else runSteps r kind pid rest (runStep r kind pid st q)

/-- A primitive test (13 R350): the hit afterwards. -/
def primTest (r : Ray) (kind : Nat) (steps : List DWord) (rec_ : List Nat) (best : Nat) (hit : Option Hit) : Option Hit :=
  let w := (r.ws.take 7) ++ [best] ++ rec_ ++ List.replicate 8 0
  (runSteps r kind (rec_.getD 15 0 % 2 ^ 24) steps ⟨w, [false, false, false, false], hit, false⟩).hit

/-- A child word that breaks 13 R346. -/
def childBad (c : Nat) : Bool :=
  if nbit c 62 then nbits c 51 8 == 0 else nbits c 59 3 != 0 || nbits c 51 8 != 0 || nbit c 0

/-- The interval in which a ray meets a box: nearest and farthest distance, a NaN distance restricting neither (13 R352). -/
def slab (r : Ray) (bs : List Byte) (at_ : Nat) : Nat × Nat :=
  (upto 3).foldl (fun (p : Nat × Nat) i =>
    let inv := f32div 0x3F800000 (r.ws.getD (4 + i) 0)
    let dist := fun (bound : Nat) => f32mul (f32sub bound (r.ws.getD i 0)) inv
    let lo := dist (leAt bs (at_ + 4 * i) 4)
    let hi := dist (leAt bs (at_ + 12 + 4 * i) 4)
    let (a, b) := if nbit inv 31 then (hi, lo) else (lo, hi)
    (f32max p.1 a, if f32nan b then p.2 else if f32lt b p.2 then b else p.2)) (0xFF800000, 0x7F800000)

/-- An entry put among those that are popped by ascending distance, ties by ascending number. -/
def insertNear (e : Nat × Nat) : List (Nat × Nat) → List (Nat × Nat)
  | [] => [e]
  | x :: xs => if f32lt e.1 x.1 then e :: x :: xs else x :: insertNear e xs

/-- A ray at the start of its traversal (13 R352). -/
def rayJob (r : Ray) (root : Nat) : RayJob :=
  { src := none, old := none, ray := r, pending := [root], best := r.ws.getD 7 0, hit := none, leaf := none, half := none, res := none }

/-- The four result words of a ray that has ended (13 R353). -/
def hitWords : Option Hit → List Nat
  | some h => [h.pid * 256 + h.kind * 32 + 1, h.t, h.u, h.v]
  | none => [0, 0, 0, 0]
def badScene : List Nat := [2, 0, 0, 0]

/-- The entries of a box node that a ray may hit put before the children that are pending, nearest first (13 R352); more than
96 are a bad scene (13 R347). -/
def openNode (j : RayJob) (bs : List Byte) : RayJob :=
  let kids := (upto 4).foldl (fun acc i =>
    let ch := leAt bs (32 * i + 24) 8
    let (near, far) := slab j.ray bs (32 * i)
    if nbit ch 63 && f32le near far && f32le (j.ray.ws.getD 3 0) far && f32le near j.best then insertNear (near, ch) acc
    else acc) []
  let pending := kids.map (·.2) ++ j.pending
  if pending.length > 96 then { j with half := none, res := some badScene } else { j with half := none, pending := pending }

/-- A primitive record tested; under .first the first accepted hit ends the traversal (13 R350 to R352). -/
def testRecord (j : RayJob) (l : RayLeaf) (bs : List Byte) : RayJob :=
  let hit := primTest j.ray l.kind l.steps (wordsOf 4 bs 16) j.best j.hit
  let best := match hit with | some h => h.t | none => j.best
  let left := if l.left ≤ 1 then none else some { l with va := l.va + 64, left := l.left - 1 }
  { j with hit := hit, best := best, leaf := left, res := if j.ray.first && hit.isSome then some (hitWords hit) else none }

/-- One read of 64 bytes of a traversal, or one child taken from those that are pending (13 R352, R354); the refused read, if it
is refused. -/
def rayStep (who : Who) (kinds : Nat → Option (List DWord)) (j : RayJob) (s : State) : Except (VA × AccErr) RayJob × State :=
  let read := fun (va : Nat) (go : List Byte → RayJob) =>
    match readN s who (BitVec.ofNat 57 va) 64 with
    | (.error e, s) => ((.error (BitVec.ofNat 57 va, e) : Except (VA × AccErr) RayJob), s)
    | (.ok bs, s) => (.ok (go bs), s)
  match j.res, j.leaf, j.half, j.pending with
  | some _, _, _, _ => (.ok j, s)
  | none, some l, _, _ => read l.va (testRecord j l)
  | none, none, some (va, bs), _ => read (va + 64) (fun cs => openNode j (bs ++ cs))
  | none, none, none, [] => (.ok { j with res := some (hitWords j.hit) }, s)
  | none, none, none, c :: rest =>
    let j := { j with pending := rest }
    let va := nbits c 0 51 * 64
    if !nbit c 63 then (.ok j, s)
    else if childBad c then (.ok { j with res := some badScene }, s)
    else if nbit c 62 then
      match kinds (nbits c 59 3) with
      | none => (.ok { j with res := some badScene }, s)
      | some steps => (.ok { j with leaf := some { kind := nbits c 59 3, steps := steps, va := va, left := nbits c 51 8 } }, s)
    else read va (fun bs => { j with half := some (va, bs) })

/-- The microprograms that a grid's rays find on a core (13 R348). -/
def kindsOf (s : State) (core : Nat) (who : Who) (grid : Nat) : Nat → Option (List DWord) :=
  fun k => lookup (coreOf s core).kinds (kindKey who.part grid k)

/-- A traversal over the scene as it stands: the words it ends with, or the first read that is refused; the number bounds the reads
looked at (log 29). -/
def rayAhead (who : Who) (kinds : Nat → Option (List DWord)) : Nat → RayJob → State → Except (VA × AccErr) (Option (List Nat)) × State
  | 0, _, s => (.ok none, s)
  | n + 1, j, s =>
    match j.res with
    | some ws => (.ok (some ws), s)
    | none =>
      match rayStep who kinds j s with
      | (.error e, s) => (.error e, s)
      | (.ok j, s) => rayAhead who kinds n j s

end Sys2Proof.Machine
end

