-- ==== Sys2Proof/Machine/Transfer.lean ====
section
/-! DEFINITION. Machine/Transfer.lean: the commands of the transfer engine (05 R117, R121 to R123, R129), each moved by chunks of
4,096 destination bytes. -/

namespace Sys2Proof.Machine

/-! ### The shape of a command -/

def cLen (c : Cmd) : Nat := nbits (c.w (if c.opc = 6 then 1 else 2)) 0 32
def cEsz (c : Cmd) : Nat := eszBytes (nbits (c.w (if c.opc = 2 then 8 else if c.opc = 5 then 4 else 3)) 0 3)
def cCount (c : Cmd) : Nat := nbits (c.w 3) 32 32
def cBound (c : Cmd) : Nat := nbits (c.w 4) 0 32
def rNseg (c : Cmd) : Nat := nbits (c.w 4) 48 16
def rTr (c : Cmd) : Nat := nbits (c.w 4) 32 16
def rTc (c : Cmd) : Nat := nbits (c.w 4) 16 16
def rPad (c : Cmd) : Bool := nbit (c.w 4) 3

/-- The destination address word of a command (05 R121, R122). -/
def cDst (c : Cmd) : Nat :=
  match c.opc with
  | 1 | 2 => c.w 1
  | 3 | 5 => c.w 2
  | _ => c.w 0

/-- Source elements of a command under a chain (05 R126, R129). -/
def cElems (c : Cmd) (w : Nat) : Nat :=
  match c.opc with
  | 1 => cLen c * 8 / w
  | 2 => c.affineCount 2
  | 3 | 4 => cCount c
  | 5 => rTr c * rTc c
  | _ => cLen c

/-- The descriptor of a command's chain; RANGE where it leaves the region (05 R124). -/
def chainDescr (g : Group) (c : Cmd) : Except EStop (List Nat) :=
  let o := 8 * nbits c.chainWord 32 16
  if !hChn c.h then .ok []
  else if o + 48 > g.size then .error (.park 3)
  else if spadBad g o 48 then .error (.park 5)
  else .ok ((upto 6).map (fun i => ofBytes (spadRead g (o + 8 * i) 8)))

/-- The chain of a command that has one, under its descriptor words; an illegal one parks with CHAIN (05 R126). -/
def cmdChain (c : Cmd) (ds : List Nat) : Except EStop (Option Chn) :=
  if !hChn c.h then .ok none
  else
    let w := cWidth (nbits c.chainWord 24 5)
    let k : ChnCtx := ⟨c.opc == 1, nbit (cDst c) 63, cElems c w⟩
    match buildChain k c.chainWord ds (cEsz c) (cLen c) with
    | some ch => .ok (some ch)
    | none => .error (.park 2)

/-- Width in bits of an element as it is written, and the number of elements: bytes, for a COPY or FILL without a chain. -/
def outWidth (c : Cmd) (ch : Option Chn) : Nat :=
  match ch with
  | some ch => cWidth ch.outF
  | none => if c.opc = 1 ∨ c.opc = 6 then 8 else 8 * cEsz c
def outCount (c : Cmd) (ch : Option Chn) : Nat :=
  cElems c (match ch with | some ch => cWidth ch.inF | none => 8)

/-- Bytes of the nominal destination (05 R129). -/
def nominal (c : Cmd) (ch : Option Chn) : Nat := cdiv (outCount c ch * outWidth c ch) 8

/-! ### Sources and destinations of elements -/

/-- A mixed-radix offset of AFFINE (05 R122). -/
def affineOff (c : Cmd) (ke ks i : Nat) : Int :=
  let x := c.ext ke
  c.stride ks 0 * ((i % x 0 : Nat) : Int) + c.stride ks 1 * ((i / x 0 % x 1 : Nat) : Int) +
  c.stride ks 2 * ((i / (x 0 * x 1) % x 2 : Nat) : Int) + c.stride ks 3 * ((i / (x 0 * x 1 * x 2) : Nat) : Int)

/-- A number read from an operand. -/
def engNat (x : EngAt) (aw : Nat) (off : Int) (n : Nat) (s : State) : Except EStop Nat × State :=
  match engRead x aw off n n s with
  | (.ok bs, s) => (.ok (ofBytes bs), s)
  | (.error e, s) => (.error e, s)

/-- An answer of a source. -/
def someElem (r : Except EStop Nat × State) : Except EStop (Option Nat) × State :=
  match r with
  | (.ok v, s) => (.ok (some v), s)
  | (.error e, s) => (.error e, s)

/-- An element of a packed stream of a COPY: whole bytes, or 6 or 4 bits of it (05 R125). -/
def copySrc (x : EngAt) (c : Cmd) (w : Nat) : Src := fun i s =>
  if 8 ≤ w then someElem (engNat x (c.w 0) ((i * (w / 8) : Nat) : Int) (w / 8) s)
  else
    let lo := w * i / 8
    let hi := (w * i + w - 1) / 8
    match engRead x (c.w 0) (lo : Int) (hi - lo + 1) 1 s with
    | (.ok bs, s) => (.ok (some (nbits (ofBytes bs) (w * i % 8) w)), s)
    | (.error e, s) => (.error e, s)

/-- The length of a segment of a RAGGED command. -/
def ragLen (x : EngAt) (c : Cmd) (i : Nat) (s : State) : Except EStop Nat × State := engNat x (c.w 1) ((4 * i : Nat) : Int) 4 s

/-- The source elements of a command, in its element order (05 R122, R125). -/
def cmdSrc (x : EngAt) (c : Cmd) (w : Nat) : Src := fun e s =>
  let sz := cEsz c
  match c.opc with
  | 1 => copySrc x c w e s
  | 2 => someElem (engNat x (c.w 0) (affineOff c 2 4 e) sz s)
  | 3 =>
    (match engNat x (c.w 1) ((4 * e : Nat) : Int) 4 s with
     | (.error r, s) => (.error r, s)
     | (.ok k, s) => if k ≥ cBound c then (.ok (some 0), s) else someElem (engNat x (c.w 0) ((k * sz : Nat) : Int) sz s))
  | 4 => someElem (engNat x (c.w 2) ((e * sz : Nat) : Int) sz s)
  | _ =>
    let i := e / rTc c
    let j := e % rTc c
    if i ≥ rNseg c then (.ok none, s)
    else match ragLen x c i s with
      | (.error r, s) => (.error r, s)
      | (.ok n, s) =>
        if n = 0 then (.ok none, s)
        else if j < n then someElem (engNat x (c.w 0) ((i * nbits (c.w 3) 32 32 + j * sz : Nat) : Int) sz s)
        else if rPad c then (.ok (some (c.w 5 % 2 ^ (8 * sz))), s)
        else (.ok none, s)

/-- Where an element goes, as an offset from the destination word; nowhere for a SCATTER index at its bound (05 R122). -/
def cmdDst (x : EngAt) (c : Cmd) (sz e : Nat) (s : State) : Except EStop (Option Int) × State :=
  match c.opc with
  | 2 => (.ok (some (affineOff c 3 6 e)), s)
  | 4 =>
    (match engNat x (c.w 1) ((4 * e : Nat) : Int) 4 s with
     | (.error r, s) => (.error r, s)
     | (.ok k, s) => (.ok (if k ≥ cBound c then none else some ((k * sz : Nat) : Int)), s))
  | 5 => (.ok (some ((e / rTc c * nbits (c.w 3) 0 32 + e % rTc c * sz : Nat) : Int)), s)
  | _ => (.ok (some ((e * sz : Nat) : Int)), s)

/-! ### Chunks -/

/-- One element moved: its value through the chain, written where it goes. -/
def moveElem (x : EngAt) (c : Cmd) (ch : Option Chn) (src : Src) (e : Nat) (s : State) : Except EStop Unit × State :=
  let sz := outWidth c ch / 8
  match cmdDst x c sz e s with
  | (.error r, s) => (.error r, s)
  | (.ok none, s) => (.ok (), s)
  | (.ok (some off), s) =>
    match src e s with
    | (.error r, s) => (.error r, s)
    | (.ok none, s) => (.ok (), s)
    | (.ok (some v), s) =>
      let base := nbits (cDst c) 0 19
      let off := if nbit (cDst c) 63 ∧ 0 ≤ (base : Int) + off then
          (swizzle ch ((base : Int) + off).toNat : Int) - (base : Int)
        else off
      engWrite x (cDst c) off sz (toBytes sz v) s

/-- Values of a stream, from element `e`, `n` of them. -/
def streamVals (src : Src) : Nat → Nat → State → Except EStop (List Nat) × State
  | _, 0, s => (.ok [], s)
  | e, n + 1, s =>
    match src e s with
    | (.error r, s) => (.error r, s)
    | (.ok v, s) =>
      match streamVals src (e + 1) n s with
      | (.ok vs, s) => (.ok (v.getD 0 :: vs), s)
      | r => r

/-- Bytes [lo, hi) of a stream of elements narrower than a byte (05 R125). -/
def packedBytes (src : Src) (w lo hi : Nat) (s : State) : Except EStop (List Byte) × State :=
  let f0 := 8 * lo / w
  match streamVals src f0 (cdiv (8 * hi) w - f0) s with
  | (.ok vs, s) => (.ok (toBytes (hi - lo) (packElems w vs >>> (8 * lo - w * f0))), s)
  | (.error e, s) => (.error e, s)

/-- The sticky flags that elements e0 to e1 - 1 set (05 R122). -/
def chunkFlags (x : EngAt) (c : Cmd) (k e0 e1 : Nat) (s : State) : Except EStop Unit × State :=
  match c.opc with
  | 3 | 4 =>
    engEach (fun i s => orStop (engNat x (c.w 1) ((4 * (e0 + i) : Nat) : Int) 4 s) (fun v s =>
      (.ok (), if v ≥ cBound c then setSticky s x 1 else s))) (upto (e1 - e0)) s
  | 5 =>
    let tc := rTc c
    let rows := (upto ((e1 + tc - 1) / tc - e0 / tc)).map (· + e0 / tc)
    orStop (engEach (fun i s => if i ≥ rNseg c then (.ok (), s) else orStop (ragLen x c i s) (fun n s =>
        (.ok (), if n > tc then setSticky s x 2 else s))) rows s) (fun _ s =>
      if k ≠ 0 then (.ok (), s)
      else engEach (fun i s => orStop (ragLen x c (rTr c + i) s) (fun n s =>
        (.ok (), if n > 0 then setSticky s x 2 else s))) (upto (rNseg c - rTr c)) s)
  | _ => (.ok (), s)

/-- Whether a whole block stays packed on its way to a destination block: that block is packed-capable at its home slice
(03 R62, R69). -/
def destPacks (who : Who) (va : VA) (s : State) : Bool × State :=
  match homeTarget s who va with
  | (.ok (.block _ b), t) => (packCapable t b, t)
  | _ => (false, s)

/-- Bytes of one destination block read for a memory-to-memory copy, and whether they stay packed: they are a whole source block and
fill the whole of a packed-capable destination block (03 R69). -/
def readPiece (who : Who) (d v : VA) (n : Nat) (s : State) : Except EStop (Bool × List Byte) × State :=
  let (keep, s) := if n = 128 ∧ d.toNat % 128 = 0 ∧ v.toNat % 128 = 0 then destPacks who d s else (false, s)
  match engReadMem { who with packed := keep } v n (n / 128 + 2) s with
  | (.ok bs, s) => (.ok (keep, bs), s)
  | (.error e, s) => (.error e, s)

/-- A piece written where it goes, packed where it came so. -/
def writePiece (who : Who) (p : VA × Bool × List Byte) (s : State) : Except EStop Unit × State :=
  engWriteMem { who with packed := p.2.1 } p.1 p.2.2 (p.2.2.length / 128 + 2) s

/-- The pieces of a range, one for each destination block. -/
def readPieces (who : Who) (d v : VA) : Nat → Nat → State → Except EStop (List (VA × Bool × List Byte)) × State
  | _, 0, s => (.ok [], s)
  | n, k + 1, s =>
    if n = 0 then (.ok [], s)
    else
      let m := min n (128 - d.toNat % 128)
      match readPiece who d v m s with
      | (.error e, s) => (.error e, s)
      | (.ok p, s) =>
        match readPieces who (d + BitVec.ofNat 57 m) (v + BitVec.ofNat 57 m) (n - m) k s with
        | (.ok ps, s) => (.ok ((d, p) :: ps), s)
        | r => r

/-- The blocks of a memory-to-memory AFFINE without a chain that the next elements from `e` move whole: the destination's address
and the source's. -/
def wholeRun (x : EngAt) (c : Cmd) (e left : Nat) (s : State) : Option (Who × VA × VA) :=
  let sz := cEsz c
  let m := 128 / sz
  let inLine := fun (off : Nat → Int) => (upto m).all (fun i => off (e + i) == off e + ((i * sz : Nat) : Int))
  match x.group s with
  | none => none
  | some g =>
    match engPlace g (c.w 0) (affineOff c 2 4 e) sz sz, engPlace g (cDst c) (affineOff c 3 6 e) sz sz with
    | .ok (.inr v), .ok (.inr d) =>
      if decide (m ≤ left) && d.toNat % 128 == 0 && v.toNat % 128 == 0 && inLine (affineOff c 2 4) && inLine (affineOff c 3 6) then
        some (x.who g, d, v)
      else none
    | _, _ => none

/-- The elements of an AFFINE without a chain from `e`, `left` of them: a block that stays packed moves whole (03 R69), the other
elements one by one. -/
def moveRuns (x : EngAt) (c : Cmd) (src : Src) : Nat → Nat → Nat → State → Except EStop Unit × State
  | 0, _, _, s => (.ok (), s)
  | n + 1, e, left, s =>
    if left = 0 then (.ok (), s)
    else
      let one := fun (s : State) => orStop (moveElem x c none src e s) (fun _ s => moveRuns x c src n (e + 1) (left - 1) s)
      match wholeRun x c e left s with
      | none => one s
      | some (who, d, v) =>
        match destPacks who d s with
        | (false, s) => one s
        | (true, s) => orStop (readPiece who d v 128 s) (fun p s => orStop (writePiece who (d, p) s) (fun _ s =>
            moveRuns x c src n (e + 128 / cEsz c) (left - 128 / cEsz c) s))

/-- The elements of a chunk moved, with the scales and the checksum of their chain. DESIGN CHOICE: each element is a write of its
own but for a block that an AFFINE without a chain keeps packed, so other elements that together cover a block don't replace one
that is reserved or uncorrectable (03 R58, log 12). -/
def moveElems (x : EngAt) (c : Cmd) (ch : Option Chn) (k : Nat) (s : State) : Except EStop Unit × State :=
  let w := outWidth c ch
  let total := nominal c ch
  let lo := 4096 * k
  let hi := min (lo + 4096) total
  let e0 := cdiv (8 * lo) w
  let e1 := min (cdiv (8 * hi) w) (outCount c ch)
  let base := cmdSrc x c (match ch with | some h => cWidth h.inF | none => w)
  let src := match ch with | some h => streamElem x base h.rev | none => base
  orStop (chunkFlags x c k e0 e1 s) (fun _ s =>
    orStop (if w < 8 then orStop (packedBytes src w lo hi s) (fun bs s => engWrite x (cDst c) (lo : Int) 1 bs s)
      else if c.opc = 2 ∧ ch.isNone then moveRuns x c src (e1 - e0) e0 (e1 - e0) s
      else engEach (moveElem x c ch src) ((upto (e1 - e0)).map (· + e0)) s) (fun _ s =>
      match ch with
      | none => (.ok (), s)
      | some h =>
        orStop (chainScales x base e0 e1 h.rev s) (fun _ s =>
          match x.group s with
          | none => (.ok (), s)
          | some g =>
            orStop (chainCrc x base h e0 e1 (ringOf g x.ring).crc.toNat s) (fun crc s =>
              (.ok (), x.mod s (fun g => setRing g x.ring { ringOf g x.ring with crc := BitVec.ofNat 32 crc }))))))

/-- The bytes of a chunk copied without a chain: from memory to memory block by block, whole blocks packed where 03 R69 keeps them
so. -/
def moveBytes (x : EngAt) (c : Cmd) (k : Nat) (s : State) : Except EStop Unit × State :=
  let lo := 4096 * k
  let n := min 4096 (cLen c - lo)
  let plain := orStop (engRead x (c.w 0) (lo : Int) n 1 s) (fun bs s => engWrite x (c.w 1) (lo : Int) 1 bs s)
  match x.group s with
  | none => plain
  | some g =>
    match engPlace g (c.w 0) (lo : Int) n 1, engPlace g (c.w 1) (lo : Int) n 1 with
    | .ok (.inr v), .ok (.inr d) =>
      orStop (readPieces (x.who g) d v n (n / 128 + 2) s) (fun ps s => engEach (writePiece (x.who g)) ps s)
    | _, _ => plain

/-- The bytes of a chunk filled (05 R121): chunks are multiples of the pattern's length. -/
def fillBytes (x : EngAt) (c : Cmd) (k : Nat) (s : State) : Except EStop Unit × State :=
  let lo := 4096 * k
  let n := min 4096 (cLen c - lo)
  engWrite x (c.w 0) (lo : Int) 1 (((List.replicate 512 (toBytes 8 (c.w 2))).flatten).take n) s

/-- The steps of a microprogram put into a kind slot of the grid; a bad step parks with FORMAT (05 R121, 13 R348). -/
def loadSteps (x : EngAt) (c : Cmd) (s : State) : Except EStop Unit × State :=
  let n := nbits (c.w 1) 8 8
  orStop (engRead x (c.w 0) 0 (8 * n) 8 s) (fun bs s =>
    match x.group s with
    | none => (.ok (), s)
    | some g =>
      let steps := (wordsOf 8 bs n).map (BitVec.ofNat 64)
      if !steps.all stepOk then (.error (.park 1), s)
      else (.ok (), modCore s x.core (fun k =>
        { k with kinds := put k.kinds (kindKey g.part g.grid (nbits (c.w 1) 0 3)) steps })))

/-- Chunk `k` of a transfer command. -/
def transferChunk (x : EngAt) (c : Cmd) (k : Nat) (s : State) : Except EStop Unit × State :=
  match x.group s with
  | none => (.ok (), s)
  | some g =>
    if c.opc = 6 then fillBytes x c k s
    else if c.opc = 7 then loadSteps x c s
    else match cmdChain c (ringOf g x.ring).descr with
      | .error e => (.error e, s)
      | .ok none => if c.opc = 1 then moveBytes x c k s else moveElems x c none k s
      | .ok (some ch) => moveElems x c (some ch) k s

/-- Chunks of a transfer command under its descriptor words. -/
def transferChunks (c : Cmd) (ds : List Nat) : Nat :=
  if c.opc = 7 then 1
  else match cmdChain c ds with
    | .ok ch => cdiv (nominal c ch) 4096
    | .error _ => 0

/-- The descriptor words that a command starts with once its wait has passed, or what stops it then: its chain, or its barrier
object (05 R124, R126, R128). -/
def startDescr (g : Group) (c : Cmd) : Except EStop (List Nat) :=
  match chainDescr g c with
  | .error e => .error e
  | .ok ds =>
    match cmdChain c ds with
    | .error e => .error e
    | .ok _ => if hBar c.h ∧ (c.barOff % 8 ≠ 0 ∨ c.barOff + 8 > g.size) then .error (.park 3) else .ok ds

end Sys2Proof.Machine
end

