-- ==== Sys2Proof/Machine/Sae.lean ====
section
/-! DEFINITION. Machine/Sae.lean: the commands of the scatter-accumulate engine (05 R132 to R135), by windows of 256 elements. -/

namespace Sys2Proof.Machine

/-- Elements of an SAE command, and its windows: at least one, in which the arrays are prepared (log 12). -/
def saeCount (c : Cmd) : Nat := nbits (c.w (if c.opc = 0x10 then 3 else if c.opc = 0x11 then 4 else 2)) 32 32
def saeWindows (c : Cmd) : Nat := if c.opc = 0x10 then cdiv (saeCount c) 256 else max 1 (cdiv (saeCount c) 256)
def saeBins (c : Cmd) : Nat := nbits (c.w (if c.opc = 0x11 then 4 else 2)) 0 17

/-- Passes of an SAE command: BIN counts, then places. -/
def saePasses (c : Cmd) : Nat := if c.opc = 0x11 then 2 else 1

/-- The elements of a window. -/
def windowElems (c : Cmd) (w : Nat) : List Nat := (upto (min 256 (saeCount c - 256 * w))).map (· + 256 * w)

/-- Numbers of an array read for elements of a window. -/
def readAll (x : EngAt) (aw n : Nat) : List Nat → State → Except EStop (List Nat) × State
  | [], s => (.ok [], s)
  | e :: es, s =>
    match engNat x aw ((e * n : Nat) : Int) n s with
    | (.error r, s) => (.error r, s)
    | (.ok v, s) =>
      match readAll x aw n es s with
      | (.ok vs, s) => (.ok (v :: vs), s)
      | r => r

/-- The pairs of a window folded by index, indices ascending (05 R133). -/
def insertFold (op t i v : Nat) : List (Nat × Nat) → List (Nat × Nat)
  | [] => [(i, v)]
  | (j, a) :: rest =>
    if i = j then (j, foldElem op t a v) :: rest
    else if i < j then (i, v) :: (j, a) :: rest
    else (j, a) :: insertFold op t i v rest

/-- A window of SCADD (05 R133): the values of indices below the bound are folded, the targets updated in ascending order; an index
at or above it sets IDXOVF. -/
def scaddWindow (x : EngAt) (c : Cmd) (w : Nat) (s : State) : Except EStop Unit × State :=
  let op := nbits (c.w 3) 4 4
  let t := nbits (c.w 3) 0 4
  let n := tWidth t / 8
  let es := windowElems c w
  orStop (readAll x (c.w 0) 4 es s) (fun is s =>
    let used := (es.zip is).filter (fun e => decide (e.2 < nbits (c.w 4) 0 32))
    orStop (readAll x (c.w 1) n (used.map (·.1)) s) (fun vs s =>
      let folded := (used.zip vs).foldl (fun acc e => insertFold op t e.1.2 e.2 acc) []
      orStop (engEach (fun e s => engRmw x (c.w 2) ((e.1 * n : Nat) : Int) n (fun old => foldElem op t old e.2) s) folded s)
        (fun _ s => (.ok (), if used.length < is.length then setSticky s x 1 else s))))

/-- Counters of an array cleared. -/
def clearCounters (x : EngAt) (aw n : Nat) (s : State) : Except EStop Unit × State :=
  engEach (fun b s => engWrite x aw ((4 * b : Nat) : Int) 4 (toBytes 4 0) s) (upto n) s

/-- Keys of a window counted (05 R134). -/
def countWindow (x : EngAt) (kw aw bins : Nat) (c : Cmd) (w : Nat) (s : State) : Except EStop Unit × State :=
  orStop (readAll x kw 4 (windowElems c w) s) (fun ks s =>
    engEach (fun k s =>
      if k ≥ bins then (.ok (), setSticky s x 1)
      else engRmw x aw ((4 * k : Nat) : Int) 4 (fun v => add32 v 1) s) ks s)

/-- A window of HIST (05 R134). -/
def histWindow (x : EngAt) (c : Cmd) (w : Nat) (s : State) : Except EStop Unit × State :=
  orStop (if w = 0 ∧ !nbit (c.w 2) 17 then clearCounters x (c.w 1) (saeBins c) s else (.ok (), s))
    (fun _ s => countWindow x (c.w 0) (c.w 1) (saeBins c) c w s)

/-- Counts turned into the number of keys below each bin: `acc` so far, `n` entries left from `b`. -/
def prefixSums (x : EngAt) (aw : Nat) : Nat → Nat → Nat → State → Except EStop Unit × State
  | _, _, 0, s => (.ok (), s)
  | acc, b, n + 1, s =>
    orStop (engNat x aw ((4 * b : Nat) : Int) 4 s) (fun v s =>
      orStop (engWrite x aw ((4 * b : Nat) : Int) 4 (toBytes 4 acc) s) (fun _ s => prefixSums x aw (acc + v) (b + 1) n s))

/-- The offsets moved up by one entry after the placement, the first one 0: entry b again counts the keys below b. -/
def shiftOffsets (x : EngAt) (aw : Nat) : Nat → Nat → Nat → State → Except EStop Unit × State
  | _, _, 0, s => (.ok (), s)
  | prev, b, n + 1, s =>
    orStop (engNat x aw ((4 * b : Nat) : Int) 4 s) (fun v s =>
      orStop (engWrite x aw ((4 * b : Nat) : Int) 4 (toBytes 4 prev) s) (fun _ s => shiftOffsets x aw v (b + 1) n s))

/-- Bytes of an output entry of BIN. -/
def binBytes (c : Cmd) : Nat := if nbit (c.w 4) 23 then 4 else eszBytes (nbits (c.w 4) 20 3)

/-- An item placed at its bin's next output entry (05 R134). -/
def placeItem (x : EngAt) (c : Cmd) (e : Nat × Nat) (s : State) : Except EStop Unit × State :=
  let n := binBytes c
  if e.2 ≥ saeBins c then (.ok (), s)
  else
    orStop (if nbit (c.w 4) 23 then (.ok e.1, s) else engNat x (c.w 1) ((e.1 * n : Nat) : Int) n s) (fun item s =>
      orStop (engNat x (c.w 3) ((4 * e.2 : Nat) : Int) 4 s) (fun o s =>
        orStop (engWrite x (c.w 2) ((o * n : Nat) : Int) n (toBytes n item) s) (fun _ s =>
          engWrite x (c.w 3) ((4 * e.2 : Nat) : Int) 4 (toBytes 4 (add32 o 1)) s)))

/-- A window of BIN: the first pass counts into the offset array and sums it, the second places and restores it
(05 R134, R135). -/
def binWindow (x : EngAt) (c : Cmd) (pass w : Nat) (s : State) : Except EStop Unit × State :=
  let last := decide (w + 1 = saeWindows c)
  let bins := saeBins c
  if pass = 0 then
    orStop (if w = 0 then clearCounters x (c.w 3) (bins + 1) s else (.ok (), s)) (fun _ s =>
      orStop (countWindow x (c.w 0) (c.w 3) bins c w s) (fun _ s =>
        if last then prefixSums x (c.w 3) 0 0 (bins + 1) s else (.ok (), s)))
  else
    let es := windowElems c w
    orStop (readAll x (c.w 0) 4 es s) (fun ks s =>
      orStop (engEach (placeItem x c) (es.zip ks) s) (fun _ s =>
        if last then shiftOffsets x (c.w 3) 0 0 bins s else (.ok (), s)))

/-- Window `w` of a pass of an SAE command. -/
def saeWindow (x : EngAt) (c : Cmd) (pass w : Nat) (s : State) : Except EStop Unit × State :=
  if c.opc = 0x10 then scaddWindow x c w s
  else if c.opc = 0x11 then binWindow x c pass w s
  else histWindow x c w s

end Sys2Proof.Machine
end

