-- ==== Sys2Proof/Machine/Engines.lean ====
section
/-! DEFINITION. Machine/Engines.lean: the engines at their rings, step by step (05 R117, R129, R131, R135, R136). -/

namespace Sys2Proof.Machine

/-- Chunks of a command, or windows of one of its passes; and its passes. -/
def cmdTotal (ds : List Nat) (ring : Nat) (c : Cmd) : Nat := if ring = 2 then saeWindows c else transferChunks c ds
def cmdPasses (ring : Nat) (c : Cmd) : Nat := if ring = 2 then saePasses c else 1

/-- Whether an engine serves a ring: in use, enabled, not parked, a command in it, its group not stopping (05 R114, R117, 17
R459). -/
def engineServes (g : Group) (ring : Nat) : Bool :=
  let e := ringEntry g ring
  let r := ringOf g ring
  decide (ring < 3) && r.used && g.saving.isNone && e.en && !e.park && !r.parked && e.head != e.tail

/-- The command at HEAD begins, waits for its semaphore, or parks (05 R117, R118). -/
def startCmd (x : EngAt) (g : Group) (opc : Nat) (s : State) : State :=
  let c := cmdAt g (ringEntry g x.ring)
  if (fixedWords x.ring c.opc).isSome && c.opc != opc then s
  else if !cmdOk x.ring c then parkRing s x 1 c.opc
  else if hWsem c.h > g.rec_.sems ∨ hSsem c.h > g.rec_.sems then parkRing s x 6 c.opc
  else if semGet g (hWsem c.h) < hThr c.h then s
  else match (if x.ring = 2 then .ok [] else startDescr g c) with
    | .error e => stopRing s x c.opc e
    | .ok ds => x.mod s (fun g => setRing g x.ring
        { Ring.init with
          used := true, act := true, fin := cmdTotal ds x.ring c == 0, owes := (ringOf g x.ring).owes, descr := ds })

/-- The next chunk or window of the command in progress: moved whole, or the command parks with nothing of it moved. -/
def moveChunk (x : EngAt) (g : Group) (opc : Nat) (s : State) : State :=
  let c := cmdAt g (ringEntry g x.ring)
  let r := ringOf g x.ring
  if r.fin || r.moved != r.cursor || c.opc != opc then s
  else match (if x.ring = 2 then saeWindow x c r.pass r.cursor s else transferChunk x c r.cursor s) with
    | (.ok _, t) => x.mod t (fun g => setRing g x.ring { ringOf g x.ring with moved := r.cursor + 1 })
    | (.error e, _) => stopRing s x opc e

/-- A ring that an engine looks at has an uncorrectable word in its entry (05 R109, R114). -/
def entryBad (g : Group) (ring : Nat) : Bool := spadBad g (32 * ring) 24

/-- A turn of an engine at a ring whose command has an opcode; an uncorrectable word of the entry or of the command parks the ring
with the opcode at HEAD (05 R109, R136). A ring without a command has none to park on. -/
def engineTurn (core gslot ring opc : Nat) (s : State) : State :=
  let x : EngAt := ⟨core, gslot, ring⟩
  match x.group s with
  | none => s
  | some g =>
    let r := ringOf g ring
    let e := ringEntry g ring
    let head := (cmdAt g e).opc
    if decide (ring < 3) && r.used && g.saving.isNone && !r.parked && e.head != e.tail && entryBad g ring then parkRing s x 5 head
    else if !engineServes g ring then s
    else if cmdBad g (ringEntry g ring) then parkRing s x 5 head
    else if (ringOf g ring).act then moveChunk x g opc s
    else startCmd x g opc s

/-- COPY (05 R121, R123, R131). -/
def execCopy (core gslot ring : Nat) (s : State) : Host.Outcome State Fault Refusal := .next (engineTurn core gslot ring 1 s)

/-- AFFINE (05 R122). -/
def execAffine (core gslot ring : Nat) (s : State) : Host.Outcome State Fault Refusal := .next (engineTurn core gslot ring 2 s)

/-- GATHER (05 R122). -/
def execGather (core gslot ring : Nat) (s : State) : Host.Outcome State Fault Refusal := .next (engineTurn core gslot ring 3 s)

/-- SCATTER (05 R122, R123). -/
def execScatter (core gslot ring : Nat) (s : State) : Host.Outcome State Fault Refusal := .next (engineTurn core gslot ring 4 s)

/-- RAGGED (05 R122). -/
def execRagged (core gslot ring : Nat) (s : State) : Host.Outcome State Fault Refusal := .next (engineTurn core gslot ring 5 s)

/-- FILL (05 R121). -/
def execFill (core gslot ring : Nat) (s : State) : Host.Outcome State Fault Refusal := .next (engineTurn core gslot ring 6 s)

/-- IULOAD (05 R121). -/
def execIuload (core gslot ring : Nat) (s : State) : Host.Outcome State Fault Refusal := .next (engineTurn core gslot ring 7 s)

/-- SCADD (05 R133). -/
def execScadd (core gslot ring : Nat) (s : State) : Host.Outcome State Fault Refusal := .next (engineTurn core gslot ring 0x10 s)

/-- BIN (05 R134). -/
def execBin (core gslot ring : Nat) (s : State) : Host.Outcome State Fault Refusal := .next (engineTurn core gslot ring 0x11 s)

/-- HIST (05 R134). -/
def execHist (core gslot ring : Nat) (s : State) : Host.Outcome State Fault Refusal := .next (engineTurn core gslot ring 0x12 s)

/-- Bytes that a chunk takes off its barrier object (05 R129). -/
def chunkBytes (ds : List Nat) (c : Cmd) (k : Nat) : Nat :=
  match cmdChain c ds with
  | .ok ch => min 4096 (nominal c ch - 4096 * k)
  | .error _ => 0

/-- CHUNK_COMPLETION (05 R129, R131, R135): the chunk's bytes leave PEND, and the cursor moves on. -/
def execChunkCompletion (core gslot ring : Nat) (s : State) : Host.Outcome State Fault Refusal :=
  let x : EngAt := ⟨core, gslot, ring⟩
  match x.group s with
  | none => .next s
  | some g =>
    let r := ringOf g ring
    let c := cmdAt g (ringEntry g ring)
    if !(decide (ring < 3) && r.act && decide (r.cursor < r.moved)) then .next s
    else if entryBad g ring || cmdBad g (ringEntry g ring) || (hBar c.h && spadBad g c.barOff 8) then .next (parkRing s x 5 c.opc)
    else
      let s := if hBar c.h then updateObj s (core, gslot, c.barOff) (-(chunkBytes r.descr c r.cursor : Int)) false else s
      let r' := if r.cursor + 1 < cmdTotal r.descr ring c then { r with cursor := r.cursor + 1 }
        else if r.pass + 1 < cmdPasses ring c then { r with pass := r.pass + 1, cursor := 0, moved := 0 }
        else { r with cursor := r.cursor + 1, fin := true }
      .next (x.mod s (fun g => setRing g ring r'))

/-- The result of a command's CHECKSUM written (05 R127). -/
def writeCrc (x : EngAt) (g : Group) (c : Cmd) (s : State) : Except EStop Unit × State :=
  match (if x.ring = 2 then .ok none else cmdChain c (ringOf g x.ring).descr) with
  | .ok (some ch) =>
    (match checksumOf ch.rev with
     | some (st, _) => engWrite x st.dw 0 4 (toBytes 4 ((ringOf g x.ring).crc.toNat ^^^ 0xFFFFFFFF)) s
     | none => (.ok (), s))
  | _ => (.ok (), s)

/-- The command at HEAD left behind: HEAD passes it (05 R117, R136). -/
def passHead (g : Group) (ring : Nat) : Group :=
  let e := ringEntry g ring
  spadWrite g (32 * ring + 12) (toBytes 4 (add32 e.head (1 + hNpay (ringWord g e 0))))

/-- COMMAND_COMPLETION (05 R113, R117): every write is complete; the semaphore is signalled, HEAD, DONE and CODE move. -/
def execCommandCompletion (core gslot ring : Nat) (s : State) : Host.Outcome State Fault Refusal :=
  let x : EngAt := ⟨core, gslot, ring⟩
  match x.group s with
  | none => .next s
  | some g =>
    let r := ringOf g ring
    let c := cmdAt g (ringEntry g ring)
    if !(decide (ring < 3) && r.act && r.fin && !r.parked) then .next s
    else if entryBad g ring || cmdBad g (ringEntry g ring) then .next (parkRing s x 5 c.opc)
    else match writeCrc x g c s with
      | (.error e, s) => .next (stopRing s x c.opc e)
      | (.ok _, s) =>
        .next (x.mod s (fun g =>
          let g := passHead (semAdd g (hSsem c.h) (hInc c.h : Int)) ring
          let g := spadWrite g (32 * ring + 16) (toBytes 4 (add32 (nbits (ringEntry g ring).stat 0 32) 1))
          let hi := statHi g ring
          let g := setStatHi g ring (hi - nbits hi 16 8 * 2 ^ 16)
          setRing g ring { Ring.init with used := true, owes := r.owes }))

/-- RING_RESUME (05 R136): a program has cleared PARK; the parked command is discarded without a signal. HEAD does not pass TAIL. -/
def execRingResume (core gslot ring : Nat) (s : State) : Host.Outcome State Fault Refusal :=
  let x : EngAt := ⟨core, gslot, ring⟩
  match x.group s with
  | none => .next s
  | some g =>
    let r := ringOf g ring
    if !(decide (ring < 3) && r.parked && g.saving.isNone && !(ringEntry g ring).park) then .next s
    else if entryBad g ring || spadBad g (wordAt (ringEntry g ring) 0) 8 then
      .next (parkRing s x 5 (cmdAt g (ringEntry g ring)).opc)
    else .next (x.mod s (fun g =>
      let g := if (ringEntry g ring).head = (ringEntry g ring).tail then g else passHead g ring
      setRing g ring { Ring.init with used := true, owes := r.owes }))

end Sys2Proof.Machine
end

