-- ==== Sys2Proof/Machine/Line.lean ====
section
/-! DEFINITION. Machine/Line.lean: a line core of Cameo: its registers, tiles and line buffer (14 R375, R376), the timing of
results (14 R379), how the slots of a bundle issue together (15 R396, R397), its head's frame and bands (14 R367 to R369,
R388) and the events that reach the partition (14 R389). -/

namespace Sys2Proof.Machine

def lineOf (s : State) (lc : Nat) : LineCore := getD LineCore.init s.lcs lc
def setLine (s : State) (lc : Nat) (x : LineCore) : State := { s with lcs := put s.lcs lc x }
def modLine (s : State) (lc : Nat) (f : LineCore → LineCore) : State := setLine s lc (f (lineOf s lc))

def headOf (s : State) (h : Nat) : Head := getD Head.init s.heads h
def setHead (s : State) (h : Nat) (x : Head) : State := { s with heads := put s.heads h x }
def modHead (s : State) (h : Nat) (f : Head → Head) : State := setHead s h (f (headOf s h))

/-! ### Registers, tiles and the line buffer -/

def kget (l : LineCore) (r : Nat) : Word := getD 0#32 l.k r
def engOf (l : LineCore) (e : Nat) : Engine := getD Engine.init l.engs e
def setEng (l : LineCore) (e : Nat) (x : Engine) : LineCore := { l with engs := put l.engs e x }

/-- The values of keys from `base`, `n` of them. -/
def rangeVals (m : SMap Half) (base n : Nat) : List Half := (upto n).map (fun i => getD 0#16 m (base + i))

/-- Values written under keys from `base` on, entries of zero not listed. -/
def setRange (m : SMap Half) (base : Nat) (vals : List Half) : SMap Half :=
  let new := ((upto vals.length).zip vals).filterMap (fun p => if p.2 = 0#16 then none else some (base + p.1, p.2))
  m.filter (fun e => decide (e.1 < base)) ++ new ++ m.filter (fun e => decide (base + vals.length ≤ e.1))

/-- Tile `t` of cluster `c` (14 R375), element i, j at 64 i + j. -/
def tileKey (c t : Nat) : Nat := (c * 8 + t) * 1024
def tileVals (l : LineCore) (c t : Nat) : List Half := rangeVals l.tiles (tileKey c t) 1024

/-- Bytes of the line buffer (14 R376). -/
def lbSize : Nat := 0x180000

/-- Whether `n` bytes at an address lie in the line buffer, the address even. -/
def lbOk (a : Int) (n : Nat) : Bool := decide (0 ≤ a) && decide (a % 2 = 0) && decide (a + n ≤ lbSize)

/-- Bytes of the line buffer, none when a word they lie in is uncorrectable (14 R376). -/
def lbRead (l : LineCore) (a n : Nat) : Option (List Byte) :=
  if l.lbErr.any (fun w => decide (w * 8 < a + n) && decide (a < w * 8 + 8)) then none else some (readRun l.lb a n)

/-- Bytes written to the line buffer; a word written whole is correct again. -/
def lbWrite (l : LineCore) (a : Nat) (bs : List Byte) : LineCore :=
  { l with lb := writeRun l.lb a bs,
           lbErr := l.lbErr.filter (fun w => !(decide (a ≤ w * 8) && decide (w * 8 + 8 ≤ a + bs.length))) }

/-- An engine's write of elements of the line buffer, as a row of a stream or by itself; of two engines' writes in one Cameo cycle
the higher engine's value stays (14 R374). -/
def lbPut (l : LineCore) (eng : Nat) (row : Option (Nat × Nat)) (a : Nat) (bs : List Byte) : LineCore :=
  let beaten := fun (i : Nat) => l.lbPast.any (fun p => p.elem == a / 2 + i && p.cyc == l.cyc && decide (eng < p.eng))
  let old := readRun l.lb a bs.length
  let at_ := fun (bs : List Byte) (i : Nat) => (bs.drop (2 * i)).take 2
  let past := ((upto (bs.length / 2)).filter (fun i => !beaten i)).map (fun i =>
    ({ elem := a / 2 + i, old := BitVec.ofNat 16 (ofBytes (at_ old i)), eng := eng, cyc := l.cyc, num := l.lbNum, row := row,
       blind := (upto 4).filter (· != eng) } : LbPast))
  let l := lbWrite l a ((upto (bs.length / 2)).flatMap (fun i => at_ (if beaten i then old else bs) i))
  { l with lbNum := l.lbNum + 1, lbPast := l.lbPast ++ past }

/-- Whether a write of an element is open to a reader: no token orders it to the engine, or the stream was bound before it (14 R374,
15 R415). -/
def LbPast.openTo (p : LbPast) (eng : Nat) (bound : Option Nat) : Bool :=
  p.blind.contains eng || (match bound with | some b => decide (b ≤ p.num) | none => false)

/-- A token popped by an engine: the writes that it orders are no longer open to it (14 R374). -/
def coverToken (l : LineCore) (src dst : Nat) (c : Cover) : LineCore :=
  { l with lbPast := l.lbPast.map (fun p =>
      if p.eng = src ∧ (p.num < c.num ∨ c.rows.any (fun w => match p.row with
          | some r => r.1 == w.1 && decide (r.2 < w.2)
          | none => false)) then
        { p with blind := p.blind.filter (· != dst) }
      else p) }

/-- The line core as the slots of a bundle read it: a token that the bundle pops covers its reads already (14 R374). -/
def LineCore.covered (l : LineCore) (eng : Nat) : LineCore :=
  l.fx.foldl (fun m x => match x with
    | .pop src => coverToken m src eng ((getD [] m.covers (src * 4 + eng)).headD ⟨0, []⟩)
    | _ => m) l

/-- What an engine reads of the line buffer: of an element that writes not ordered to it have replaced since the last one that is,
one of the old values or the new one; for a stream, also of one written since it was bound (14 R374, 15 R415). Which is a free
value. -/
def lbView (tick : Nat) (l : LineCore) (eng : Nat) (bound : Option Nat) (a n : Nat) : Option (List Byte) :=
  (lbRead l a n).map (fun bs =>
    if l.lbPast.isEmpty then bs
    else
      let past := (l.covered eng).lbPast
      (upto (n / 2)).flatMap (fun i =>
        let olds := ((past.filter (fun p => p.elem == a / 2 + i)).reverse.takeWhile (·.openTo eng bound)).map (·.old)
        match olds[Config.freeValue tick (a / 2 + i) % (olds.length + 1)]? with
        | some v => toBytes 2 v.toNat
        | none => (bs.drop (2 * i)).take 2))

/-- A write stream with rows that have no answer yet. -/
def Stream.unwritten (t : Stream) : Bool := (t.kind == 1 || t.kind == 3) && !t.rows.isEmpty

/-- The name of a stream's binding. -/
def bindKey (st : Nat) (t : Stream) : Nat := t.bound * 4 + st

/-- The stream of a binding, while it is the one bound. -/
def bindAt (l : LineCore) (key : Nat) : Option Stream :=
  match lookup l.streams (key % 4) with
  | some t => if t.bound = key / 4 then some t else none
  | none => none

/-- The address of a row: a line-buffer address that may lie anywhere, or a VA of 57 bits (14 R377). -/
def Stream.rowAt (t : Stream) (k : Nat) : Int := (t.addr : Int) + (k : Int) * t.stride

/-- The bytes of a row that are stored. -/
def rowBytes (nel : Nat) (row : List Half) : List Byte := (row.take nel).flatMap (fun v => toBytes 2 v.toNat)

/-- The writes of a row, one for each block it lies in. -/
def rowPieces (va : VA) (bs : List Byte) : List (VA × List Byte) :=
  let n := 128 - va.toNat % 128
  if bs.length ≤ n then [(va, bs)] else [(va, bs.take n), (va + BitVec.ofNat 57 n, bs.drop n)]

/-- A write of a waiting row: row, block of it, address and bytes. -/
structure RowWrite where
  row : Nat
  part : Nat
  va : VA
  bytes : List Byte
deriving DecidableEq, Repr

/-- The writes of the `i`-th waiting row of a memory-write stream that have no answer yet. -/
def Stream.writesOf (t : Stream) (i : Nat) : List RowWrite :=
  let k := t.done_ + i
  let ps := rowPieces (BitVec.ofInt 57 (t.rowAt k)) (rowBytes t.nel (t.rows.getD i (none, [])).2)
  (((upto 2).zip ps).map (fun p => (⟨k, p.1, p.2.1, p.2.2⟩ : RowWrite))).filter (fun w => !t.wrote.contains (k, w.part))

/-- The writes of a memory-write stream that have no answer yet; they are unordered among themselves (14 R394). -/
def Stream.writes (t : Stream) : List RowWrite := if t.kind = 1 then (upto t.rows.length).flatMap t.writesOf else []

/-- A write of a row has its answer; the rows that have all theirs leave the buffer, the oldest first. -/
def Stream.answered (t : Stream) (w : RowWrite) (ref : Option Nat) : Stream :=
  let t := { t with wrote := (w.row, w.part) :: t.wrote, refused := t.refused <|> ref }
  let n := ((upto t.rows.length).takeWhile (fun i => (t.writesOf i).isEmpty)).length
  { t with rows := t.rows.drop n, done_ := t.done_ + n, wrote := t.wrote.filter (fun p => decide (t.done_ + n ≤ p.1)) }

/-! ### A slot of a bundle -/

/-- Line core, engine and slot of the instruction being issued. -/
structure SIss where
  lc : Nat
  eng : Nat
  slot : Nat
deriving DecidableEq, Repr

/-- What a slot finds added to what the bundle's slots have found: a reserved encoding governs, then a wait, then the first
trap (15 R396, R397). -/
def BStatus.join (a b : BStatus) : BStatus :=
  if a = .trap 0 ∨ b = .trap 0 then .trap 0
  else if a = .waits ∨ b = .waits then .waits
  else if a = .ok then b else a

def LineCore.found (l : LineCore) (b : BStatus) : LineCore := { l with bst := l.bst.join b }
def LineCore.trap (l : LineCore) (code : Nat) : LineCore := l.found (.trap code)
def LineCore.wait (l : LineCore) : LineCore := l.found .waits

/-- The refusal of a row of a stream taken as the bundle's trap (14 R378). -/
def LineCore.takes (l : LineCore) (st code : Nat) : LineCore :=
  if l.bst = .ok then { l.trap code with took := some st } else l.trap code

/-- Something the slot will do when the bundle issues. -/
def LineCore.will (l : LineCore) (x : Fx) : LineCore := { l with fx := l.fx ++ [x] }

/-- A result that lands after a number of Cameo cycles (14 R379). -/
def LineCore.lands (l : LineCore) (x : SIss) (lat : Nat) (d : LandTo) : LineCore :=
  l.will (.land { due := l.cyc + lat, issued := l.cyc, slot := x.slot, dest := d })

/-- The slots that an engine accepts (14 R372). -/
def accepts (e k : Nat) : Bool := k == 0 || k == 3 || e == 1

/-- The kind of slot that an instruction stands in: 0 scalar, 1 tile, 3 stream (15 R395). -/
def slotKind (i : Instr) : Option Nat :=
  match i with
  | .kaddReg _ _ _ | .kaddImm _ _ _ | .ksubReg _ _ _ | .ksubImm _ _ _ | .kmulReg _ _ _ | .kmulImm _ _ _ | .kmov _ _
  | .kldi _ _ | .kldiHi _ _ | .kld _ _ _ | .kst _ _ _ | .kcmpReg _ _ _ _ | .kcmpImm _ _ _ _ | .br _ | .brc _ _ _
  | .loopReg _ _ | .loopImm _ _ | .halt | .toksendReg _ _ | .toksendImm _ _ | .tokrecv _ _ | .bandchk _ | .lktrd _ _
  | .evt _ => some 0
  | .tadd _ _ _ _ _ _ _ | .tsub _ _ _ _ _ _ _ | .tmul _ _ _ _ _ _ _ | .tmac _ _ _ _ _ _ _ | .tmin _ _ _ _ _ _
  | .tmax _ _ _ _ _ _ | .tabsd _ _ _ _ _ _ | .tcmp _ _ _ _ _ _ _ | .tsel _ _ _ _ | .tcvt _ _ _ _ _ _ _
  | .tshift _ _ _ _ _ | .tand _ _ _ _ _ | .tor _ _ _ _ _ | .tlut _ _ _ | .rrot _ _ _ _ _ | .rbc _ _ _ _ _
  | .rred _ _ _ _ _ | .crot _ _ _ _ _ | .cbc _ _ _ _ _ | .cred _ _ _ _ _ | .txmv _ _ | .tgath _ _ _ _ _
  | .tmatq _ _ _ | .tmatr _ => some 1
  | .sbind _ _ | .srdTile _ _ _ _ | .srdWeight _ _ _ | .swrTile _ _ _ _ | .swrStream _ _ | .sflush _ => some 3
  | _ => none

/-- An instruction stands in a slot of its kind, of an engine that has the form (15 R404, R414). -/
def slotFits (e k : Nat) (i : Instr) : Bool :=
  accepts e k && slotOk i && ownsRegs e i &&
  (match slotKind i with
   | some 0 => k == 0
   | some 1 => k == 1 || k == 2
   | some _ => k == 3
   | none => false) &&
  (match i with
   | .toksendReg d _ => d.toNat != e
   | .toksendImm d _ => d.toNat != e
   | .tokrecv _ d => d.toNat != e
   | .srdTile _ _ _ _ => e == 1
   | .srdWeight _ _ _ => e == 2
   | .swrTile _ _ _ _ => e == 1
   | _ => true)

/-- A slot instruction performed in the bundle being issued: its sources are read now, its effects wait for the bundle
(15 R396); one that the slot or the engine does not accept is an illegal bundle (15 R397). -/
def slotIssue (i : Instr) (body : State → SIss → LineCore → LineCore) (s : State) : Host.Outcome State Fault Refusal :=
  match s.cur with
  | .slot lc e k =>
    let t := { s with cur := .idle }
    .next (modLine t lc (fun l => if slotFits e k i then body t ⟨lc, e, k⟩ l else l.trap 0))
  | _ => .fault .noIssuer

/-- A tile instruction's source read: an uncorrectable row is a data error (14 R382). -/
def tileBad (l : LineCore) (c t : Nat) : Bool := (upto 16).any (fun r => l.tileErr.contains ((c * 8 + t) * 16 + r))

/-! ### Heads, frames and bands -/

/-- Fields of an adopted HDCFG block (14 R368). -/
def cfgWidth (c : List Byte) : Nat := nbits (leAt c 0 8) 36 14
def cfgHeight (c : List Byte) : Nat := nbits (leAt c 0 8) 22 14
def cfgVtot (c : List Byte) : Nat := nbits (leAt c 0 8) 8 14
def cfgLine (c : List Byte) : Nat := nbits (leAt c 8 8) 32 32
def cfgLatch (c : List Byte) : Nat := nbits (leAt c 8 8) 0 12
def cfgSlotTab (c : List Byte) : VA := BitVec.ofNat 57 (leAt c 16 8)
def cfgLocket (c : List Byte) : VA := BitVec.ofNat 57 (leAt c 24 8)
def cfgPres (c : List Byte) : VA := BitVec.ofNat 57 (leAt c 32 8)
def cfgProg (c : List Byte) : VA := BitVec.ofNat 57 (leAt c 40 8)

/-- The ranges and alignments of 14 R368, those that its table gives (log 54). -/
def cfgOk (c : List Byte) : Bool :=
  let w := cfgWidth c
  let h := cfgHeight c
  let v := cfgVtot c
  decide (1 ≤ w) && decide (w ≤ 8192) && decide (1 ≤ h) && decide (h ≤ 8192) && decide (h + 8 ≤ v) &&
  decide (1024 ≤ cfgLine c) && decide (4 ≤ cfgLatch c) && decide (cfgLatch c ≤ 2048) &&
  decide (leAt c 16 8 % 512 = 0) && decide (leAt c 24 8 % 128 = 0) && decide (leAt c 32 8 % 128 = 0) &&
  decide (leAt c 40 8 % 256 = 0)

/-- HDOWN fields (14 R365). -/
def hdown (s : State) (h : Nat) : Word := getD 0#32 s.root.hdown h
def headOn (s : State) (h : Nat) : Bool := wbit (hdown s h) 31
def headPart (s : State) (h : Nat) : Nat := fld (hdown s h) 27 4
def headCores (s : State) (h : Nat) : List Nat := (upto 16).filter (fun c => wbit (hdown s h) c)

/-- Who path D accesses of a head are made for (14 R393). -/
def headWho (s : State) (h : Nat) : Who := { part := headPart s h, asid := 0, path := .D, ap := false }

/-- Bands of a frame (14 R367). -/
def bandsOf (h : Head) : Nat := cdiv (cfgHeight h.cfg) 16

/-- Lines scanned before line D of band `b` of frame `f`, frames to come taken to keep the present timing (14 R369, R386,
R388). -/
def deadline (h : Head) (f b : Nat) : Int :=
  ((h.scanned - h.line : Nat) : Int) + ((f : Int) - h.f) * cfgVtot h.cfg + (cfgVtot h.cfg - cfgHeight h.cfg : Nat) + 16 * b

/-- Lines in a band (14 R387). -/
def bandLines (h : Head) (b : Nat) : Nat := min 16 (cfgHeight h.cfg - 16 * b)

/-- The latch of a band (14 R386). -/
def bandLatch (h : Head) (f b : Nat) : Option Latch := lookup h.latches (f * 1024 + b)

/-- The band that a line core serves next in the frame that runs (14 R367). -/
def nextBand (s : State) (lc : Nat) : Option Nat :=
  let l := lineOf s lc
  match l.head with
  | none => none
  | some hn =>
    let h := headOf s hn
    let cs := headCores s hn
    let i := (cs.filter (fun c => decide (c < lc))).length
    let b := match l.lastBand with
      | some (f, b) => if f = h.f then b + cs.length else i
      | none => i
    if b < bandsOf h then some b else none

/-- Memory-write rows of a head's line cores that have no answer yet: line core, binding, rows up to the last one (14 R394). -/
def openRows (s : State) (head : Nat) : List (Nat × Nat × Nat) :=
  (headCores s head).flatMap (fun c =>
    ((lineOf s c).streams.filter (fun t => t.2.kind == 1 && !t.2.rows.isEmpty)).map (fun t =>
      (c, bindKey t.1 t.2, t.2.done_ + t.2.rows.length)) ++ (lineOf s c).late.map (fun r => (c, r.key, 0)))

/-- Rows have their answers. -/
def rowsAcked (s : State) (w : Nat × Nat × Nat) : Bool :=
  (match bindAt (lineOf s w.1) w.2.1 with
   | some t => decide (w.2.2 ≤ t.done_)
   | none => true) && !(lineOf s w.1).late.any (fun r => r.key == w.2.1)

/-- Events delivered in the order in which they were raised, each once the writes before it are acknowledged (14 R394); the others
are kept. -/
def deliverEvents (head : Nat) : List CamEvent → State → State
  | [], s => modHead s head (fun h => { h with events := [] })
  | e :: rest, s =>
    if e.after.all (rowsAcked s) then deliverEvents head rest (pushNote s (headPart s head) 5 0 0 e.value)
    else modHead s head (fun h => { h with events := e :: rest })

def flushEvents (s : State) (head : Nat) : State := deliverEvents head (headOf s head).events s

/-- An event of a head for its partition, a release at SYSTEM scope behind the head's earlier writes (14 R389, R394, 18 R492). -/
def cameoEvent (s : State) (head core code cause band value : Nat) : State :=
  let h := headOf s head
  let e : CamEvent :=
    { value := code * 2 ^ 56 + head * 2 ^ 52 + core * 2 ^ 48 + cause * 2 ^ 44 + band * 2 ^ 32 + h.prescnt + value * 2 ^ 64,
      after := openRows s head }
  deliverEvents head (h.events ++ [e]) s

/-! ### Presented lines -/

/-- Where image `i` of the present buffer starts, and its pitch (14 R390). -/
def presPitch (h : Head) : Nat := cdiv (cfgWidth h.cfg * 4) 128 * 128
def presAddr (h : Head) (i y : Nat) : VA :=
  cfgPres h.cfg + BitVec.ofNat 57 (i * cfgHeight h.cfg * presPitch h + y * presPitch h)

/-- Bytes the spec leaves open, of a line at an offset. -/
def openBytes (tick y o n : Nat) : List Byte := (upto n).map (fun i => BitVec.ofNat 8 (Config.freeValue tick (y * 2 ^ 16 + o + i)))

/-- Every block of a range that can be written takes these bytes, `k` blocks at most. -/
def spoil (s : State) (who : Who) (va : VA) : List Byte → Nat → State
  | _, 0 => s
  | bs, k + 1 =>
    if bs.isEmpty then s
    else
      let n := min bs.length (128 - va.toNat % 128)
      spoil (homeWrite s who va (bs.take n)).2 who (va + BitVec.ofNat 57 n) (bs.drop n) k

/-- Pixels of an active line from column `x`, their first `n` elements of 2 bytes, sent to the head and to the present buffer;
whether that write was refused, which leaves the line's bytes there unspecified until the line is written whole (14 R378, R390). -/
def presentRun (s : State) (hn y x n : Nat) (px : List Word) : Bool × State :=
  let h := headOf s hn
  let n := min n (2 * (cfgWidth h.cfg - x))
  let scan := ((upto ((n + 1) / 2)).zip px).foldl (fun m p =>
    let k := y * 8192 + x + p.1
    setD 0#32 m k (if n < 2 * p.1 + 2 then ((getD 0#32 m k).extractLsb' 16 16 ++ p.2.extractLsb' 0 16 : Word) else p.2)) h.scan
  let s := modHead s hn (fun h => { h with scan := scan })
  let line := h.prescnt % 2 * 8192 + y
  let whole := decide (x = 0) && decide (n = 2 * cfgWidth h.cfg)
  let at_ := presAddr h (h.prescnt % 2) y
  let bytes := if h.pbLost.contains line && !whole then openBytes s.tick y (4 * x) (2 * n)
    else (px.flatMap (fun w => toBytes 4 w.toNat)).take (2 * n)
  match writeN s (headWho s hn) (at_ + BitVec.ofNat 57 (4 * x)) bytes with
  | (.ok _, s) => (false, if whole then modHead s hn (fun h => { h with pbLost := h.pbLost.filter (· != line) }) else s)
  | (.error _, s) =>
    let all := openBytes s.tick y 0 (4 * cfgWidth h.cfg)
    (true, modHead (spoil s (headWho s hn) at_ all (all.length / 128 + 2)) hn (fun h => { h with pbLost := line :: h.pbLost }))

/-! ### The end of a band -/

/-- The snapshot of a trap (14 R383). -/
def LineCore.snapshot (l : LineCore) (code : Nat) : LineCore :=
  { l with snap := some { code := code, engs := l.engs, k := l.k, fifos := l.fifos, streams := l.streams,
                          tiles := l.tiles, mq := l.mq } }

/-- The rows of the streams that are still on their way discarded (14 R388). -/
def LineCore.discardRows (l : LineCore) : LineCore :=
  { l with streams := l.streams.map (fun t => (t.1, { t.2 with rows := [], done_ := t.2.done_ + t.2.rows.length, wrote := [] })) }

/-- The rows of a band that is over: those not sent are discarded; of a memory-write row without an answer, which blocks had left the
core is a free value, and they stay on their way (14 R378, R387, R388). -/
def LineCore.leaveRows (l : LineCore) (tick hn : Nat) : LineCore :=
  let sent := l.streams.flatMap (fun t =>
    (t.2.writes.filter (fun w => Config.freeValue tick ((t.1 * 2 ^ 16 + w.row) * 2 + w.part) % 2 == 1)).map (fun w =>
      ({ head := hn, band := t.2.band, key := bindKey t.1 t.2, told := t.2.refused.isSome, va := w.va, bytes := w.bytes } : LateRow)))
  { l.discardRows with late := l.late ++ sent }

/-- Every engine stops; the band is the core's last (14 R388). -/
def LineCore.stop (l : LineCore) : LineCore :=
  { l with engs := l.engs.map (fun e => (e.1, { e.2 with halted := true })), band := none, trapQ := none,
           lastBand := match l.band with
             | some b => some (b.f, b.b)
             | none => l.lastBand }

/-- A TRAP event with a snapshot (14 R378, R382). -/
def trapEvent (s : State) (lc hn band code : Nat) : State :=
  cameoEvent (modLine s lc (fun l => l.snapshot code)) hn lc 2 code band 0

/-- A band ends with an outcome; the rows of an abandoned one are discarded (14 R388). A refused write of its lines is one event, of
a failed band when it is presented (14 R390). Refused rows that nothing has reported are reported now, each stream's (14 R378). -/
def endBand (s : State) (lc outcome : Nat) : State :=
  let l := lineOf s lc
  match l.band with
  | none => s
  | some b =>
    let s := modLine s lc (fun l => (if outcome = 1 then l.leaveRows s.tick b.head else l).stop)
    let s := modHead s b.head (fun h => { h with
      bands := put h.bands b.b outcome, pbBad := if b.pbFail && outcome != 0 then b.b :: h.pbBad else h.pbBad })
    let s := if b.pbFail && outcome == 0 then cameoEvent s b.head lc 7 4 b.b 0 else flushEvents s b.head
    (l.streams.filterMap (·.2.refused)).foldl (fun s c => trapEvent s lc b.head b.b c) s

/-! ### Landing and the cycle -/

/-- A result lands (14 R379). -/
def LandTo.apply (d : LandTo) (l : LineCore) : LineCore :=
  match d with
  | .k r v => { l with k := setD 0#32 l.k r v }
  | .tile t vals =>
    { l with tiles := setRange l.tiles (t * 1024) vals, tileErr := l.tileErr.filter (fun k => k / 16 != t) }
  | .row t r vals =>
    { l with tiles := setRange l.tiles (t * 1024 + r * 64) vals, tileErr := l.tileErr.filter (· != t * 16 + r) }
  | .wrow set r vals =>
    { l with wsets := setRange l.wsets (set * 4096 + r * 64) vals, wErr := l.wErr.filter (· != set * 64 + r) }

/-- The results due by a cycle land, the later issued after the earlier ones (14 R379). -/
def landDue (l : LineCore) (now : Nat) : LineCore :=
  let due := l.landings.filter (fun x => decide (x.due ≤ now))
  due.foldl (fun l x => x.dest.apply l) { l with landings := l.landings.filter (fun x => !decide (x.due ≤ now)) }

/-- Every result in flight lands, cycle by cycle (14 R379, R382); none is more than 8 cycles away. -/
def landAll (l : LineCore) : LineCore := (upto 9).foldl (fun m i => landDue m (l.cyc + i)) l

def fifoKey (src dst : Nat) : Nat := src * 4 + dst

/-- Whether the rows a token waits for have landed (14 R374). -/
def rowsLanded (l : LineCore) (after : List (Nat × Nat)) : Bool :=
  after.all (fun p => match bindAt l p.1 with
    | some t => decide (p.2 ≤ t.done_)
    | none => true)

/-- Tokens pushed in order, each once the writes before it have landed (14 R373, R374). -/
def pushTokens (l : LineCore) : LineCore :=
  l.pushes.foldl (fun (m : LineCore) p =>
      let q := fifoKey p.src p.dst
      if rowsLanded l p.cover.rows && !m.pushes.any (fun o => o.src == p.src) then
        { m with fifos := put m.fifos q (getD [] m.fifos q ++ [p.v]), covers := put m.covers q (getD [] m.covers q ++ [p.cover]) }
      else { m with pushes := m.pushes ++ [p] }) { l with pushes := [] }

/-- The first matrix entry that has not finished starts when none runs: it takes its weight set (14 R392); an .acc entry
consumes the finished result before it (15 R412). An uncorrectable weight row is a data error (14 R382). -/
def startEntry (l : LineCore) : LineCore :=
  if l.mq.any (fun e => e.started.isSome && e.out.isNone) then l
  else match l.mq.findIdx? (fun e => e.started.isNone) with
    | none => l
    | some i =>
      match l.mq[i]? with
      | none => l
      | some e =>
        if (upto 64).any (fun r => l.wErr.contains (e.set * 64 + r)) then { l with trapQ := some (l.trapQ.getD 2) }
        else
          { l with mq := l.mq.set i { e with started := some l.cyc, w := rangeVals l.wsets (e.set * 4096) 4096 } }

/-- The end of a Cameo cycle: results land, tokens are pushed, the matrix engine starts; a trap ends the band with a snapshot
once every result in flight has landed (14 R379, R382). -/
def endCycle (s : State) (lc : Nat) : State :=
  let s := modLine s lc (fun l =>
    let l := { l with cyc := l.cyc + 1, nextEng := 0 }
    startEntry (pushTokens (landDue l l.cyc)))
  let l := lineOf s lc
  match l.trapQ, l.band with
  | some code, some b =>
    let s := modLine s lc landAll
    let s := trapEvent s lc b.head b.b code
    endBand s lc 2
  | _, _ => s

/-! ### Bundles -/

/-- The PC after a bundle that falls through, with the loop levels, innermost first (15 R403). -/
def fallThrough (pc : Nat) : List Loop → Nat × List Loop
  | [] => (pc + 1, [])
  | v :: vs =>
    if pc = v.stop then
      (if 1 < v.count then (v.start, { v with count := v.count - 1 } :: vs) else fallThrough pc vs)
    else (pc + 1, v :: vs)

/-- What a bundle does to its engine's PC (15 R402, R403, R405). -/
def moveEngine (l : LineCore) (g : Engine) (fx : List Fx) : Engine :=
  let pick := fx.find? (fun x => match x with | .jump _ => true | .loop _ => true | .skip _ => true | .halt => true | _ => false)
  match pick with
  | some (.jump t) =>
    let kept := (g.loops.reverse.takeWhile (fun v => decide (v.start ≤ t) && decide (t ≤ v.stop))).reverse
    { g with pc := t % 1024, loops := kept, ready := l.cyc + 2 }
  | some (.loop v) => { g with pc := (g.pc + 1) % 1024, loops := v :: g.loops, ready := l.cyc + 1 }
  | some (.skip t) => { g with pc := t % 1024, ready := l.cyc + 1 }
  | some .halt => { g with halted := true }
  | _ =>
    let r := fallThrough g.pc g.loops
    { g with pc := r.1 % 1024, loops := r.2, ready := l.cyc + 1 }

/-- One effect of a bundle on its line core; those on its head and partition apart. -/
def Fx.onLine (e : Nat) (x : Fx) (l : LineCore) : LineCore :=
  match x with
  | .land d => { l with landings := l.landings ++ [d] }
  | .lb a v => lbPut l e none a (toBytes 4 v.toNat)
  | .push dst v after => { l with pushes := l.pushes ++ [⟨e, dst, v, ⟨l.lbNum, after⟩⟩] }
  | .pop src =>
    let q := fifoKey src e
    let l := coverToken l src e ((getD [] l.covers q).headD ⟨0, []⟩)
    { l with fifos := put l.fifos q ((getD [] l.fifos q).drop 1), covers := put l.covers q ((getD [] l.covers q).drop 1) }
  | .bind st t => { l with streams := put l.streams st t, lbNum := l.lbNum + 1 }
  | .pull st => { l with streams := adjust l.streams st (fun t => { t with rows := t.rows.drop 1, pos := t.pos + 1 }) }
  | .supply st row => { l with streams := adjust l.streams st (fun t =>
      if t.kind = 4 then { t with pos := t.pos + 1, done_ := t.done_ + 1 }
      else { t with rows := t.rows ++ [(none, row)], pos := t.pos + 1 }) }
  | .enq m => { l with mq := l.mq ++ [m] }
  | .deq i => { l with mq := l.mq.eraseIdx i }
  | .jump _ | .loop _ | .skip _ | .halt | .evt _ => l

/-- The pixels of a scan row (14 R378). -/
def rowPixels (row : List Half) : List Word :=
  (upto 32).map (fun p => (row.getD (2 * p + 1) 0#16 ++ row.getD (2 * p) 0#16 : Word))

/-- One effect of a bundle on its head and partition: scan rows are presented, EVT raises its event. -/
def Fx.onHead (lc : Nat) (x : Fx) (s : State) : State :=
  let l := lineOf s lc
  match l.band with
  | none => s
  | some b =>
    match x with
    | .evt v => cameoEvent s b.head lc 5 0 b.b v.toNat
    | .supply st row =>
      (match lookup l.streams st with
       | some t =>
         if t.kind ≠ 4 then s
         else
           let h := headOf s b.head
           let per := cdiv (cfgWidth h.cfg) 32
           let r := presentRun s b.head (16 * b.b + t.pos / per) (32 * (t.pos % per)) t.nel (rowPixels row)
           if r.1 then modLine r.2 lc (fun l => { l with band := l.band.map (fun b => { b with pbFail := true }) }) else r.2
       | none => s)
    | _ => s

/-- The bundle issues: the effects of its slots in slot order, then the engine's PC; the scan writer's HALT completes the
band (14 R388, 15 R396, R405). -/
def commitBundle (s : State) (lc e : Nat) : State :=
  let fx := (lineOf s lc).fx
  let s := fx.foldl (fun s x => modLine (x.onHead lc s) lc (x.onLine e)) s
  let s := modLine s lc (fun l => { setEng l e (moveEngine l (engOf l e) fx) with fx := [], bst := .ok, took := none })
  if e = 3 ∧ fx.contains .halt ∧ (lineOf s lc).trapQ = none then endBand s lc 0 else s

/-- The slot words of a bundle, by slot number (15 R395). -/
def slotWords (b : BitVec 128) : List Word :=
  [b.extractLsb' 96 32, b.extractLsb' 64 32, b.extractLsb' 32 32, b.extractLsb' 0 32]

/-- The bundle at an engine's PC; zero at or above its COUNT (15 R402). -/
def bundleAt (l : LineCore) (e : Nat) : BitVec 128 :=
  let pc := (engOf l e).pc
  if pc < getD 0 l.count e then getD 0#128 l.imem (e * 1024 + pc) else 0#128

/-- Whether an engine issues in this cycle. -/
def engineIssues (l : LineCore) (e : Nat) : Bool :=
  l.band.isSome && !l.susp && !(engOf l e).halted && decide ((engOf l e).ready ≤ l.cyc)

end Sys2Proof.Machine
end

