-- ==== Sys2Proof/Machine/Frames.lean ====
section
/-! DEFINITION. Machine/Frames.lean: heads (14 R365 to R371): their configuration, frame starts and publications (13 R361 to
R363, 14 R387, R391), program images (15 R416), the Locket (14 R384 to R386), bands (14 R387, R388), the fallback
(14 R390) and events of the frame layers. -/

namespace Sys2Proof.Machine

/-! ### Assignment of heads -/

/-- The HDCFG block of a head in its partition's window, as software wrote it (14 R368). -/
def hdcfgBytes (s : State) (h : Nat) : List Byte :=
  (upto 16).flatMap (fun i => toBytes 4 (win32 s (headPart s h) (oHDCFG h + 4 * i)))

/-- The NHDEST block of a network head (22 R512). -/
def nhdBytes (s : State) (h : Nat) : List Byte :=
  if h < 4 then [] else (upto 8).flatMap (fun i => toBytes 4 (win32 s (headPart s h) (oNHDEST (h - 4) + 4 * i)))

/-- A window block set to zeros. -/
def zeroWin (s : State) (p off words : Nat) : State :=
  (upto words).foldl (fun s i => setWin32 s p (off + 4 * i) 0) s

/-- The disable takes effect (14 R366): EN and PEND read 0, the line cores stop, the HDCFG block reads zero. -/
def disableHead (s : State) (h : Nat) : State :=
  let s := (headCores s h).foldl (fun s c => modLine s c LineCore.discardRows) s
  let s := flushEvents s h
  let s := zeroWin s (headPart s h) (oHDCFG h) 16
  let s := (headCores s h).foldl (fun s c => modLine s c (fun l => { l.stop with head := none })) s
  let s := setHead s h Head.init
  { s with root := { s.root with hdown := setD 0#32 s.root.hdown h (hdown s h &&& 0x7800FFFF#32) } }

/-- A head enabled (14 R366, R371): unconfigured, its block at reset, its line cores cleared. -/
def enableHead (s : State) (h : Nat) (v : Word) : State :=
  let s := { s with root := { s.root with hdown := setD 0#32 s.root.hdown h (v &&& 0xF800FFFF#32) } }
  let s := zeroWin (setHead s h Head.init) (headPart s h) (oHDCFG h) 16
  (headCores s h).foldl (fun s c => setLine s c { LineCore.init with head := some h, snap := (lineOf s c).snap, late := (lineOf s c).late }) s

/-- A write of HDOWN by root firmware, with the writes that are ignored (14 R365, R366). -/
def hdownWrite (s : State) (h : Nat) (v : Word) : State :=
  let old := hdown s h
  let clash := (upto 12).any (fun o => o != h && headOn s o && (hdown s o &&& v &&& 0xFFFF#32) != 0#32)
  if 12 ≤ h ∨ (headOf s h).disabling then s
  else if wbit old 31 then
    if (old ^^^ v) &&& 0x7800FFFF#32 != 0#32 then s
    else if !wbit v 31 then
      (if (headOf s h).configured then
         { modHead s h (fun x => { x with disabling := true }) with
           root := { s.root with hdown := setD 0#32 s.root.hdown h (old ||| 0x04000000#32) } }
       else disableHead s h)
    else s
  else if !wbit v 31 then { s with root := { s.root with hdown := setD 0#32 s.root.hdown h (v &&& 0x7800FFFF#32) } }
  else if v &&& 0xFFFF#32 = 0#32 ∨ clash then s
  else enableHead s h v

/-- HDOWN_ENABLE (14 R365, R366, R371): root firmware writes the register of a head. -/
def execHdownEnable (head v : Nat) (s : State) : Host.Outcome State Fault Refusal :=
  .next (hdownWrite s head (BitVec.ofNat 32 v ||| 0x80000000#32))

/-- HDOWN_DISABLE (14 R366): EN := 0, at once for an unconfigured head, else at its next frame start. -/
def execHdownDisable (head : Nat) (s : State) : Host.Outcome State Fault Refusal :=
  .next (if headOn s head then hdownWrite s head (hdown s head &&& 0x7FFFFFFF#32) else s)

/-! ### Program images -/

/-- The header of an image (15 R416): COUNT and ENTRY of each engine; none where it breaks the map. -/
def parseImage (bs : List Byte) : Option (List (Nat × Nat)) :=
  let es := (upto 4).map (fun e => leAt bs (16 + 8 * e) 8)
  let ok := leAt bs 4 4 == 0x43560001 && leAt bs 0 4 == 0 && leAt bs 8 8 == 0 &&
    es.all (fun d => nbits d 48 16 == 0 && nbits d 10 22 == 0 && decide (nbits d 32 16 ≤ 1024) &&
      (nbits d 32 16 == 0 || decide (nbits d 0 10 < nbits d 32 16))) &&
    leAt bs 48 208 == 0 && nbits (es.getD 3 0) 32 16 != 0
  if ok then some (es.map (fun d => (nbits d 32 16, nbits d 0 10))) else none

/-- The bundles of an image, by engine and index (15 R416). -/
def imageBundles (counts : List (Nat × Nat)) (bs : List Byte) : SMap (BitVec 128) :=
  let starts := (upto 4).map (fun e => ((counts.take e).map (·.1)).foldl (· + ·) 0)
  (upto 4).flatMap (fun e => (upto (counts.getD e (0, 0)).1).map (fun i =>
    (e * 1024 + i, BitVec.ofNat 128 (leAt bs (256 + 16 * (starts.getD e 0 + i)) 16))))

/-- A line core switched to an image (14 R370). -/
def LineCore.load (l : LineCore) (bs : List Byte) : LineCore :=
  match parseImage bs with
  | none => l
  | some cs =>
    { l with count := (upto 4).map (fun e => (e, (cs.getD e (0, 0)).1)), entry := (upto 4).map (fun e => (e, (cs.getD e (0, 0)).2)),
             imem := imageBundles cs bs }

/-- HDCFG.LOAD of a head. -/
def loadBit (s : State) (h : Nat) : Bool := nbit (win32 s (headPart s h) (oHDCFG h + 48)) 0

/-- LOAD_REQUEST (14 R370, R371): the head takes up a load that software requests. -/
def execLoadRequest (head : Nat) (s : State) : Host.Outcome State Fault Refusal :=
  if headOn s head ∧ loadBit s head then .next (modHead s head (fun h => { h with loading := true })) else .next s

/-- LOADED (14 R370): the image is wholly in place, or its load is abandoned; LOAD clears and the event is raised. -/
def execLoaded (head : Nat) (s : State) : Host.Outcome State Fault Refusal :=
  if !(headOn s head && (headOf s head).loading) then .next s
  else
    let who := headWho s head
    let at_ := cfgProg (hdcfgBytes s head)
    let fin := fun (img : Option (List Byte)) (s : State) =>
      let s := modHead s head (fun h => { h with loading := false, newImage := img <|> h.newImage })
      let s := setWin32 s (headPart s head) (oHDCFG head + 48) 0
      cameoEvent s head 0 3 (if img.isSome then 0 else 1) 0 0
    match readN s who at_ 256 with
    | (.error _, s) => .next (fin none s)
    | (.ok hd, s) =>
      match parseImage hd with
      | none => .next (fin none s)
      | some cs =>
        match readN s who (at_ + 256#57) (16 * (cs.map (·.1)).foldl (· + ·) 0) with
        | (.error _, s) => .next (fin none s)
        | (.ok body, s) => .next (fin (some (hd ++ body)) s)

/-! ### Publications -/

/-- Bytes per pixel of the colour layer (13 R359). -/
def colourBytes (d : List Byte) : Nat := if nbits (leAt d 40 8) 20 2 = 0 then 4 else 8

/-- A frame-slot descriptor keeps the rules of 13 R361; the layers it has lie in the shared window (04 R73). -/
def slotDescOk (d : List Byte) : Bool :=
  let g := leAt d 40 8
  let w := nbits g 36 14
  let h := nbits g 22 14
  let layer := fun (i addr pitch bpp : Nat) =>
    !nbit g (17 + i) || (leAt d addr 8 % 128 == 0 && nbits (leAt d addr 8) 55 2 == 2 && nbits (leAt d addr 8) 57 7 == 0 && leAt d pitch 4 % 128 == 0 &&
      decide (w * bpp ≤ leAt d pitch 4))
  leAt d 0 4 == 0 && nbits g 50 14 == 0 && nbits g 0 17 == 0 && decide (1 ≤ w) && decide (w ≤ 8192) && decide (1 ≤ h) &&
  decide (h ≤ 8192) && decide (nbits g 20 2 ≤ 1) && nbit g 17 && layer 0 16 52 (colourBytes d) && layer 1 24 48 4 &&
  layer 2 32 60 4 && leAt d 56 4 == 0 && leAt d 92 4 == 0 && leAt d 112 16 == 0

/-- FRAME of the adopted publication; none before any. -/
def curFrame (h : Head) : Option Nat := h.slot.map (fun _ => leAt h.desc 4 4)

/-- Whether a publication is newer than the current one (13 R362). -/
def newerPub (h : Head) (f : Nat) : Bool :=
  f != 0 && (match curFrame h with
    | none => true
    | some c => exceeds32 f c)

/-- The slots read at a frame start: their descriptors, and the first failure (14 R387). -/
def readSlots (who : Who) (tab : VA) : Nat → State → List (Nat × List Byte) × Option AccErr × State
  | 0, s => ([], none, s)
  | n + 1, s =>
    let (rest, e, s) := readSlots who tab n s
    match readN s who (tab + BitVec.ofNat 57 (128 * n)) 128 with
    | (.ok d, s) => (rest ++ [(n, d)], e, s)
    | (.error x, s) => (rest, e <|> some x, s)

/-- The newest of publications in serial order. -/
def newest (ps : List (Nat × List Byte)) : Option (Nat × List Byte) :=
  ps.foldl (fun b p => match b with
    | none => some p
    | some q => if exceeds32 (leAt p.2 4 4) (leAt q.2 4 4) then some p else b) none

/-- A publication of the table in force: table, slot, FRAME (13 R363). -/
def pubOf (h : Head) (p : Nat × List Byte) : VA × Nat × Nat := (cfgSlotTab h.cfg, p.1, leAt p.2 4 4)

/-- A publication that Cameo has finished with and whose RELF is neither written nor owed yet (13 R363). -/
def relDue (h : Head) (p : Nat × List Byte) : Bool :=
  leAt p.2 4 4 != 0 && leAt p.2 12 4 != leAt p.2 4 4 && !h.relOwed.contains (pubOf h p)

/-- The adoption at a frame start (13 R362, R363; 14 R387, R391): the newest valid publication newer than the current one;
what is overtaken, what breaks the rules, and the publication it replaces are owed their RELF. -/
def adopt (s : State) (hn : Nat) : State :=
  let h := headOf s hn
  let (ds, err, s) := readSlots (headWho s hn) (cfgSlotTab h.cfg) 4 s
  let s := match err with
    | none => s
    | some e => cameoEvent s hn 0 7 (errCause e) 0 0
  let cur := h.slot.map (fun o => (h.slotTab, o, leAt h.desc 4 4))
  let fresh := ds.filter (fun p => newerPub h (leAt p.2 4 4))
  let late := ds.filter (fun p => !newerPub h (leAt p.2 4 4) && cur != some (pubOf h p))
  match newest (fresh.filter (fun p => slotDescOk p.2)) with
  | none =>
    let out := (late ++ fresh).filter (relDue h)
    modHead s hn (fun h => { h with relOwed := h.relOwed ++ out.map (pubOf h) })
  | some (k, d) =>
    let out := (late ++ fresh.filter (fun p => p.1 != k)).filter (relDue h)
    modHead s hn (fun h =>
      { h with slot := some k, desc := d, slotTab := cfgSlotTab h.cfg, adopt1 := h.adopt0, adopt0 := h.prescnt, pubcnt := add32 h.pubcnt 1,
               relOwed := h.relOwed ++ cur.toList ++ out.map (pubOf h) })
where
  errCause : AccErr → Nat
    | .fault _ => 0
    | .dataError => 1

/-- RELF_WRITE (13 R363, 14 R394): the RELF of a publication that Cameo has finished with, once every earlier write of the head is
acknowledged. -/
def execRelfWrite (head fslot : Nat) (s : State) : Host.Outcome State Fault Refusal :=
  let h := headOf s head
  match h.relOwed.find? (fun p => p.2.1 == fslot) with
  | none => .next s
  | some p =>
    if !(openRows s head).isEmpty then .next s
    else
      let s := (writeN s (headWho s head) (p.1 + BitVec.ofNat 57 (128 * fslot + 12)) (toBytes 4 p.2.2)).2
      .next (modHead s head (fun h => { h with relOwed := h.relOwed.erase p }))

/-! ### Frame start -/

/-- Whether the next latch of a head is due at the line its scan has reached (14 R386). -/
def latchDue (h : Head) : Bool := decide (deadline h h.nextLatchF h.nextLatchB - cfgLatch h.cfg ≤ h.scanned)

/-- Every band whose deadline line is reached by a count of lines has been presented (14 R388, R390). -/
def presentedBy (h : Head) (lines : Nat) : Bool :=
  (upto (bandsOf h)).all (fun b => decide ((lines : Int) < deadline h h.f b) ||
    (match lookup h.bands b with
     | some o => o == 0 || o == 4
     | none => false))

/-- The first band without a latch from a frame on, looked for in this many frames. -/
def firstUnlatched (h : Head) : Nat → Nat → Nat × Nat
  | 0, f => (f, 0)
  | n + 1, f =>
    match (upto (bandsOf h)).find? (fun b => (bandLatch h f b).isNone) with
    | some b => (f, b)
    | none => firstUnlatched h n (f + 1)

/-- The next latch named, in band order: the first band from the current frame on that has none, bands that a new HEIGHT adds to a
frame among them (14 R386). -/
def fixLatch (h : Head) : Head :=
  let n := firstUnlatched h (h.latches.length + 1) h.f
  { h with nextLatchF := n.1, nextLatchB := n.2 }

/-- The poses under which the bands of the frame that ends were presented, as synthesised or by fallback: those of their latches
(14 R390). -/
def shownPoses (h : Head) : SMap (List Word) :=
  (h.bands.filter (fun e => e.2 == 0 || e.2 == 4)).filterMap (fun e => (bandLatch h (h.f - 1) e.1).map (fun t => (e.1, t.pose)))

/-- What every frame start does once the frame's timing is adopted (14 R370, R387, R390, R376; 22 R512). -/
def beginFrame (s : State) (hn : Nat) : State :=
  let s := modHead s hn (fun h =>
    { h with prescnt := add32 h.prescnt 1, posesOld := shownPoses h, bands := [], scan := [], pbBad := [],
             pbLost := h.pbLost.filter (fun k => k / 8192 != add32 h.prescnt 1 % 2), latches := h.latches.filter (fun e => decide (h.f * 1024 ≤ e.1)), nhd := nhdBytes s hn })
  let s := modHead s hn fixLatch
  let s := match (headOf s hn).newImage with
    | none => s
    | some bs =>
      let s := (headCores s hn).foldl (fun s c => modLine s c (fun l => l.load bs)) s
      modHead s hn (fun h => { h with newImage := none, haveImage := true })
  let s := adopt s hn
  let h := headOf s hn
  if h.slot.isNone then s
  else (headCores s hn).foldl (fun s c => modLine s c (fun l => lbWrite l 0x17FF80 h.desc)) s

/-- FRAME_START (14 R366, R370, R387): a pending disable takes effect; else HDCFG is adopted whole or a BADCFG event raised,
and the frame begins. -/
def execFrameStart (head : Nat) (s : State) : Host.Outcome State Fault Refusal :=
  let h := headOf s head
  if !(headOn s head && h.configured) ∨ h.line + 1 ≠ cfgVtot h.cfg ∨ latchDue h ∨ !presentedBy h (h.scanned + 1) then .next s
  else if h.disabling then .next (disableHead s head)
  else
    let c := hdcfgBytes s head
    let s := modHead s head (fun h => { h with f := h.f + 1, line := 0, scanned := h.scanned + 1 })
    let s := if cfgOk c then
        modHead s head (fun h =>
          { h with cfg := c, sizeNew := cfgWidth c != cfgWidth h.cfg || cfgHeight c != cfgHeight h.cfg })
      else modHead (cameoEvent s head 0 4 0 0 0) head (fun h => { h with sizeNew := false })
    .next (beginFrame s head)

/-- HDCFG_POLL (14 R371): an enabled head without a configuration reads its block; the first valid one starts frame 0. -/
def execHdcfgPoll (head : Nat) (s : State) : Host.Outcome State Fault Refusal :=
  let h := headOf s head
  if !headOn s head ∨ h.configured then .next s
  else
    let c := hdcfgBytes s head
    if cfgOk c then
      .next (beginFrame (modHead s head (fun h => { h with configured := true, cfg := c, cfgSeen := c })) head)
    else if leAt c 0 64 = 0 then .next (modHead s head (fun h => { h with cfgSeen := c }))
    else if c = h.cfgSeen then .next s
    else .next (modHead (cameoEvent s head 0 4 0 0 0) head (fun h => { h with cfgSeen := c }))

/-- The octets of a line's pixels in a pixel group of RGB 4:4:4 at 10 bits: four pixels in 15 octets, R, G and B of each, the highest
bit first. PRESUMED from SMPTE ST 2110-20, as the layout of the packets is (22 R512, log 71). -/
def pixelGroup (px : List Word) : List Byte :=
  let v := (upto 4).foldl (fun a i =>
    let p := nthD 0#32 px i
    ((a * 1024 + fld p 0 10) * 1024 + fld p 10 10) * 1024 + fld p 20 10) 0
  (toBytes 15 v).reverse

/-- Bytes in network order. -/
def netBytes (n v : Nat) : List Byte := (toBytes n v).reverse

/-- Pixels of a packet: 96 groups, 1,440 payload bytes (22 R512). -/
def packetPixels : Nat := 384

/-- The packet of an active line that starts at pixel `x`, with its sequence number: RTP header, payload header, pixel groups. -/
def videoPacket (hn : Nat) (h : Head) (y x seq : Nat) : VideoPkt :=
  let n := min packetPixels (cfgWidth h.cfg - x)
  let px := (upto n).map (fun i => getD 0#32 h.scan (y * 8192 + x + i))
  let groups := (upto (cdiv n 4)).flatMap (fun g => pixelGroup (px.drop (4 * g)))
  let mark := decide (y + 1 = cfgHeight h.cfg) && decide (cfgWidth h.cfg ≤ x + packetPixels)
  { dip := sliceBytes h.nhd 0 16, udp := leAt h.nhd 16 2, dscp := leAt h.nhd 19 1 / 4,
    body := [0x80#8, BitVec.ofNat 8 (128 * mark.toNat + leAt h.nhd 18 1 % 128)] ++ netBytes 2 (seq % 65536) ++
      netBytes 4 (Config.rtpTime hn h.f % 2 ^ 32) ++ netBytes 4 (leAt h.nhd 20 4) ++ netBytes 2 (seq / 65536 % 65536) ++
      netBytes 2 groups.length ++ netBytes 2 y ++ netBytes 2 x ++ groups }

/-- A network head sends the active line that its scan has reached, unless its destination port is 0 (22 R512). -/
def sendVideo (hn : Nat) (h : Head) : Head :=
  let top := cfgVtot h.cfg - cfgHeight h.cfg
  if hn < 4 ∨ h.line < top ∨ leAt h.nhd 16 2 = 0 then { h with rtp := [] }
  else
    let k := cdiv (cfgWidth h.cfg) packetPixels
    { h with rtp := (upto k).map (fun i => videoPacket hn h (h.line - top) (packetPixels * i) (h.rtpSeq + i)),
             rtpSeq := (h.rtpSeq + k) % 2 ^ 32 }

/-- The scan reaches the next line of the frame, once what is due before it has been done (14 R369, R386, R388). -/
def scanLine (s : State) (head : Nat) : State :=
  let h := headOf s head
  if !(headOn s head && h.configured) ∨ cfgVtot h.cfg ≤ h.line + 1 ∨ latchDue h ∨ !presentedBy h (h.scanned + 1) then s
  else modHead s head (fun h => sendVideo head { h with line := h.line + 1, scanned := h.scanned + 1 })

/-! ### The Locket -/

/-- The FP32 sum of the squares of a quaternion, rounded at each step (14 R385). -/
def quatSquare (p : List Nat) : Nat :=
  let sq := fun (i : Nat) => f32mul (p.getD i 0) (p.getD i 0)
  f32add (f32add (f32add (sq 0) (sq 1)) (sq 2)) (sq 3)

def f32finite (x : Nat) : Bool := nbits x 23 8 != 255

/-- The seven words of a pose at a byte of a block. -/
def poseAt (bs : List Byte) (o : Nat) : List Nat := (upto 7).map (fun i => leAt bs (o + 4 * i) 4)

/-- A Locket buffer is valid (14 R385). -/
def bufValid (b : List Byte) : Bool :=
  let p := poseAt b 4
  leAt b 0 4 == leAt b 60 4 && leAt b 0 4 != 0 && leAt b 40 20 == 0 && p.all f32finite && !(f32 (quatSquare p)).isZero

/-- The quaternion divided by its norm (14 R386). -/
def normalPose (p : List Nat) : List Word :=
  let n := f32sqrt (quatSquare p)
  (upto 7).map (fun i => BitVec.ofNat 32 (if i < 4 then f32div (p.getD i 0) n else p.getD i 0))

def identityPose : List Word := [0#32, 0#32, 0#32, 0x3F800000#32, 0#32, 0#32, 0#32]

/-- The latch of a head from its Locket block; none where it could not be read (14 R386). -/
def latchFrom (h : Head) (block : Option (List Byte)) : Latch :=
  let before := match h.lastLatch with
    | some t => t.seq
    | none => 0#32
  let keep : Latch := match h.lastLatch with
    | some t => { t with fresh := false }
    | none =>
      let p := poseAt h.desc 64
      let ok := h.slot.isSome && (p.take 4).all f32finite && !(f32 (quatSquare p)).isZero
      { pose := if ok then normalPose p else identityPose, tag := 0#64, seq := 0#32, fresh := false }
  match block with
  | none => keep
  | some bs =>
    let b0 := sliceBytes bs 0 64
    let b1 := sliceBytes bs 64 64
    let pick := if bufValid b0 && bufValid b1 then
        some (if exceeds32 (leAt b1 0 4) (leAt b0 0 4) then b1 else b0)
      else if bufValid b0 then some b0 else if bufValid b1 then some b1 else none
    match pick with
    | none => keep
    | some b =>
      let seq : Word := BitVec.ofNat 32 (leAt b 0 4)
      { pose := normalPose (poseAt b 4), tag := BitVec.ofNat 64 (leAt b 32 8), seq := seq, fresh := seq != before }

/-- The line core that serves a band (14 R367). -/
def coreOfBand (s : State) (hn b : Nat) : Nat :=
  let cs := headCores s hn
  if cs.isEmpty then 0 else cs.getD (b % cs.length) 0

/-- LOCKET_LATCH (14 R386): the latch of the next band, in band order, at the start of its latch line. -/
def execLocketLatch (head : Nat) (s : State) : Host.Outcome State Fault Refusal :=
  let h := headOf s head
  if !(headOn s head && h.configured) ∨ !latchDue h then .next s
  else
    let f := h.nextLatchF
    let b := h.nextLatchB
    let r := readN s (headWho s head) (cfgLocket h.cfg) 128
    let (block, s) : Option (List Byte) × State := match r with
      | (.ok bs, s) => (some bs, s)
      | (.error e, s) =>
        (none, cameoEvent s head (coreOfBand s head b) 7 (match e with | .fault _ => 2 | .dataError => 3) b 0)
    let t := latchFrom h block
    .next (modHead s head (fun h => fixLatch
      { h with latches := put h.latches (f * 1024 + b) t, lastLatch := some t }))

/-! ### Bands -/

/-- BAND_START (14 R367, R387, R391; 15 R416): once the results of the band before have landed, its rows that are not sent, its tokens
and queue entries are discarded and the engines begin at their entry points with the registers of the band. Without an image
the band is left to the fallback. -/
def execBandStart (lc : Nat) (s : State) : Host.Outcome State Fault Refusal :=
  let l := lineOf s lc
  match l.head, nextBand s lc with
  | some hn, some b =>
    let h := headOf s hn
    if !(headOn s hn && h.configured) ∨ l.susp ∨ l.band.isSome ∨ !l.landings.isEmpty ∨ (lookup h.bands b).isSome ∨
        decide (deadline h h.f b - 1 ≤ h.scanned) then .next s
    else if !h.haveImage then
      .next (modHead (modLine s lc (fun l => { l with lastBand := some (h.f, b) })) hn (fun h =>
        { h with bands := put h.bands b 3 }))
    else
      let slot : Nat := h.slot.getD 0xFFFFFFFF
      let gap := sub32 h.adopt0 h.adopt1
      let regs : List (Nat × Nat) :=
        [(0, b), (16, b), (24, b), (28, b), (1, h.prescnt), (2, sub32 h.prescnt h.adopt0),
         (3, if 2 ≤ h.pubcnt ∧ 1 ≤ gap then gap else 1), (4, slot), (17, slot),
         (5, if h.slot.isSome then leAt h.desc 4 4 else 0), (6, bandLines h b), (7, hn)]
      let engs : SMap Engine := (upto 4).map (fun e =>
        (e, { pc := getD 0 l.entry e, loops := [], halted := getD 0 l.count e == 0, ready := l.cyc }))
      .next (setLine s lc
        { l.leaveRows s.tick hn with
                 engs := engs, fifos := [], covers := [], lbPast := [], streams := [], pushes := [], mq := [], fx := [],
                 bst := .ok, took := none, trapQ := none,
                 k := regs.foldl (fun k r => setD 0#32 k r.1 (BitVec.ofNat 32 r.2)) l.k,
                 band := some { head := hn, f := h.f, b := b, scanRows := cdiv (cfgWidth h.cfg) 32 * bandLines h b,
                                pbFail := false } })
  | _, _ => .next s

/-- BAND_ABANDONMENT (14 R388): at the start of line D − 1 a band that is not complete, begun or not, is abandoned. -/
def execBandAbandonment (lc : Nat) (s : State) : Host.Outcome State Fault Refusal :=
  let l := lineOf s lc
  match l.head with
  | none => .next s
  | some hn =>
    let h := headOf s hn
    match l.band with
    | some b => if deadline h b.f b.b - 1 ≤ h.scanned then .next (endBand s lc 1) else .next s
    | none =>
      match nextBand s lc with
      | none => .next s
      | some b =>
        if !h.configured ∨ ¬ deadline h h.f b - 1 ≤ h.scanned then .next s
        else .next (modHead (modLine s lc (fun l => { l with lastBand := some (h.f, b) })) hn (fun h =>
          { h with bands := put h.bands b (if h.haveImage then 1 else 3) }))

/-! ### The fallback -/

/-- The cross product of vectors of FP32. -/
def vCross (a b : List Nat) : List Nat :=
  let g := fun (i j : Nat) => f32sub (f32mul (a.getD i 0) (b.getD j 0)) (f32mul (a.getD j 0) (b.getD i 0))
  [g 1 2, g 2 0, g 0 1]

def vMap2 (f : Nat → Nat → Nat) (a b : List Nat) : List Nat := (upto 3).map (fun i => f (a.getD i 0) (b.getD i 0))

def f32two : Nat := 0x40000000
def f32half : Nat := 0x3F000000
def f32ofNat (n : Nat) : Nat := (rnd fp32 .rne false (.num false n 0)).1

/-- `rotate(q, v)` of 14 R390, in the written order: v + 2w(u × v) + 2u × (u × v). -/
def quatRotate (q v : List Nat) : List Nat :=
  let u := q.take 3
  let c := vCross u v
  let w2 := f32mul f32two (q.getD 3 0)
  let a := vMap2 f32add v (c.map (f32mul w2))
  vMap2 f32add a (vCross (u.map (f32mul f32two)) c)

/-- Where the fallback of a pixel reads the previous image: a line and a column; none where the pixel is 0 (14 R390). -/
def fallbackSource (h : Head) (q q0 : List Nat) (x y : Nat) : Option (Nat × Nat) :=
  let fov := fun (i : Nat) => leAt h.desc (96 + 4 * i) 4
  let lt := fov 0
  let rt := fov 1
  let up := fov 2
  let dn := fov 3
  let wd := f32ofNat (cfgWidth h.cfg)
  let ht := f32ofNat (cfgHeight h.cfg)
  let dx := f32sub (f32mul (f32div (f32add (f32ofNat x) f32half) wd) (f32add lt rt)) lt
  let dy := f32sub up (f32mul (f32div (f32add (f32ofNat y) f32half) ht) (f32add up dn))
  let conj := (q0.take 3).map f32neg ++ q0.drop 3
  let e := quatRotate conj (quatRotate q [dx, dy, 0xBF800000])
  let ez := e.getD 2 0
  if !f32lt ez 0 then none
  else
    let nz := f32neg ez
    let sx := f32sub (f32mul (f32div (f32add (f32div (e.getD 0 0) nz) lt) (f32add lt rt)) wd) f32half
    let sy := f32sub (f32mul (f32div (f32sub up (f32div (e.getD 1 0) nz)) (f32add up dn)) ht) f32half
    let ix := nearest sx (cfgWidth h.cfg)
    let iy := nearest sy (cfgHeight h.cfg)
    match ix, iy with
    | some i, some j => some (j, i)
    | _, _ => none
where
  /-- A coordinate rounded to nearest even and clamped to 0 to n − 1; none for NaN. -/
  nearest (v n : Nat) : Option Nat :=
    match f32 v with
    | .nan _ => none
    | .inf neg => some (if neg then 0 else n - 1)
    | w =>
      match w.toInt .rne with
      | some (r, _) => some (clampI r 0 ((n : Int) - 1)).toNat
      | none => none

/-- The pixels of a fallback line, the first failure of a read kept (14 R390): a read of a band that is served late may be late,
which being a free value, and a line whose write failed holds free values. -/
def fallbackLine (hn : Nat) (h : Head) (q : List Nat) (q0 : Option (List Nat)) (late : Bool) (y : Nat) :
    Nat → Nat → Option Nat × State → List Word × Option Nat × State
  | 0, _, (e, s) => ([], e, s)
  | n + 1, x, (e, s) =>
    let src := match q0 with
      | none => none
      | some q0 => fallbackSource h q q0 x y
    let r : Word × Option Nat × State := match src with
      | none => (0#32, e, s)
      | some (iy, ix) =>
        let img := sub32 h.prescnt 1 % 2
        if late && Config.freeValue s.tick (2 * (8192 * y + x)) % 2 == 1 then (0#32, e <|> some 2, s)
        else match readN s (headWho s hn) (presAddr h img iy + BitVec.ofNat 57 (4 * ix)) 4 with
          | (.ok bs, s) =>
            (if h.pbLost.contains (img * 8192 + iy) then BitVec.ofNat 32 (ofBytes (openBytes s.tick iy (4 * ix) 4))
             else BitVec.ofNat 32 (ofBytes bs), e, s)
          | (.error (.fault _), s) => (0#32, e <|> some 0, s)
          | (.error .dataError, s) => (0#32, e <|> some 1, s)
    let (rest, e, s) := fallbackLine hn h q q0 late y n (x + 1) r.2
    (r.1 :: rest, e, s)

/-- FALLBACK (14 R388 to R390): a band that failed is presented by reprojection of the previous image; MISS rises and its
event is raised, an FBREAD event follows when a read failed or came late, and a MEMFAIL event when a line could not be
written. -/
def execFallback (head band : Nat) (late : Bool) (s : State) : Host.Outcome State Fault Refusal :=
  let h := headOf s head
  match lookup h.bands band, bandLatch h h.f band with
  | some o, some t =>
    if o = 0 ∨ 4 ≤ o ∨ ¬ deadline h h.f band - 1 ≤ h.scanned then .next s
    else
      let core := coreOfBand s head band
      let s := modHead s head (fun h => { h with miss := add32 h.miss 1 })
      let s := cameoEvent s head core 1 (o - 1) band t.tag.toNat
      let q0 := if h.prescnt = 1 ∨ h.slot.isNone ∨ h.sizeNew then none
        else (lookup h.posesOld band).map (fun p => p.map BitVec.toNat)
      let q := t.pose.map BitVec.toNat
      let (e, wfail, s) := (upto (bandLines h band)).foldl (fun (acc : Option Nat × Bool × State) i =>
          let (px, e, s) := fallbackLine head h q q0 late (16 * band + i) (cfgWidth h.cfg) 0 (acc.1, acc.2.2)
          let r := presentRun s head (16 * band + i) 0 (2 * px.length) px
          (e, acc.2.1 || r.1, r.2)) (none, false, s)
      let s := match e with
        | some c => cameoEvent s head 0 6 c band 0
        | none => s
      let s := if wfail || h.pbBad.contains band then cameoEvent s head core 7 4 band 0 else s
      .next (modHead s head (fun h => { h with bands := put h.bands band 4 }))
  | _, _ => .next s

end Sys2Proof.Machine
end

