-- ==== Sys2Proof/Machine/Integer.lean ====
section
/-! DEFINITION. Machine/Integer.lean: integer, bit, comparison, move and predicate instructions (08 R191 to R206). -/

namespace Sys2Proof.Machine

/-! ### What the instructions compute -/

/-- Element `k` of a value of an integer type, as an exact integer (06 R150, R156). -/
def intElem (t x k : Nat) : Int :=
  let w := tWidth t
  if tSigned t then sxt (elemN x w k) w else (elemN x w k : Int)

/-- An integer operation on every element, saturated when `sat`, and wrapped (08 R192). -/
def intArith (op : Int → Int → Int → Int) (sat : Bool) (t a b c : Nat) : Nat :=
  let w := tWidth t
  packElems w ((upto (tCount t)).map (fun k =>
    let r := op (intElem t a k) (intElem t b k) (intElem t c k)
    wrapN (if sat then (if tSigned t then satS r w else satU r w) else r) w))

/-- The high half of the double-width product of elements of width `w` (08 R191). -/
def mulHigh (w : Nat) (x y _z : Int) : Int := ((wrapN (x * y) (2 * w) / 2 ^ w : Nat) : Int)

/-- Kinds of shift (08 R193). -/
inductive ShiftKind where
  | left | right | arith
deriving DecidableEq, Repr

/-- A shift of an `n`-bit element by `s` (08 R193). -/
def shiftElem (k : ShiftKind) (n x s : Nat) : Nat :=
  match k with
  | .left => if s ≥ n then 0 else (x <<< s) % 2 ^ n
  | .right => if s ≥ n then 0 else x >>> s
  | .arith => wrapN (sxt x n >>> min s n) n

/-- A shift of every element, by the counts of `b`; with a 64-bit type by the whole of `b` (08 R193). -/
def shiftArith (k : ShiftKind) (t a b : Nat) : Nat :=
  if t = 15 then shiftElem k 64 a b
  else packElems (tWidth t) ((upto (tCount t)).map (fun i =>
    shiftElem k (tWidth t) (elemN a (tWidth t) i) (elemN b (tWidth t) i)))

/-- An immediate repeated in every element, wrapped to it (08 R192). -/
def immElems (t : Nat) (v : Int) : Nat := packElems (tWidth t) ((upto (tCount t)).map (fun _ => wrapN v (tWidth t)))

/-- imm8 as a signed number. -/
def imm8s (f : Fields) : Int := sxt f.b.toNat 8

/-- Three operands combined bitwise by a truth table (08 R195). -/
def lop3 (lut : Nat) (a b c : Word) : Word :=
  (upto 8).foldl (fun r i =>
    if nbit lut i then
      r ||| ((if nbit i 0 then a else ~~~a) &&& (if nbit i 1 then b else ~~~b) &&& (if nbit i 2 then c else ~~~c))
    else r) 0#32

/-- The truth table that F and T form (08 R195, R206). -/
def lutOf (f : Fields) : Nat := f.fn.toNat * 16 + f.t.toNat

/-- The funnel shift (08 R196). -/
def funnel (fn a b c : Nat) : Nat :=
  let v := a * 2 ^ 32 + c
  let w :=
    if !nbit fn 1 then
      let n := min b 64
      if !nbit fn 0 then (v <<< n) % 2 ^ 64 else v >>> n
    else
      let n := b % 64
      let vv := v * 2 ^ 64 + v
      if !nbit fn 0 then (vv >>> (64 - n)) % 2 ^ 64 else (vv >>> n) % 2 ^ 64
  if !nbit fn 0 then w / 2 ^ 32 else w % 2 ^ 32

/-- Bit-field extraction (08 R197). -/
def bitExtract (signed : Bool) (a pos len : Nat) : Nat :=
  let p := min (pos % 256) 32
  let l := min (len % 256) (32 - p)
  if l = 0 then 0
  else
    let x := nbits a p l
    if signed then wrapN (sxt x l) 32 else x

/-- Bit-field insertion (08 R197). -/
def bitInsert (a b c : Nat) : Nat :=
  let p := min (nbits b 0 8) 32
  let l := min (nbits b 8 8) (32 - p)
  c - nbits c p l * 2 ^ p + nbits a 0 l * 2 ^ p

/-- The byte permutation (08 R199). -/
def permute (a b c : Nat) : Nat :=
  packElems 8 ((upto 4).map (fun k =>
    let s := elemN c 8 k
    let j := s % 8
    let x := if j < 4 then elemN a 8 j else elemN b 8 (j - 4)
    let m := nbits s 3 2
    if m = 0 then x else if m = 1 then 0 else if m = 2 then (if nbit x 7 then 0xFF else 0) else 0xFF))

/-- A comparison by its code (08 R200). -/
def intCmp (cond : Nat) (x y : Int) : Bool :=
  if cond = 0 then decide (x = y) else if cond = 1 then decide (x ≠ y) else if cond = 2 then decide (x < y)
  else if cond = 3 then decide (x ≤ y) else if cond = 4 then decide (x > y) else decide (x ≥ y)

/-- A comparison of every element, or of any (08 R200). -/
def intSet (fn t a b : Nat) : Bool :=
  let rs := (upto (tCount t)).map (fun k => intCmp (fn % 8) (intElem t a k) (intElem t b k))
  if nbit fn 3 then rs.any id else rs.all id

/-- The 64-bit address calculation of LEA (08 R202). -/
def leaSum (sh a : Nat) (b : Int) : Nat := wrapN ((a : Int) + b * (2 ^ sh : Nat)) 64

/-! ### Results of one lane -/

/-- Result of an arithmetic instruction of class R. -/
def arithLane (op : Int → Int → Int → Int) (useC : Bool) (f : Fields) (w : Warp) (l : Nat) : LaneRes :=
  let t := f.t.toNat
  .ofRegs (dstWords f.d.toNat t
    (intArith op (f.fn == 1) t (opA w l f t) (opB w l f t) (if useC then opC w l f t else 0)))

/-- Result of an arithmetic instruction of class I. -/
def arithImmLane (op : Int → Int → Int → Int) (f : Fields) (w : Warp) (l : Nat) : LaneRes :=
  let t := f.t.toNat
  .ofRegs (dstWords f.d.toNat t (intArith op (f.fn == 1) t (opA w l f t) (immElems t (imm8s f)) 0))

/-- Result of a shift of class R. -/
def shiftLane (k : ShiftKind) (f : Fields) (w : Warp) (l : Nat) : LaneRes :=
  let t := f.t.toNat
  let b := if t = 15 then rawB w l f 1 else opB w l f t
  .ofRegs (dstWords f.d.toNat t (shiftArith k t (opA w l f t) b))

/-- Result of a shift of class I, the count in every element not wrapped (08 R192, R193). -/
def shiftImmLane (k : ShiftKind) (f : Fields) (w : Warp) (l : Nat) : LaneRes :=
  let t := f.t.toNat
  let a := opA w l f t
  let n := tWidth t
  .ofRegs (dstWords f.d.toNat t
    (packElems n ((upto (tCount t)).map (fun i => shiftElem k n (elemN a n i) f.b.toNat))))

/-- Result of an instruction on one word of A, B and C, B after its modifier under T. -/
def wordLane (g : Nat → Nat → Nat → Nat) (f : Fields) (w : Warp) (l : Nat) : LaneRes :=
  let t := f.t.toNat
  .ofRegs [(f.d.toNat, g (opA w l f t) (opB w l f t) (rread w l f.c.toNat))]

/-- Add, subtract, multiply and the rest as exact operations (08 R191). -/
def opAdd (x y _z : Int) : Int := x + y
def opSub (x y _z : Int) : Int := x - y
def opMul (x y _z : Int) : Int := x * y
def opMad (x y z : Int) : Int := x * y + z
def opMin (x y _z : Int) : Int := min x y
def opMax (x y _z : Int) : Int := max x y
def opAbsd (x y _z : Int) : Int := if x ≥ y then x - y else y - x

/-! ### Meanings -/

/-- IADD (08 R191, R192). -/
def execIadd (f : Fields) (s : State) : Host.Outcome State Fault Refusal :=
  issue 1 f (perLane 1 f (arithLane opAdd false f)) s

/-- ISUB (08 R191, R192). -/
def execIsub (f : Fields) (s : State) : Host.Outcome State Fault Refusal :=
  issue 2 f (perLane 2 f (arithLane opSub false f)) s

/-- IMUL (08 R191, R192). -/
def execImul (f : Fields) (s : State) : Host.Outcome State Fault Refusal :=
  issue 3 f (perLane 3 f (arithLane opMul false f)) s

/-- IMULH (08 R191). -/
def execImulh (f : Fields) (s : State) : Host.Outcome State Fault Refusal :=
  issue 4 f (perLane 4 f (arithLane (mulHigh (tWidth f.t.toNat)) false f)) s

/-- IMAD (08 R191, R192). -/
def execImad (f : Fields) (s : State) : Host.Outcome State Fault Refusal :=
  issue 5 f (perLane 5 f (arithLane opMad true f)) s

/-- Result of IMADW (08 R194). -/
def imadwLane (f : Fields) (w : Warp) (l : Nat) : LaneRes :=
  let t := f.t.toNat
  let a := intElem t (opA w l f t) 0
  let b := intElem t (opB w l f t) 0
  .ofRegs (dstWords f.d.toNat 15 (wrapN (a * b + (rread2 w l f.c.toNat : Int)) 64))

/-- IMADW (08 R194). -/
def execImadw (f : Fields) (s : State) : Host.Outcome State Fault Refusal :=
  issue 6 f (perLane 6 f (imadwLane f)) s

/-- IMIN (08 R191). -/
def execImin (f : Fields) (s : State) : Host.Outcome State Fault Refusal :=
  issue 7 f (perLane 7 f (arithLane opMin false f)) s

/-- IMAX (08 R191). -/
def execImax (f : Fields) (s : State) : Host.Outcome State Fault Refusal :=
  issue 8 f (perLane 8 f (arithLane opMax false f)) s

/-- IABSD (08 R191). -/
def execIabsd (f : Fields) (s : State) : Host.Outcome State Fault Refusal :=
  issue 9 f (perLane 9 f (arithLane opAbsd false f)) s

/-- Result of LOP3 (08 R195). -/
def lop3Lane (f : Fields) (w : Warp) (l : Nat) : LaneRes :=
  .ofRegs [(f.d.toNat, (lop3 (lutOf f) (BitVec.ofNat 32 (rread w l f.a.toNat)) (BitVec.ofNat 32 (rawB w l f 1))
    (BitVec.ofNat 32 (rread w l f.c.toNat))).toNat)]

/-- LOP3 (08 R195). -/
def execLop3 (f : Fields) (s : State) : Host.Outcome State Fault Refusal :=
  issue 10 f (perLane 10 f (lop3Lane f)) s

/-- SHL (08 R193). -/
def execShl (f : Fields) (s : State) : Host.Outcome State Fault Refusal :=
  issue 11 f (perLane 11 f (shiftLane .left f)) s

/-- SHR (08 R193). -/
def execShr (f : Fields) (s : State) : Host.Outcome State Fault Refusal :=
  issue 12 f (perLane 12 f (shiftLane .right f)) s

/-- SHRA (08 R193). -/
def execShra (f : Fields) (s : State) : Host.Outcome State Fault Refusal :=
  issue 13 f (perLane 13 f (shiftLane .arith f)) s

/-- SHF (08 R196). -/
def execShf (f : Fields) (s : State) : Host.Outcome State Fault Refusal :=
  issue 14 f (perLane 14 f (wordLane (fun a b c => funnel f.fn.toNat a b c) f)) s

/-- BFX (08 R197). -/
def execBfx (f : Fields) (s : State) : Host.Outcome State Fault Refusal :=
  issue 15 f (perLane 15 f (wordLane (fun a b c => bitExtract (f.t == 0) a b c) f)) s

/-- BFI (08 R197). -/
def execBfi (f : Fields) (s : State) : Host.Outcome State Fault Refusal :=
  issue 16 f (perLane 16 f (wordLane bitInsert f)) s

/-- Width in bits of A for POPC, CLZ and BREV. -/
def bitsW (f : Fields) : Nat := if f.t = 15 then 64 else 32

/-- POPC (08 R198). -/
def execPopc (f : Fields) (s : State) : Host.Outcome State Fault Refusal :=
  issue 17 f (perLane 17 f (fun w l => .ofRegs [(f.d.toNat, popN (bitsW f) (opA w l f f.t.toNat))])) s

/-- CLZ (08 R198). -/
def execClz (f : Fields) (s : State) : Host.Outcome State Fault Refusal :=
  issue 18 f (perLane 18 f (fun w l => .ofRegs [(f.d.toNat, clzN (bitsW f) (opA w l f f.t.toNat))])) s

/-- BREV (08 R198). -/
def execBrev (f : Fields) (s : State) : Host.Outcome State Fault Refusal :=
  issue 19 f (perLane 19 f (fun w l =>
    .ofRegs (dstWords f.d.toNat f.t.toNat (revN (bitsW f) (opA w l f f.t.toNat))))) s

/-- PRMT (08 R199). -/
def execPrmt (f : Fields) (s : State) : Host.Outcome State Fault Refusal :=
  issue 20 f (perLane 20 f (wordLane permute f)) s

/-- ISET (08 R200). -/
def execIset (f : Fields) (s : State) : Host.Outcome State Fault Refusal :=
  issue 21 f (perLane 21 f (fun w l =>
    .ofPred f.d (intSet f.fn.toNat f.t.toNat (opA w l f f.t.toNat) (opB w l f f.t.toNat)) [])) s

/-- ISEL (08 R201). -/
def execIsel (f : Fields) (s : State) : Host.Outcome State Fault Refusal :=
  issue 22 f (perLane 22 f (fun w l => .ofRegs (dstWords f.d.toNat f.t.toNat
    (if predRead w l f.c.toNat then opA w l f f.t.toNat else opB w l f f.t.toNat)))) s

/-- Operand B of LEA as T extends it (08 R202). -/
def leaIndex (f : Fields) (w : Warp) (l : Nat) : Int :=
  let t := f.t.toNat
  if t = 15 then (rawB w l f 2 : Int) else intElem t (opB w l f t) 0

/-- LEA (08 R202). -/
def execLea (f : Fields) (s : State) : Host.Outcome State Fault Refusal :=
  issue 23 f (perLane 23 f (fun w l =>
    .ofRegs (dstWords f.d.toNat 15 (leaSum f.fn.toNat (rread2 w l f.a.toNat) (leaIndex f w l))))) s

/-- IADD with an immediate (08 R192). -/
def execIaddI (f : Fields) (s : State) : Host.Outcome State Fault Refusal :=
  issue 24 f (perLane 24 f (arithImmLane opAdd f)) s

/-- IMUL with an immediate (08 R192). -/
def execImulI (f : Fields) (s : State) : Host.Outcome State Fault Refusal :=
  issue 25 f (perLane 25 f (arithImmLane opMul f)) s

/-- SHL with an immediate (08 R193). -/
def execShlI (f : Fields) (s : State) : Host.Outcome State Fault Refusal :=
  issue 26 f (perLane 26 f (shiftImmLane .left f)) s

/-- SHR with an immediate (08 R193). -/
def execShrI (f : Fields) (s : State) : Host.Outcome State Fault Refusal :=
  issue 27 f (perLane 27 f (shiftImmLane .right f)) s

/-- SHRA with an immediate (08 R193). -/
def execShraI (f : Fields) (s : State) : Host.Outcome State Fault Refusal :=
  issue 28 f (perLane 28 f (shiftImmLane .arith f)) s

/-- BFX with an immediate position (08 R197). -/
def execBfxI (f : Fields) (s : State) : Host.Outcome State Fault Refusal :=
  issue 29 f (perLane 29 f (fun w l => .ofRegs [(f.d.toNat,
    bitExtract (f.t == 0) (opA w l f f.t.toNat) f.b.toNat (rread w l f.c.toNat))])) s

/-- ISET with an immediate (08 R200). -/
def execIsetI (f : Fields) (s : State) : Host.Outcome State Fault Refusal :=
  issue 30 f (perLane 30 f (fun w l =>
    .ofPred f.d (intSet f.fn.toNat f.t.toNat (opA w l f f.t.toNat) (immElems f.t.toNat (imm8s f))) [])) s

/-- MOV (08 R203). -/
def execMov (f : Fields) (s : State) : Host.Outcome State Fault Refusal :=
  issue 32 f (perLane 32 f (fun w l => .ofRegs (dstWords f.d.toNat f.t.toNat (opA w l f f.t.toNat)))) s

/-- MOVL (08 R203). -/
def execMovl (f : Fields) (s : State) : Host.Outcome State Fault Refusal :=
  issue 33 f (perLane 33 f (fun _ _ => .ofRegs (dstWords f.d.toNat f.t.toNat (f.lit.getD 0).toNat))) s

/-- Quad and die of a core: four cores a quad, 48 a die (01 R522). -/
def quadOf (core : Nat) : Nat := core / 4
def dieOf (core : Nat) : Nat := core / 48

/-- A special register read by a lane of the issuing path (06 R146). -/
def specialReg (x : Iss) (s : State) (w : Warp) (lane n : Nat) : Nat :=
  let l := lookup w.lanes lane
  let r := w.rec_
  let grp := match w.gslot with | some g => groupAt s x.core g | none => none
  let xyz := groupXYZ r (match l with | some t => t.group | none => 0)
  match n with
  | 0x00 => lane
  | 0x01 => w.windex
  | 0x02 => match l with | some t => t.tx | none => 0
  | 0x03 => match l with | some t => t.ty | none => 0
  | 0x04 => match l with | some t => t.tz | none => 0
  | 0x05 => r.bx + 1
  | 0x06 => r.byy + 1
  | 0x07 => r.bz + 1
  | 0x08 => xyz.1
  | 0x09 => xyz.2.1
  | 0x0A => xyz.2.2
  | 0x0B => r.gx
  | 0x0C => r.gy
  | 0x0D => r.gz
  | 0x0E => x.core
  | 0x0F => quadOf x.core
  | 0x10 => dieOf x.core
  | 0x11 => w.sysDepth
  | 0x12 => match grp with | some g => g.member | none => 0
  | 0x13 => w.part
  | 0x14 => w.asid
  | 0x15 => w.gslot.getD 0xFFFFFFFF
  | 0x16 => x.wslot
  | 0x17 => w.quadrant
  | 0x18 => cycOf s x.core
  | 0x19 => x.mask.toNat
  | _ => if w.clOpen && !w.hmode then w.cmask.toNat else 0

/-- The lowest occupied lane of a warp (16 R439). -/
def occupiedLane (w : Warp) : Nat := match w.lanes with | (l, _) :: _ => l | [] => 0

/-- What RDSR does at issue (08 R204). -/
def rdsrBody (f : Fields) (x : Iss) (s : State) : State :=
  let n := f.b.toNat
  let uni := isUni f.d.toNat && f.d != 255
  perLane 34 f (fun w l =>
    .ofRegs (dstWords f.d.toNat (if n = 0x18 then 15 else 0)
      (specialReg x s w (if uni && decide (0x08 ≤ n) && decide (n ≤ 0x0A) then occupiedLane w else l) n))) x s

/-- RDSR (08 R204, 06 R146). -/
def execRdsr (f : Fields) (s : State) : Host.Outcome State Fault Refusal := issue 34 f (rdsrBody f) s

/-- P2V (08 R205). A p byte has no place in a uniform register: such operands are refused by the uniform rules (06 R140). -/
def p2vBody (f : Fields) (x : Iss) (s : State) : State :=
  perLane 35 f (fun w l => .ofRegs [(f.d.toNat, (if f.fn = 0 then pbyte w l else w.qb).toNat)]) x s

/-- P2V (08 R205). -/
def execP2v (f : Fields) (s : State) : Host.Outcome State Fault Refusal := issue 35 f (p2vBody f) s

/-- The predicates that V2P writes (08 R205). -/
def v2pLane (f : Fields) (w : Warp) (l : Nat) : LaneRes :=
  let a := opA w l f 0
  let m := opB w l f 0
  let base := if f.fn = 0 then 0 else 8
  ⟨[], ((upto 7).filter (fun k => nbit m k)).map (fun k => (base + k, nbit a k)), []⟩

/-- V2P (08 R205). -/
def execV2p (f : Fields) (s : State) : Host.Outcome State Fault Refusal := issue 36 f (perLane 36 f (v2pLane f)) s

/-- PLOP (08 R206). -/
def execPlop (f : Fields) (s : State) : Host.Outcome State Fault Refusal :=
  issue 37 f (perLane 37 f (fun w l =>
    let bit := fun (x : BitVec 8) => if predRead w l x.toNat then 1 else 0
    .ofPred f.d (nbit (lutOf f) (bit f.a + 2 * bit f.b + 4 * bit f.c)) [])) s

end Sys2Proof.Machine
end

