-- ==== Sys2Proof/Machine/Launch.lean ====
section
/-! DEFINITION. Machine/Launch.lean: the grid scheduler (16 R423 to R426, R441), placement (16 R427 to R430), retirement and
completion (16 R425, R431) and the warps formed from continuation records (16 R438 to R440). -/

namespace Sys2Proof.Machine

/-! ### Cores of a partition -/

/-- CORST of a core: its state and its partition (18 R470). -/
def coreState (s : State) (c : Nat) : Nat := fld (getD 0#32 s.root.corst c) 0 3
def corePart (s : State) (c : Nat) : Nat := fld (getD 0#32 s.root.corst c) 4 4
def coreOwned (s : State) (part c : Nat) : Bool := decide (c < 192) && coreState s c == 2 && corePart s c == part
def coreDraining (s : State) (part c : Nat) : Bool := decide (c < 192) && coreState s c == 3 && corePart s c == part

/-! ### Queues -/

/-- What a queue's head record is: nothing to dispatch now, a reason to park, or ready. -/
inductive HeadIs where
  | idle
  | parks (code : Nat)
  | ready (r : LaunchRec)
deriving DecidableEq, Repr

/-- The record at a queue's HEAD as one read at its home slice; an address of an unreachable node is out of range (16 R420,
R422). -/
def readRecord (s : State) (part pa : Nat) : Except AccErr (List Byte) × State :=
  if !isLocal s pa && !reachable s (nodeOf pa) then (.error (.fault .physRange), s) else readPA s part pa 128

def lqPri (p : Part) (q : Nat) : Nat := nbits (p.w32 (oLQCTL q)) 28 3
def lqAsid (p : Part) (q : Nat) : Nat := nbits (p.w32 (oLQCTL q)) 16 12

/-- A queue that may have a record to dispatch: enabled, not parked, HEAD short of TAIL, its ASID not held (16 R423,
17 R458). -/
def queueLive (p : Part) (q : Nat) : Bool :=
  nbit (p.w32 (oLQCTL q)) 31 && !nbit (p.w32 (oLQSTAT q)) 31 &&
  exceeds32 (p.w32 (oLQTAIL q)) (p.w32 (oLQHEAD q)) && !p.held.contains (lqAsid p q)

/-- Whether record `s` of a queue has completed. -/
def recordDone (p : Part) (q seq : Nat) : Bool :=
  exceeds32 (p.w32 (oLQCDONE q)) seq || (getD (false, false) p.marks (q * 2 ^ 32 + seq)).2

/-- A dependency is met (16 R423). -/
def depMet (p : Part) (es : Bool) (d : Option (Nat × Nat)) : Bool :=
  match d with
  | none => true
  | some (q, seq) => exceeds32 (p.w32 (oLQCDONE q)) seq || (es && exceeds32 (p.w32 (oLQPDONE q)) seq)

/-- What stands at the head of a queue (16 R420 to R423). -/
def headOfQueue (s : State) (part q : Nat) : HeadIs × State :=
  let p := partOf s part
  if !queueLive p q then (.idle, s)
  else
    let head := p.w32 (oLQHEAD q)
    let n := nbits (p.w32 (oLQCTL q)) 0 4
    match readRecord s part (nbits (p.w64 (oLQBASE q)) 7 45 * 128 + 128 * (head % 2 ^ n)) with
    | (.error .dataError, s) => (.parks 2, s)
    | (.error (.fault _), s) => (.parks 3, s)
    | (.ok bs, s) =>
      let r := parseRecord bs
      if !(recordOk bs false && countsOk r) then (.parks 1, s)
      else if (r.io && head != 0 && !recordDone p q (sub32 head 1)) || !depMet p r.es r.dep0 || !depMet p r.es r.dep1 then
        (.idle, s)
      else (.ready r, s)

/-- Queues of a priority in the order of their turns, after the one last served (16 R424). -/
def turnsAt (p : Part) (pri : Nat) : List Nat :=
  let first := match lookup p.lastq pri with | some q => q + 1 | none => 0
  ((upto 64).map (fun i => (first + i) % 64)).filter (fun q => lqPri p q == pri)

/-! ### Dispatch -/

/-- A grid put among the dispatched ones under the partition's next grid number; one of no groups completes at once
(16 R424, R441). -/
def startGrid (s : State) (part : Nat) (r : LaunchRec) (asid pri depth uid total : Nat) (src : Option (Nat × Nat))
    (parent : Option (Nat × Nat)) : State :=
  let num := (partOf s part).gridCtr
  let g : Grid :=
    { uid := uid, rec_ := r, asid := asid, pri := pri, depth := depth, src := src, parent := parent, total := total,
      next := 0, retired := 0, children := 0, aborted := false, haltPc := 0, spilled := [] }
  let s := modPart s part (fun p => { p with gridCtr := add32 num 1, grids := put p.grids num g })
  if total = 0 then finishGrid s part num g false else s

/-- A queue record dispatched: HEAD moves past it (16 R424). -/
def dispatchRecord (s : State) (part q : Nat) (r : LaunchRec) : State :=
  let p := partOf s part
  let head := p.w32 (oLQHEAD q)
  let s := modPart s part (fun p =>
    { (p.setW32 (oLQHEAD q) (add32 head 1)) with lastq := put p.lastq (lqPri p q) q })
  startGrid s part r (lqAsid p q) (lqPri p q) 0 0 (r.gx * r.gy * r.gz) (some (q, head)) none

/-- The counts of LAUNCHI read at dispatch, each word by itself; none where a read is refused (08 R218). -/
def readCounts (s : State) (ch : Child) (part : Nat) (va : VA) : Option (Nat × Nat × Nat) × State :=
  let who : Who := { part := part, asid := ch.asid, path := .L, ap := false }
  match readN s who va 4 with
  | (.error _, s) => (none, s)
  | (.ok x, s) =>
    match readN s who (va + 4#57) 4 with
    | (.error _, s) => (none, s)
    | (.ok y, s) =>
      match readN s who (va + 8#57) 4 with
      | (.error _, s) => (none, s)
      | (.ok z, s) => (some (ofBytes x, ofBytes y, ofBytes z), s)

/-- A child grid dispatched (16 R424, R441). -/
def dispatchChild (s : State) (part : Nat) (ch : Child) : State :=
  let s := modPart s part (fun p => { p with childq := p.childq.filter (fun c => c.uid != ch.uid) })
  let go := fun (r : LaunchRec) (total : Nat) (s : State) =>
    startGrid s part r ch.asid ch.pri ch.depth ch.uid total none (some (ch.parent, ch.group))
  match ch.counts with
  | none => go ch.rec_ (ch.rec_.gx * ch.rec_.gy * ch.rec_.gz) s
  | some va =>
    match readCounts s ch part va with
    | (none, s) => go ch.rec_ 0 s
    | (some (x, y, z), s) =>
      let r := { ch.rec_ with gx := x, gy := y, gz := z }
      go r (if countsOk r then x * y * z else 0) s

/-- The first of these queues whose head is ready is dispatched, and those met before it that must park are parked. -/
def serveQueues (part : Nat) : List Nat → State → Bool × State
  | [], s => (false, s)
  | q :: qs, s =>
    match headOfQueue s part q with
    | (.idle, s) => serveQueues part qs s
    | (.parks code, s) => serveQueues part qs (setWin32 s part (oLQSTAT q) (2 ^ 31 + code))
    | (.ready r, s) => (true, dispatchRecord s part q r)

/-- Priorities from the highest: children first, in the order of their launches, then the queues (16 R424). -/
def servePri (part : Nat) : Nat → State → State
  | 0, s => s
  | n + 1, s =>
    match (partOf s part).childq.find? (fun c => c.pri == n) with
    | some ch => dispatchChild s part ch
    | none =>
      match serveQueues part (turnsAt (partOf s part) n) s with
      | (true, s) => s
      | (false, s) => servePri part n s

/-- GRID_DISPATCH (16 R422 to R424, R441): one ready record or child grid. -/
def execGridDispatch (part : Nat) (s : State) : Host.Outcome State Fault Refusal :=
  .next (if part < 16 then servePri part 8 s else s)

/-! ### Room on a core -/

/-- Registers, tiles and slots that the warps of a quadrant leave free, in warps of a size (06 R139, R145). -/
def quadRoom (c : Core) (q regs acc : Nat) : Nat :=
  let ws := c.warps.filter (fun e => e.2.quadrant == q)
  let sum := fun (f : Warp → Nat) => ws.foldl (fun n e => n + f e.2) 0
  min (min (16 - ws.length) ((512 - sum (fun w => w.rec_.regs)) / max 1 regs))
    (if acc = 0 then 16 else (32 - sum (fun w => w.rec_.acc)) / acc)

/-- Free warp slots of a quadrant: 16 of the core's 64 (06 R139). -/
def quadSlots (c : Core) (q : Nat) : List Nat := ((upto 16).map (fun i => q * 16 + i)).filter (fun i => (lookup c.warps i).isNone)

/-- A member of a group's set has exited, or is gone (05 R110, 16 R431). -/
def memberEnded (s : State) (x : Group) (m : Nat × Nat) : Bool :=
  match groupAt s m.1 m.2 with
  | none => true
  | some y => !sameSet x y || threadsEnded s m.1 m.2 y

/-- A group's region and semaphores are released: it has exited, and so has every member of its set (16 R431). -/
def regionFree (s : State) (core g : Nat) (x : Group) : Bool := exited s core g x && x.members.all (memberEnded s x)

/-- Groups of a core that hold their region. -/
def regions (s : State) (core : Nat) : List (Nat × Nat × Nat) :=
  ((coreOf s core).groups.filter (fun e => !regionFree s core e.1 e.2)).map (fun e => (e.2.base, e.2.rec_.spad, e.2.rec_.sems))

/-- The lowest granule at which a region of a size is free (05 R105). -/
def freeBase (rs : List (Nat × Nat × Nat)) (spad : Nat) : Option Nat :=
  (0 :: rs.map (fun e => e.1 + e.2.1)).foldl (fun best b =>
    if b + spad ≤ 1536 && rs.all (fun e => decide (e.1 + e.2.1 ≤ b) || decide (b + spad ≤ e.1)) then
      (match best with | some a => some (min a b) | none => some b)
    else best) none

/-- Whether a group of a record and `extra` warps besides fit a core all at once (16 R427). -/
def coreFits (s : State) (part core : Nat) (r : LaunchRec) (warps : Nat) : Bool :=
  let c := coreOf s core
  let rs := regions s core
  coreOwned s part core && decide (c.groups.length < 32) && (freeBase rs r.spad).isSome &&
  decide (rs.foldl (fun n e => n + e.2.2) 0 + r.sems ≤ 256) &&
  decide (warps ≤ (upto 4).foldl (fun n q => n + quadRoom c q r.regs r.acc) 0)

/-- The cores on which the members of a set are placed, the first being `core`: distinct cores of one quad, which of the
others serve being open (16 R429). -/
def setCores (s : State) (core n : Nat) (fits : Nat → Bool) : Option (List Nat) :=
  if !fits core then none
  else if n = 1 then some [core]
  else
    let others := ((upto 4).map (fun i => quadOf core * 4 + i)).filter (fun c => c != core && fits c)
    if others.length + 1 < n then none
    else
      let k := Config.freeValue s.tick 0 % max 1 others.length
      some (core :: ((others.drop k ++ others.take k).take (n - 1)))

/-! ### Placement -/

/-- A grid with a group that waits for its first placement. -/
def gridWaits (p : Part) (g : Grid) : Bool := !g.aborted && decide (g.next < g.total) && !p.held.contains g.asid

/-- A grid started early on another one (16 R430, R433). -/
def earlyOn (d : Grid) (p : Grid) : Bool := d.rec_.es && p.src.isSome && (d.rec_.dep0 == p.src || d.rec_.dep1 == p.src)

/-- A slot whose unit may re-enter placement: every answer is there, those of the members of its set among them, and its ASID is
not held (17 R456, R458). -/
def mayReenter (p : Part) (sl : SaveSlot) : Bool :=
  !sl.fatal && sl.answered && (p.slots.filter (fun e => e.2.lead == sl.lead)).all (fun e => e.2.answered) &&
  !p.held.contains sl.asid && (setRecords p sl.lead).all (fun r => r.answer.isSome)

/-- Physical address of a slot (17 R463). -/
def slotPA (s : State) (part i : Nat) : Nat := nbits (win64 s part oSVBASE) 22 30 * 2 ^ 22 + i * 0x400000

/-- Bytes of a slot; zeros where they cannot be read (00 R3). -/
def slotRead (s : State) (part slot off n : Nat) : List Byte × State :=
  match readPA s part (slotPA s part slot + off) n with
  | (.ok bs, s) => (bs, s)
  | (.error _, s) => (List.replicate n 0#8, s)

/-- The header's counts: warp blocks and continuation records (17 R465). -/
def hdrNwarp (h : List Byte) : Nat := nbits (leAt h 8 8) 16 7
def hdrNcont (h : List Byte) : Nat := nbits (leAt h 24 8) 0 13

/-- Warps and records of a slot, as its header counts them. -/
def slotCounts (s : State) (part slot : Nat) : Nat × Nat :=
  let h := (slotRead s part slot 0 64).1
  (hdrNwarp h, hdrNcont h)

/-- The cores on which a saved set can stand again, the first being `core` (16 R429, 17 R467). -/
def againCores (s : State) (part : Nat) (gr : Grid) (lead core : Nat) : Option (List Nat) :=
  let slots := setSlots (partOf s part) lead
  let counts := slots.map (slotCounts s part)
  let warps := counts.foldl (fun m e => max m e.1) 0
  let conts := counts.foldl (fun m e => max m e.2) 0
  setCores s core slots.length (fun c => coreFits s part c gr.rec_ warps &&
    decide ((coreOf s c).contq.length + conts ≤ contQueueSize))

/-- First slots of the saved groups, sets and free continuation warps of a grid that may re-enter placement (16 R428, 18 R474). -/
def reenters (p : Part) (num : Nat) : List Nat :=
  (p.slots.filter (fun e => e.2.grid == num && e.1 == e.2.lead && mayReenter p e.2)).map (·.1)

/-- A core has room for a free continuation warp of a grid. -/
def freeFits (s : State) (part core : Nat) (gr : Grid) : Bool :=
  coreOwned s part core && decide (0 < (upto 4).foldl (fun n q => n + quadRoom (coreOf s core) q gr.rec_.regs gr.rec_.acc) 0)

/-- Whether what a slot holds, with its set, fits where this core comes first. -/
def againFits (s : State) (part core : Nat) (gr : Grid) (lead : Nat) : Bool :=
  if (lookup (partOf s part).slots lead).any (fun sl => sl.linear == 0xFFFFFFFF) then freeFits s part core gr
  else (againCores s part gr lead core).isSome

/-- Cores of a die, and of the quad of a core. -/
def coresOfDie (die : Nat) : List Nat := (upto 48).map (fun i => die * 48 + i)
def coresOfQuad (core : Nat) : List Nat := (upto 4).map (fun i => quadOf core * 4 + i)

/-- Whether the next thing of a grid to be placed fits where some of these cores comes first: a unit that re-enters, ahead of a
group not yet placed (16 R428). -/
def fitsOn (s : State) (part : Nat) (cores : List Nat) (num : Nat) (g : Grid) : Bool :=
  match reenters (partOf s part) num with
  | [] => gridWaits (partOf s part) g && cores.any (fun c =>
      (setCores s c g.rec_.setSize (fun c => coreFits s part c g.rec_ g.rec_.warps)).isSome)
  | leads => leads.any (fun lead => cores.any (fun c => againFits s part c g lead))

/-- Whether a grid has a group that waits to be placed, for the first time or again. -/
def waitsPlace (p : Part) (num : Nat) (g : Grid) : Bool := gridWaits p g || !(reenters p num).isEmpty

/-- The waiting grids by priority and then by dispatch order (16 R428). -/
def waitingGrids (p : Part) : List (Nat × Grid) :=
  [7, 6, 5, 4, 3, 2, 1, 0].flatMap (fun pri => p.grids.filter (fun e => waitsPlace p e.1 e.2 && e.2.pri == pri))

/-- What of a grid is placed next: the linear number of a group. -/
def nextLinear (p : Part) (num : Nat) (g : Grid) : Nat :=
  match reenters p num with
  | [] => g.next
  | lead :: _ => match lookup p.slots lead with | some sl => sl.linear | none => g.next

/-- The group that blocks other placements on a die (16 R428). -/
def blockerOf (p : Part) (die : Nat) : Option (Nat × Nat) :=
  match lookup p.blockedDies die with
  | some (num, lin) =>
    (match lookup p.grids num with
     | some g => if waitsPlace p num g ∧ nextLinear p num g = lin then some (num, lin) else none
     | none => none)
  | none => none

/-- A grid that this one was started early on has a group waiting that can be placed: it goes first (16 R430). -/
def yieldsTurn (s : State) (part die : Nat) (g : Grid) : Bool :=
  (partOf s part).grids.any (fun e => earlyOn g e.2 && fitsOn s part (coresOfDie die) e.1 e.2)

/-- The order of placement lets a grid go on a die: the first waiting grid, or another where what the first places next fits no
core of the die, each behind the grids it was started early on (16 R428, R430). -/
def inTurn (s : State) (part die num : Nat) (g : Grid) : Bool :=
  !yieldsTurn s part die g &&
  (match waitingGrids (partOf s part) with
   | [] => true
   | (n, f) :: _ => n == num || yieldsTurn s part die f || !fitsOn s part (coresOfDie die) n f)

/-- Whether a grid's next group may be placed on a die: in its turn, behind the grid's units that re-enter, and while no other group
blocks the die (16 R428). -/
def mayPlace (s : State) (part die num : Nat) (g : Grid) : Bool :=
  let p := partOf s part
  gridWaits p g && (reenters p num).isEmpty &&
  (match blockerOf p die with
   | some b => b == (num, g.next) && !yieldsTurn s part die g
   | none => inTurn s part die num g)

/-- The warps' quadrants and slots chosen one after another among those with room; which they are is open (16 R428). -/
def pickSlots (tick regs acc : Nat) : Nat → Core → List (Nat × Nat)
  | 0, _ => []
  | n + 1, c =>
    let qs := (upto 4).filter (fun q => 0 < quadRoom c q regs acc)
    let q := qs.getD (Config.freeValue tick (2 * n + 1) % max 1 qs.length) 0
    let free := quadSlots c q
    let ws := free.getD (Config.freeValue tick (2 * n + 2) % max 1 free.length) 0
    (q, ws) :: pickSlots tick regs acc n { c with warps := put c.warps ws { Warp.blank with
      quadrant := q, rec_ := { LaunchRec.zero with regs := regs, acc := acc } } }

/-- A group slot that is free, which one being open (16 R428). -/
def pickGroup (tick : Nat) (c : Core) : Nat :=
  let free := (upto 32).filter (fun i => (lookup c.groups i).isNone)
  free.getD (Config.freeValue tick 0 % max 1 free.length) 0

/-- Thread `t` of a group, in linear order, x fastest (16 R427). -/
def freshLane (r : LaunchRec) (linear warp t : Nat) : Lane :=
  { live := true, pc := r.kaddr, pb := 0x80#8, level := 0, waitc := 0, wait := .none, trp := false, l16 := false,
    tx := t % (r.bx + 1), ty := t / (r.bx + 1) % (r.byy + 1), tz := t / ((r.bx + 1) * (r.byy + 1)), group := linear,
    wix := warp, saw := [] }

/-- A warp as it starts: registers, tiles and projection blocks zero, the trap registers as the record has them (06 R144,
R149; 11 R301; 16 R427). -/
def freshWarp (num : Nat) (gr : Grid) (part cyc quadrant : Nat) : Warp :=
  { Warp.blank with
    part := part, asid := gr.asid, grid := num, sysDepth := gr.depth, pri := gr.pri, rec_ := gr.rec_, quadrant := quadrant,
    tba := gr.rec_.tba, tem := gr.rec_.tem, fplog := gr.rec_.fplog, placedAt := cyc, lastIssue := cyc }

/-- A group as it starts: region, semaphores and rings zero (05 R105, R111, R117). -/
def freshGroup (num : Nat) (gr : Grid) (part linear base : Nat) : Group :=
  { part := part, asid := gr.asid, grid := num, linear := linear, member := linear % gr.rec_.setSize, sysDepth := gr.depth,
    rec_ := gr.rec_, base := base, spad := [], sem := [], gbar := [], rings := [], children := [], members := [],
    saving := none, nfault := 0, haltPc := 0, spadErr := [], ended := false }

/-- A group placed on a core; the first instruction of a child group sees what its launch released (16 R427, 12 R322). -/
def placeGroup (s : State) (part num : Nat) (gr : Grid) (linear core : Nat) : Nat × State :=
  let r := gr.rec_
  let c := coreOf s core
  let g := pickGroup s.tick c
  let at_ := pickSlots s.tick r.regs r.acc r.warps c
  let ws := ((upto r.warps).zip at_).map (fun e =>
    (e.2.2, { freshWarp num gr part c.cyc e.2.1 with
      gslot := some g, windex := e.1,
      lanes := (upto (min 32 (r.threads - 32 * e.1))).map (fun l => (l, freshLane r linear e.1 (32 * e.1 + l))) }))
  let x := freshGroup num gr part linear ((freeBase (regions s core) r.spad).getD 0)
  let s := modCore s core (fun c =>
    { c with groups := put c.groups g x, warps := ws.foldl (fun m e => put m e.1 e.2) c.warps })
  (g, if gr.parent.isSome then invalidateL1 s core else s)

/-- The members of a set know where the others stand (05 R110). -/
def joinSet (s : State) (ms : List (Nat × Nat)) : State :=
  if ms.length = 1 then s else ms.foldl (fun s m => modGroup s m.1 m.2 (fun x => { x with members := ms })) s

/-- The groups of a set placed in one step (16 R429). -/
def placeSet (s : State) (part num : Nat) (gr : Grid) (first : Nat) (cores : List Nat) : State :=
  let (s, ms) := ((upto cores.length).zip cores).foldl (fun (a : State × List (Nat × Nat)) e =>
    let (g, s) := placeGroup a.1 part num gr (first + e.1) e.2
    (s, a.2 ++ [(e.2, g)])) (s, [])
  joinSet s ms

/-- Groups placed for the first time: the grid's next one moves on, and the last counts its record as placed (16 R419). -/
def notePlaced (s : State) (part num n : Nat) (gr : Grid) : State :=
  let s := modGrid s part num (fun g => { g with next := g.next + n })
  match gr.src with
  | some (q, seq) => if gr.next + n = gr.total then modPart s part (fun p => markRecord p q seq false) else s
  | none => s

/-- GROUP_PLACEMENT (16 R427 to R430): the next group of a grid, or set of groups, placed on a core, or on cores of its
quad. -/
def execGroupPlacement (part grid group core : Nat) (s : State) : Host.Outcome State Fault Refusal :=
  match lookup (partOf s part).grids grid with
  | none => .next s
  | some g =>
    if group ≠ g.next ∨ !mayPlace s part (dieOf core) grid g then .next s
    else match setCores s core g.rec_.setSize (fun c => coreFits s part c g.rec_ g.rec_.warps) with
      | none => .next s
      | some cores => .next (notePlaced (placeSet s part grid g group cores) part grid cores.length g)

/-- PLACEMENT_TIMEOUT (16 R428): the first waiting group has waited 65,536 core cycles, and a die places no other before
it. -/
def execPlacementTimeout (part die : Nat) (s : State) : Host.Outcome State Fault Refusal :=
  match waitingGrids (partOf s part) with
  | [] => .next s
  | (num, g) :: _ =>
    if (blockerOf (partOf s part) die).isSome ∨ 4 ≤ die then .next s
    else .next (modPart s part (fun p => { p with blockedDies := put p.blockedDies die (num, nextLinear p num g) }))

/-! ### Retirement and completion -/

/-- A group of a grid counted as retired (16 R425, R431). -/
def retireOne (s : State) (part num : Nat) : State := modGrid s part num (fun g => { g with retired := g.retired + 1 })

/-- GROUP_RETIRE (16 R431): a group whose resources are released retires, or moves to one of 64 retire records while child
grids of it run; from number 64 on, the retire record of that number, released with its last child grid. -/
def execGroupRetire (core gslot : Nat) (s : State) : Host.Outcome State Fault Refusal :=
  let c := coreOf s core
  if 64 ≤ gslot then
    match lookup c.retire (gslot - 64) with
    | none => .next s
    | some r =>
      if !r.children.isEmpty then .next s
      else .next (retireOne (modCore s core (fun c => { c with retire := remove c.retire (gslot - 64) })) r.part r.grid)
  else match lookup c.groups gslot with
    | none => .next s
    | some x =>
      if !regionFree s core gslot x then .next s
      else if x.children.isEmpty then .next (retireOne (dropGroup s core gslot) x.part x.grid)
      else match ((upto 64).find? (fun i => (lookup c.retire i).isNone)) with
        | none => .next s
        | some i =>
          let r : RetireRec := { part := x.part, grid := x.grid, linear := x.linear, children := x.children }
          .next (modCore (dropGroup s core gslot) core (fun c => { c with retire := put c.retire i r }))

/-- Work of a grid is left on a core: a unit, a free warp, a record, a retire record or work of an engine (16 R425). -/
def gridOn (part num : Nat) (c : Core) : Bool :=
  c.groups.any (fun e => e.2.part == part && e.2.grid == num) || c.warps.any (fun e => e.2.part == part && e.2.grid == num) ||
  c.contq.any (fun r => r.part == part && r.grid == num) || c.impq.any (fun r => r.part == part && r.grid == num) || c.retire.any (fun e => e.2.part == part && e.2.grid == num) ||
  c.units.any (fun e => e.2.part == part && e.2.grid == num)

/-- GRID_COMPLETION (16 R425): every group has retired, every record has been resumed and its threads have ended, every
descendant has completed, and every store of the grid is performed (08 R209, 12 R342). -/
def execGridCompletion (part grid : Nat) (s : State) : Host.Outcome State Fault Refusal :=
  let p := partOf s part
  match lookup p.grids grid with
  | none => .next s
  | some g =>
    if g.retired ≠ g.total ∨ g.children ≠ 0 ∨ !g.spilled.isEmpty ∨ p.slots.any (fun e => e.2.grid == grid) ∨
      s.cores.any (fun e => gridOn part grid e.2) ∨ s.reqs.any (fun e => e.2.part == part && e.2.grid == grid) then .next s
    else .next (finishGrid s part grid g false)

/-! ### Continuations -/

/-- Records of one key (16 R438); a bound one that a warp of no group left has a key of its own (log 30). -/
def sameKey (a b : ContRec) : Bool :=
  a.part == b.part && a.grid == b.grid && a.tpc == b.tpc && a.free == b.free &&
  (a.free || (a.apart == b.apart && a.group == b.group))

/-- A record put in the order of eligibility. -/
def insertRank (r : ContRec) : List ContRec → List ContRec
  | [] => [r]
  | x :: xs => if r.rank ≤ x.rank then r :: x :: xs else x :: insertRank r xs

/-- The eligible records of a key on a core, in the order in which they became eligible (16 R439). -/
def eligible (c : Core) (k : ContRec) : List ContRec :=
  (c.contq.filter (fun r => r.rdy && sameKey k r)).foldr insertRank []

/-- The first word of the instruction that stands at a PC, where it can be read. -/
def peekWord (s : State) (core : Nat) (w : Warp) (pc : VA) : Option Nat :=
  match (fetchC s core w.part w.asid .inst pc 8).1 with
  | .ok bs => some (ofBytes bs)
  | .error _ => none

/-- A lane stands at DEFER, TEX.C or TRACE (16 R440). -/
def atDeferral (s : State) (core : Nat) (w : Warp) (l : Lane) : Bool :=
  l.live && l.wait == .none &&
  (match peekWord s core w l.pc with
   | some v => v / 2 ^ 56 == 53 || v / 2 ^ 56 == 165 || (v / 2 ^ 56 == 164 && nbit v 10)
   | none => false)

/-- No record of a grid finds room: the core's queue is full, and so is the grid's spill area (16 R440). -/
def noRecordRoom (s : State) (core part grid : Nat) : Bool :=
  decide (contQueueSize ≤ (coreOf s core).contq.length) &&
  (match lookup (partOf s part).grids grid with
   | some g => decide (g.rec_.spilln ≤ g.spilled.length)
   | none => false)

/-- A lane of a core waits to defer: no record of its grid finds room (16 R440). -/
def deferralWaits (s : State) (core : Nat) : Bool :=
  (coreOf s core).warps.any (fun e =>
    noRecordRoom s core e.2.part e.2.grid && e.2.lanes.any (fun l => atDeferral s core e.2 l.2))

/-- Whether a continuation warp is formed of these records now (16 R439, R440). -/
def formsNow (s : State) (core : Nat) (rs : List ContRec) : Bool :=
  let last := rs.foldl (fun m r => max m r.since) 0
  decide (32 ≤ rs.length) ||
  (!rs.isEmpty && (decide (last + 512 ≤ cycOf s core) || deferralWaits s core))

/-- The thread that a record resumes (16 R439). -/
def contLane (r : ContRec) : Lane :=
  { live := true, pc := r.tpc, pb := 0x80#8, level := r.level, waitc := 0, wait := .none, trp := false, l16 := false,
    tx := r.tx, ty := r.ty, tz := r.tz, group := r.group, wix := r.windex, saw := r.saw }

/-- The warp that records form, in lanes 0 upward, their payload from v0 upward (06 R144, 16 R439). -/
def contWarp (gr : Grid) (cyc quadrant : Nat) (k : ContRec) (rs : List ContRec) : Warp :=
  let ls := (upto rs.length).zip rs
  { freshWarp k.grid gr k.part cyc quadrant with
    gslot := if k.loose then none else some k.gslot, isCont := true, windex := k.windex,
    lanes := ls.map (fun e => (e.1, contLane e.2)),
    vr := ls.flatMap (fun e => ((upto (e.2.npay + e.2.nres)).zip e.2.pay).filterMap (fun p =>
      if p.2 = 0#32 then none else some (e.1 * 256 + p.1, p.2))) }

/-- Whether the unit that a key belongs to is here and not to be saved. -/
def keyReady (s : State) (core : Nat) (k : ContRec) : Bool :=
  k.loose || (match groupAt s core k.gslot with | some x => x.saving.isNone | none => false)

/-- CONTINUATION_WARP_FORMATION (16 R439, R440): a warp of up to 32 eligible records of the key that a record has, in a
quadrant with room. -/
def execContinuationWarpFormation (core rec quadrant : Nat) (s : State) : Host.Outcome State Fault Refusal :=
  let c := coreOf s core
  match c.contq.find? (fun r => r.uid == rec) with
  | none => .next s
  | some k =>
    match lookup (partOf s k.part).grids k.grid with
    | none => .next s
    | some g =>
      let rs := (eligible c k).take 32
      match quadSlots c quadrant, rs with
      | ws :: _, first :: _ =>
        if 4 ≤ quadrant ∨ quadRoom c quadrant g.rec_.regs g.rec_.acc = 0 ∨ !formsNow s core (eligible c k) ∨
          (partOf s k.part).held.contains g.asid ∨ !coreOwned s k.part core ∨ !keyReady s core k then .next s
        else
          let s := modCore s core (fun c =>
            { c with contq := c.contq.filter (fun r => !rs.any (fun x => x.uid == r.uid)),
                     warps := put c.warps ws (contWarp g c.cyc quadrant first rs) })
          .next (if k.loose then s else modGroup s core k.gslot (fun x => { x with ended := false }))
      | _, _ => .next s

/-- The group of a grid, by its linear number, on a core. -/
def groupSlotOf (c : Core) (part num linear : Nat) : Option Nat :=
  (c.groups.find? (fun e => e.2.part == part && e.2.grid == num && e.2.linear == linear)).map (·.1)

/-- A spilled record that returns to this core: one of a group that stands here; a loose one, once what its grid's threads
stored on the core it comes from is performed (08 R213). -/
def returnsTo (s : State) (core : Nat) (r : ContRec) : Option ContRec :=
  if r.loose then
    (if r.core = core ∨ s.reqs.all (fun e => e.2.core != r.core || e.2.part != r.part || e.2.grid != r.grid) then some r else none)
  else (groupSlotOf (coreOf s core) r.part r.grid r.group).map (fun g => { r with gslot := g })

/-- The older of two records. -/
def olderRec (b : Option ContRec) (r : ContRec) : Option ContRec :=
  match b with
  | some q => if q.uid < r.uid then some q else some r
  | none => some r

/-- SPILL_RETURN (16 R440): the oldest spilled record that belongs to the core returns to its queue, where its key gains it now if its
results are there (16 R439); on another core than the one it comes from, what its thread stored is seen from then on (08 R213). -/
def execSpillReturn (core : Nat) (s : State) : Host.Outcome State Fault Refusal :=
  let c := coreOf s core
  let part := corePart s core
  if contQueueSize ≤ c.contq.length ∨ !coreOwned s part core then .next s
  else
    match ((partOf s part).grids.flatMap (fun e => e.2.spilled.filterMap (returnsTo s core))).foldl olderRec none with
    | none => .next s
    | some r =>
      let s := modGrid s part r.grid (fun g => { g with spilled := g.spilled.filter (fun x => x.uid != r.uid) })
      let s := modCore s core (fun c => { c with contq := c.contq ++ [{ r with core := core, since := c.cyc }] })
      .next (if r.core = core then s else invalidateL1 s core)

end Sys2Proof.Machine
end

