-- ==== Sys2Proof/Machine/WindowRegs.lean ====
section
/-! DEFINITION. Machine/WindowRegs.lean: reads and writes of the registers of a control window (22 R507 to R509, R512; their
fields in 04 R96, R101; 14 R368; 16 R419; 17 R455, R458, R463; 18 R490) and of the secure controller (02 R47, 03 R59, 04 R90,
13 R364, 18 R477, R488, 22 R513, R515). -/

namespace Sys2Proof.Machine

/-- Bytes of the register that begins at an offset of a control window; 0 where none does (22 R508). -/
def regBytes (off : Nat) : Nat :=
  if off < 0x200 then
    (if [0x00, 0x40, 0x80, 0x88, 0x90, 0xC0, 0x100, 0x108].contains off then 8
     else if [0x08, 0x0C, 0x10, 0x48, 0x4C, 0x50, 0xC8, 0x110, 0x114, 0x118, 0x11C].contains off then 4 else 0)
  else if off < 0x1200 then
    (if off % 64 = 0 then 8 else if [8, 12, 16, 20, 24, 28].contains (off % 64) then 4 else 0)
  else if 0x2000 ≤ off ∧ off < 0x2300 then (if off % 8 = 0 then 8 else 0)
  else if 0x2400 ≤ off ∧ off < 0x2500 then (if off % 8 = 0 then 8 else 0)
  else if [0x3000, 0x3010, 0x3040, 0x3048, 0x3050, 0x3058, 0x3060].contains off then 8
  else if off = 0x3008 then 4
  else 0

/-- Whether the HDCFG block of a head is present in a partition's window (22 R508, 14 R368). -/
def hdcfgHere (s : State) (part h : Nat) : Bool := headOn s h && headPart s h == part

/-- EPINFO (22 R509). -/
def epinfo (s : State) (part : Nat) : Nat := fgpGid s part * 2 ^ 48 + s.root.node % 2 ^ 11 * 2 ^ 37 + part % 16 * 2 ^ 28

/-- The value a register reads (22 R508). -/
def regValue (s : State) (part off : Nat) : Nat :=
  if off = oRESUME ∨ off = oPRECTL then 0
  else if off = oEPINFO then epinfo s part
  else if 0x2000 ≤ off ∧ off < 0x2300 then
    let h := (off - 0x2000) / 64
    if !hdcfgHere s part h then 0
    else if off % 64 = 56 then (headOf s h).miss % 2 ^ 32 * 2 ^ 32 + (headOf s h).prescnt % 2 ^ 32
    else win64 s part off
  else if regBytes off = 8 then win64 s part off
  else win32 s part off

/-- A read of a window: whole registers, naturally aligned; any other reads zero (22 R507). -/
def winRead (s : State) (part off n : Nat) : Nat := if n ≠ 0 ∧ n = regBytes off then regValue s part off else 0

/-- A word with the bits of a mask taken from `v`. -/
def masked (m v : Nat) : Nat := v &&& m

/-- The bits [hi - 1 : lo] of a word. -/
def keepBits (lo len v : Nat) : Nat := nbits v lo len * 2 ^ lo

/-- LOG2N kept where a value outside 6 to 16 is written (04 R101, 18 R490). -/
def log2nOr (old v : Nat) : Nat := if 6 ≤ nbits v 0 5 ∧ nbits v 0 5 ≤ 16 then nbits v 0 5 else nbits old 0 5

/-- MQCTL written: LOG2N above 12 is 12, and kept while EN = 1 (04 R96, R100). -/
def mqctlWrite (p : Part) (v : Nat) : Part :=
  let old := p.w32 oMQCTL
  let n := if nbit old 31 then nbits old 0 4 else min 12 (nbits v 0 4)
  p.setW32 oMQCTL (keepBits 31 1 v + n)

/-- A write of LQSTAT: PARK := 0 on a parked queue skips the parked record, counted as completed and placed (16 R419, R422). -/
def lqstatWrite (p : Part) (q v : Nat) : Part :=
  let stat := p.w32 (oLQSTAT q)
  if nbit stat 31 && !nbit v 31 then
    let seq := p.w32 (oLQHEAD q)
    markRecord ((p.setW32 (oLQHEAD q) (add32 seq 1)).setW32 (oLQSTAT q) (stat % 2 ^ 31)) q seq true
  else p

/-- A write of a 32-bit register of a partition under its field rules. -/
def writeReg4 (p : Part) (off v : Nat) : Part :=
  let v := v % 2 ^ 32
  if off = oMQCTL then mqctlWrite p v
  else if off = oMQTAIL ∨ off = oFBHEAD ∨ off = oNQHEAD then p.setW32 off v
  else if off = oFBCTL then p.setW32 off (keepBits 31 1 v + log2nOr (p.w32 off) v)
  else if off = oSVCTL then p.setW32 off (keepBits 31 1 v + nbits v 0 16)
  else if off = oNQCOAL then p.setW32 off (max 1 (nbits v 16 16) * 65536 + nbits v 0 16)
  else if off = oQPCTL then p.setW32 off (nbits v 0 12)
  else if 0x200 ≤ off ∧ off < 0x1200 then
    (if off % 64 = 8 then p.setW32 off (keepBits 16 16 v + min 12 (nbits v 0 4))
     else if off % 64 = 12 then p.setW32 off v
     else if off % 64 = 28 then lqstatWrite p ((off - 0x200) / 64) v
     else p)
  else p

/-- The bits of an HDCFG register that software writes, by its number in the block (14 R368). -/
def hdcfgMask (k : Nat) : Nat :=
  match k with
  | 0 => 0x0003FFFFFFFFFF00
  | 1 => 0xFFFFFFFF00000FFF
  | 6 => 1
  | 7 => 0
  | _ => 0x01FFFFFFFFFFFFFF

/-- The bits of an NHDEST register that software writes (22 R512). -/
def nhdMask (k : Nat) : Nat :=
  match k with
  | 0 | 1 => 0xFFFFFFFFFFFFFFFF
  | 2 => 0xFFFFFFFFFC7FFFFF
  | _ => 0

/-- A write of a 64-bit register of a window under its field rules. -/
def writeReg8 (s : State) (part off v : Nat) : State :=
  let v := v % 2 ^ 64
  if off = oRESUME then resumeWrite s part v
  else if off = oPRECTL then prectlWrite s part v
  else if off = oMQBASE then (if nbit (win32 s part oMQCTL) 31 then s else setWin64 s part off (keepBits 12 40 v))
  else if off = oFBBASE ∨ off = oQPBASE then setWin64 s part off (keepBits 12 40 v)
  else if off = oSVBASE then setWin64 s part off (keepBits 22 30 v)
  else if off = oNQADDR then setWin64 s part off v
  else if off = oNQCTL then setWin64 s part off (keepBits 31 33 v + log2nOr (win32 s part oNQCTL) v)
  else if 0x200 ≤ off ∧ off < 0x1200 then setWin64 s part off (keepBits 7 45 v)
  else if 0x2000 ≤ off ∧ off < 0x2300 then
    (if hdcfgHere s part ((off - 0x2000) / 64) then setWin64 s part off (masked (hdcfgMask (off % 64 / 8)) v) else s)
  else if 0x2400 ≤ off ∧ off < 0x2500 then setWin64 s part off (masked (nhdMask (off % 32 / 8)) v)
  else if oATTNONCE ≤ off ∧ off < 0x3060 then setWin64 s part off v
  else if off = oATTREQ then modPart (setWin64 s part off (keepBits 8 44 v)) part (fun p => { p with att := some (keepBits 8 44 v) })
  else s

/-- A write of a window: whole registers, naturally aligned; any other is ignored (22 R507). -/
def winWrite (s : State) (part off n v : Nat) : State :=
  if n = 0 ∨ n ≠ regBytes off then s
  else if n = 4 then modPart s part (fun p => writeReg4 p off v)
  else writeReg8 s part off v

/-- An aligned 8-byte read over path H: a 64-bit register, or the two 32-bit ones that its bytes hold (22 R507). -/
def winRead8 (s : State) (part off : Nat) : Nat :=
  if regBytes off = 8 then winRead s part off 8 else winRead s part off 4 + 2 ^ 32 * winRead s part (off + 4) 4

/-- An aligned 8-byte write over path H (22 R507). -/
def winWrite8 (s : State) (part off v : Nat) : State :=
  if regBytes off = 8 then winWrite s part off 8 v
  else winWrite (winWrite s part off 4 v) part (off + 4) 4 (v / 2 ^ 32)

/-! ### Writes that the opcode table names -/

/-- MQTAIL_WRITE (04 R96, R100): the record at HEAD may start, or the ring stalls while TAIL is out of its bound. -/
def execMqtailWrite (part v : Nat) (s : State) : Host.Outcome State Fault Refusal := .next (winWrite s part oMQTAIL 4 v)

/-- MQCTL_WRITE (04 R96, R100). -/
def execMqctlWrite (part v : Nat) (s : State) : Host.Outcome State Fault Refusal := .next (winWrite s part oMQCTL 4 v)

/-- LQTAIL_WRITE (16 R419, R420). -/
def execLqtailWrite (part q v : Nat) (s : State) : Host.Outcome State Fault Refusal :=
  .next (if q < 64 then winWrite s part (oLQTAIL q) 4 v else s)

/-- LQSTAT_WRITE (16 R419, R422). -/
def execLqstatWrite (part q v : Nat) (s : State) : Host.Outcome State Fault Refusal :=
  .next (if q < 64 then winWrite s part (oLQSTAT q) 4 v else s)

/-! ### Registers of the secure controller -/

/-- Some valid channel-map entry names a channel (02 R34, R46, 03 R59). -/
def chanMapped (s : State) (chan : Nat) : Bool :=
  s.root.chmap.any (fun e => chValid e.2 && chLsz e.2 != 7 && chChan e.2 == chan)

/-- A write by root firmware of a register that has no behaviour of its own, by its kind and number (log 42): 0 PKCTL, 1 DSHARE,
2 CXTB, 3 FSWBASE, 4 FSWCTL, 5 PWGT, 6 FGP, 7 the local node number, 8 a route-table entry, 9 a list entry of the bank not in
use, 10 NSLNEW of SLCTL, 11 DUMPBASE. -/
def rootWrite (s : State) (n kind v : Nat) : State :=
  let r := s.root
  let w32 := BitVec.ofNat 32 v
  let w64 := BitVec.ofNat 64 v
  let set := fun (r : Root) => { s with root := r }
  match kind with
  | 0 => if n < 64 && !chanMapped s n then set { r with pkctl := setD 0#32 r.pkctl n (w32 &&& 0x80000000#32) } else s
  | 1 => if nbits v 0 4 ≤ 13 then set { r with dshare := BitVec.ofNat 32 (nbits v 0 4) } else s
  | 2 => if n < 16 then set { r with cxtb := setD 0#64 r.cxtb n (w64 &&& 0x800FFFFFFFFF8000#64) } else s
  | 3 => if n < 16 then set { r with fswbase := setD 0#64 r.fswbase n (w64 &&& 0x000FFFFFFFE00000#64) } else s
  | 4 =>
    if n < 16 then
      let old := getD 0#32 r.fswctl n
      let fw := if nbits v 0 4 ≤ 8 then w32 &&& 0xF#32 else old &&& 0xF#32
      set { r with fswctl := setD 0#32 r.fswctl n ((w32 &&& 0x800FFFF0#32) ||| fw) }
    else s
  | 5 => if n < 16 then set { r with pwgt := setD 0#32 r.pwgt n (w32 &&& 0x00FFFFFF#32) } else s
  | 6 => if n < 16 then set { r with fgp := setD 0#32 r.fgp n (w32 &&& 0x8000FFFF#32) } else s
  | 7 => set { r with node := v % 2 ^ 11 }
  | 8 => if n < 2048 then set { r with route := setD 0#144 r.route n (BitVec.ofNat 144 v) } else s
  | 9 => if n < 4096 ∧ n / 128 % 2 ≠ slBank s (n / 256) then set { r with slist := setD 0#8 r.slist n (BitVec.ofNat 8 v) } else s
  | 10 =>
    if n < 16 then
      set { r with slctl := setD 0#32 r.slctl n ((slctl s n &&& 0xFFFF00FF#32) ||| BitVec.ofNat 32 (nbits v 0 8 * 256)) }
    else s
  | 11 => set { r with dumpbase := w64 }
  | 15 => if n < 16 then set { r with epaddr := put r.epaddr n (v % 2 ^ 128) } else s
  | _ => s

end Sys2Proof.Machine
end

