-- ==== Sys2Proof/Machine/MemEvents.lean ====
section
/-! DEFINITION. Machine/MemEvents.lean: what becomes of the requests of warps between their issue and their answers: the home
slice (04 R80 to R86, 10 R257 to R261, R271 to R278), the walk (04 R91), memory (02 R36, R44), the fill (04 R82), other nodes
(22 R507, R513, R514), and the return to the core (04 R76, R77, 10 R258, R272). -/

namespace Sys2Proof.Machine

/-- The access type that a fault of a request reports (04 R102, 22 R507). -/
def MemOp.acc : MemOp → Nat
  | .load | .ldr | .pref => 0
  | .store _ => 1
  | .atomic _ _ _ | .stc _ _ => 2

/-- What a request needs of the block tag (04 R85). -/
def MemOp.need : MemOp → Need
  | .load | .pref => .rd
  | .store _ => .wr
  | .ldr | .atomic _ _ _ | .stc _ _ => .rw

def MemOp.isStore : MemOp → Bool
  | .store _ => true
  | _ => false

/-- Who makes a request. -/
def Req.who (r : Req) : Who := { part := r.part, asid := r.asid, path := .L, ap := false }

/-- The window register or hole that an aperture address names for path L: none outside the window range, else the offset in
the requester's own window or a fault (22 R507). -/
def windowOf (r : Req) : Option (Option Nat) :=
  if regionOf r.va = .aperture ∧ nbits r.va.toNat 41 14 = 0 ∧ inWinRange (nbits r.va.toNat 0 41) then
    let o := nbits r.va.toNat 0 40 - winBase
    some (if o / 65536 = r.part ∧ o < 0x100000 then some (o % 65536) else none)
  else none

/-- Whether an earlier access of a core comes before a later one: they overlap, or the later one reads a line that the earlier
one writes (12 R319), or both are of control windows, which keep their order of arrival (22 R507). Others are unordered (10 R257). -/
def Req.before (e r : Req) : Bool :=
  let sameBlock := e.part == r.part && e.atag == r.atag && e.vb == r.vb
  let overlap := decide (e.va.toNat < r.va.toNat + r.size) && decide (r.va.toNat < e.va.toNat + e.size)
  let line := e.writes && !r.op.isStore && e.va.toNat / 64 == r.va.toNat / 64
  !e.op.isPref && ((sameBlock && (overlap || line)) || ((windowOf e).isSome && (windowOf r).isSome))

/-- An earlier request of the same core that comes before this one is not performed yet. -/
def behind (s : State) (rid : Nat) (r : Req) : Bool :=
  s.reqs.any (fun e => decide (e.1 < rid) && e.2.core == r.core && e.2.before r &&
    (match e.2.stage with | .replied _ | .refused _ | .merged => false | _ => true))

/-- A store still in the outgoing queue behind an earlier one of the same core for the same home slice (12 R319). -/
def queuedBehind (s : State) (rid : Nat) (r : Req) : Bool :=
  !r.sent && r.op.isStore && s.reqs.any (fun e => decide (e.1 < rid) && e.2.core == r.core && e.2.op.isStore && !e.2.sent &&
    homeSlice s e.2.part e.2.vb e.2.atag == homeSlice s r.part r.vb r.atag)

/-- What a request carries to its home slice. -/
def MemOp.carries : MemOp → Load
  | .store bs => .bytes bs
  | .atomic _ t ops => .bytes (ops.flatMap (fun o => toBytes (atomBytes t) o.2.1 ++ toBytes (atomBytes t) o.2.2))
  | .stc t ops => .bytes (ops.flatMap (fun o => toBytes (atomBytes t) o.2))
  | _ => .none

/-- A request leaves its core over the link to its home slice's die (01 R13). -/
def leaveCore (s : State) (rid : Nat) (r : Req) : State :=
  if r.sent then s
  else
    let s := modReq s rid (fun q => { q with sent := true })
    match homeSlice s r.part r.vb r.atag with
    | some h => cross s (dieOfCore r.core) (dieOfSlice h) (headAt r.va.toNat) r.op.carries
    | none => s

/-- What its home slice answers crosses back to the core (01 R13). -/
def comeBack (s : State) (r : Req) (l : Load) : State :=
  match homeSlice s r.part r.vb r.atag with
  | some h => cross s (dieOfSlice h) (dieOfCore r.core) (headAt r.va.toNat) l
  | none => s

/-- One answer to the instruction of a request. -/
def tellInfl (s : State) (rid : Nat) (r : Req) (e : Option AccErr) : State :=
  answerInfl s r.core r.wslot r.iid rid r.lanes r.va r.op.acc e

/-- The other half of a 16-byte access that its home slice has not answered yet: the halves are accepted or refused together, so
that a refused lane performs nothing (10 R257, R258, 17 R446). -/
def twinOf (s : State) (rid : Nat) (r : Req) : Option (Nat × Req) :=
  if r.op.isPref || r.size != 8 then none
  else s.reqs.find? (fun e => e.1 != rid && e.2.core == r.core && e.2.wslot == r.wslot && e.2.iid == r.iid && e.2.lanes == r.lanes &&
    e.2.size == 8 && e.2.va.toNat / 16 == r.va.toNat / 16 &&
    (match e.2.stage with | .toHome | .needWalk | .needMem | .fetched _ => true | _ => false))

/-- An answer given to a request and to its other half. -/
def bothHalves (s : State) (rid : Nat) (r : Req) (f : State → Nat → Req → State) : State :=
  let twin := twinOf s rid r
  let s := f s rid r
  match twin with
  | some (q, t) => f s q t
  | none => s

/-- A request is refused: a store learns of it by STORE_ACCEPTANCE; a prefetch does nothing (10 R257, R265). -/
def refuseReq (s : State) (rid : Nat) (r : Req) (e : AccErr) : State :=
  bothHalves s rid r (fun s rid r =>
    if r.op.isPref then dropReq s rid
    else if r.op.isStore then setStage s rid (.refused e)
    else tellInfl (comeBack (dropReq s rid) r .none) rid r (some e))

/-- A request is accepted: a load or an atomic lets its lanes go on unless it acquires (10 R257, R260, log 9). -/
def acceptReq (s : State) (rid : Nat) (r : Req) (snap : List Byte) (fill : Option (Bool × Bool)) : State :=
  bothHalves s rid r (fun s rid r =>
    if r.op.isStore then setStage s rid .checked
    else
      let s := modReq s rid (fun q => { q with stage := .accepted, snap := snap, fill := fill })
      if r.acquire then s else tellInfl s rid r none)

/-! ### The L1 -/

/-- The line of a block's bytes put into a core's L1 (04 R76). -/
def l1Fill (s : State) (r : Req) (rd wr : Bool) (blk : List Byte) : State :=
  let line := r.va.toNat / 64
  let l : CLine := { pid := r.part, atag := r.atag, line := line, sv := 3, rd := rd, wr := wr, ex := false,
                     bytes := sliceBytes blk (line % 2 * 64) 64 }
  modCore s r.core (fun c => { c with l1 := lineAdd c.l1 8 l })

/-! ### The home slice -/

/-- The leaf that translates a request, where its unit holds it. -/
def leafFor (s : State) (r : Req) : Option Leaf :=
  if regionOf r.va = .aperture then some (apertureLeaf s r.va)
  else match homeSlice s r.part r.vb r.atag with
    | some h => tlbFind s (xlatUnit h) r.part r.atag r.va.toNat
    | none => none

/-- The physical address that a forwarded request carries. -/
def Req.farPA (r : Req) : Nat := ofBytes r.snap

/-- A request that names another node (04 R84, 22 R513): checked against its leaf and forwarded, both halves together. -/
def forwardReq (s : State) (rid : Nat) (r : Req) (lf : Leaf) (pa : Nat) : State :=
  let die := ((homeSlice s r.part r.vb r.atag).map dieOfSlice).getD dieFD
  if r.op.isPref then dropReq s rid
  else if !permits lf.rd lf.wr lf.ex r.op.need then refuseReq s rid r (.fault .permission)
  else if !fabricRoom s (nodeOf pa) r.vb (2 * (1 + r.op.carries.flits)) then s
  else bothHalves s rid r (fun s rid q =>
    let pa := pa / 16 * 16 + q.va.toNat % 16
    modReq (sendFabric s die q.part (nodeOf pa) q.vb (headAt pa) q.op.carries) rid
      (fun q => { q with stage := .remote, snap := toBytes 8 pa }))

/-- A request that misses its home slice: a translation, and where the bytes then lie (04 R82, R89, 02 R36). -/
def missReq (s : State) (rid : Nat) (r : Req) : State :=
  if (homeSlice s r.part r.vb r.atag).isNone then refuseReq s rid r (.fault .physRange)
  else match leafFor s r with
    | none => setStage s rid .needWalk
    | some lf =>
      if regionOf r.va = .aperture then setStage s rid .needMem
      else
        let pa := leafPA lf r.va.toNat
        if !isLocal s pa then forwardReq s rid r lf pa
        else if inWinRange (nbits pa 0 41) then refuseReq s rid r (.fault .physRange)
        else setStage s rid .needMem

/-- A request found in its home slice: the permission check, the decode, acceptance (04 R85, 10 R257); a prefetch fills the L1
there (10 R265). -/
def hitReq (s : State) (rid : Nat) (r : Req) (h : Nat) (b : L2Block) : State :=
  if !permits b.rd b.wr b.ex r.op.need then refuseReq s rid r (.fault .permission)
  else match blockBytes b with
    | .error e => refuseReq s rid r e
    | .ok bs =>
      let s := touch s h b
      if r.op.isPref then
        let s := if b.pol = 0 ∧ !r.noL1 ∧ !r.noFill then l1Fill s r b.rd b.wr bs else s
        dropReq s rid
      else acceptReq s rid r bs (if b.pol = 0 then some (b.rd, b.wr) else none)

/-- A request reaches its home slice. -/
def arriveReq (s : State) (rid : Nat) (r : Req) : State :=
  if regionOf r.va = .aperture ∧ r.asid ≠ 0 then refuseReq s rid r (.fault .permission)
  else if regionOf r.va = .aperture ∧ nbits r.va.toNat 41 14 ≠ 0 then refuseReq s rid r (.fault .physRange)
  else match windowOf r with
    | some none => refuseReq s rid r (.fault .physRange)
    | some (some _) =>
      if r.op.isPref then dropReq s rid
      else match r.op with
        | .load | .store _ => acceptReq s rid r [] none
        | _ => refuseReq s rid r (.fault .permission)
    | none =>
      match homeHit s r.part r.atag r.vb with
      | (some (h, b), s) => hitReq s rid r h b
      | (none, s) => missReq s rid r

/-! ### The access performed -/

/-- A write that was accepted finds its block lost: fatal to its partition (18 R482). No block leaves its slice before the writes
accepted there are performed, so no run comes here (log 9). -/
def lostBlock (s : State) (r : Req) : State :=
  modPart s r.part (fun p => { p with fatal := p.fatal ++ [((homeSlice s r.part r.vb r.atag).getD 0, r.vb)] })

/-- A request performed on the block that its home slice holds. -/
def performAt (s : State) (rid : Nat) (r : Req) (h : Nat) (b : L2Block) : State :=
  let (t, c) := performOn s rid r b
  if c = b then touch t h b else l2Install t h c (c.pol == 2)

/-- A request whose block can't be had any more: a load keeps the value of its check, a write is lost (18 R482, log 9). -/
def performLost (s : State) (rid : Nat) (r : Req) : State :=
  let old := leAt r.snap (r.va.toNat % 128) r.size
  match r.op with
  | .store _ => dropReq (lostBlock s r) rid
  | .atomic _ _ ops => setStage (lostBlock s r) rid (.replied (ops.map (fun _ => old) ++ [old]))
  | .stc _ _ => setStage s rid (.replied [1])
  | _ => setStage s rid (.replied [old])

/-- An accepted request performed at its home slice (03 R70, R71), which fetches its block again where it does not hold it; or on
the register of the window it names (22 R507). -/
def performReq (s : State) (rid : Nat) (r : Req) : State :=
  match windowOf r with
  | some (some off) =>
    (match r.op with
     | .store bs => dropReq (if r.ext = 6 then s else winWrite s r.part off bs.length (ofBytes bs)) rid
     | _ => setStage s rid (.replied [if r.ext = 6 then 0 else winRead s r.part off r.size]))
  | _ =>
    match homeHit s r.part r.atag r.vb with
    | (some (h, b), s) => performAt s rid r h b
    | (none, s) =>
      match homeTarget s r.who r.va with
      | (.ok (.block h b), s) => performAt s rid r h b
      | (_, s) => performLost s rid r

/-- HOME_SLICE_ACCESS (04 R81, R85, 10 R257, R259): a request that arrives is checked; an accepted one is performed. -/
def execHomeSliceAccess (rid : Nat) (s : State) : Host.Outcome State Fault Refusal :=
  match lookup s.reqs rid with
  | none => .next s
  | some r =>
    .next (match r.stage with
      | .toHome =>
        if behind s rid r || queuedBehind s rid r then s else arriveReq (bothHalves s rid r leaveCore) rid r
      | .accepted => if behind s rid r then s else performReq s rid r
      | _ => s)

/-! ### Walk, memory and fill -/

/-- PAGE_WALK (04 R90 to R95): the missing translation enters the TLB of its unit, or the access is refused. -/
def execPageWalk (rid : Nat) (s : State) : Host.Outcome State Fault Refusal :=
  match lookup s.reqs rid with
  | some r =>
    if r.stage != .needWalk then .next s
    else match homeSlice s r.part r.vb r.atag with
      | none => .next (refuseReq s rid r (.fault .physRange))
      | some h =>
        let u := xlatUnit h
        match tlbFind s u r.part r.atag r.va.toNat with
        | some _ => .next (setStage s rid .toHome)
        | none =>
          match walk s u r.part r.atag r.va.toNat with
          | (.ok lf, s) => .next (setStage (tlbAdd s u r.part r.atag lf) rid .toHome)
          | (.error e, s) => .next (refuseReq s rid r e)
  | none => .next s

/-- The physical address of a request's block. -/
def Req.blockPA (r : Req) (s : State) (lf : Leaf) : Nat :=
  if regionOf r.va = .aperture then s.root.node * 2 ^ 41 + nbits r.va.toNat 0 41 / 128 * 128
  else leafPA lf r.va.toNat / 128 * 128

/-- Another request of the block has its data on the way. -/
def fetching (s : State) (r : Req) : Bool :=
  s.reqs.any (fun e => e.2.part == r.part && e.2.atag == r.atag && e.2.vb == r.vb &&
    (match e.2.stage with | .fetched _ => true | _ => false))

/-- MEMORY_ACCESS (02 R29, R31, R36, R37, R44, R46): the block read at its bank, or the access refused. -/
def execMemoryAccess (rid : Nat) (s : State) : Host.Outcome State Fault Refusal :=
  match lookup s.reqs rid with
  | some r =>
    if r.stage != .needMem || fetching s r then .next s
    else match leafFor s r with
      | none => .next (setStage s rid .toHome)
      | some lf =>
        match locate s r.part (nbits (r.blockPA s lf) 0 41), homeSlice s r.part r.vb r.atag with
        | some l, some h =>
          match fetchBlock s h l (r.blockPA s lf) with
          | (.error e, s) => .next (refuseReq s rid r e)
          | (.ok b, s) => .next (setStage s rid (.fetched (some b)))
        | _, _ => .next (refuseReq s rid r (.fault .physRange))
  | none => .next s

/-- L2_FILL (04 R82, R84): the block that memory answered is installed in its home slice, and its request looks again; one that
its set can't hold serves the request alone (13 R364). -/
def execL2Fill (rid : Nat) (s : State) : Host.Outcome State Fault Refusal :=
  match lookup s.reqs rid with
  | some r =>
    (match r.stage with
     | .fetched (some b) =>
       let s := setStage s rid .toHome
       match homeHit s r.part r.atag r.vb with
       | (some _, s) => .next s
       | (none, s) =>
         match homeSlice s r.part r.vb r.atag, leafFor s r with
         | some h, some lf =>
           let (c, s) := installBlock s h r.part r.atag r.vb (r.blockPA s lf) lf b r.stream
           .next (if tooBig s c then retireBlock (hitReq s rid r h c) h c else s)
         | _, _ => .next s
     | _ => .next s)
  | none => .next s

/-! ### Answers that reach the core -/

/-- How another node answers a request: both halves of an access alike (22 R513, R515, log 13). -/
def Req.verdict (r : Req) : Option AccErr := peerVerdict r.iid (r.farPA / 16)

/-- What another node answers comes in on the port of its request and goes on to the core (01 R13). -/
def comeFar (s : State) (r : Req) (l : Load) : State :=
  match portFor s (nodeOf r.farPA) r.vb, homeSlice s r.part r.vb r.atag with
  | some i, some h => comeBack (cross s (dieOfPort i) (dieOfSlice h) (headAt r.farPA) l) r l
  | _, _ => s

/-- What an answer does to the L1 (04 R76, 12 R319): its line is filled, and no other data on its way may fill it; where the
answer may not fill it a line that is held goes. DESIGN CHOICE: bytes of another node's memory fill no L1 (log 13). -/
def answerL1 (s : State) (r : Req) (fill : Option (Bool × Bool)) : State :=
  let line := r.va.toNat / 64
  match fill with
  | some (rd, wr) =>
    if r.noFill || r.noL1 || r.wide then l1Forget s r.core r.part r.atag line
    else l1Fill (markNoFill s r.core r.part r.atag line) r rd wr r.snap
  | none => l1Forget s r.core r.part r.atag line

/-- The acquire of an access that acquires, now that it is performed (10 R260). -/
def acquired (s : State) (r : Req) : State :=
  if !r.acquire then s
  else if r.wslot = noWarp then (if r.wide then invalidateL1 s r.core else s)
  else acquireBy s r.core r.wslot r.lanes r.wide

/-- The bytes that come back with an answer: the line where it fills one, else those of the access (04 R76). -/
def Req.answer (r : Req) (v : Nat) : Load :=
  match r.fill with
  | some _ => .bytes (sliceBytes r.snap (r.va.toNat / 64 % 2 * 64) 64)
  | none => .bytes (toBytes r.size v)

/-- What reaches the registers and the L1 with a load's data (10 R258, R260; 04 R76). -/
def returnLoad (s : State) (rid : Nat) (r : Req) (v : Nat) (fill : Option (Bool × Bool)) (closes : Bool) : State :=
  let s := dropReq s rid
  let lanes := if r.lanes = 0#32 then [0] else maskLanes r.lanes
  let s := if r.wslot = noWarp then s
    else modWarp s r.core r.wslot (fun w => loadWrite w lanes r.dst r.ext r.off r.size v)
  let s := acquired (answerL1 s r fill) r
  if closes then tellInfl s rid r none else s

/-- LOAD_DATA_RETURN (10 R258, R260). -/
def execLoadDataReturn (rid : Nat) (s : State) : Host.Outcome State Fault Refusal :=
  match lookup s.reqs rid with
  | some r =>
    if !r.op.isLoad then .next s
    else (match r.stage with
      | .replied vals => .next (returnLoad (comeBack s r (r.answer (vals.headD 0))) rid r (vals.headD 0) r.fill r.acquire)
      | .remote =>
        if portsTo s (nodeOf r.farPA) = [] then .next s
        else match r.verdict with
          | some e => .next (tellInfl (comeFar (dropReq s rid) r .none) rid r (some e))
          | none =>
            let bs := remoteBytes s r.farPA r.size
            let s := if r.op = .ldr then setResv s r else s
            .next (returnLoad (comeFar s r (.bytes bs)) rid r (ofBytes bs) none true)
      | _ => .next s)
  | none => .next s

/-- STORE_ACCEPTANCE (10 R257): the store's lanes learn that it is accepted, or of its refusal, and an L1 line that it
updated goes. -/
def execStoreAcceptance (rid : Nat) (s : State) : Host.Outcome State Fault Refusal :=
  match lookup s.reqs rid with
  | some r =>
    if !r.op.isStore then .next s
    else (match r.stage with
      | .checked => .next (tellInfl (setStage (comeBack s r .none) rid .accepted) rid r none)
      | .merged => .next (tellInfl (dropReq (comeBack s r .none) rid) rid r none)
      | .refused e => .next (tellInfl (l1Forget (dropReq (comeBack s r .none) rid) r.core r.part r.atag (r.va.toNat / 64)) rid r (some e))
      | .remote =>
        if portsTo s (nodeOf r.farPA) = [] then .next s
        else .next (tellInfl (dropReq (comeFar s r .none) rid) rid r r.verdict)
      | _ => .next s)
  | none => .next s

/-- The old values of an atomic written to its lanes' destinations. -/
def writeOlds (w : Warp) (dst size : Nat) : List (Nat × Nat) → Warp
  | [] => w
  | (l, v) :: rest =>
    let w := if dst = 255 then w
      else if size = 8 then rwrite (rwrite w l dst (v % 2 ^ 32)) l (dst + 1) (v / 2 ^ 32)
      else rwrite w l dst v
    writeOlds w dst size rest

/-- Lanes of an atomic or conditional store, in order, and the bytes of a result. -/
def MemOp.replyLanes : MemOp → List Nat
  | .atomic _ _ ops => ops.map (·.1)
  | .stc _ ops => ops.map (·.1)
  | _ => []

def MemOp.resultBytes (n : Nat) : MemOp → Nat
  | .stc _ _ => 4
  | _ => n

/-- What an atomic's answer does to the L1: data that returns fills its line as a load's does; without data a held line takes
the new value, or goes where it has been written or invalidated since (04 R76, 10 R272, 12 R319). -/
def atomicL1 (s : State) (r : Req) (new : Option Nat) : State :=
  if r.dst ≠ 255 ∧ r.fill.isSome ∧ !r.noL1 then answerL1 s r r.fill
  else match new with
    | none => s
    | some v =>
      if r.noFill then l1Forget s r.core r.part r.atag (r.va.toNat / 64)
      else l1Patch s r.core r.part r.atag r.va (toBytes r.size v)

/-- ATOMIC_REPLY (10 R272, R277): the old values return, and the L1 follows. -/
def execAtomicReply (rid : Nat) (s : State) : Host.Outcome State Fault Refusal :=
  match lookup s.reqs rid with
  | some r =>
    let lanes := r.op.replyLanes
    let finish := fun (vals : List Nat) (closes : Bool) (s : State) =>
      let s := dropReq s rid
      let s := if r.wslot = noWarp then s
        else modWarp s r.core r.wslot (fun w => writeOlds w r.dst (r.op.resultBytes r.size) (lanes.zip vals))
      let s := atomicL1 s r vals[lanes.length]?
      let s := acquired s r
      if closes then tellInfl s rid r none else s
    if lanes.isEmpty then .next s
    else (match r.stage with
      | .replied vals => .next (finish vals r.acquire (comeBack s r (.bytes (vals.flatMap (toBytes r.size)))))
      | .remote =>
        if portsTo s (nodeOf r.farPA) = [] then .next s
        else match r.verdict with
        | some e => .next (tellInfl (comeFar (dropReq s rid) r .none) rid r (some e))
        | none =>
          let (held, t) := takeResv s r
          let old := ofBytes (remoteBytes s r.farPA r.size)
          let vals := match r.op with
            | .atomic fn t ops => (atomFold fn t ops old).1
            | _ => [if held then old % 2 else 1]
          .next (finish vals true (comeFar (match r.op with | .stc _ _ => t | _ => s) r (.bytes (vals.flatMap (toBytes r.size)))))
      | _ => .next s)
  | none => .next s

/-- UNREACHABLE_NODE_FAULT (01 R22, 22 R513): an access to a node that no port leads to completes as a data error. -/
def execUnreachableNodeFault (rid : Nat) (s : State) : Host.Outcome State Fault Refusal :=
  match lookup s.reqs rid with
  | some r =>
    if r.stage != .remote then .next s
    else if portsTo s (nodeOf r.farPA) ≠ [] then .next s
    else .next (tellInfl (dropReq s rid) rid r (some .dataError))
  | none => .next s

end Sys2Proof.Machine
end

