-- ==== Sys2Proof/Machine/Maint.lean ====
section
/-! DEFINITION. Machine/Maint.lean: the maintenance ring (04 R96 to R100) and the retry of a refused fault reservation
(04 R104). -/

namespace Sys2Proof.Machine

/-- The record at HEAD, while the ring may start it (04 R100); none too while it cannot be read (log 43). -/
def maintRecord (s : State) (part : Nat) : Option (List Byte) × State :=
  let ctl := win32 s part oMQCTL
  let n := 2 ^ nbits ctl 0 4
  let head := win32 s part oMQHEAD
  let d := sub32 (win32 s part oMQTAIL) head
  if !nbit ctl 31 || d == 0 || decide (n < d) then (none, s)
  else match readPA s part (nbits (win64 s part oMQBASE) 12 40 * 4096 + 64 * (head % n)) 64 with
    | (.ok bs, s) => (some bs, s)
    | (.error _, s) => (none, s)

def mOp (bs : List Byte) : Nat := nbits (leAt bs 0 8) 56 8
def mAsid (bs : List Byte) : Nat := nbits (leAt bs 0 8) 44 12
def mVa (bs : List Byte) : Nat := nbits (leAt bs 8 8) 0 57
def mPages (bs : List Byte) : Nat := nbits (leAt bs 16 8) 0 32

/-- The format rules of a record (04 R97). A range of an ASID other than 0 that meets the shared window in part counts as one in
it (log 67). -/
def maintOk (bs : List Byte) : Bool :=
  let lo := mVa bs
  let hi := lo + mPages bs * 65536
  nbits (leAt bs 0 8) 0 44 == 0 && nbits (leAt bs 8 8) 57 7 == 0 && nbits (leAt bs 16 8) 32 32 == 0 &&
  nbits (leAt bs 24 8) 52 12 == 0 && nbits (leAt bs 32 8) 56 8 == 0 && (bs.drop 40).all (· == 0#8) &&
  mPages bs != 0 && lo % 65536 == 0 && decide (mOp bs ≤ 3) &&
  (mAsid bs == 0 || !(decide (lo < 3 * 2 ^ 55) && decide (2 ^ 56 < hi)))

/-- What an invalidation acts on: the bytes of an ASID tag in a range of addresses, of the whole tag, or of the partition. -/
structure Sweep where
  part : Nat
  atag : Option Nat
  lo : Nat
  hi : Nat
deriving DecidableEq, Repr

/-- The extent of a record's operation (04 R97). -/
def maintSweep (part : Nat) (bs : List Byte) : Sweep :=
  if mOp bs = 1 then ⟨part, some (mAsid bs), mVa bs, mVa bs + mPages bs * 65536⟩
  else if mOp bs = 2 then ⟨part, some (mAsid bs), 0, 2 ^ 57⟩
  else ⟨part, none, 0, 2 ^ 57⟩

/-- Whether bytes [a, a + n) of a tag lie in it. -/
def Sweep.meets (w : Sweep) (pid atag a n : Nat) : Bool :=
  w.part == pid && (match w.atag with | some t => t == atag | none => true) && decide (a < w.hi) && decide (w.lo < a + n)

def Sweep.block (w : Sweep) (b : L2Block) : Bool := w.meets b.pid b.atag (b.vb * 128) 128

/-- Requests that use what is about to go and are not complete (04 R98). -/
def Sweep.busy (w : Sweep) (s : State) : Bool :=
  s.reqs.any (fun e => w.meets e.2.part e.2.atag e.2.va.toNat e.2.size &&
    (match e.2.stage with | .checked | .accepted | .merged | .refused _ | .replied _ | .remote => true | _ => false))

/-- Blocks written back and invalidated (04 R97). -/
def flushBlocks (s : State) (mine : L2Block → Bool) : State :=
  s.l2.foldl (fun s e =>
    let gone := e.2.filter mine
    if gone.isEmpty then s
    else
      let s := gone.foldl (fun s b => writeBack s (e.1 / 3072) b) s
      setL2 s e.1 ((getD [] s.l2 e.1).filter (fun b => !mine b))) s

/-- Lines of a core's caches invalidated. -/
def Sweep.lines (w : Sweep) (c : Core) : Core :=
  let keep := fun (l : CLine) => !w.meets l.pid l.atag (l.line * 64) 64
  { c with l1 := c.l1.filter keep, kc := c.kc.filter keep, ic := c.ic.filter keep }

/-- The invalidation of an extent: translations, blocks, lines and reservations go, and requests that have not been accepted
look again (04 R97, R98, 10 R278, 18 R485). -/
def Sweep.run (w : Sweep) (s : State) : State :=
  let s := { s with
    tlb := s.tlb.map (fun e => (e.1, e.2.filter (fun t => !w.meets t.pid t.atag t.leaf.vbase t.leaf.size))),
    wcache := s.wcache.map (fun e => (e.1, e.2.filter (fun t => t.pid != w.part))) }
  let s := flushBlocks s w.block
  { s with
    cores := s.cores.map (fun e => (e.1, w.lines e.2)),
    resv := s.resv.filter (fun e => !w.meets e.2.1 e.2.2.1 (e.2.2.2 * 64) 64),
    reqs := s.reqs.map (fun e =>
      if w.meets e.2.part e.2.atag e.2.va.toNat e.2.size then
        (match e.2.stage with
         | .needWalk | .needMem | .fetched _ => (e.1, { e.2 with stage := .toHome })
         | _ => e)
      else e) }

/-- A record's completion word, and HEAD (04 R97); where memory refuses the word it is lost and HEAD advances all the same
(log 67). -/
def maintDone (s : State) (part : Nat) (bs : List Byte) (status : Nat) : State :=
  let s := (writePA s part (nbits (leAt bs 24 8) 3 49 * 8) (toBytes 8 (status * 2 ^ 56 + nbits (leAt bs 32 8) 0 56))).2
  setWin32 s part oMQHEAD (add32 (win32 s part oMQHEAD) 1)

/-- The record at HEAD run, where it is one of these operations: whole in one step (04 R97, R98, R100). -/
def runMaint (s : State) (part : Nat) (mine : Nat → Bool) : State :=
  match maintRecord s part with
  | (none, s) => s
  | (some bs, s') =>
    if !mine (mOp bs) then s
    else if !maintOk bs then maintDone s' part bs 1
    else if mOp bs = 0 then maintDone s' part bs 0
    else
      let w := maintSweep part bs
      if w.busy s' then s else maintDone (w.run s') part bs 0

/-- MAINTENANCE_NOP (04 R97): NOP, and the reserved operations, which do nothing but report FORMAT. -/
def execMaintenanceNop (part : Nat) (s : State) : Host.Outcome State Fault Refusal :=
  .next (runMaint s part (fun op => op == 0 || decide (4 ≤ op)))

/-- INV_RANGE (04 R97, R98). -/
def execInvRange (part : Nat) (s : State) : Host.Outcome State Fault Refusal := .next (runMaint s part (· == 1))

/-- INV_ASID (04 R97, R98). -/
def execInvAsid (part : Nat) (s : State) : Host.Outcome State Fault Refusal := .next (runMaint s part (· == 2))

/-- INV_PART (04 R97, R98). -/
def execInvPart (part : Nat) (s : State) : Host.Outcome State Fault Refusal := .next (runMaint s part (· == 3))

/-- FAULT_RESERVATION_RETRY (04 R104): once its wait has passed, a stalled warp asks again for all its slots. -/
def execFaultReservationRetry (core wslot : Nat) (s : State) : Host.Outcome State Fault Refusal :=
  .next (retryFaults s core wslot)

end Sys2Proof.Machine
end

