-- ==== Sys2Proof/Machine/Resize.lean ====
section
/-! DEFINITION. Machine/Resize.lean: resources that change partitions: the commands of root firmware (18 R470 to R476, R478, R483
to R486), the sweep of a slice list (18 R479 to R481), drains and zeroing (18 R475, R487), and the fatal error of a partition
(18 R482). -/

namespace Sys2Proof.Machine

/-- Kinds of resources (18 R472). -/
def kCORE : Nat := 0
def kSLICE : Nat := 1
def kCHAN : Nat := 2

/-- Resource states (18 R470). -/
def rFREE : Nat := 0
def rASSIGNED : Nat := 1
def rOWNED : Nat := 2
def rDRAINING : Nat := 3
def rZEROING : Nat := 4

/-- Resources of a kind; none of another one. -/
def resCount (kind : Nat) : Nat := if kind = kCORE then 192 else if kind = kSLICE then 128 else if kind = kCHAN then 64 else 0

/-- The state register of a resource. -/
def resWord (s : State) (kind i : Nat) : Word :=
  if kind = kCORE then getD 0#32 s.root.corst i else if kind = kSLICE then getD 0#32 s.root.slcst i else getD 0#32 s.root.chst i
def resState (s : State) (kind i : Nat) : Nat := fld (resWord s kind i) 0 3
def resPart (s : State) (kind i : Nat) : Nat := fld (resWord s kind i) 4 4

/-- A resource is in a state for a partition. -/
def resIs (s : State) (kind i st part : Nat) : Bool := resState s kind i == st && resPart s kind i == part

/-- A resource's change of state, with the RESIZE entry for its partition (18 R473, R492). -/
def setRes (s : State) (kind i st part : Nat) : State :=
  let w : Word := if st = rFREE then 0#32 else BitVec.ofNat 32 (part % 16 * 16 + st)
  let r := s.root
  let r := if kind = kCORE then { r with corst := setD 0#32 r.corst i w }
    else if kind = kSLICE then { r with slcst := setD 0#32 r.slcst i w }
    else { r with chst := setD 0#32 r.chst i w }
  pushNote { s with root := r } part 6 0 (kind * 2 ^ 62 + i * 2 ^ 32 + st) 0

/-- The result of a command (18 R472). -/
def rszCode (s : State) (code : Nat) : State := { s with root := { s.root with rszstat := BitVec.ofNat 32 code } }
def cOK : Nat := 0
def cFORMAT : Nat := 1
def cSTATE : Nat := 2
def cLAST : Nat := 3
def cNEIGH : Nat := 4
def cSWEEP : Nat := 5

/-- A command on one resource: refused for its format, its state or another reason, or done. -/
def onResource (s : State) (kind part i : Nat) (st : Bool) (other : Option Nat) (go : State → State) : State :=
  if resCount kind ≤ i ∨ 16 ≤ part then rszCode s cFORMAT
  else if !st then rszCode s cSTATE
  else match other with
    | some c => rszCode s c
    | none => rszCode (go s) cOK

/-- ASSIGN (18 R473). -/
def execAssign (kind part index : Nat) (s : State) : Host.Outcome State Fault Refusal :=
  .next (onResource s kind part index (resState s kind index == rFREE) none (fun s => setRes s kind index rASSIGNED part))

/-- CANCEL (18 R473). -/
def execCancel (kind part index : Nat) (s : State) : Host.Outcome State Fault Refusal :=
  .next (onResource s kind part index (resIs s kind index rASSIGNED part) none (fun s => setRes s kind index rFREE part))

/-- ENABLE (18 R473): only a core has this transition. -/
def execEnable (kind part index : Nat) (s : State) : Host.Outcome State Fault Refusal :=
  .next (onResource s kind part index (kind == kCORE && resIs s kind index rASSIGNED part) none
    (fun s => setRes s kind index rOWNED part))

/-- The OWNED cores of a partition. -/
def ownedCores (s : State) (part : Nat) : List Nat := (upto 192).filter (coreOwned s part)

/-- Whether the partition would hold, on these cores, a quad for every set that its dispatched grids have (18 R476). -/
def quadsLeft (s : State) (part : Nat) (cores : List Nat) : Bool :=
  (partOf s part).grids.all (fun e => e.2.rec_.setSize == 1 ||
    (upto 48).any (fun q => decide (e.2.rec_.setSize ≤ (cores.filter (fun c => quadOf c == q)).length)))

/-- RELEASE of a core (18 R473, R474, R476): its groups and free warps are to be saved. -/
def execReleaseCore (part index : Nat) (s : State) : Host.Outcome State Fault Refusal :=
  let left := (ownedCores s part).filter (· != index)
  let other := if left.isEmpty then some cLAST else if !quadsLeft s part left then some cNEIGH else none
  .next (onResource s kCORE part index (resIs s kCORE index rOWNED part) other (fun s =>
    modCore (setRes s kCORE index rDRAINING part) index (wantSaves s index (fun p _ => p == part) 4)))

/-! ### Channels -/

/-- First slot and size of the set that a slot belongs to (02 R36). -/
def setBase (s : State) (slot : Nat) : Nat × Nat :=
  let m := 2 ^ chLsz (chEntry s slot)
  (slot - slot % m, m)

/-- A slot names a valid set of a partition. -/
def setValid (s : State) (part slot : Nat) : Bool :=
  let e := chEntry s slot
  decide (slot < 64) && chValid e && chLsz e != 7 && chPart e == part

/-- The slots of the set, and its channels. -/
def setSlotsOf (s : State) (slot : Nat) : List Nat := let b := setBase s slot; (upto b.2).map (fun i => b.1 + i)
def setChans (s : State) (slot : Nat) : List Nat := (setSlotsOf s slot).map (fun c => chChan (chEntry s c))

/-- Every promoted row of a channel demoted (18 R484). -/
def demoteAll (s : State) (chan : Nat) : State :=
  (upto 32).foldl (fun s bank => (bankTags s chan bank).foldl (fun s e => (demoteRow s chan bank e.2.frow).2) s) s

/-- RELEASE of a channel's set (18 R473, R484): its rows are demoted, and it goes on serving its range. -/
def execReleaseChannel (part index : Nat) (s : State) : Host.Outcome State Fault Refusal :=
  let mine := setSlotsOf s index
  let chans := setChans s index
  let st := setValid s part index && chans.all (fun c => resIs s kCHAN c rOWNED part)
  let other := if (upto 64).any (fun c => setValid s part c && !mine.contains c) then none else some cLAST
  .next (onResource s kCHAN part index st other (fun s =>
    chans.foldl (fun s c =>
      let s := demoteAll s c
      setRes { s with dram := { s.dram with autoq := s.dram.autoq.filter (fun e => e.1 != c) } } kCHAN c rDRAINING part) s))

/-- A write of a channel-map entry by root firmware; a valid one is honoured only for a channel assigned to its partition, or
owned by it in the same set (02 R34, 18 R483). -/
def chmapWrite (s : State) (slot v : Nat) : State :=
  let w : Word := BitVec.ofNat 32 v &&& 0xFFFF003F#32
  let put := fun (s : State) => { s with root := { s.root with chmap := setD 0#32 s.root.chmap slot w } }
  let chan := chChan w
  let part := chPart w
  let m := 2 ^ chLsz w
  let same := (upto m).any (fun i =>
    let e := chEntry s (slot - slot % m + i)
    chValid e && chChan e == chan && chPart e == part && chGen e == chGen w && chLsz e == chLsz w)
  if 64 ≤ slot then s
  else if !chValid w ∨ chLsz w = 7 then put s
  else if resIs s kCHAN chan rASSIGNED part then setRes (put s) kCHAN chan rOWNED part
  else if resIs s kCHAN chan rOWNED part ∧ same then put s
  else s

/-- CHMAP_WRITE (18 R483). -/
def execChmapWrite (slot v : Nat) (s : State) : Host.Outcome State Fault Refusal := .next (chmapWrite s slot v)

/-- A local physical address lies in these slots' ranges. -/
def inSlots (s : State) (slots : List Nat) (pa : Nat) : Bool := isLocal s pa && slots.contains (nbits pa 34 6)

/-- An accepted access of the partition is not complete and acknowledged whose block lies in these ranges, or has left its slice
since (18 R486). -/
def setBusy (s : State) (part : Nat) (slots : List Nat) : Bool :=
  s.reqs.any (fun e => e.2.part == part && (match e.2.stage with | .checked | .accepted | .merged | .replied _ => true | _ => false) &&
    (match s.l2.flatMap (fun k => k.2.filter (isBlock part e.2.atag e.2.vb)) with
     | [] => true
     | bs => bs.any (fun b => inSlots s slots (b.pa * 128))))

/-- The set's blocks written back and gone, its translations removed, and requests on their way look again (18 R486). -/
def flushSet (s : State) (part : Nat) (slots : List Nat) : State :=
  let s := flushBlocks s (fun b => b.pid == part && inSlots s slots (b.pa * 128))
  { s with
    tlb := s.tlb.map (fun e => (e.1, e.2.filter (fun t => !(t.pid == part && inSlots s slots t.leaf.pbase)))),
    wcache := s.wcache.map (fun e => (e.1, e.2.filter (fun t => !(t.pid == part && slots.contains (nbits t.table 34 6))))),
    reqs := s.reqs.map (fun e =>
      if e.2.part = part then
        (match e.2.stage with
         | .needWalk | .needMem | .fetched _ => (e.1, { e.2 with stage := .toHome })
         | _ => e)
      else e) }

/-- CHCOMMIT (18 R473, R486): a draining set is retired; it waits while an accepted access to the set is not complete. -/
def execChcommit (part index : Nat) (s : State) : Host.Outcome State Fault Refusal :=
  let slots := setSlotsOf s index
  let chans := setChans s index
  let st := setValid s part index && chans.all (fun c => resIs s kCHAN c rDRAINING part)
  if decide (index < 64) && decide (part < 16) && st && setBusy s part slots then .next s
  else .next (onResource s kCHAN part index st none (fun s =>
    let s := flushSet s part slots
    let s := { s with root := { s.root with chmap := s.root.chmap.filter (fun e => !slots.contains e.1) } }
    chans.foldl (fun s c => setRes s kCHAN c rZEROING part) s))

/-! ### Slices -/

/-- Entry `k` of a list bank of a partition (18 R477). -/
def slEntry (s : State) (part bank k : Nat) : Byte := getD 0#8 s.root.slist ((part * 2 + bank) * 128 + k)

/-- Slices that the bank not in use lists, where the bank keeps the rules of 18 R478. -/
def newList (s : State) (part : Nat) : Option (List Nat) :=
  let bank := 1 - slBank s part
  let n := fld (slctl s part) 8 8
  let l := (upto n).map (fun k => fld (slEntry s part bank k) 0 7)
  if decide (n ≤ 128) && (upto 128).all (fun k => wbit (slEntry s part bank k) 7 == decide (k < n)) && decide l.Nodup &&
    l.all (fun i => resIs s kSLICE i rASSIGNED part || resIs s kSLICE i rOWNED part) then some l
  else none

/-- The commit moment (18 R478): the banks change places, the generation advances, slices change state, the sweep begins. -/
def commitList (s : State) (part : Nat) (l : List Nat) : State :=
  let old := sliceList s part
  let w := slctl s part
  let ctl : Word := BitVec.ofNat 32 (2 ^ 31 + (1 - slBank s part) * 2 ^ 24 + (slGen s part + 1) % 256 * 2 ^ 16 +
    fld w 8 8 * 2 ^ 8 + l.length)
  let s := { s with root := { s.root with
    slctl := put s.root.slctl part ctl, oldList := put s.root.oldList part old, sweepId := put s.root.sweepId part s.nextId } }
  let s := l.foldl (fun s i => if resState s kSLICE i = rASSIGNED then setRes s kSLICE i rOWNED part else s) s
  (upto 128).foldl (fun s i => if resIs s kSLICE i rOWNED part && !l.contains i then setRes s kSLICE i rDRAINING part else s) s

/-- SLCOMMIT (18 R473, R478). -/
def execSlcommit (part : Nat) (s : State) : Host.Outcome State Fault Refusal :=
  .next (if 16 ≤ part then rszCode s cFORMAT
    else if slBusy s part then rszCode s cSWEEP
    else match newList s part with
      | none => rszCode s cSTATE
      | some [] => rszCode s cLAST
      | some l => rszCode (commitList s part l) cOK)

/-- BLOCK_MOVE (18 R479, R480): the block goes from its old home to its new one, with its reservations. -/
def execBlockMove (part atag vb : Nat) (s : State) : Host.Outcome State Fault Refusal := .next (moveBlock s part atag vb).2

/-- The blocks of a partition that still carry the old generation. -/
def oldBlocks (s : State) (part : Nat) : List (Nat × Nat) :=
  s.l2.flatMap (fun e => (e.2.filter (fun b => b.pid == part && b.gen != slGen s part)).map (fun b => (b.atag, b.vb)))

/-- SWEEP (18 R481): the blocks not yet moved go to their homes; once no request of the old generation is left, BUSY clears and
the draining slices enter ZEROING. -/
def execSweep (part : Nat) (s : State) : Host.Outcome State Fault Refusal :=
  if !slBusy s part then .next s
  else
    let s := (oldBlocks s part).foldl (fun s b => (moveBlock s part b.1 b.2).2) s
    if s.reqs.any (fun e => e.2.part == part && decide (e.1 < getD 0 s.root.sweepId part)) then .next s
    else
      let s := { s with root := { s.root with
        slctl := put s.root.slctl part (slctl s part &&& 0x7FFFFFFF#32), oldList := remove s.root.oldList part } }
      .next ((upto 128).foldl (fun s i => if resIs s kSLICE i rDRAINING part then setRes s kSLICE i rZEROING part else s) s)

/-! ### Drains and zeroing -/

/-- Nothing of a partition is at work on a core (18 R475). -/
def coreQuiet (s : State) (core : Nat) : Bool :=
  let c := coreOf s core
  c.groups.isEmpty && c.warps.isEmpty && c.units.isEmpty && c.impq.isEmpty && s.reqs.all (fun e => e.2.core != core)

/-- Another OWNED core of the partition with room for a core's records and retire records; which one is open. -/
def drainTarget (s : State) (part core : Nat) : Option Nat :=
  let c := coreOf s core
  let ok := (ownedCores s part).filter (fun t => t != core &&
    decide ((coreOf s t).contq.length + c.contq.length ≤ contQueueSize) && decide ((coreOf s t).retire.length + c.retire.length ≤ 64))
  ok[Config.freeValue s.tick 0 % max 1 ok.length]?

/-- Records and retire records of a core moved to another, the records in their order of eligibility (18 R475); what their
threads stored is seen there (12 R319). -/
def moveRecords (s : State) (core t : Nat) : State :=
  let c := coreOf s core
  let s := modCore s t (fun d =>
    { d with contq := d.contq ++ (c.contq.foldr insertRank []).map (fun r => { r with since := d.cyc, core := t }),
             retire := c.retire.foldl (fun m e =>
               match (upto 64).find? (fun i => (lookup m i).isNone) with
               | some i => put m i e.2
               | none => m) d.retire })
  invalidateL1 (modCore s core (fun c => { c with contq := [], retire := [] })) t

/-- DRAIN_COMPLETE (18 R473, R475): a draining core that holds no work gives up its records and enters ZEROING. (A slice's drain
ends with its sweep.) -/
def execDrainComplete (kind index : Nat) (s : State) : Host.Outcome State Fault Refusal :=
  let part := resPart s kCORE index
  let c := coreOf s index
  if kind ≠ kCORE ∨ 192 ≤ index ∨ resState s kCORE index ≠ rDRAINING ∨ !coreQuiet s index then .next s
  else if c.contq.isEmpty && c.retire.isEmpty then .next (setRes s kCORE index rZEROING part)
  else match drainTarget s part index with
    | none => .next s
    | some t => .next (setRes (moveRecords s index t) kCORE index rZEROING part)

/-- What zeroing leaves of a resource (18 R487). -/
def zeroRes (s : State) (kind i : Nat) : State :=
  if kind = kCORE then modCore s i (fun c => { Core.init with cyc := c.cyc, lastQ := c.lastQ, spadCorr := c.spadCorr })
  else if kind = kSLICE then { s with l2 := s.l2.filter (fun e => e.1 / 3072 != i) }
  else clearChannel s i

/-- ZEROING_COMPLETE (18 R473, R487). -/
def execZeroingComplete (kind index : Nat) (s : State) : Host.Outcome State Fault Refusal :=
  if resCount kind ≤ index ∨ resState s kind index ≠ rZEROING then .next s
  else .next (setRes (zeroRes s kind index) kind index rFREE (resPart s kind index))

/-! ### A partition's fatal error -/

/-- PART_FATAL (18 R482): a dirty block is lost: every grid is aborted, every queue parks, and an entry names the block. -/
def execPartFatal (part : Nat) (s : State) : Host.Outcome State Fault Refusal :=
  match (partOf s part).fatal with
  | [] => .next s
  | (slice, vb) :: rest =>
    let s := modPart s part (fun p => { p with fatal := rest })
    let s := ((partOf s part).grids.map (·.1)).foldl (fun s g => abort s part g 0#57) s
    let s := modPart s part (fun p => (upto 64).foldl (fun p q => p.setW32 (oLQSTAT q) (2 ^ 31 + 2)) p)
    .next (pushNote s part 7 0 slice (vb % 2 ^ 50))

end Sys2Proof.Machine
end

