-- ==== Sys2Proof/Machine/Firmware.lean ====
section
/-! DEFINITION. Machine/Firmware.lean: what root and service firmware do through registers and diagnostic windows: RSZCMD (18 R472),
HDOWN (14 R365), the rewriting of a metadata block (03 R65), and what the windows show of an L2 tag (04 R83) and of a promotion
tag (02 R38). -/

namespace Sys2Proof.Machine

/-- The state that a meaning without a stop answers. -/
def nextOf (s : State) : Host.Outcome State Fault Refusal → State
  | .next t => t
  | _ => s

/-- A command written to RSZCMD: OP, KIND, PART, INDEX; a reserved field that is not zero, an OP outside 1 to 6, a RELEASE
of a slice or a CHCOMMIT of no channel is refused with FORMAT (18 R472, log 42). -/
def rszWrite (s : State) (v : Nat) : State :=
  let kind := nbits v 58 2
  let part := nbits v 54 4
  let ix := nbits v 0 8
  if nbits v 8 46 ≠ 0 ∨ kind = 3 then rszCode s cFORMAT
  else match nbits v 60 4 with
    | 1 => nextOf s (execAssign kind part ix s)
    | 2 => nextOf s (execEnable kind part ix s)
    | 3 =>
      if kind = kCORE then nextOf s (execReleaseCore part ix s)
      else if kind = kCHAN then nextOf s (execReleaseChannel part ix s)
      else rszCode s cFORMAT
    | 4 => nextOf s (execCancel kind part ix s)
    | 5 => nextOf s (execSlcommit part s)
    | 6 => if kind = kCHAN then nextOf s (execChcommit part ix s) else rszCode s cFORMAT
    | _ => rszCode s cFORMAT

/-- A write by root firmware: 12 is RSZCMD, 13 HDOWN of a head, 14 the rewriting of a metadata block, named by channel × 2^20 and
its number, through the diagnostic window; the other kinds are those of `rootWrite` (log 42). -/
def firmwareWrite (s : State) (n kind v : Nat) : State :=
  match kind with
  | 12 => rszWrite s v
  | 13 => hdownWrite s n (BitVec.ofNat 32 v)
  | 14 =>
    if decide (n / 2 ^ 20 < 64) && packEn s (n / 2 ^ 20) && decide (n % 2 ^ 20 < 367680) then
      metaRewrite s (n / 2 ^ 20) (n % 2 ^ 20) (toBytes 128 v)
    else s
  | k => rootWrite s n k v

/-- REGISTER_WRITE (00 R4, R7): a register of a partition's window, written whole, or one of the secure controller. -/
def execRegisterWrite (root : Bool) (part offset bytes v : Nat) (s : State) : Host.Outcome State Fault Refusal :=
  .next (if root then firmwareWrite s part offset v else winWrite s part offset bytes v)

/-! ### What the diagnostic windows show -/

/-- The fields of a block tag of a slice, in the order and at the widths of 04 R83; the rule gives no bit positions, and a set's
tags stand here in the order of their use (log 42). -/
def diagTag (s : State) (slice set way : Nat) : Option (List Nat) :=
  (getD [] s.l2 (slice * 3072 + set))[way]?.map (fun b =>
    [1, b.lv, b.dirty.toNat, b.pid, b.atag, b.vb, b.pa, b.blk.tag, (tagSectors b.blk.tag).getD 1 - 1] ++ b.sp ++
    [b.rd.toNat, b.wr.toNat, b.ex.toNat, b.comp.toNat, b.pol, b.gen])

/-- A promotion tag entry in the layout of 02 R38; an empty slot reads zero. -/
def diagPromotion (s : State) (chan bank slot : Nat) : Nat :=
  match lookup s.dram.ptag (ptagKey chan bank slot) with
  | none => 0
  | some t => 2 ^ 63 + t.dirty.toNat * 2 ^ 62 + t.pri * 2 ^ 60 + t.frow * 2 ^ 42 + t.seq

/-- The snapshot of a line core's last trap (14 R383). -/
def diagSnapshot (s : State) (lc : Nat) : Option Snapshot := (lineOf s lc).snap

end Sys2Proof.Machine
end

