-- ==== Sys2Proof/Machine/Hosting.lean ====
section
/-! DEFINITION. Machine/Hosting.lean: notification batches (18 R490 to R494), queue pairs and RDMA (22 R507, R510, R511), accesses
of other nodes (22 R515), boot and reset (22 R516, R521), attestation (22 R517, R518), the dump and the thermal limit (22 R519,
R521). -/

namespace Sys2Proof.Machine

/-! ### Notifications -/

/-- Fields of NQCTL and NQCOAL (18 R490). -/
def nqSize (p : Part) : Nat := 2 ^ nbits (p.w64 oNQCTL) 0 5
def nqBatch (p : Part) : Nat := min (min (nbits (p.w32 oNQCOAL) 16 16) 1024) (nqSize p)
def nqIval (p : Part) : Nat := nbits (p.w32 oNQCOAL) 0 16
def nqFree (p : Part) : Nat := nqSize p - sub32 (p.w32 oNQTAIL) (p.w32 oNQHEAD)

/-- A notification entry under its SEQ (18 R491). -/
def noteBytes (p : Part) (seq : Nat) (e : NotEntry) : List Byte :=
  let phase := if nbit seq (nbits (p.w64 oNQCTL) 0 5) then 0 else 1
  toBytes 8 (e.typ * 2 ^ 56 + phase * 2 ^ 55 + e.asid % 4096 * 2 ^ 32 + seq) ++ toBytes 8 e.arg0 ++ toBytes 16 e.arg1

/-- A batch of `n` entries sent on queue pair 0: the entries in SEQ order, then the immediate with the new TAIL (18 R493). -/
def sendBatch (p : Part) (n : Nat) : Part :=
  let tail := p.w32 oNQTAIL
  let psn := ((lookup p.qps 0).map QPair.sq).getD 0
  let msgs := ((upto n).zip (p.notif.take n)).map (fun e =>
    let seq := add32 tail e.1
    ({ addr := p.w64 oNQADDR + 32 * (seq % nqSize p), rkey := p.w64 oNQCTL / 2 ^ 32, data := noteBytes p seq e.2, imm := none,
       psn := (psn + e.1) % 2 ^ 24 } : SentMsg))
  let imm : SentMsg := { addr := p.w64 oNQADDR, rkey := p.w64 oNQCTL / 2 ^ 32, data := [], imm := some (add32 tail n),
                         psn := (psn + n) % 2 ^ 24 }
  { (p.setW32 oNQTAIL (add32 tail n)) with
    notif := p.notif.drop n, sent := p.sent ++ msgs ++ [imm],
    qps := adjust p.qps 0 (fun q => { q with sq := (q.sq + n + 1) % 2 ^ 24 }) }

/-- The queue is enabled, has slots for `n` entries, and queue pair 0 can carry them (18 R494, 22 R510). -/
def mayBatch (p : Part) (n : Nat) : Bool :=
  nbit (p.w64 oNQCTL) 31 && decide (1 ≤ n) && decide (n ≤ nqFree p) &&
  (match lookup p.qps 0 with | some q => !q.failed | none => false)

/-- NOTIFICATION_BATCH (18 R493, R494): COUNT entries wait, or as many as the buffer or the ring holds. -/
def execNotificationBatch (part : Nat) (s : State) : Host.Outcome State Fault Refusal :=
  .next (modPart s part (fun p =>
    if decide (nqBatch p ≤ p.notif.length) && mayBatch p (nqBatch p) then sendBatch p (nqBatch p) else p))

/-- NOTIFICATION_INTERVAL (18 R493): IVAL microseconds have passed since the oldest waiting entry was produced. -/
def execNotificationInterval (part : Nat) (s : State) : Host.Outcome State Fault Refusal :=
  .next (modPart s part (fun p =>
    let n := min (nqBatch p) p.notif.length
    match p.notif with
    | [] => p
    | e :: _ => if decide (nqIval p ≠ 0) && decide (e.since + nqIval p ≤ p.clock) && mayBatch p n then sendBatch p n else p))

/-- REQUESTER_RETRY (22 R510): what is not acknowledged is sent again; after RETRY attempts the context has failed. -/
def execRequesterRetry (part : Nat) (s : State) : Host.Outcome State Fault Refusal :=
  .next (modPart s part (fun p =>
    if p.sent.isEmpty then p
    else { p with qps := adjust p.qps 0 (fun q =>
      if q.failed then q else if q.tries < nbits (leAt q.ctx 0 8) 56 4 then { q with tries := q.tries + 1 } else { q with failed := true }) }))

/-! ### Queue pairs -/

/-- The 64 bytes of a context in its table (22 R510). -/
def readContext (s : State) (part i : Nat) : Option (List Byte) × State :=
  let p := partOf s part
  if i < nbits (p.w32 oQPCTL) 0 12 ∧ i < 1024 then
    match readPA s part (nbits (p.w64 oQPBASE) 12 40 * 4096 + 64 * i) 64 with
    | (.ok bs, s) => (some bs, s)
    | (.error _, s) => (none, s)
  else (none, s)

/-- A context that can be started: V, an MTU of 1 to 3, reserved fields zero. -/
def contextOk (bs : List Byte) : Bool :=
  let d := leAt bs 0 8
  nbit d 63 && decide (1 ≤ nbits d 60 3) && decide (nbits d 60 3 ≤ 3) && nbits d 24 32 == 0 && nbits (leAt bs 8 8) 24 40 == 0 &&
  nbits (leAt bs 32 8) 24 40 == 0 && (bs.drop 40).all (· == 0#8)

/-- RETRY has three bits of value (22 R510). -/
def contextRetryOk (bs : List Byte) : Bool := decide (nbits (leAt bs 0 8) 56 4 ≤ 7)

/-- QP_CONTEXT_ENABLE (22 R510): V is seen to change: the context is read and its counters start, or it is given up. -/
def execQpContextEnable (part qp : Nat) (s : State) : Host.Outcome State Fault Refusal :=
  match readContext s part qp with
  | (none, _) => .next s
  | (some bs, s) =>
    if !nbit (leAt bs 0 8) 63 then .next (modPart s part (fun p => { p with qps := remove p.qps qp }))
    else if (lookup (partOf s part).qps qp).isSome || !contextOk bs || !contextRetryOk bs then .next s
    else
      let q : QPair :=
        { ctx := bs, sq := nbits (leAt bs 8 8) 0 24, eq := nbits (leAt bs 32 8) 0 24, failed := false, tries := 0,
          reply := (0, []), last := none, said := (0, []) }
      .next (modPart s part (fun p => { p with qps := put p.qps qp q }))

/-- The context under which a message to a queue-pair number is served; none where its packets are dropped: the endpoint has no
address, or the number, the context, the source address or the key is not what it must be (22 R510). -/
def contextFor (s : State) (part : Nat) (h : PacketHdr) : Option (Nat × QPair) :=
  let i := h.qpn - 0x100
  if h.qpn < 0x100 ∨ nbits (win32 s part oQPCTL) 0 12 ≤ i ∨ h.pkey ≠ 0xFFFF ∨ (lookup s.root.epaddr part).isNone then none
  else match lookup (partOf s part).qps i, (readContext s part i).1 with
    | some q, some bs => if nbit (leAt bs 0 8) 63 ∧ h.src = leAt q.ctx 16 16 then some (i, q) else none
    | _, _ => none

/-- Packets of a message under a context's MTU. -/
def packets (q : QPair) (n : Nat) : Nat := max 1 (cdiv n (512 * 2 ^ nbits (leAt q.ctx 0 8) 60 3))

/-- The response to a message that came in sequence: it is kept, and the expected sequence number moves over the message. -/
def replyTo (s : State) (part i : Nat) (q : QPair) (n : Nat) (r : Nat × List Byte) : State :=
  let q := { q with eq := (q.eq + packets q n) % 2 ^ 24, reply := r, last := some q.eq, said := r }
  modPart s part (fun p => { p with qps := put p.qps i q })

/-- A message of `n` bytes that comes in: dropped, served in its sequence, answered again where it repeats the last one, or refused
with the NAK of its sequence number. DEDUCED: of duplicates only the last message has a response to send again (22 R510,
log 49). -/
def respond (s : State) (part : Nat) (h : PacketHdr) (n : Nat) (serve : State → (Nat × List Byte) × State) : State :=
  match contextFor s part h with
  | none => s
  | some (i, q) =>
    if h.psn = q.eq then let (r, s) := serve s; replyTo s part i q n r
    else
      let r := if q.last = some h.psn then q.reply else (4, [])
      modPart s part (fun p => { p with qps := put p.qps i { q with said := r } })

/-! ### RDMA -/

/-- Offsets of the whole aligned 8 bytes that a message to the window covers (22 R507). -/
def windowSteps (addr n : Nat) : List Nat :=
  let a := (addr + 7) / 8 * 8
  if addr + n < a + 8 then [] else (upto ((addr + n - a) / 8)).map (fun i => a + 8 * i)

/-- A range lies in the shared window (22 R510). -/
def inSharedWindow (addr n : Nat) : Bool := decide (2 ^ 56 ≤ addr) && decide (addr + n ≤ 2 ^ 56 + 2 ^ 55)

/-- A range of physical addresses meets the control windows (22 R507). -/
def meetsWindow (addr n : Nat) : Bool :=
  let near := nbits addr 0 41
  decide (0 < n) && decide (2 ^ 40 + winBase < near + n) && decide (near < 2 ^ 41)

/-- A range of RKEY 2 names local physical memory: its node field is this node's or zero, and it meets no control window (22 R507,
R510). -/
def localRange (s : State) (addr n : Nat) : Bool :=
  (addr / 2 ^ 41 == 0 || addr / 2 ^ 41 == s.root.node) && (addr + (n - 1)) / 2 ^ 41 == addr / 2 ^ 41 && !meetsWindow addr n

/-- The response to a message that is not performed: remote access error, or remote operation error where a block is
uncorrectable (02 R50, 22 R510). -/
def rdmaCode : AccErr → Nat
  | .fault _ => 1
  | .dataError => 2

/-- A memory access of a message, its error as its response says it. -/
def rdmaDone {α : Type} (r : Except AccErr α × State) : Except Nat α × State := (r.1.mapError rdmaCode, r.2)

/-- A message's bytes written to its target, or the error of its response (22 R507, R510). -/
def rdmaPut (s : State) (part rkey addr : Nat) (data : List Byte) : Except Nat Unit × State :=
  let n := data.length
  match rkey with
  | 0 =>
    if 65536 < addr + n then (.error 1, s)
    else (.ok (), (windowSteps addr n).foldl (fun s o => winWrite8 s part o (leAt data (o - addr) 8)) s)
  | 1 =>
    if !inSharedWindow addr n then (.error 1, s)
    else rdmaDone (writeN s { part := part, asid := 0, path := .H, ap := false } (BitVec.ofNat 57 addr) data)
  | 2 => if !localRange s addr n then (.error 1, s) else rdmaDone (writeN s (devWho part) (apertureVA addr) data)
  | _ => (.error 1, s)

/-- The bytes that a READ finds at its target; bytes of the window outside a whole aligned 8 read zero. -/
def rdmaGet (s : State) (part rkey addr n : Nat) : Except Nat (List Byte) × State :=
  match rkey with
  | 0 =>
    if 65536 < addr + n then (.error 1, s)
    else (.ok ((windowSteps addr n).foldl (fun bs o => patchBytes bs (o - addr) (toBytes 8 (winRead8 s part o)))
      (List.replicate n 0#8)), s)
  | 1 =>
    if !inSharedWindow addr n then (.error 1, s)
    else rdmaDone (readN s { part := part, asid := 0, path := .H, ap := false } (BitVec.ofNat 57 addr) n)
  | 2 => if !localRange s addr n then (.error 1, s) else rdmaDone (readN s (devWho part) (apertureVA addr) n)
  | _ => (.error 1, s)

/-- The response to a message whose memory access has this answer. -/
def answered (r : Except Nat (List Byte) × State) : (Nat × List Byte) × State :=
  match r with
  | (.ok bs, s) => ((0, bs), s)
  | (.error e, s) => ((e, []), s)

/-- RDMA_WRITE (22 R507, R510): an arriving message under the header `qp`. -/
def execRdmaWrite (part : Nat) (qp : PacketHdr) (rkey addr : Nat) (data : List Byte) (s : State) : Host.Outcome State Fault Refusal :=
  .next (respond s part qp data.length (fun s =>
    let r := rdmaPut s part rkey addr data
    answered (r.1.map (fun _ => []), r.2)))

/-- The launch-queue tail that an immediate carries (22 R511). -/
def immTail (tail imm : Nat) : Nat := add32 tail ((nbits imm 0 26 + 2 ^ 32 - tail % 2 ^ 26) % 2 ^ 26)

/-- RDMA_WRITE_WITH_IMMEDIATE (22 R511): the data first, then LQTAIL of the queue that the immediate names. -/
def execRdmaWriteWithImmediate (part : Nat) (qp : PacketHdr) (rkey addr : Nat) (data : List Byte) (imm : Nat) (s : State) :
    Host.Outcome State Fault Refusal :=
  .next (respond s part qp data.length (fun s =>
    match rdmaPut s part rkey addr data with
    | (.error e, s) => ((e, []), s)
    | (.ok _, s) =>
      let o := oLQTAIL (nbits imm 26 6)
      ((0, []), setWin32 s part o (immTail (win32 s part o) imm))))

/-- RDMA_READ (22 R507, R510). -/
def execRdmaRead (part : Nat) (qp : PacketHdr) (rkey addr len : Nat) (s : State) : Host.Outcome State Fault Refusal :=
  .next (respond s part qp len (fun s => answered (rdmaGet s part rkey addr len)))

/-- A message of any other operation is answered with an invalid-request NAK (22 R510). -/
def rdmaOther (s : State) (part : Nat) (qp : PacketHdr) (n : Nat) : State :=
  respond s part qp n (fun s => ((3, []), s))

/-! ### Other nodes -/

/-- An access of another node: the port it came in on, its GID, the address it names (01 R17, 22 R515). -/
structure PeerReq where
  tag : PeerTag
  addr : Nat
deriving DecidableEq, Repr

/-- The answer to another node's access leaves on the port that it came in on, as flits with sequence numbers that wait for
acknowledgement (01 R17, 22 R514, R515). -/
def peerSays (s : State) (r : PeerReq) (code : Nat) (bs : List Byte) (load : Load) : State :=
  { sendOn s r.tag.port r.tag.gid (headAt r.addr ++ [BitVec.ofNat 8 code]) load with peerReply := (code, bs) }

/-- What an answer carries: a whole block as its home slice holds it, other bytes as they are (01 R23, 03 R66). -/
def peerLoad (s : State) (p : Nat) (va : VA) (bs : List Byte) : Load :=
  if bs.length = 128 ∧ va.toNat % 128 = 0 then
    match (homeHit s p 0 (va.toNat / 128)).1 with
    | some (_, b) => .block b.blk
    | none => .block ⟨15, bs⟩
  else .bytes bs

def peerCode : AccErr → Nat
  | .fault .permission => 2
  | .fault _ => 1
  | .dataError => 3

/-- An access of another node performed for a partition at a local physical address (04 R84, 22 R515): kind 0 reads as many bytes as
`data` has, 1 writes them; 2 + 4 (fn + 16 t) is an atomic whose operands b and c are its bytes; 3 + 8 k is a load-reserve by
remote thread k, 7 + 8 k its conditional store. -/
def peerAccess (s : State) (r : PeerReq) (p kind : Nat) (va : VA) (data : List Byte) : State :=
  let who : Who := { part := p, asid := 0, path := .F, ap := true, port := some r.tag.port }
  let n := data.length
  let key := 2 ^ 20 + kind / 8
  let gran := (p, 0, va.toNat / 64)
  let refuse := fun (e : AccErr) (s : State) => peerSays s r (peerCode e) [] .none
  match kind % 4 with
  | 0 => (match readN s who va n with
    | (.ok bs, s) => peerSays s r 0 bs (peerLoad s p va bs)
    | (.error e, s) => refuse e s)
  | 1 => (match writeN s who va data with
    | (.ok _, s) => peerSays s r 0 [] .none
    | (.error e, s) => refuse e s)
  | 2 =>
    let fn := kind / 4 % 16
    let t := kind / 64
    let m := atomBytes t
    (match homeRmw s who .rw va m [] (fun bs =>
        (toBytes m (atomNew fn t (ofBytes bs) (leAt data 0 m) (leAt data m m)), ofBytes bs)) with
      | (.ok v, s) => peerSays s r 0 (toBytes m v) (.bytes (toBytes m v))
      | (.error e, s) => refuse e s)
  | _ =>
    if kind / 4 % 2 = 0 then
      (match homeRead s who .rw va n with
       | (.ok bs, s) => peerSays { s with resv := put s.resv key gran } r 0 bs (.bytes bs)
       | (.error e, s) => refuse e s)
    else if lookup s.resv key = some gran then
      (match homeWrite { s with resv := remove s.resv key } who va data with
       | (.ok _, s) => peerSays s r 0 (toBytes 4 0) (.bytes (toBytes 4 0))
       | (.error e, s) => refuse e s)
    else peerSays { s with resv := remove s.resv key } r 0 (toBytes 4 1) (.bytes (toBytes 4 1))

/-- FABRIC_ACCESS_ARRIVAL (01 R17, 22 R507, R515): an access that comes in on a port that is up, served for the partition whose tag
it carries, or refused. -/
def execFabricAccessArrival (gid : PeerTag) (kind addr : Nat) (data : List Byte) (s : State) : Host.Outcome State Fault Refusal :=
  let r : PeerReq := ⟨gid, addr⟩
  if !(decide (gid.port < 144) && (portOf s gid.port).up) then .next s
  else match (upto 16).find? (fun p => fgpOn s p && fgpGid s p == gid.gid) with
  | none => .next (peerSays s r 1 [] .none)
  | some p =>
    if nodeOf addr ≠ s.root.node ∨ meetsWindow addr (max 1 data.length) then .next (peerSays s r 1 [] .none)
    else .next (peerAccess s r p kind (apertureVA addr) data)

/-! ### Boot, reset, attestation, dump -/

/-- The die links, every two dies apart (01 R13). -/
def dieLinks : List Nat := (upto 5).flatMap (fun a => ((upto 5).filter (· != a)).map (dieLink a))

/-- Whether training at boot brings everything that must be there: every memory channel and every die link (22 R516, log 49). -/
def bootTrained (tick : Nat) : Bool :=
  (upto 64).all (fun c => Config.training tick (256 + c) % 3 != 0) && dieLinks.all (fun l => Config.training tick l % 3 != 0)

/-- The endpoints as boot leaves them: die links take packed blocks end to end, a port as its neighbour advertised, and one whose
training fails is down (01 R23, 03 R67, 22 R514, R516). -/
def bootPorts (tick : Nat) : SMap Port :=
  ((upto 144).filter (fun i => Config.training tick i % 3 != 0)).map (fun i => (i, Port.init.trained (Config.training tick i % 3 == 2))) ++
  dieLinks.map (fun l => (l, Port.init.trained true))

/-- The step at which boot stops, 4 where it completes: images of at most 256 KiB for the root, each verified (22 R516). -/
def bootStop (tick : Nat) : Nat :=
  if !Config.imageOk 0 || decide (262144 < (Config.image 0).length) then 1
  else if !bootTrained tick then 2
  else if !Config.imageOk 1 then 3
  else 4

/-- The module after a reset and boot (22 R516, R521): the root image measured and verified, memory, links and ports trained, the
service image verified and measured. A step that fails holds the module, every port closed, with its number. What happens next stays
with the environment. -/
def bootFrom (s : State) : State :=
  let step := bootStop s.tick
  let measure := fun (i : Nat) => sliceBytes (Config.digest (Config.image i)) 0 32
  let s := { State.reset with agenda := s.agenda, tick := s.tick, nextId := s.nextId, ports := if step = 4 then bootPorts s.tick else [] }
  { s with root := { s.root with
      m0 := measure 0, m1 := if step = 4 then measure 1 else zero32, bootStep := step, heldInReset := decide (step ≠ 4) } }

/-- COLD_RESET (22 R521): from the reset pin. -/
def execColdReset (s : State) : Host.Outcome State Fault Refusal := .next (bootFrom s)

/-- WARM_RESET (22 R521): from root firmware. -/
def execWarmReset (s : State) : Host.Outcome State Fault Refusal := .next (bootFrom s)

/-- The resources of a kind that a partition owns, one bit each (22 R517). -/
def ownedBits (regs : Nat → Word) (n part : Nat) : List Byte :=
  toBytes (n / 8) ((upto n).foldl (fun m i => if fld (regs i) 0 3 = 2 ∧ fld (regs i) 4 4 = part then m + 2 ^ i else m) 0)

/-- The partition table: the state of every resource, the channel map and the slice lists. -/
def partitionTable (s : State) : List Byte :=
  let words := fun (n : Nat) (f : Nat → Word) => (upto n).flatMap (fun i => toBytes 4 (f i).toNat)
  words 192 (getD 0#32 s.root.corst) ++ words 128 (getD 0#32 s.root.slcst) ++ words 64 (getD 0#32 s.root.chst) ++
  words 64 (getD 0#32 s.root.chmap) ++ words 16 (getD 0#32 s.root.slctl) ++ (upto 4096).map (getD 0#8 s.root.slist)

/-- The first 192 bytes of a partition's report (22 R517). -/
def reportBody (s : State) (part : Nat) : List Byte :=
  toBytes 4 1 ++ toBytes 4 (s.root.node % 2 ^ 11 * 2 ^ 16 + part) ++ (upto 4).flatMap (fun i => toBytes 8 (win64 s part (oATTNONCE + 8 * i))) ++
  sliceBytes s.root.m0 0 32 ++ sliceBytes s.root.m1 0 32 ++ ownedBits (getD 0#32 s.root.corst) 192 part ++
  ownedBits (getD 0#32 s.root.slcst) 128 part ++ ownedBits (getD 0#32 s.root.chst) 64 part ++
  sliceBytes (Config.digest (partitionTable s)) 0 32 ++ toBytes 8 0

/-- ATTESTATION_REQUEST (22 R517, R518): root firmware answers the request that a write of ATTREQ made, or the one that this write
makes: bytes 0 to 251, then the last four. -/
def execAttestationRequest (part v : Nat) (s : State) : Host.Outcome State Fault Refusal :=
  let s := if (partOf s part).att.isNone then winWrite s part oATTREQ 8 v else s
  match (partOf s part).att with
  | none => .next s
  | some a =>
    let body := reportBody s part
    let report := body ++ sliceBytes (Config.signature body) 0 64
    let s := modPart s part (fun p => { p with att := none })
    let s := (writePA s part a (report.take 252)).2
    .next (writePA s part (a + 252) (report.drop 252)).2

/-- The endpoint numbers of ports and die links. -/
def endpoints : List Nat := upto 144 ++ dieLinks

/-- What a snapshot of a line core holds, as numbers (14 R383). -/
def snapshotNats (x : Snapshot) : List Nat :=
  let half := fun (h : Half) => h.toNat
  x.code :: x.engs.flatMap (fun e => e.1 :: e.2.pc :: e.2.loops.flatMap (fun l => [l.start, l.stop, l.count])) ++
  x.k.flatMap (fun e => [e.1, e.2.toNat]) ++ x.fifos.flatMap (fun e => e.1 :: e.2.map BitVec.toNat) ++
  x.streams.flatMap (fun e => [e.1, e.2.eng, e.2.kind, e.2.addr, e.2.nrows, e.2.nel, wrapN e.2.stride 32, e.2.pos]) ++
  x.tiles.flatMap (fun e => [e.1, half e.2]) ++
  x.mq.flatMap (fun m => m.set :: m.acc.toNat :: (m.a ++ m.w).map half ++ (m.out.getD []).map BitVec.toNat)

/-- The contents of a section of a dump: the error log, the resource states, link and port status, the correction counts of the
channels' banks, the Cameo snapshots, the heads of the fault buffers and of the imprecise logs (22 R519). -/
def sectionNats (s : State) (typ : Nat) : List Nat :=
  let words := fun (n : Nat) (f : Nat → Word) => (upto n).map (fun i => (f i).toNat)
  match typ with
  | 1 => s.dram.metaLog ++ s.dram.scrubLog ++ (upto 16).flatMap (fun p => (partOf s p).fatal.flatMap (fun f => [p, f.1, f.2]))
  | 2 => words 192 (getD 0#32 s.root.corst) ++ words 128 (getD 0#32 s.root.slcst) ++ words 64 (getD 0#32 s.root.chst)
  | 3 => endpoints.flatMap (fun i => let p := portOf s i
      [i, p.up.toNat, p.packed.toNat, p.own.toNat, p.training.toNat, p.fails, p.waiting])
  | 4 => (upto 2048).map (getD 0 s.dram.corr)
  | 5 => (upto 16).flatMap (fun lc => match (lineOf s lc).snap with
      | some x => lc :: snapshotNats x
      | none => [])
  | _ => (upto 16).flatMap (fun p => [win32 s p oFBTAIL, win32 s p oFBHEAD]) ++
      s.cores.flatMap (fun c => c.2.warps.flatMap (fun w => [c.1, w.1, w.2.fplog.toNat]))

/-- A dump: header, section table, and the contents of the six section types (22 R519). -/
def dumpBytes (s : State) (reason clock : Nat) : List Byte :=
  let bodies := (upto 6).map (fun i => Config.dumpLayout (i + 1) (sectionNats s (i + 1)))
  let off := fun (i : Nat) => 160 + ((bodies.take i).map List.length).foldl (· + ·) 0
  toBytes 4 0x58445655 ++ toBytes 2 1 ++ toBytes 2 6 ++ toBytes 8 reason ++ toBytes 8 clock ++ List.replicate 40 0#8 ++
  (upto 6).flatMap (fun i => toBytes 4 (i + 1) ++ toBytes 4 (nthD [] bodies i).length ++ toBytes 8 (off i)) ++ bodies.flatten

/-- The dump written at DUMPBASE, its header last. DEDUCED: DUMPBASE is a local physical address, and the region belongs to the partition
whose set it names (22 R516, R519, log 49). -/
def writeDump (s : State) (reason : Nat) : State :=
  let bs := dumpBytes s reason (Config.freeValue s.tick 0 % 2 ^ 64)
  let a := s.root.dumpbase.toNat
  let p := chPart (chEntry s (nbits a 34 6))
  let s := (writePA s p (a + 64) (bs.drop 64)).2
  let s := (writePA s p a (bs.take 64)).2
  { s with root := { s.root with dump := bs } }

/-- MODULE_FATAL_ERROR (22 R519): 1 die link, 2 secure controller, 3 firmware memory; 5, a dump that is requested. -/
def execModuleFatalError (reason : Nat) (s : State) : Host.Outcome State Fault Refusal :=
  .next (if reason = 1 ∨ reason = 2 ∨ reason = 3 ∨ reason = 5 then writeDump s reason else s)

/-- THERMAL_LIMIT (22 R521): 1 lowers the core clock by 0.125 GHz, 2 moves Cameo to its thermal rate, 3 is above 85 °C: every
partition stops, the dump is written and the module is held in reset; 0 restores both rates. -/
def execThermalLimit (level : Nat) (s : State) : Host.Outcome State Fault Refusal :=
  let r := s.root
  .next (match level with
    | 0 => { s with root := { r with coreClock := 14, cameoSlow := false } }
    | 1 => { s with root := { r with coreClock := max 1 (r.coreClock - 1) } }
    | 2 => { s with root := { r with cameoSlow := true } }
    | 3 => let t := writeDump s 4; { t with root := { t.root with heldInReset := true } }
    | _ => s)

end Sys2Proof.Machine
end

