-- ==== Sys2Proof/Machine/Units.lean ====
section
/-! DEFINITION. Machine/Units.lean: PROMOTE and DEMOTE (10 R267 to R270), TEX, TEX.C and TRACE (10 R288 to R290), and the
events in which their units answer. -/

namespace Sys2Proof.Machine

/-- Unit work given a number of its own. -/
def pushUnit (s : State) (core : Nat) (w : Warp) (op : UnitOp) : State :=
  let job : UnitJob := { part := w.part, asid := w.asid, gslot := w.gslot, grid := w.grid, op := op }
  let id := s.nextId
  modCore { s with nextId := id + 1 } core (fun c => { c with units := put c.units id job })

/-- The work of a number removed from its unit. -/
def dropUnit (s : State) (core uid : Nat) : State := modCore s core (fun c => { c with units := remove c.units uid })

/-! ### Promotion -/

def promoteBody (prom : Bool) (f : Fields) (x : Iss) (s : State) : State :=
  let w := x.warp s
  let len := rawB w 0 f 1
  let sems := match w.gslot with
    | some g => (match groupAt s x.core g with | some y => y.rec_.sems | none => 0)
    | none => 0
  if f.c.toNat > sems then x.illegal s 2 0
  else if !guardUni w f.g then x.next s
  else if len = 0 ∨ len > 67108864 then x.illegal s 2 0
  else
    let va : VA := BitVec.ofNat 57 (rread2 w 0 f.a.toNat)
    x.next (pushUnit s x.core w (.promote x.wslot f.d.toNat va len (fld f.fn 0 2) f.c.toNat prom))

/-- PROMOTE (10 R267, R268, R270): the rows are promoted by PROMOTE_COMPLETION. -/
def execPromote (f : Fields) (s : State) : Host.Outcome State Fault Refusal := issue 137 f (promoteBody true f) s

/-- DEMOTE (10 R267, R268, R270). -/
def execDemote (f : Fields) (s : State) : Host.Outcome State Fault Refusal := issue 138 f (promoteBody false f) s

/-- The physical address of a block for a promotion; none where it is unmapped, unreadable or not local (10 R268). -/
def promotePA (s : State) (part asid : Nat) (va : VA) : Option Nat × State :=
  if regionOf va = .aperture then
    (if asid = 0 ∧ nbits va.toNat 41 14 = 0 then some (nbits va.toNat 0 41) else none, s)
  else
    let atag := atagOf asid va
    match homeSlice s part (va.toNat / 128) atag with
    | none => (none, s)
    | some h =>
      match translate s h part atag va.toNat with
      | (.error _, s) => (none, s)
      | (.ok lf, s) =>
        let pa := leafPA lf va.toNat
        (if lf.rd && isLocal s pa then some (nbits pa 0 41) else none, s)

/-- The rows that a range of blocks touches, each once, in ascending address order; none stands for blocks without one
(10 R268). -/
def rowsOf (part asid : Nat) : Nat → Nat → State → List (Option (Nat × Nat × Nat)) → List (Option (Nat × Nat × Nat)) × State
  | 0, _, s, acc => (acc.reverse, s)
  | n + 1, vb, s, acc =>
    let (pa, s) := promotePA s part asid (BitVec.ofNat 57 (vb * 128))
    let row := match pa with
      | some a => (locate s part a).map (fun l => (l.chan, l.bank, l.row))
      | none => none
    rowsOf part asid n (vb + 1) s (if row.isSome && acc.contains row then acc else row :: acc)

/-- The status fields gathered over the rows: the first hard outcome, and the rows done (10 R269). -/
def promoteRows (prom : Bool) (pri : Nat) : List (Option (Nat × Nat × Nat)) → State → Nat → Nat → (Nat × Nat) × State
  | [], s, first, n => ((first, n), s)
  | r :: rest, s, first, n =>
    let (oc, s) := match r with
      | some (chan, bank, row) => if prom then promoteRow s chan bank row pri else demoteRow s chan bank row
      | none => (ocUNMAPPED, s)
    let hard := oc == ocNOVICTIM || oc == ocPINLIMIT || oc == ocUNMAPPED
    let good := if prom then oc == ocPROMOTED || oc == ocPRESENT else oc == ocDEMOTED
    promoteRows prom pri rest s (if first = 15 ∧ hard then oc else first) (if good then n + 1 else n)

/-- PROMOTE_COMPLETION (10 R268 to R270): every row has its outcome; D is written and the semaphore incremented. -/
def execPromoteCompletion (core uid : Nat) (s : State) : Host.Outcome State Fault Refusal :=
  match lookup (coreOf s core).units uid with
  | some { part, asid, gslot, op := .promote ws dst va len pri sem prom, .. } =>
    let first := va.toNat / 128
    let (rows, s) := rowsOf part asid ((va.toNat + len - 1) / 128 - first + 1) first s []
    let ((oc, n), s) := promoteRows prom pri rows s 15 0
    let s := modWarp (dropUnit s core uid) core ws (fun w => rwrite w 0 dst (oc * 2 ^ 28 + min n 0xFFFFFF))
    let s := match gslot with
      | some g => modGroup s core g (fun y => semAdd y sem 1)
      | none => s
    .next (reap s core)
  | _ => .next s

/-! ### Texture -/

/-- A derivative of the coordinates along an axis of the quad that holds a lane; zero where a partner is outside the source
set (10 R288, 13 R357). -/
def quadDeriv (w : Warp) (a : Nat) (set : List Nat) (lane step : Nat) : List Nat :=
  let base := lane / 4 * 4
  if set.contains base && set.contains (base + step) then
    (upto 3).map (fun i => f32sub (rread w (base + step) (a + i)) (rread w base (a + i)))
  else [0, 0, 0]

/-- The operands of a lane's sample. -/
def texArg (f : Fields) (w : Warp) (set : List Nat) (lane : Nat) : TexArg :=
  let a := f.a.toNat
  { u := rread w lane a, v := rread w lane (a + 1), w := rread w lane (a + 2), l := rread w lane (a + 3),
    dx := quadDeriv w a set lane 1, dy := quadDeriv w a set lane 2, mode := fld f.fn 0 2 }

/-- The lanes whose coordinates give derivatives: the issuing ones, or all of them in a clasp region (10 R288). -/
def texSet (x : Iss) (w : Warp) (lanes : List Nat) : List Nat := if clasped w then lanes32 else (let _ := x; lanes)

/-- Samples of lanes, one after another: the words of each, no words for operands outside the instruction's range, and the lanes
refused. -/
def texLanes (core : Nat) (w : Warp) (f : Fields) (desc : Nat → VA) (set : List Nat) :
    List Nat → State → (List (Nat × List Nat) × List (Nat × VA × AccErr)) × State
  | [], s => (([], []), s)
  | l :: rest, s =>
    let (r, s) := texSample s (unitWho core w) (desc l) f.t.toNat (texArg f w set l)
    let ((good, bad), s) := texLanes core w f desc set rest s
    match r with
    | .ok (some ws) => (((l, ws) :: good, bad), s)
    | .ok none => (((l, []) :: good, bad), s)
    | .error (va, e) => ((good, (l, va, e) :: bad), s)

/-- A uniform pair as an address. -/
def pairVA (w : Warp) (lane r : Nat) : VA := BitVec.ofNat 57 (rread2 w lane r)

/-- Who a refused unit read names: the lane, or the issuing path of a uniform form. -/
def spread (op : Nat) (f : Fields) (x : Iss) (s : State) (bad : List (Nat × VA × AccErr)) : List (Nat × VA × AccErr) :=
  if uniformForm op f then bad.flatMap (fun e => (x.chargeLanes s).map (fun l => (l, e.2))) else bad

/-- TEX (10 R288): the sample is taken at issue and D written when it returns (log 27). -/
def texBody (f : Fields) (x : Iss) (s : State) : State :=
  let w := x.warp s
  let lanes := actors 164 f x w
  let ((good, bad), s') := texLanes x.core w f (fun l => BitVec.ofNat 57 (rawB w l f 2)) (texSet x w lanes) lanes s
  if good.any (·.2.isEmpty) then x.illegal s 2 0
  else
    let s := good.foldl (fun s e => pushUnit s x.core w (.tex x.wslot e.1 f.d.toNat e.2)) s'
    settle x s (spread 164 f x s bad) [] 0 4

/-- TEX (10 R288). -/
def execTex (f : Fields) (s : State) : Host.Outcome State Fault Refusal := issue 164 f (texBody f) s

/-! ### Threads that end through the units -/

/-- The record of a lane that TEX.C or TRACE leaves, its result words with it where they are known (10 R289, 16 R438). -/
def unitRecord (f : Fields) (x : Iss) (w : Warp) (lane kind r level : Nat) (words : Option (List Nat)) : ContRec :=
  let n := f.d.toNat
  let go : VA := x.pc + BitVec.ofInt 57 (litOff f)
  let c := laneRecord w lane go kind false level n r words.isSome
  { c with pay := (c.pay.take n) ++ (match words with
      | some ws => ws.map (BitVec.ofNat 32)
      | none => List.replicate r 0#32) }

/-- A lane ends with its record, the unit's words following it unless they are known; false where no room is left. -/
def leaveRecord (f : Fields) (x : Iss) (w : Warp) (lane kind r level : Nat) (words : Option (List Nat))
    (job : Nat → UnitOp) (s : State) : Bool × State :=
  let uid := s.nextId
  match addRecord s x.core (unitRecord f x w lane kind r level words) with
  | none => (false, s)
  | some s => (true, if words.isSome then s else pushUnit s x.core w (job uid))

/-- Lanes end with their records in ascending order while there is room; the others stay. -/
def leaveLanes {α : Type} (leave : Nat → α → State → Bool × State) : List (Nat × α) → State → List Nat × State
  | [], s => ([], s)
  | (l, a) :: rest, s =>
    match leave l a s with
    | (false, s) => ([], s)
    | (true, s) => let (gone, s) := leaveLanes leave rest s; (l :: gone, s)

/-- The end of a unit instruction: refused lanes stay and are reported, lanes with a record end (10 R289, R257). -/
def finishUnits (x : Iss) (s : State) (lanes gone : List Nat) (bad : List (Nat × VA × AccErr)) : State :=
  let s := clearLaneResv s x gone
  let s := settle x s bad (lanes.filter (fun l => !bad.any (fun e => e.1 == l))) 0 4
  if gone.isEmpty then s else endThreads s x.core x.wslot (laneMask (fun l => gone.contains l))

def texcBody (f : Fields) (x : Iss) (s : State) : State :=
  let w := x.warp s
  let lanes := guarded w x.mask f.g
  let r := if f.t = 8#4 then 4 else 2
  if clasped w && !lanes.isEmpty then x.illegal s 3 0
  else
    let ((good, bad), s') := texLanes x.core w f (fun l => pairVA w l f.c.toNat) (texSet x w lanes) lanes s
    if good.any (·.2.isEmpty) then x.illegal s 2 0
    else
      let (gone, s) := leaveLanes (fun l ws s =>
        leaveRecord f x w l 2 r (laneLevel w l) none (fun uid => .texC uid ws) s) good s'
      finishUnits x s lanes gone bad

/-- TEX.C (10 R289). -/
def execTexC (f : Fields) (s : State) : Host.Outcome State Fault Refusal := issue 164 f (texcBody f) s

/-- The ray in a lane's registers (10 R289). -/
def laneRayOf (w : Warp) (f : Fields) (l : Nat) : Ray :=
  { ws := (upto 8).map (fun i => rread w l (f.a.toNat + i)), first := wbit f.fn 0, cull := wbit f.fn 1 }

/-- The ray that a lane hands to the unit (10 R289, R290). -/
def laneRay (x : Iss) (w : Warp) (f : Fields) (l : Nat) : RayJob :=
  { rayJob (laneRayOf w f l) (rread2 w l f.c.toNat) with src := some ⟨x.wslot, w.placedAt, l, x.pc, x.word, x.len⟩ }
/-- The rays of lanes, none for a lane at its depth, which traces nothing (10 R290); and the lanes whose traversal meets a
refused read as the scene stands (log 29). -/
def traceLanes (x : Iss) (w : Warp) (f : Fields) :
    List Nat → State → (List (Nat × Option RayJob) × List (Nat × VA × AccErr)) × State
  | [], s => (([], []), s)
  | l :: rest, s =>
    let who := unitWho x.core w
    if laneLevel w l ≥ w.rec_.depth then
      let ((good, bad), s) := traceLanes x w f rest s
      (((l, none) :: good, bad), s)
    else
      let (r, s) := rayAhead who (kindsOf s x.core who w.grid) (2 ^ 24) (laneRay x w f l) s
      let ((good, bad), s) := traceLanes x w f rest s
      match r with
      | .error e => ((good, (l, e) :: bad), s)
      | .ok ws => (((l, some { laneRay x w f l with old := ws }) :: good, bad), s)

def traceBody (f : Fields) (x : Iss) (s : State) : State :=
  let w := x.warp s
  let lanes := guarded w x.mask f.g
  if clasped w && !lanes.isEmpty then x.illegal s 3 0
  else
    let ((good, bad), s) := traceLanes x w f lanes s
    let (gone, s) := leaveLanes (fun l j s => match j with
      | none => leaveRecord f x w l 1 4 (laneLevel w l) (some [3, 0, 0, 0]) (fun uid => .texC uid []) s
      | some j => leaveRecord f x w l 1 4 (laneLevel w l + 1) none (fun uid => .ray uid j) s) good s
    finishUnits x s lanes gone bad

/-- TRACE (10 R289, R290): the unit reads the scene after the thread has ended, one read of 64 bytes at a time (13 R354), and the
words join the record when the traversal has ended (log 27). -/
def execTrace (f : Fields) (s : State) : Host.Outcome State Fault Refusal := issue 165 f (traceBody f) s

/-- Result words put into a record, on whichever core's queue or spill slot it stands: it becomes eligible (16 R438). -/
def resultWords (s : State) (rec_ part grid : Nat) (words : List Nat) : State :=
  let fill := fun (cyc : Nat) (r : ContRec) =>
    if r.uid = rec_ ∧ !r.rdy then
      { r with pay := r.pay.take r.npay ++ words.map (BitVec.ofNat 32), rdy := true, since := cyc, rank := s.nextId }
    else r
  let s := modGrid s part grid (fun g => { g with spilled := g.spilled.map (fill 0) })
  { s with nextId := s.nextId + 1
           cores := s.cores.map (fun e => (e.1, { e.2 with contq := e.2.contq.map (fill e.2.cyc) })) }

/-- TEX_SAMPLE_RETURN (13 R358, 10 R288, R289): the sample is written to D, or into the record. -/
def execTexSampleReturn (core uid : Nat) (s : State) : Host.Outcome State Fault Refusal :=
  match lookup (coreOf s core).units uid with
  | some { op := .tex ws lane dst words, .. } =>
    let s := modWarp (dropUnit s core uid) core ws (fun w =>
      if dst = 255 then w else ((upto words.length).zip words).foldl (fun w e => rwrite w lane (dst + e.1) e.2) w)
    .next (reap s core)
  | some { part, grid, op := .texC r words, .. } => .next (resultWords (dropUnit s core uid) r part grid words)
  | _ => .next s

/-- The lane that issued a ray can still be charged with its fault: it has ended in its warp, whose other threads go on outside a
handler, and its record waits on this core. -/
def chargeable (s : State) (core rec_ : Nat) (src : RaySrc) : Bool :=
  (coreOf s core).contq.any (fun r => r.uid == rec_) &&
  (match lookup (coreOf s core).warps src.wslot with
   | some w => w.placedAt == src.placed && !w.hmode && w.trapPend.isNone && liveMask w != 0#32 &&
       (match lookup w.lanes src.lane with | some l => !l.live && l.pc == src.pc | none => false)
   | none => false)

/-- A read of a ray that is refused while the traversal runs, charged to the warp that issued it: the thread has not ended but stands
at its TRACE, which is refused there (02 R50, 13 R346). -/
def chargeRay (s : State) (core uid rec_ : Nat) (src : RaySrc) (va : VA) (e : AccErr) : State :=
  let s := modCore (dropUnit s core uid) core (fun c => { c with contq := c.contq.filter (fun r => r.uid != rec_) })
  let s := modWarp s core src.wslot (fun w => { w with lanes := adjust w.lanes src.lane (fun l => { l with live := true }) })
  settle ⟨core, src.wslot, laneMask (· == src.lane), src.pc, src.word, src.len⟩ s [(src.lane, va, e)] [] 0 4

/-- A ray whose read is refused: its warp is charged; where that is gone, the ray ends as its reads at issue left it, which 13 R354
allows (log 29). -/
def refuseRay (s : State) (core uid : Nat) (job : UnitJob) (rec_ : Nat) (j : RayJob) (e : VA × AccErr) : State :=
  match j.src, j.old with
  | some src, old =>
    if chargeable s core rec_ src then chargeRay s core uid rec_ src e.1 e.2
    else match old with
      | some words => resultWords (dropUnit s core uid) rec_ job.part job.grid words
      | none => s
  | none, some words => resultWords (dropUnit s core uid) rec_ job.part job.grid words
  | none, none => s

/-- TRACE_RESULT (13 R352 to R354): a traversal in progress takes its next read or its next child; one that has ended delivers its
words to the record; one whose read is refused is charged to its warp. -/
def execTraceResult (core uid : Nat) (s : State) : Host.Outcome State Fault Refusal :=
  match lookup (coreOf s core).units uid with
  | some { part, asid, gslot, grid, op := .ray r j } =>
    match j.res with
    | some words => .next (resultWords (dropUnit s core uid) r part grid words)
    | none =>
      let who : Who := { part := part, asid := asid, path := .X, ap := false, core := some core }
      let job := fun (j : RayJob) => ({ part := part, asid := asid, gslot := gslot, grid := grid, op := .ray r j } : UnitJob)
      match rayStep who (kindsOf s core who grid) j s with
      | (.error e, s) => .next (refuseRay s core uid (job j) r j e)
      | (.ok j, s) => .next (modCore s core (fun c => { c with units := put c.units uid (job j) }))
  | _ => .next s

end Sys2Proof.Machine
end

