-- ==== Sys2Proof/Machine/Matrix.lean ====
section
/-! DEFINITION. Machine/Matrix.lean: the matrix engine: its queue, MMA and its latent modes, tile access, ACCST and its rows,
the projection store and EDGE (11 R293 to R316, R523). -/

namespace Sys2Proof.Machine

/-! ### Tiles and the queue -/

/-- An element of a tile (06 R145): row, column. -/
def tileGet (w : Warp) (t i j : Nat) : Nat := (getD 0#32 w.tiles (t * 1024 + i * 32 + j)).toNat
def tilePut (w : Warp) (t i j v : Nat) : Warp :=
  { w with tiles := setD 0#32 w.tiles (t * 1024 + i * 32 + j) (BitVec.ofNat 32 v) }

/-- The queue of the slice of a quadrant. -/
def sliceQ (s : State) (core q : Nat) : List QEntry := getD [] (coreOf s core).slices q
def setSlice (s : State) (core q : Nat) (es : List QEntry) : State :=
  modCore s core (fun c => { c with slices := if es.isEmpty then remove c.slices q else put c.slices q es })

/-- Kinds of queue entry. -/
def qDENSE : Nat := 0
def qEXP : Nat := 1
def qABS : Nat := 2
def qACCZ : Nat := 3
def qACCWR : Nat := 4
def qACCST : Nat := 5
def qEDGE : Nat := 6

/-- The entries of a warp that have issued and not completed. -/
def warpEntries (s : State) (core ws : Nat) : List QEntry :=
  (sliceQ s core (warpAt s core ws).quadrant).filter (fun e => e.wslot == ws)

/-- Whether an entry names a tile: EDGE names none. -/
def QEntry.names (e : QEntry) (t : Nat) : Bool := e.kind != qEDGE && e.tile == t

/-- An entry put at the end of its slice's queue; a full queue stalls the warp (11 R293). -/
def enqueue (x : Iss) (s : State) (e : QEntry) : State :=
  let q := (x.warp s).quadrant
  let es := sliceQ s x.core q
  if es.length ≥ 8 then s
  else x.next (setSlice { s with nextId := s.nextId + 1 } x.core q (es ++ [{ e with num := s.nextId }]))

/-- An entry of an instruction that holds no operands. -/
def blankEntry (x : Iss) (kind tile : Nat) : QEntry :=
  { num := 0, wslot := x.wslot, pc := x.pc, inst := x.word, kind := kind, tile := tile, fn := 0, ma := 0, mb := 0, t := 0,
    a := [], b := [], xs := [], slab := 0, src := 0#32, wset := 0#32, pathMask := x.mask, dst := 0, grp := 0, va := 0#57, stride := 0,
    started := false, proj := [] }

/-- The words of a register group in every lane; a lane outside the set supplies zero (11 R298). -/
def groupWords (w : Warp) (set : List Nat) (base n : Nat) : List Nat :=
  lanes32.flatMap (fun l => (upto n).map (fun q => if set.contains l then rread w l (base + q) else 0))

/-- The scale registers of every lane; a lane outside the set supplies scales of 127 (11 R297, R298). -/
def scaleWords (w : Warp) (set : List Nat) (c : Nat) : List Nat :=
  lanes32.flatMap (fun l => (upto 4).map (fun q => if set.contains l then rread w l (c + q) else 0x7F7F7F7F))

/-- Elements of 96 bytes in a format. -/
def elemsIn (code : Nat) : Nat := 768 / cWidth code

/-- Blocks of a slab (11 R302). -/
def slabBlocks (ma mb : Nat) : Nat := cdiv (2 * elemsIn ma * elemsIn mb) 2048

/-- Projection blocks that a warp owns (11 R301). -/
def ownBlocks (w : Warp) : Nat := 4 * w.rec_.acc

def mmaBody (kind : Nat) (f : Fields) (x : Iss) (s : State) : State :=
  let w := x.warp s
  let latent := kind != qDENSE
  if latent ∧ f.c.toNat + slabBlocks f.ma.toNat f.mb.toNat > ownBlocks w then x.illegal s 2 0
  else match collSets w x f with
    | none => x.next s
    | some (src, _) =>
      let e := blankEntry x kind f.d.toNat
      enqueue x s { e with
        fn := f.fn.toNat, ma := f.ma.toNat, mb := f.mb.toNat, t := f.t.toNat,
        a := groupWords w src f.a.toNat 24, b := groupWords w src f.b.toNat 24,
        xs := if !latent && wbit f.fn 0 then scaleWords w src f.c.toNat else [],
        slab := f.c.toNat, src := laneMask (fun l => src.contains l),
        grp := (if kind = qEXP then f.b else f.a).toNat }

/-- MMA (11 R296 to R300). -/
def execMma (f : Fields) (s : State) : Host.Outcome State Fault Refusal := issue 176 f (mmaBody qDENSE f) s

/-- MMA.exp (11 R304). -/
def execMmaExp (f : Fields) (s : State) : Host.Outcome State Fault Refusal := issue 176 f (mmaBody qEXP f) s

/-- MMA.abs (11 R304). -/
def execMmaAbs (f : Fields) (s : State) : Host.Outcome State Fault Refusal := issue 176 f (mmaBody qABS f) s

/-- ACCZ (11 R306). -/
def execAccz (f : Fields) (s : State) : Host.Outcome State Fault Refusal :=
  issue 177 f (fun x s =>
    if guardUni (x.warp s) f.g then enqueue x s (blankEntry x qACCZ f.d.toNat) else x.next s) s

/-- A matrix data error recorded: in ERR and ETILE, or behind an error that they show already (11 R313, log 68). -/
def recordError (tile : Nat) (pc : VA) (w : Warp) : Warp :=
  if w.err then { w with errMore := w.errMore ++ [(tile, pc)] } else { w with err := true, etile := tile, errPc := pc }

/-- The error that ERR and ETILE show reported; one recorded behind it shows next. -/
def clearError (w : Warp) : Warp :=
  match w.errMore with
  | [] => { w with err := false }
  | e :: es => { w with etile := e.1, errPc := e.2, errMore := es }

/-- The PC of the error of a tile that is recorded and not reported. -/
def Warp.errorOf (w : Warp) (t : Nat) : Option VA :=
  if !w.err then none else if w.etile = t then some w.errPc else (w.errMore.find? (fun e => e.1 == t)).map (·.2)

/-- The error of a tile reported, which need not be the one that ERR and ETILE show. -/
def clearTile (t : Nat) (w : Warp) : Warp :=
  if w.etile = t then clearError w else { w with errMore := w.errMore.eraseP (fun e => e.1 == t) }

/-- The precise data error of a tile's matrix entry reported by an instruction, which clears it: the lanes it would write trap, the
path where it writes none, and the path's other lanes go on (07 R166, 11 R313, 17 R444, R446). -/
def reportMatrix (x : Iss) (wset : List Nat) (t : Nat) (pc : VA) (s : State) : State :=
  let mask := if wset.isEmpty then x.mask else laneMask (fun l => wset.contains l)
  let s := x.mod s (fun w => if w.hmode then w else advance w (x.mask &&& ~~~mask) x.len)
  x.trap (x.mod s (clearTile t)) 8 2 mask t (pc.setWidth 64)

/-- ACCRD (11 R306, R307): the path stays until the tile's earlier entries have completed. -/
def execAccrd (f : Fields) (s : State) : Host.Outcome State Fault Refusal :=
  issue 178 f (fun x s =>
    let w := x.warp s
    let t := f.a.toNat
    let n := fld f.fn 0 2
    match collSets w x f with
    | none => x.next s
    | some (_, wset) =>
      if (warpEntries s x.core x.wslot).any (fun e => e.names t) then s
      else match w.errorOf t with
        | some pc => reportMatrix x wset t pc s
        | none => x.next (x.mod s (fun w => wset.foldl (fun w l => (upto 8).foldl (fun w k =>
        rwrite w l (f.d.toNat + k) (tileGet w t l (8 * n + k))) w) w))) s

/-- ACCWR (11 R306). -/
def execAccwr (f : Fields) (s : State) : Host.Outcome State Fault Refusal :=
  issue 179 f (fun x s =>
    let w := x.warp s
    match collSets w x f with
    | none => x.next s
    | some (_, wset) =>
      let e := blankEntry x qACCWR f.d.toNat
      enqueue x s { e with fn := f.fn.toNat, a := groupWords w wset f.a.toNat 8,
                           wset := laneMask (fun l => wset.contains l) }) s

/-- Bytes of an element that ACCST writes (11 R308). -/
def accstBytes (fn : Nat) : Nat := if fn = 0 then 4 else 2

/-- ACCST (11 R308, R309): one that reports an error waits until the tile's earlier entries are discarded. -/
def execAccst (f : Fields) (s : State) : Host.Outcome State Fault Refusal :=
  issue 180 f (fun x s =>
    let w := x.warp s
    let va := rread2 w 0 f.a.toNat
    let stride := rread w 0 f.b.toNat
    let row := 32 * accstBytes f.fn.toNat
    if !guardUni w f.g then x.next s
    else if stride % 64 ≠ 0 ∨ stride < row then x.illegal s 2 0
    else if va % 64 ≠ 0 then x.trap s 4 0 x.mask 0 (BitVec.ofNat 64 va)
    else match w.errorOf f.c.toNat with
      | some pc => if (warpEntries s x.core x.wslot).any (fun e => e.names f.c.toNat) then s else reportMatrix x [] f.c.toNat pc s
      | none =>
        let e := blankEntry x qACCST f.c.toNat
        enqueue x s { e with fn := f.fn.toNat, va := BitVec.ofNat 57 va, stride := stride }) s

/-- MWAIT (11 R310, R313): the path stays while an entry of the warp is not complete or a row is not acknowledged; then it
reports an error. -/
def execMwait (f : Fields) (s : State) : Host.Outcome State Fault Refusal :=
  issue 181 f (fun x s =>
    let w := x.warp s
    if !guardUni w f.g then x.next s
    else if !(warpEntries s x.core x.wslot).isEmpty ∨ !w.rows.isEmpty then s
    else if w.err then reportMatrix x [] w.etile w.errPc s
    else x.next s) s

/-- MSTAT (11 R311). -/
def execMstat (f : Fields) (s : State) : Host.Outcome State Fault Refusal :=
  issue 184 f (fun x s =>
    let w := x.warp s
    if !guardUni w f.g then x.next s
    else
      let es := warpEntries s x.core x.wslot
      let busy := (upto 8).foldl (fun m t => if es.any (fun e => e.names t) then m + 2 ^ t else m) 0
      let v := (if w.err then 2 ^ 31 else 0) + w.etile * 2 ^ 28 + min w.rerun 255 * 2 ^ 16 + es.length * 256 + busy
      x.next (x.mod s (fun w =>
        let w := rwrite w 0 f.d.toNat v
        if wbit f.fn 0 then { w with rerun := 0 } else w))) s

/-! ### EDGE -/

/-- EDGE (11 R315): an edge whose c is out of range is an illegal operand. -/
def execEdge (f : Fields) (s : State) : Host.Outcome State Fault Refusal :=
  issue 183 f (fun x s =>
    let w := x.warp s
    match collSets w x f with
    | none => x.next s
    | some (src, wset) =>
      let en := fun (l : Nat) => src.contains l && nbit (rread w l f.b.toNat) 31
      let c := fun (l : Nat) => sxt (rread w l (f.a.toNat + 2) + 2 ^ 32 * rread w l (f.a.toNat + 3)) 64
      let big : Int := ((2 ^ 62 : Nat) : Int)
      if lanes32.any (fun l => en l && (decide (c l < -big) || decide (c l ≥ big))) then x.illegal s 2 0
      else
        let e := blankEntry x qEDGE 0
        enqueue x s { e with
          a := groupWords w src f.a.toNat 4, b := groupWords w src f.b.toNat 1, dst := f.d.toNat,
          wset := laneMask (fun l => wset.contains l) }) s

/-- Whether a sample is inside an edge (11 R316). -/
def edgeIn (a b c : Int) (smp : Nat) : Bool :=
  let v := a * (256 * (smp % 16 : Nat) + 128 : Nat) + b * (256 * (smp / 16 : Nat) + 128 : Nat) + c
  decide (v > 0) || (decide (v = 0) && (decide (a > 0) || (decide (a = 0) && decide (b > 0))))

/-- The mask of an edge's samples. -/
def edgeMask (a b c : Int) : Nat :=
  (upto 256).foldl (fun m smp => if edgeIn a b c smp then m + 2 ^ smp else m) 0

/-- The mask of triangle `t` over the enabled edges (11 R316). -/
def edgeTriangle (e : QEntry) (t : Nat) : Nat :=
  let g := fun (l k : Nat) => e.a.getD (4 * l + k) 0
  let mine := lanes32.filter (fun l => nbit (e.b.getD l 0) 31 && nbits (e.b.getD l 0) 0 5 == t)
  if mine.isEmpty then 0
  else mine.foldl (fun m l =>
    m &&& edgeMask (sxt (g l 0) 32) (sxt (g l 1) 32) (sxt (g l 2 + 2 ^ 32 * g l 3) 64)) (2 ^ 256 - 1)

/-! ### The products -/

/-- The 768-bit string of a lane's group of 24 registers (11 R297). -/
def laneString (ws : List Nat) (l : Nat) : Nat := packElems 32 ((ws.drop (24 * l)).take 24)

/-- A value whose NaN is quiet. -/
def FVal.quiet (v : FVal) : FVal := if v.isNan then .nan false else v

/-- The values of a lane's elements in a float format; only FP16 and BF16 have a signalling NaN that the engine notices
(11 R300). -/
def laneVals (code : Nat) (str : Nat) : List FVal :=
  (upto (elemsIn code)).map (fun k =>
    let v := fdecode ((cFmt code).getD fp32) (elemN str (cWidth code) k)
    if code = 6 ∨ code = 7 then v else v.quiet)

/-- An exact sum of products: the value by 06 R163, and NV where it meets 0 × ∞, infinities of opposite sign, or a
signalling NaN (11 R300). -/
def dotExact (xs ys : List FVal) : FVal × Flags :=
  let ps := xs.zip ys
  let bad := ps.any (fun p => mulInvalid p.1 p.2)
  let prods := ps.map (fun p => fmul p.1 p.2)
  let opp := prods.any (fun v => v.isInf && v.neg) && prods.any (fun v => v.isInf && !v.neg)
  let sig := ps.any (fun p => p.1.isSig || p.2.isSig)
  (exactSum prods, flagIf (bad || opp || sig) flNV)

/-- The chunk size of a format (06 R162). -/
def chunkOf (code : Nat) : Nat := if code = 6 ∨ code = 7 then 16 else 32

/-- The chunks of an element of a float tile accumulated in order (06 R162, R163): scales of each chunk in byte lists. -/
def accChunks (kc : Nat) (sa sb : List Nat) : Nat → Nat → List FVal → List FVal → Nat → Nat × Flags
  | 0, _, _, _, acc => (acc, 0#5)
  | n + 1, q, xs, ys, acc =>
    let (v, fl) := dotExact (xs.take kc) (ys.take kc)
    let ea := sa.getD q 127
    let eb := sb.getD q 127
    let v := if ea = 255 ∨ eb = 255 then FVal.nan false else v.scale ((ea : Int) + eb - 254)
    let (r, f1) := rnd fp32 .rne false v
    let (acc', f2) := rnd fp32 .rne false (fadd false (f32 acc) (f32 r))
    let inv := flagIf (addInvalid (f32 acc) (f32 r)) flNV
    let (out, f3) := accChunks kc sa sb n (q + 1) (xs.drop kc) (ys.drop kc) acc'
    (out, fl ||| ((f1 ||| f2) &&& flOF) ||| inv ||| f3)

/-- The chunks of an element of an integer tile (06 R164). -/
def accInt (xs ys : List Int) (acc : Nat) : Nat :=
  wrapN ((acc : Int) + ((xs.zip ys).map (fun p => p.1 * p.2)).foldl (· + ·) 0) 32

/-- A scale byte list of a lane: A's scales in registers c and c + 1, B's in the next two (11 R297). -/
def laneScales (xs : List Nat) (l half : Nat) : List Nat :=
  if xs.isEmpty then List.replicate 6 127
  else
    let v := xs.getD (4 * l + 2 * half) 0 + 2 ^ 32 * xs.getD (4 * l + 2 * half + 1) 0
    (upto 6).map (fun q => elemN v 8 q)

/-- Element k, m of a slab (11 R302). -/
def slabVal (proj : List Byte) (nB k m : Nat) : FVal := fdecode bf16 (leAt proj (2 * (k * nB + m)) 2)

/-- The patterns of values rounded by the decompression stage, with NV and OF (11 R304). -/
def stageOut (m : Fmt) (xs ys : List FVal) : Nat × Flags :=
  let (v, fl) := dotExact xs ys
  let (r, f1) := rnd m .rne true v
  (r, fl ||| (f1 &&& flOF))

/-- The stage over the rows of a fragment: output patterns, and flags. -/
def stageRows (code : Nat) (rows : List (List FVal)) (cols : List (List FVal)) : List (List Nat) × Flags :=
  let m := (cFmt code).getD fp32
  rows.foldr (fun row (acc : List (List Nat) × Flags) =>
    let outs := cols.map (fun col => stageOut m col row)
    (outs.map (·.1) :: acc.1, outs.foldl (fun fl o => fl ||| o.2) acc.2)) ([], 0#5)

/-- The groups of a lane's elements of a format. -/
def fragment (code : Nat) (ws : List Nat) : List (List FVal) := lanes32.map (fun l => laneVals code (laneString ws l))

/-- The words of the group that a latent mode transforms, and the format its stage gives (11 R304). -/
def QEntry.staged (e : QEntry) : List Nat := if e.kind = qEXP then e.b else e.a
def QEntry.stageCode (e : QEntry) : Nat := if e.kind = qEXP then e.ma else e.mb

/-- What the stage makes of the group that a latent mode transforms (11 R304). -/
def stageRun (e : QEntry) : List (List Nat) × Flags :=
  let nA := elemsIn e.ma
  let nB := elemsIn e.mb
  if e.kind = qEXP then
    stageRows e.ma (fragment e.mb e.b) ((upto nA).map (fun k => (upto nB).map (fun m => slabVal e.proj nB k m)))
  else if e.kind = qABS then
    stageRows e.mb (fragment e.ma e.a) ((upto nB).map (fun m => (upto nA).map (fun k => slabVal e.proj nB k m)))
  else ([], 0#5)

/-- Whether a transform buffer spares an entry the stage: its six values are the entry's, and the group and the slab still held
what the stage had taken from them (11 R305, log 69). -/
def Xform.serves (x : Xform) (e : QEntry) : Bool :=
  x.wslot == e.wslot && x.mode == e.kind && x.grp == e.grp && x.ma == e.ma && x.mb == e.mb && x.slab == e.slab &&
  x.src == e.staged && x.proj == e.proj

/-- The stage's output for an entry, from the buffer of its slice where that serves it (11 R305). -/
def stageOf (x : Option Xform) (e : QEntry) : List (List Nat) × Flags :=
  match x with
  | some b => if b.serves e then (b.out, b.flags) else stageRun e
  | none => stageRun e

/-- What a slice's buffer holds once a latent entry has run (11 R305). -/
def QEntry.buffered (e : QEntry) (st : List (List Nat) × Flags) : Xform :=
  { wslot := e.wslot, mode := e.kind, grp := e.grp, ma := e.ma, mb := e.mb, slab := e.slab, src := e.staged, proj := e.proj,
    out := st.1, flags := st.2 }

/-- The operands of the array, in a latent mode the output of the stage among them: rows of A, columns of B, their format, and the
stage's flags (11 R304). -/
def arrayOperands (st : List (List Nat) × Flags) (e : QEntry) : List (List FVal) × List (List FVal) × Nat × Flags :=
  let out := st.1.map (fun r => r.map (fdecode ((cFmt e.stageCode).getD fp32)))
  if e.kind = qEXP then (fragment e.ma e.a, out, e.ma, st.2)
  else if e.kind = qABS then (out, fragment e.mb e.b, e.mb, st.2)
  else (fragment e.ma e.a, fragment e.mb e.b, e.ma, 0#5)

/-- The tile of an MMA under the output of its stage: element i, j for all rows and columns, with the flags it records (11 R299,
R300, R304). -/
def mmaTile (w : Warp) (st : List (List Nat) × Flags) (e : QEntry) : List (Nat × Nat × Nat) × Flags :=
  let z := wbit (BitVec.ofNat 4 e.fn) 1
  let start := fun (i j : Nat) => if z then 0 else tileGet w e.tile i j
  if e.t = 0 then
    let ints := fun (ws : List Nat) (l : Nat) => (upto 96).map (fun k => sxt (elemN (laneString ws l) 8 k) 8)
    let as := lanes32.map (ints e.a)
    let bs := lanes32.map (ints e.b)
    (lanes32.flatMap (fun i => lanes32.map (fun j => (i, j, accInt (as.getD i []) (bs.getD j []) (start i j)))), 0#5)
  else
    let (as, bs, code, fl) := arrayOperands st e
    let kc := chunkOf code
    let n := elemsIn code / kc
    let outs := lanes32.flatMap (fun i => lanes32.map (fun j =>
      (i, j, accChunks kc (laneScales e.xs i 0) (laneScales e.xs j 1) n 0 (as.getD i []) (bs.getD j []) (start i j))))
    (outs.map (fun o => (o.1, o.2.1, o.2.2.1)), outs.foldl (fun fl o => fl ||| o.2.2.2) fl)

/-! ### The checks of the array -/

/-- The sums of the columns of rows of values. -/
def colSums (rows : List (List FVal)) (n : Nat) : List FVal := (upto n).map (fun k => exactSum (rows.map (fun r => r.getD k (.num false 0 0))))

/-- The exact unscaled sums S[i][j] of a chunk of operands (11 R312). -/
def chunkSums (as bs : List (List FVal)) : List (List FVal) := as.map (fun a => bs.map (fun b => exactSum (List.zipWith fmul a b)))

/-- Whether sums of a chunk fail the comparison with U and V, formed from its operands (11 R312). -/
def sumsDiffer (as bs : List (List FVal)) (k : Nat) (sums : List (List FVal)) : Bool :=
  let u := bs.map (fun b => exactSum (List.zipWith fmul (colSums as k) b))
  let v := as.map (fun a => exactSum (List.zipWith fmul a (colSums bs k)))
  (List.zipWith (fun x y => fcmp x y != 0) (colSums sums bs.length) u).any id ||
  (List.zipWith (fun x y => fcmp x y != 0) (sums.map exactSum) v).any id

/-- A chunk that holds an infinite or NaN operand is left out of the comparison (11 R312). -/
def chunkCompared (as bs : List (List FVal)) : Bool := (as ++ bs).all (fun r => r.all (fun v => !v.isNan && !v.isInf))

/-- Sums of a chunk with an upset in one of them (log 68). -/
def upsetSums : List (List FVal) → List (List FVal)
  | (x :: xs) :: rows => (exactSum [x, .ofInt 1] :: xs) :: rows
  | rows => rows

/-- The chunk `q` of rows of operands. -/
def chunkOfRows (rows : List (List FVal)) (k q : Nat) : List (List FVal) := rows.map (fun r => (r.drop (k * q)).take k)

/-- Whether an upset of the array in some chunk of an MMA is seen by the comparison (11 R312). -/
def mismatchSeen (st : List (List Nat) × Flags) (e : QEntry) : Bool :=
  if e.t = 0 then true
  else
    let (as, bs, code, _) := arrayOperands st e
    let k := chunkOf code
    (upto (elemsIn code / k)).any (fun q =>
      let a := chunkOfRows as k q
      let b := chunkOfRows bs k q
      chunkCompared a b && sumsDiffer a b k (upsetSums (chunkSums a b)))

/-! ### Start and completion of entries -/

/-- Bytes of a slab in the projection store. -/
def slabBytes (w : Warp) (block n : Nat) : List Byte := readRun w.proj (block * 2048) (n * 2048)

/-- Whether an entry reads projection blocks of a range. -/
def QEntry.reads (e : QEntry) (first n : Nat) : Bool :=
  (e.kind == qEXP || e.kind == qABS) && decide (first < e.slab + slabBlocks e.ma e.mb) && decide (e.slab < first + n)

/-- Projection loads of a warp in flight that an entry must follow (11 R303). -/
def afterPload (s : State) (core : Nat) (e : QEntry) : Bool :=
  (coreOf s core).units.any (fun u => match u.2.op with
    | .pload ws _ _ first n => ws == e.wslot && decide (u.1 < e.num) && e.reads first n
    | _ => false)

/-- The first entry of a queue that has not started is started. -/
def startFirst (w : Nat → Warp) : List QEntry → List QEntry
  | [] => []
  | e :: es =>
    if e.started then e :: startFirst w es
    else
      let slab := if e.kind = qEXP ∨ e.kind = qABS then slabBytes (w e.wslot) e.slab (slabBlocks e.ma e.mb) else []
      { e with started := true, proj := slab } :: es

/-- QUEUE_ENTRY_START (11 R293): entries start strictly in issue order. -/
def execQueueEntryStart (core slice : Nat) (s : State) : Host.Outcome State Fault Refusal :=
  let es := sliceQ s core slice
  match es.find? (fun e => !e.started) with
  | none => .next s
  | some e => if afterPload s core e then .next s else .next (setSlice s core slice (startFirst (warpAt s core) es))

/-- A matrix data error recorded; the entry leaves its queue and the tile keeps its snapshot; an MMA that was run once more
has raised RERUN (11 R313). -/
def matrixError (s : State) (core slice : Nat) (e : QEntry) (es : List QEntry) (again : Bool) : State :=
  modWarp (setSlice s core slice es) core e.wslot (fun w =>
    recordError e.tile e.pc { w with rerun := if again then min 255 (w.rerun + 1) else w.rerun })

/-- The rows that an ACCST sends (11 R308, R523): held when an earlier row of the warp is. -/
def accstRows (w : Warp) (e : QEntry) : List HeldRow × Flags :=
  let n := accstBytes e.fn
  let hold := w.rows.any (fun r => !r.sent)
  let conv := fun (v : Nat) =>
    if e.fn = 0 then (v, 0#5) else rnd (if e.fn = 1 then bf16 else fp16) .rne false (f32 v)
  let row := fun (i : Nat) => lanes32.map (fun j => conv (tileGet w e.tile i j))
  (lanes32.map (fun i =>
    { num := e.num, pc := e.pc, inst := e.inst, pathMask := e.pathMask, tile := e.tile, va := e.va + BitVec.ofNat 57 (i * e.stride),
      bytes := (row i).flatMap (fun p => toBytes n p.1), sent := !hold, gate := false }),
   lanes32.foldl (fun fl i => (row i).foldl (fun fl p => fl ||| p.2) fl) 0#5)

/-- The transform buffer of a slice. -/
def bufferOf (s : State) (core slice : Nat) : Option Xform := lookup (coreOf s core).xform slice

/-- A latent entry leaves what its stage gave in the buffer of its slice (11 R305). -/
def keepStage (s : State) (core slice : Nat) (e : QEntry) (st : List (List Nat) × Flags) : State :=
  if e.kind = qEXP ∨ e.kind = qABS then
    modCore s core (fun c => { c with xform := put c.xform slice (e.buffered st) })
  else s

/-- QUEUE_ENTRY_COMPLETION (11 R293, R299, R305 to R313, R316): the oldest entry takes effect. In `mismatches` runs of an MMA,
0 to 2, an upset of the array fails the comparison; a first mismatch runs it once more, a second one is a matrix data error, as
is an uncorrectable word that the entry reads (a number of 3 or more). -/
def execQueueEntryCompletion (core slice mismatches : Nat) (s : State) : Host.Outcome State Fault Refusal :=
  match sliceQ s core slice with
  | [] => .next s
  | e :: es =>
    let w := warpAt s core e.wslot
    let mma := decide (e.kind ≤ qABS)
    let dropped := (w.errorOf e.tile).isSome && (mma || e.kind == qACCZ || e.kind == qACCWR)
    let st := stageOf (bufferOf s core slice) e
    let mismatches := if mma && mismatches ≤ 2 && !mismatchSeen st e then 0 else mismatches
    if !e.started then .next s
    else if dropped then .next (reap (setSlice s core slice es) core)
    else if decide (2 ≤ mismatches) && (mma || e.kind == qACCST) then
      .next (reap (keepStage (matrixError s core slice e es (mma && mismatches == 2)) core slice e st) core)
    else
      let s := keepStage (setSlice s core slice es) core slice e st
      let s :=
        if mma then
          let (outs, fl) := mmaTile w st e
          let s := modWarp s core e.wslot (fun w =>
            let w := outs.foldl (fun w o => tilePut w e.tile o.1 o.2.1 o.2.2) w
            if mismatches = 1 then { w with rerun := min 255 (w.rerun + 1) } else w)
          addFlags s core e.wslot e.pc fl
        else if e.kind = qACCZ then
          modWarp s core e.wslot (fun w => { w with tiles := w.tiles.filter (fun t => t.1 / 1024 != e.tile) })
        else if e.kind = qACCWR then
          modWarp s core e.wslot (fun w => (maskLanes e.wset).foldl (fun w l => (upto 8).foldl (fun w k =>
            tilePut w e.tile l (8 * (e.fn % 4) + k) (e.a.getD (8 * l + k) 0)) w) w)
        else if e.kind = qACCST then
          let (rows, fl) := accstRows w e
          addFlags (modWarp s core e.wslot (fun w => { w with rows := w.rows ++ rows })) core e.wslot e.pc fl
        else
          modWarp s core e.wslot (fun w => (maskLanes e.wset).foldl (fun w l => (upto 8).foldl (fun w k =>
            rwrite w l (e.dst + k) (nbits (edgeTriangle e l) (32 * k) 32)) w) w)
      .next (reap s core)

/-- What stands against storing in the block at an address, before anything is written: a row that covers a whole block replaces an
uncorrectable one, and one that covers part of it is refused (11 R309, R523, 02 R51, 03 R70). -/
def storeNeed (s : State) (who : Who) (va : VA) (n : Nat) : Option AccErr × State :=
  match writeTarget s who va (n = 128) with
  | (.ok (.block _ b), s) =>
    (if !b.wr then some (.fault .permission)
     else if n = 128 then none
     else match blockBytes b with
       | .ok _ => none
       | .error e => some e, s)
  | (.ok (.remote node pa lf), s) =>
    (if !lf.wr then some (.fault .permission) else if !reachable s node then some .dataError else peerVerdict s.tick pa, s)
  | (.ok (.window _ _), s) => (some (.fault .physRange), s)
  | (.error e, s) => (some e, s)

/-- The first block of a range that refuses a store, checked before any byte is written (11 R523). -/
def storeCheck (s : State) (who : Who) (va : VA) : Nat → Nat → Option (VA × AccErr) × State
  | _, 0 => (none, s)
  | n, k + 1 =>
    if n = 0 then (none, s)
    else
      let m := min n (128 - va.toNat % 128)
      match storeNeed s who va m with
      | (some e, s) => (some (va, e), s)
      | (none, s) => storeCheck s who (va + BitVec.ofNat 57 m) (n - m) k

/-- A row's bytes written to the core's own L1 lines, as any store of its threads (04 R77, 11 R309). -/
def patchRow (s : State) (core : Nat) (w : Warp) (va : VA) (bs : List Byte) : State :=
  (upto (cdiv bs.length 64)).foldl (fun s i =>
    let a := va + BitVec.ofNat 57 (64 * i)
    let s := markNoFill s core w.part (atagOf w.asid a) (a.toNat / 64)
    l1Patch s core w.part (atagOf w.asid a) a ((bs.drop (64 * i)).take 64)) s

/-- An access of the warp that was accepted before a row is not performed on bytes of it yet (12 R319). -/
def rowBehind (s : State) (core ws : Nat) (w : Warp) (r : HeldRow) : Bool :=
  s.reqs.any (fun e => e.2.core == core && e.2.wslot == ws && !e.2.op.isPref && e.2.atag == atagOf w.asid r.va &&
    decide (e.2.va.toNat < r.va.toNat + r.bytes.length) && decide (r.va.toNat < e.2.va.toNat + e.2.size) &&
    (match e.2.stage with | .replied _ | .refused _ | .merged => false | _ => true))

/-- A row on its way may be answered: every row of earlier ACCSTs of the warp was accepted or discarded, so was each before it that
was sent again with it, and no earlier access is still to be performed there (11 R523, 12 R319). -/
def rowReady (s : State) (core ws : Nat) (w : Warp) (row : Nat) (r : HeldRow) : Bool :=
  r.sent && (w.rows.take row).all (fun q => q.num == r.num && !(r.gate && q.gate)) && !rowBehind s core ws w r

/-- A row refused: it is held, with every row after it of later ACCSTs, and of its own where they were sent again in order. -/
def holdRows (num : Nat) (q : HeldRow) : HeldRow := if q.num = num && !q.gate then q else { q with sent := false }

/-- ACCST_ROW_ANSWER (11 R523): the row is accepted and written; or it is refused and held with those behind it; or, for a data
error, discarded with a matrix data error of its tile. -/
def execAccstRowAnswer (core uid row : Nat) (s : State) : Host.Outcome State Fault Refusal :=
  let w := warpAt s core uid
  match w.rows[row]? with
  | none => .next s
  | some r =>
    if !rowReady s core uid w row r then .next s
    else
      let who := warpWho core w
      match storeCheck s who r.va r.bytes.length 3 with
      | (none, s) =>
        let s := patchRow (writeN s who r.va r.bytes).2 core w r.va r.bytes
        .next (reap (modWarp s core uid (fun w => { w with rows := w.rows.eraseIdx row })) core)
      | (some (va, .fault c), s) =>
        let s := modWarp s core uid (fun w =>
          { w with rows := w.rows.take row ++ { r with sent := false } :: (w.rows.drop (row + 1)).map (holdRows r.num) })
        .next (reserveFaults s core uid r.pc r.inst 8 ((maskLanes r.pathMask).map (fun l => ⟨l, va, c, 1, 0⟩)) (some r.num))
      | (some (_, .dataError), s) =>
        .next (modWarp s core uid (fun w =>
          recordError r.tile r.pc { w with rows := w.rows.eraseIdx row }))

/-! ### PLOAD -/

def ploadBody (f : Fields) (x : Iss) (s : State) : State :=
  let w := x.warp s
  let va := rread2 w 0 f.a.toNat
  let n := f.b.toNat
  if n = 0 ∨ n > 32 ∨ f.c.toNat + n > ownBlocks w then x.illegal s 2 0
  else if !guardUni w f.g then x.next s
  else if va % 128 ≠ 0 then x.illegal s 2 0
  else
    let (iid, s) := freshIid s
    let uid := s.nextId
    let s := pushUnit s x.core w (.pload x.wslot iid (BitVec.ofNat 57 va) f.c.toNat n)
    let rec_ : Infl :=
      { iid := iid, pc := x.pc, len := x.len, inst := x.word, lanes := x.mask, pathMask := x.mask, open_ := [uid],
        faults := [], derr := [] }
    x.mod s (fun w => modLanes { w with infl := w.infl ++ [rec_] } x.mask (fun _ l => { l with wait := .mem iid }))

/-- PLOAD (11 R303): the path waits for PLOAD_COMPLETION. -/
def execPload (f : Fields) (s : State) : Host.Outcome State Fault Refusal := issue 182 f (ploadBody f) s

/-- Transform buffers made from a slab of these projection blocks of a warp are invalid (11 R305). -/
def dropStage (s : State) (core ws first n : Nat) : State :=
  modCore s core (fun c => { c with xform := c.xform.filter (fun e =>
    !(e.2.wslot == ws && decide (first < e.2.slab + slabBlocks e.2.ma e.2.mb) && decide (e.2.slab < first + n))) })

/-- The blocks of a projection load read from their home slices, and where a read is refused (11 R303). -/
def ploadRead (who : Who) : Nat → VA → State → (Except (VA × AccErr) (List Byte)) × State
  | 0, _, s => (.ok [], s)
  | n + 1, va, s =>
    match homeRead s who .rd va 128 with
    | (.error e, s) => (.error (va, e), s)
    | (.ok bs, s) =>
      match ploadRead who n (va + 128#57) s with
      | (.error e, s) => (.error e, s)
      | (.ok cs, s) => (.ok (bs ++ cs), s)

/-- PLOAD_COMPLETION (11 R303): once the path's earlier stores are acknowledged and earlier entries that read the blocks have
started, the blocks are written and the path proceeds; after a data error they hold free values. -/
def execPloadCompletion (core uid : Nat) (s : State) : Host.Outcome State Fault Refusal :=
  match lookup (coreOf s core).units uid with
  | some { op := .pload ws iid va first n, .. } =>
    let w := warpAt s core ws
    let lanes := match w.infl.find? (fun f => f.iid == iid) with | some f => f.pathMask | none => 0#32
    if !releaseReady s core ws lanes 2 ∨
      (warpEntries s core ws).any (fun e => !e.started && decide (e.num < uid) && e.reads first n) then .next s
    else
      let put := fun (bs : List Byte) (s : State) =>
        modWarp (dropStage s core ws first n) core ws (fun w => { w with proj := writeRun w.proj (first * 2048) bs })
      match ploadRead (warpWho core w) (16 * n) va (dropUnit s core uid) with
      | (.ok bs, s) => .next (answerInfl (put bs s) core ws iid uid lanes va 0 none)
      | (.error (a, .fault c), s) => .next (answerInfl s core ws iid uid lanes a 0 (some (.fault c)))
      | (.error (a, .dataError), s) =>
        let s := put ((upto (2048 * n)).map (fun i => BitVec.ofNat 8 (Config.freeValue s.tick i))) s
        .next (answerInfl s core ws iid uid lanes a 0 (some .dataError))
  | _ => .next s

end Sys2Proof.Machine
end

