-- ==== Sys2Proof/Machine/Paths.lean ====
section
/-! DEFINITION. Machine/Paths.lean: the paths of a warp (08 R190). -/

namespace Sys2Proof.Machine

/-- A path of a warp: its lanes, its PC and what its lanes wait for. A handler is a path of no lane (17 R447). -/
structure PathAt where
  mask : Word
  pc : VA
  wait : LWait
deriving DecidableEq, Repr

/-- A lane put into the path of its PC and wait. -/
def joinPath (l : Nat) (t : Lane) : List PathAt → List PathAt
  | [] => [⟨BitVec.twoPow 32 l, t.pc, t.wait⟩]
  | p :: ps =>
    if p.pc = t.pc ∧ p.wait = t.wait then { p with mask := p.mask ||| BitVec.twoPow 32 l } :: ps
    else p :: joinPath l t ps

/-- Whether a thread can be in a path that issues: it has not ended and is not held by a handler (08 R190, 17 R446). -/
def Lane.walks (l : Lane) : Bool := l.live && !l.trp

/-- Whether every thread of the open clasp region stands at an address or beyond it: its path never divides, so lanes whose
instruction is over wait for those that are still at it (08 R211, R212). -/
def claspBehind (w : Warp) (pc : VA) : Bool :=
  w.lanes.all (fun e => !(e.2.walks && w.cmask.getLsbD e.1) || decide (pc.toNat ≤ e.2.pc.toNat))

/-- The paths of a warp: threads of equal PC (08 R190); in an open clasp region the opening path alone (08 R211). -/
def pathsOf (w : Warp) : List PathAt :=
  if w.hmode then [⟨0#32, w.hpc, .none⟩]
  else w.lanes.foldl (fun ps e =>
    if e.2.walks && (!w.clOpen || (w.cmask.getLsbD e.1 && claspBehind w e.2.pc)) then joinPath e.1 e.2 ps else ps) []

/-- Whether a wait leaves its lane able to issue. -/
def LWait.issues : LWait → Bool
  | .none | .cwait _ | .passed => true
  | .barGrp | .barObj _ _ _ | .mem _ => false

end Sys2Proof.Machine
end

