-- ==== Sys2Proof/Machine/Ready.lean ====
section
/-! DEFINITION. Machine/Ready.lean: whether a path can issue: fetch (04 R76, 07 R168), the interlock (08 R188), readiness
(16 R434), and the path that a warp is about to issue (16 R436, 17 R444, R457). -/

namespace Sys2Proof.Machine

/-! ### Fetch -/

/-- What stands at a PC: an instruction with its opcode, fields, first word and length; a word that is refused; or an access
refused at an address, with the first word where it was read. -/
inductive Found where
  | ok (i : Instr) (op : Nat) (f : Fields) (word : DWord) (len : Nat)
  | bad (word : DWord) (len : Nat)
  | fails (va : VA) (word : DWord) (len : Nat) (e : AccErr)

/-- The instruction of a word and its literal. -/
def foundOf (w lit : DWord) : Found :=
  match decodeSuric w lit with
  | .ok i => .ok i (opcodeOf w) (fieldsOf w lit) w (lengthOf w)
  | .error _ => .bad w (lengthOf w)

/-- The fetch of the instruction at a PC on path C (04 R76); the literal is read only for a word that takes one. -/
def fetchAt (s : State) (core : Nat) (w : Warp) (pc : VA) : Found × State :=
  match fetchC s core w.part w.asid .inst pc 8 with
  | (.error e, s) => (.fails pc 0#64 8 e, s)
  | (.ok bs, s) =>
    let word : DWord := BitVec.ofNat 64 (ofBytes bs)
    if (headCheck word).isSome then (.bad word (lengthOf word), s)
    else if !wantsLiteral word then (foundOf word 0#64, s)
    else match fetchC s core w.part w.asid .inst (pc + 8#57) 8 with
      | (.error e, s) => (.fails (pc + 8#57) word 16 e, s)
      | (.ok ls, s) => (foundOf word (BitVec.ofNat 64 (ofBytes ls)), s)

/-! ### The interlock -/

/-- A register span still to be written: first register, count, lanes. -/
structure Pending where
  reg : Nat
  n : Nat
  lanes : Word
deriving DecidableEq, Repr

/-- Registers of a warp that results in flight will write (08 R188). -/
def pendings (s : State) (core ws : Nat) : List Pending :=
  let rs := (s.reqs.filter (fun e => e.2.core == core && e.2.wslot == ws && e.2.op.returns && e.2.dst != 255)).map
    (fun e => if e.2.size = 8 then (⟨e.2.dst + e.2.off, 2, e.2.lanes⟩ : Pending) else ⟨e.2.dst, 1, e.2.lanes⟩)
  let us := (coreOf s core).units.filterMap (fun u => match u.2.op with
    | .tex ws' lane dst words => if ws' = ws then some (⟨dst, words.length, BitVec.twoPow 32 lane⟩ : Pending) else none
    | .promote ws' dst _ _ _ _ _ => if ws' = ws then some ⟨dst, 1, 0xFFFFFFFF#32⟩ else none
    | _ => none)
  let qs := (warpEntries s core ws).filterMap (fun q => if q.kind = qEDGE then some (⟨q.dst, 8, q.wset⟩ : Pending) else none)
  rs ++ us ++ qs

/-- Whether an operand of instructions of these lanes meets a register still to be written. -/
def Use.meets (u : Use) (lanes : Word) (p : Pending) : Bool :=
  decide (u.reg < p.reg + p.n) && decide (p.reg < u.reg + u.n) && (isUni u.reg || lanes &&& p.lanes != 0#32)

/-! ### Readiness -/

/-- The meanings of instructions that may find they must wait (16 R434). -/
def mayWait : Instr → Option (State → Host.Outcome State Fault Refusal)
  | .launch f => some (execLaunch f)
  | .launchi f => some (execLaunchi f)
  | .cwait f => some (execCwait f)
  | .deferG f => some (execDeferG f)
  | .deferF f => some (execDeferF f)
  | .ld f => some (execLd f)
  | .st f => some (execSt f)
  | .ldq f => some (execLdq f)
  | .stq f => some (execStq f)
  | .promote f => some (execPromote f)
  | .demote f => some (execDemote f)
  | .atom f => some (execAtom f)
  | .atomc f => some (execAtomc f)
  | .red f => some (execRed f)
  | .ldr f => some (execLdr f)
  | .stc f => some (execStc f)
  | .fence f => some (execFence f)
  | .fencex f => some (execFencex f)
  | .barGrp f => some (execBarGrp f)
  | .barMeet f => some (execBarMeet f)
  | .barPost f => some (execBarPost f)
  | .barAwait f => some (execBarAwait f)
  | .barxMeet f => some (execBarxMeet f)
  | .barxPost f => some (execBarxPost f)
  | .qbarMeet f => some (execQbarMeet f)
  | .qbarPost f => some (execQbarPost f)
  | .semwait f => some (execSemwait f)
  | .enq f => some (execEnq f)
  | .tex f => some (execTex f)
  | .texC f => some (execTexC f)
  | .trace f => some (execTrace f)
  | .doneBit f => some (execDoneBit f)
  | .tilewait f => some (execTilewait f)
  | .mma f => some (execMma f)
  | .mmaExp f => some (execMmaExp f)
  | .mmaAbs f => some (execMmaAbs f)
  | .accz f => some (execAccz f)
  | .accrd f => some (execAccrd f)
  | .accwr f => some (execAccwr f)
  | .accst f => some (execAccst f)
  | .mwait f => some (execMwait f)
  | .pload f => some (execPload f)
  | .edge f => some (execEdge f)
  | _ => none

/-- The state in which an instruction of a path is performed. -/
def setCur (s : State) (core ws : Nat) (p : PathAt) (word : DWord) (len : Nat) : State :=
  { s with cur := .warp core ws p.mask p.pc word len }

/-- Two states that differ in nothing but what the memory path holds: caches, links and memory, and the accesses accepted at home
slices, which a fill that evicts a block performs. -/
def sameButCaches (s t : State) : Bool :=
  decide ({ t with l2 := s.l2, tlb := s.tlb, wcache := s.wcache, dram := s.dram, ports := s.ports, reqs := s.reqs, resv := s.resv,
                   parts := s.parts } = s)

/-- Whether an instruction would wait: performed now, it would change nothing but what its polling leaves in the caches
(16 R434). -/
def wouldWait (s : State) (core ws : Nat) (p : PathAt) (i : Instr) (word : DWord) (len : Nat) : Bool :=
  match mayWait i with
  | none => false
  | some run =>
    match run (setCur s core ws p word len) with
    | .next t => sameButCaches { s with cur := .idle } t
    | _ => false

/-- The payload registers that an instruction reads beside its operands (08 R213, 10 R289). -/
def payUses (op : Nat) (f : Fields) : List Use := (upto (payWords op f)).map (fun i => ⟨i, 1, 1, .vsrc, false⟩)

/-- Whether the instruction found at a path can issue (16 R434). -/
def pathReady (s : State) (core ws : Nat) (p : PathAt) (fo : Found) : Bool :=
  match fo with
  | .ok i op f word len =>
    let lanes := if crossLane op then 0xFFFFFFFF#32 else p.mask
    let ps := pendings s core ws
    ((shape op f).uses ++ payUses op f).all (fun u => u.reg == 255 || ps.all (fun q => !u.meets lanes q)) &&
      !wouldWait s core ws p i word len
  | _ => true

/-! ### The path at the boundary -/

/-- Lanes of a path, and its wait: the largest count among its threads (16 R436, R437). -/
def PathAt.count (p : PathAt) : Nat := (maskLanes p.mask).length
def PathAt.waited (w : Warp) (p : PathAt) : Nat :=
  (maskLanes p.mask).foldl (fun m l => match lookup w.lanes l with | some t => max m t.waitc | none => m) 0

/-- The better of two paths by a count, ties by the lower PC (16 R436). -/
def betterPath (key : PathAt → Nat) (b : Option PathAt) (p : PathAt) : Option PathAt :=
  match b with
  | none => some p
  | some d => if key p > key d ∨ (key p = key d ∧ p.pc.toNat < d.pc.toNat) then some p else b

/-- The paths of a warp that an ENQ without room does not hold (05 R115). -/
def freePaths (w : Warp) : List PathAt :=
  (pathsOf w).filter (fun p => match w.enqAt with | some m => w.hmode || p.mask &&& m != 0#32 | none => true)

/-- Whether a path of a warp is ready (16 R434). -/
def isReady (s : State) (core ws : Nat) (p : PathAt) : Bool :=
  p.wait.issues && pathReady s core ws p (fetchAt s core (warpAt s core ws) p.pc).1

/-- The path that a warp is about to issue; or, where every path waits, the waiting one with the lowest lane, but none that
waits for its accesses to be accepted, for it stands at no boundary (16 R436, 17 R444, R457). -/
def boundaryPath (s : State) (core ws : Nat) : Option PathAt :=
  let w := warpAt s core ws
  let go := if w.stall.isEmpty then (freePaths w).filter (isReady s core ws) else []
  let starved := go.filter (fun p => decide (64 ≤ p.waited w))
  if w.hmode then none
  else if !starved.isEmpty && !w.clOpen then starved.foldl (betterPath (fun p => p.waited w)) none
  else if !go.isEmpty then go.foldl (betterPath PathAt.count) none
  else ((pathsOf w).filter (fun p => match p.wait with | .mem _ => false | _ => true)).foldl (fun b p => match b with
    | none => some p
    | some d => if (lowLane? p.mask).getD 32 < (lowLane? d.mask).getD 32 then some p else b) none

/-- The length of the instruction that stands at a path's PC; 8 where it can't be read (07 R168, 17 R448). -/
def lengthAt (s : State) (core ws : Nat) (pc : VA) : Nat :=
  match (fetchAt s core (warpAt s core ws) pc).1 with
  | .ok _ _ _ _ len => len
  | .bad _ len => len
  | .fails _ _ len _ => len

end Sys2Proof.Machine
end

