-- ==== Sys2Proof/Machine/Traps.lean ====
section
/-! DEFINITION. Machine/Traps.lean: the traps that reach a warp between its instructions: data errors of accesses in flight,
ACCESS after a DELIVER answer, ENGINE_FAULT (17 R443 to R447, R456, R457, 11 R523); halts and aborts that others order
(17 R452, R453); and the imprecise record written in time (17 R451). -/

namespace Sys2Proof.Machine

/-- The name of the unit that a warp belongs to. -/
def unitOf (core ws : Nat) (w : Warp) : Nat :=
  match w.gslot with
  | some g => groupUnit core g
  | none => warpUnit core ws

/-- Fault records of a warp answered with DELIVER, whose trap it can take now: in a handler, its own and those of ACCST rows
(17 R445, R456, 11 R523). -/
def delivered (s : State) (core ws : Nat) (w : Warp) : List FaultRec :=
  (getD Part.init s.parts w.part).faults.filter (fun r =>
    r.unit == unitOf core ws w && r.wslot == ws && r.engine.isNone && r.answer == some 1 &&
    (!w.hmode || r.accst.isSome || r.lmask == 0#32))

/-- The lowest lane of a record; 32 where it names none. -/
def FaultRec.low (r : FaultRec) : Nat := (lowLane? r.lmask).getD 32

/-- The record with the lowest lane, the earlier of equals. -/
def lowestRec (rs : List FaultRec) : Option FaultRec :=
  rs.foldl (fun b r => match b with
    | none => some r
    | some q => if r.low < q.low then some r else b) none

/-- A row of the ACCST whose refusal a record tells of (11 R523). -/
def FaultRec.ofRow (q : FaultRec) (r : HeldRow) : Bool :=
  q.accst == some r.num && decide (r.va.toNat / 65536 ≤ q.va.toNat / 65536) &&
  decide (q.va.toNat / 65536 ≤ (r.va.toNat + (r.bytes.length - 1)) / 65536)

/-- Rows that records tell of, and that are not on their way. -/
def refusedRow (rs : List FaultRec) (r : HeldRow) : Bool := !r.sent && rs.any (fun q => q.ofRow r)

/-- The ACCESS trap of delivered records: that of the rows of an ACCST first, at the boundary where the warp stands; else that
of the instruction whose record has the lowest lane, for all its delivered lanes (17 R444, R456, 11 R523). -/
def accessTrap (s : State) (core ws : Nat) (rs : List FaultRec) : Option (Trap × List FaultRec) :=
  let w := warpAt s core ws
  let rows := rs.filter (·.accst.isSome)
  let of := fun (r : FaultRec) (mine : List FaultRec) (mask : Word) (pc : VA) (va : VA) =>
    (({ code := 10, detail := r.cause % 16 + r.acc % 16 * 16, aux := 0, mask := mask, elem := 0, addr := va.setWidth 64,
        inst := r.inst, pc := pc, len := r.len } : Trap), mine)
  match rows with
  | r :: _ =>
    let mine := rows.filter (fun q => q.accst == r.accst)
    let vas := (w.rows.filter (refusedRow mine)).map HeldRow.va
    let va := vas.foldl (fun (m : VA) a => if a.toNat < m.toNat then a else m) (vas.headD r.va)
    (match boundaryPath s core ws with
     | some p => some (of r mine p.mask p.pc va)
     | none => if w.hmode then some (of r mine 0#32 w.hpc va) else none)
  | [] =>
    match lowestRec rs with
    | none => none
    | some r =>
      let mine := rs.filter (fun q => q.pc == r.pc)
      some (of r mine (mine.foldl (fun m q => m ||| q.lmask) 0#32) r.pc r.va)

/-- The trap that waits for a warp, and the state without its cause: one raised by an access in flight, or by a delivered
record, whose refused rows are discarded with it (11 R523). -/
def nextTrap (s : State) (core ws : Nat) : Option (Trap × State) :=
  let w := warpAt s core ws
  match w.trapPend with
  | some t => some (t, modWarp s core ws (fun w => { w with trapPend := none }))
  | none =>
    match accessTrap s core ws (delivered s core ws w) with
    | some (t, mine) =>
      let s := modWarp s core ws (fun w => { w with rows := w.rows.filter (fun r => !refusedRow mine r) })
      some (t, modPart s w.part (fun p => { p with faults := p.faults.filter (fun r => !mine.any (fun q => q.seq == r.seq)) }))
    | none => none

/-- A trap of a warp ends in a fatal halt (17 R445). -/
def trapIsFatal (w : Warp) : Bool := w.hmode || w.tba == 0#64

/-- The waiting trap of a warp taken, where it enters a handler, or where it halts the group. -/
def takeNext (fatal : Bool) (core ws : Nat) (s : State) : State :=
  if trapIsFatal (warpAt s core ws) != fatal then s
  else match nextTrap s core ws with
    | some (t, s) => takeTrap s core ws t
    | none => s

/-- HANDLER_ENTRY (17 R446): the trap that waits for the warp is taken into its handler. -/
def execHandlerEntry (core wslot : Nat) (s : State) : Host.Outcome State Fault Refusal := .next (takeNext false core wslot s)

/-- FATAL_HALT (17 R445): the trap that waits for the warp halts its group. -/
def execFatalHalt (core wslot : Nat) (s : State) : Host.Outcome State Fault Refusal := .next (takeNext true core wslot s)

/-! ### Engine faults -/

/-- The warp of a group that takes its engine-fault traps (17 R457). -/
def engineWarp (c : Core) (g : Nat) : Option Nat :=
  ((c.warps.filter (fun e => e.2.gslot == some g && !e.2.isCont && liveMask e.2 != 0#32)).foldl
    (fun (b : Option (Nat × Warp)) e => match b with
      | none => some e
      | some d => if e.2.windex < d.2.windex then some e else b) none).map (·.1)

/-- A ring of a warp's group owes it an engine-fault trap, which it can take once no handler runs (17 R457). -/
def owesTrap (s : State) (core ws : Nat) (w : Warp) : Bool :=
  !w.hmode && (match w.gslot with
  | none => false
  | some g =>
    match groupAt s core g with
    | none => false
    | some x => x.rings.any (fun r => r.2.owes) && engineWarp (coreOf s core) g == some ws)

/-- A trap that the warp takes before its next instruction. -/
def trapDue (s : State) (core ws : Nat) (w : Warp) : Bool :=
  w.trapPend.isSome || !(delivered s core ws w).isEmpty || owesTrap s core ws w

/-- ENGINE_FAULT_TRAP (17 R457): the lowest ring that owes a trap delivers it at the boundary of the group's lowest warp with
a live thread; without such a warp the grid is aborted. -/
def execEngineFaultTrap (core gslot : Nat) (s : State) : Host.Outcome State Fault Refusal :=
  match groupAt s core gslot with
  | none => .next s
  | some x =>
    match (upto 3).find? (fun i => (ringOf x i).owes), engineWarp (coreOf s core) gslot with
    | none, _ => .next s
    | some ring, none => if x.saving.isSome then .next s else .next (abort (modGroup s core gslot (fun x =>
        setRing x ring { ringOf x ring with owes := false })) x.part x.grid 0#57)
    | some ring, some ws =>
      let w := warpAt s core ws
      if w.hmode || x.saving.isSome || w.trapPend.isSome || !(delivered s core ws w).isEmpty then .next s
      else match boundaryPath s core ws with
        | none => .next s
        | some p =>
          let t : Trap :=
            { code := 9, detail := ring, aux := statHi x ring / 2 ^ 16 % 256, mask := p.mask, elem := 0, addr := 0, inst := 0,
              pc := p.pc, len := lengthAt s core ws p.pc }
          let s := modGroup s core gslot (fun x => setRing x ring { ringOf x ring with owes := false })
          let s := modWarp s core ws (fun w => { w with stall := w.stall.filter (·.accst.isSome), enqAt := none })
          .next (takeTrap s core ws t)

/-! ### Halts, aborts and the imprecise log -/

/-- DEBUG_REQUEST (17 R452): service firmware halts a group; from number 64 on, the free continuation warp in that slot less
64. -/
def execDebugRequest (core gslot : Nat) (s : State) : Host.Outcome State Fault Refusal :=
  if gslot < 64 then
    match groupAt s core gslot with
    | none => .next s
    | some x => .next (if exited s core gslot x then s else haltGroup s core gslot 2)
  else .next (if (warpAt s core (gslot - 64)).gslot.isNone then haltFree s core (gslot - 64) 2 else s)

/-- GRID_ABORT (17 R453), as firmware orders it of a dispatched grid (22 R520). -/
def execGridAbort (part grid : Nat) (s : State) : Host.Outcome State Fault Refusal := .next (abort s part grid 0#57)

/-- IMPRECISE_RECORD_WRITE (17 R451): 256 core cycles after it was opened. -/
def execImpreciseRecordWrite (core wslot : Nat) (s : State) : Host.Outcome State Fault Refusal :=
  match (warpAt s core wslot).imp with
  | none => .next s
  | some r => .next (if r.since + 256 ≤ cycOf s core then writeImp s core wslot else s)

end Sys2Proof.Machine
end

