-- ==== Sys2Proof/Machine/Saves.lean ====
section
/-! DEFINITION. Machine/Saves.lean: swap-out, the save of a unit to its slot and its restoration (17 R454, R459 to R467; 16 R430,
R440). What a slot's layout has no place for stays beside it (log 40). -/

namespace Sys2Proof.Machine

/-! ### The stopping units -/

/-- The stores of others that a thread has seen are acknowledged: its releases on another core need not wait for them (12 R324). -/
def sawSettled (s : State) (saw : List Nat) : Bool := saw.all (fun i => (lookup s.reqs i).isNone)

/-- Nothing of a warp's instructions is outstanding: accesses answered, traps taken, rows accepted or held, queue entries and
units done, its stores and those its threads have seen acknowledged (17 R459, R460, 12 R324). -/
def warpSettled (s : State) (core ws : Nat) (w : Warp) : Bool :=
  let c := coreOf s core
  w.infl.isEmpty && w.trapPend.isNone && w.rows.all (fun r => !r.sent) &&
  c.slices.all (fun e => e.2.all (fun q => q.wslot != ws)) && c.units.all (fun u => !u.2.op.ofWarp ws) &&
  s.reqs.all (fun e => e.2.core != core || (e.2.wslot != ws && (e.2.wslot != noWarp || e.2.part != w.part))) &&
  w.lanes.all (fun l => sawSettled s l.2.saw)

/-- A group at its stopping units: its warps settled, rays and samples in their records, every chunk moved counted, and every store
of its threads acknowledged, those that have left a record or ended among them (08 R213, 17 R460). -/
def groupSettled (s : State) (core g : Nat) (x : Group) : Bool :=
  let c := coreOf s core
  c.warps.all (fun e => e.2.gslot != some g || warpSettled s core e.1 e.2) &&
  c.units.all (fun u => u.2.gslot != some g) && x.rings.all (fun r => r.2.moved == r.2.cursor || r.2.fin) &&
  s.reqs.all (fun e => e.2.core != core || e.2.gslot != some g || e.2.part != x.part) &&
  c.contq.all (fun r => r.loose || r.gslot != g || sawSettled s r.saw)

/-! ### The layout of a slot -/

/-- A PC of 57 bits in a word. -/
def pcWord (v : VA) : Nat := v.toNat

/-- A lane word (17 R466). -/
def laneWord (l : Lane) : Nat :=
  let wait := match l.wait with
    | .barGrp => 2 ^ 61
    | .barObj _ _ ph => 2 ^ 62 + (if ph then 2 ^ 60 else 0)
    | _ => 0
  (if l.live then 2 ^ 63 else 0) + wait + (if l.trp then 2 ^ 59 else 0) + (if l.l16 then 2 ^ 58 else 0) + pcWord l.pc

/-- The warp word (17 R466). -/
def warpWord (w : Warp) : Nat :=
  w.qb.toNat * 2 ^ 56 + (if w.clOpen then 2 ^ 55 else 0) + (if w.hmode then 2 ^ 54 else 0) +
  (if w.raisedHalt then 2 ^ 53 else 0) + (if w.isCont then 2 ^ 52 else 0) + w.skid % 256 * 2 ^ 40 + w.cmask.toNat

/-- The trap registers 0 to 8 in their widths (06 R148, 17 R466). -/
def trapBytes (w : Warp) : List Byte :=
  toBytes 4 w.trCause.toNat ++ toBytes 8 w.trPc.toNat ++ toBytes 4 w.trMask.toNat ++ toBytes 4 w.trElem.toNat ++
  toBytes 8 w.trAddr.toNat ++ toBytes 8 w.trInst.toNat ++ toBytes 8 w.tba.toNat ++ toBytes 4 w.tem.toNat ++
  toBytes 8 w.fplog.toNat

/-- A value for each of the 32 lanes, `n` bytes each; zero where no thread is. -/
def perLaneBytes (w : Warp) (n : Nat) (f : Lane → Nat) : List Byte :=
  lanes32.flatMap (fun l => toBytes n (match lookup w.lanes l with | some t => f t | none => 0))

/-- The TID field of a continuation record (16 R438). -/
def tidWord (l : Lane) : Nat := l.tz * 2 ^ 20 + l.ty * 2 ^ 10 + l.tx

/-- A warp block (17 R466). -/
def warpBlock (w : Warp) : List Byte :=
  sliceBytes (perLaneBytes w 8 laneWord ++ perLaneBytes w 1 (·.waitc) ++ lanes32.flatMap (fun l => [pbyte w l]) ++
    perLaneBytes w 1 (·.level) ++ (upto 63).flatMap (fun i => toBytes 4 (sget w i).toNat) ++ toBytes 4 0 ++
    toBytes 8 (warpWord w) ++ toBytes 8 (if w.hmode then pcWord w.hpc else 0) ++ trapBytes w ++
    toBytes 4 ((if w.err then 2 ^ 31 else 0) + w.etile % 8 * 2 ^ 28 + w.rerun % 256 * 2 ^ 16) ++ toBytes 4 w.icount ++
    List.replicate 80 0#8 ++
    (if w.isCont then perLaneBytes w 4 tidWord ++ perLaneBytes w 4 (·.group) else List.replicate 256 0#8) ++
    (upto 8).flatMap (fun k => (upto 128).map (fun i => BitVec.ofNat 8 (filGet w k i)))) 0 4096

/-- The registers of a warp: register n of lane l at 128 n + 4 l (17 R464). -/
def regBlock (w : Warp) : List Byte :=
  (upto w.rec_.regs).flatMap (fun n => lanes32.flatMap (fun l => toBytes 4 (vget w l n).toNat))

/-- The tiles of a warp (17 R464, 06 R145). -/
def tileBlock (w : Warp) : List Byte :=
  (upto (w.rec_.acc * 1024)).flatMap (fun k => toBytes 4 (getD 0#32 w.tiles k).toNat)

/-- A held row (17 R464). -/
def heldRowBytes (r : HeldRow) : List Byte :=
  sliceBytes (toBytes 8 (pcWord r.va) ++ toBytes 4 r.bytes.length ++ List.replicate 20 0#8 ++ r.bytes) 0 160

/-- A unit as it is saved: its warps in the order of their blocks, its group, its records, its intersection slots. -/
structure Saved where
  part : Nat
  asid : Nat
  grid : Nat
  reason : Nat
  rec_ : LaunchRec
  warps : List (Nat × Warp)
  group : Option Group
  conts : List ContRec
  steps : List (List DWord)
  nfault : Nat
deriving DecidableEq, Repr

/-- Held rows of a unit, in the order of its warps. -/
def Saved.rows (v : Saved) : List HeldRow := v.warps.flatMap (fun e => e.2.rows)

/-- The progress of a ring's command (17 R465). -/
def cursorWord (ring : Nat) (r : Ring) : Nat :=
  (if r.act then 2 ^ 63 else 0) + (if ring = 2 then r.pass % 4 * 2 ^ 30 + r.cursor % 2 ^ 30 else r.cursor % 2 ^ 32)

/-- The header (17 R465). -/
def Saved.header (v : Saved) : List Byte :=
  let gw := (v.warps.filter (fun e => !e.2.isCont)).length
  let w0 := 2 ^ 56 + v.part % 16 * 2 ^ 52 + v.asid % 4096 * 2 ^ 40 + v.reason % 8 * 2 ^ 32 + v.grid % 2 ^ 32
  let w1 := match v.group with
    | some x => x.linear * 2 ^ 32 + x.member % 4 * 2 ^ 30 + v.rec_.neigh % 4 * 2 ^ 28 + v.warps.length * 2 ^ 16 + gw * 2 ^ 8
    | none => 0xFFFFFFFF * 2 ^ 32 + v.rec_.neigh % 4 * 2 ^ 28 + v.warps.length * 2 ^ 16 + gw * 2 ^ 8
  let gbar := match v.group with | some x => x.gbar.length | none => 0
  let w3 := min 65535 v.nfault * 2 ^ 48 + gbar % 2048 * 2 ^ 32 + v.conts.length % 8192
  let ring := fun (i : Nat) => match v.group with | some x => cursorWord i (ringOf x i) | none => 0
  let sem := fun (i : Nat) => match v.group with | some x => if i = 0 then 0 else if i ≤ v.rec_.sems then semGet x i else 0 | none => 0
  sliceBytes (toBytes 8 w0 ++ toBytes 8 w1 ++ toBytes 8 v.rec_.res.toNat ++ toBytes 8 w3 ++ toBytes 8 (ring 0) ++ toBytes 8 (ring 1) ++
    toBytes 8 (ring 2) ++ (upto 8).flatMap (fun k => toBytes 1 (nthD [] v.steps k).length) ++ toBytes 4 v.rows.length ++
    List.replicate 1980 0#8 ++ (upto 256).flatMap (fun i => toBytes 2 (sem i))) 0 4096

/-- What a save writes, by offset in the slot; sections not used are not written (17 R464). -/
def Saved.writes (v : Saved) : List (Nat × List Byte) :=
  let ix := (upto v.warps.length).zip (v.warps.map (·.2))
  (0, v.header) :: List.filter (fun e => !e.2.isEmpty) (
  ((upto v.steps.length).zip v.steps).map (fun e =>
    (0x1000 + 512 * e.1, if e.2.isEmpty then [] else sliceBytes (e.2.flatMap (fun d => toBytes 8 d.toNat)) 0 512)) ++
  ix.flatMap (fun e =>
    [(0x10000 + 4096 * e.1, warpBlock e.2), (0x80000 + 128 * (e.1 * v.rec_.regs), regBlock e.2),
     (0x140000 + 4096 * (e.1 * v.rec_.acc), tileBlock e.2),
     (0x1C0000 + 2048 * (4 * e.1 * v.rec_.acc), readRun e.2.proj 0 (8192 * v.rec_.acc))]) ++
  (match v.group with | some x => [(0xC0000, readRun x.spad 0 x.size)] | none => []) ++
  ((upto v.conts.length).zip v.conts).map (fun e => (0x2C0000 + 256 * e.1, contBytes e.2)) ++
  ((upto v.rows.length).zip v.rows).map (fun e => (0x3C0000 + 160 * e.1, heldRowBytes e.2)))

/-! ### Saving -/

/-- The free slots, ascending (17 R463). -/
def freeSlotsOf (p : Part) : List Nat :=
  if nbit (p.w32 oSVCTL) 31 then (upto (nbits (p.w32 oSVCTL) 0 16)).filter (fun i => (lookup p.slots i).isNone) else []

/-- A warp put in the order of the warp indices. -/
def insertIndex (e : Nat × Warp) : List (Nat × Warp) → List (Nat × Warp)
  | [] => [e]
  | x :: xs => if e.2.windex ≤ x.2.windex then e :: x :: xs else x :: insertIndex e xs

/-- The warps of a group in the order of their blocks: its own by index, then its continuation warps (17 R464). -/
def blockOrder (c : Core) (g : Nat) : List (Nat × Warp) :=
  let ws := c.warps.filter (fun e => e.2.gslot == some g)
  (ws.filter (fun e => !e.2.isCont)).foldr insertIndex [] ++ ws.filter (fun e => e.2.isCont)

/-- What stays beside a slot (log 40). -/
def Saved.beside (v : Saved) (lead : Nat) : SaveSlot :=
  let ix := (upto v.warps.length).zip (v.warps.map (·.2))
  { reason := v.reason, asid := v.asid, grid := v.grid, linear := (match v.group with | some x => x.linear | none => 0xFFFFFFFF),
    answered := v.reason != 2 && v.reason != 3, lead := lead,
    children := (match v.group with | some x => x.children | none => []),
    rings := (match v.group with | some x => x.rings | none => []),
    errPc := ix.filterMap (fun e => if e.2.err then some (e.1, e.2.errPc) else none),
    errMore := ix.filterMap (fun e => if e.2.errMore.isEmpty then none else some (e.1, e.2.errMore)),
    rows := ix.filterMap (fun e => if e.2.rows.isEmpty then none else some (e.1, e.2.rows)),
    held := ix.map (fun e => (e.1, e.2.lanes.map (fun l => (l.1, match l.2.wait with
      | .passed | .barObj _ _ _ => some (l.2.pc, l.2.wait)
      | _ => none)))),
    spadErr := (match v.group with
      | some x => x.spadErr.map (fun i => (i, BitVec.ofNat 32 (ofBytes (spadRead x (4 * i) 4))))
      | none => []),
    fatal := v.reason == 3 }

/-- The unit written to a slot and named by it from then on: its fault records follow it by the index of its warps
(17 R460). -/
def writeSaved (s : State) (v : Saved) (unit slot lead : Nat) : State :=
  let s := v.writes.foldl (fun s e => (writePA s v.part (slotPA s v.part slot + e.1) e.2).2) s
  let ix := fun (ws : Nat) => (v.warps.findIdx? (fun e => e.1 == ws)).getD 0
  modPart s v.part (fun p =>
    let p := { p with slots := put p.slots slot (v.beside lead), faults := p.faults.map (fun r =>
      if r.unit = unit then { r with unit := slotUnit slot, wslot := ix r.wslot } else r) }
    if holdBusy p && nbits (p.w64 oPRESTAT) 32 12 == v.asid then p.setW32 oPRESTAT (add32 (p.w32 oPRESTAT) 1) else p)

/-- A group saved to a slot and its resources freed (17 R460); one that has only records left is saved with an empty continuation
warp (17 R465, log 39). -/
def saveGroup (s : State) (core g slot lead reason : Nat) : State :=
  match groupAt s core g with
  | none => s
  | some x =>
    let s := drainImp ((blockOrder (coreOf s core) g).foldl (fun s e => writeImp s core e.1) s) core
    let c := coreOf s core
    let x := { x with saving := none }
    let ws := blockOrder c g
    let v : Saved :=
      { part := x.part, asid := x.asid, grid := x.grid, reason := reason, rec_ := x.rec_,
        warps := if ws.isEmpty then [(noWarp, { Warp.blank with isCont := true, rec_ := x.rec_ })] else ws, group := some x,
        conts := (c.contq.filter (fun r => !r.loose && r.gslot == g)).foldr insertRank [],
        steps := (upto 8).map (fun k => (lookup c.kinds (kindKey x.part x.grid k)).getD []),
        nfault := ((recordsOf (partOf s x.part) (groupUnit core g)).filter (fun r => r.answer.isNone)).length }
    dropGroup (writeSaved s v (groupUnit core g) slot lead) core g

/-- A free continuation warp saved to a slot (17 R463). -/
def saveWarp (s : State) (core ws slot reason : Nat) : State :=
  let s := drainImp (writeImp s core ws) core
  let w := warpAt s core ws
  let v : Saved :=
    { part := w.part, asid := w.asid, grid := w.grid, reason := reason, rec_ := w.rec_, warps := [(ws, { w with saving := none })],
      group := none, conts := [], steps := [],
      nfault := ((recordsOf (partOf s w.part) (warpUnit core ws)).filter (fun r => r.answer.isNone)).length }
  dropWarp (writeSaved s v (warpUnit core ws) slot slot) core ws

/-- The members of a group's set that are still there (05 R110). -/
def standing (s : State) (x : Group) : List (Nat × Nat) :=
  x.members.filter (fun m => match groupAt s m.1 m.2 with | some y => sameSet x y | none => false)

/-- The units saved together with a group: its set, but for a fatal halt (16 R429, 17 R452). -/
def savedTogether (s : State) (core g reason : Nat) (x : Group) : List (Nat × Nat) :=
  if x.members.isEmpty ∨ reason = 3 then [(core, g)] else standing s x

/-- What a group waits to be saved for, or else this reason: a fault or halt of its own goes before what the set is saved for
(17 R462). -/
def reasonOf (s : State) (m : Nat × Nat) (reason : Nat) : Nat :=
  match groupAt s m.1 m.2 with
  | some y => y.saving.getD reason
  | none => reason

/-- A group with a save to make, and the members of its set, saved once all are settled and slots are free; the lowest free
slots in the order of the members (16 R429, 17 R460, R462). -/
def trySave (core g : Nat) (s : State) : State :=
  match groupAt s core g with
  | none => s
  | some x =>
    match x.saving with
    | none => s
    | some r =>
      let ms := savedTogether s core g r x
      let slots := freeSlotsOf (partOf s x.part)
      if (exited s core g x && ms.length == 1) || slots.length < ms.length ||
        !ms.all (fun m => match groupAt s m.1 m.2 with | some y => groupSettled s m.1 m.2 y | none => true) then s
      else
        let lead := slots.headD 0
        let s := (ms.zip slots).foldl (fun s e => saveGroup s e.1.1 e.1.2 e.2 lead (reasonOf s e.1 r)) s
        if r = 3 then s else settleAnswers s x.part lead

/-- A free continuation warp with a save to make, saved once it is settled and a slot is free. -/
def trySaveWarp (core ws : Nat) (s : State) : State :=
  match warpAt? s core ws with
  | none => s
  | some w =>
    match w.saving, freeSlotsOf (partOf s w.part) with
    | some r, slot :: _ =>
      if w.gslot.isSome || !warpSettled s core ws w then s
      else
        let s := saveWarp s core ws slot r
        if r = 3 then s else settleAnswers s w.part slot
    | _, _ => s

/-- GROUP_SAVE (17 R460, R462): a group that waits to be saved is written to a slot; from number 64 on, the free continuation
warp in that slot less 64. -/
def execGroupSave (core gslot : Nat) (s : State) : Host.Outcome State Fault Refusal :=
  .next (if gslot < 64 then trySave core gslot s else trySaveWarp core (gslot - 64) s)

/-! ### Swap-out -/

/-- Every live thread of a group waits. -/
def allWait (s : State) (core g : Nat) (waits : Nat → Warp → Lane → Bool) : Bool :=
  ((coreOf s core).warps.filter (fun e => e.2.gslot == some g)).all (fun e => e.2.lanes.all (fun l => !l.2.live || waits e.1 e.2 l.2))

/-- Whether the instruction at a path is SEMWAIT or TILEWAIT and would wait. -/
def pollWaits (s : State) (core ws : Nat) (p : PathAt) : Bool :=
  match (fetchAt s core (warpAt s core ws) p.pc).1 with
  | .ok i op _ word len => (op == 161 || op == 167) && wouldWait s core ws p i word len
  | _ => false

/-- A lane waits at a barrier, or in TILEWAIT or SEMWAIT (16 R430). -/
def atWait (s : State) (core ws : Nat) (w : Warp) (l : Lane) : Bool :=
  match l.wait with
  | .barGrp => true
  | .barObj _ _ _ => true
  | _ => !w.hmode && !l.trp && (pathsOf w).any (fun p => p.pc == l.pc && p.wait == l.wait && pollWaits s core ws p)

/-- The device without the groups of a kind and their warps. -/
def without (s : State) (gone : Nat → Nat → Group → Bool) : State :=
  { s with cores := s.cores.map (fun e => (e.1, { e.2 with
      groups := e.2.groups.filter (fun g => !gone e.1 g.1 g.2),
      warps := e.2.warps.filter (fun w => match w.2.gslot with
        | some g => (match lookup e.2.groups g with | some x => !gone e.1 g x | none => true)
        | none => true) })) }

/-- A group that waits in TILEWAIT, SEMWAIT or a barrier, and whose grid holds the room that a grid it was started early on needs:
what that one places next fits no core of the die, not even once the groups already to be saved have gone, but would fit here
without its grid's groups (16 R430). -/
def yieldsToProducer (s : State) (core g : Nat) (x : Group) : Bool :=
  let p := partOf s x.part
  let leaving := without s (fun _ _ y => y.saving.isSome)
  let cleared := without s (fun _ _ y => y.saving.isSome || (y.part == x.part && y.grid == x.grid))
  match lookup p.grids x.grid with
  | none => false
  | some d =>
    p.grids.any (fun e => earlyOn d e.2 && waitsPlace p e.1 e.2 &&
      !fitsOn leaving x.part (coresOfDie (dieOf core)) e.1 e.2 &&
      fitsOn cleared x.part (if e.2.rec_.setSize = 1 then [core] else coresOfQuad core) e.1 e.2) &&
    allWait s core g (atWait s core)

/-- A group whose every thread waits to defer, and that is not to be saved yet. -/
def deferring (s : State) (core g : Nat) (x : Group) : Bool :=
  x.saving.isNone && noRecordRoom s core x.part x.grid && allWait s core g (fun _ => atDeferral s core)

/-- A group whose every thread waits to defer, where eligible records of the core's queue have no room for their warp, not even once
the groups already to be saved have gone, but would have it without such groups (16 R440). -/
def yieldsToDeferral (s : State) (core g : Nat) (x : Group) : Bool :=
  let room := fun (t : State) (r : LaunchRec) => (upto 4).any (fun q => decide (0 < quadRoom (coreOf t core) q r.regs r.acc))
  let leaving := without s (fun _ _ y => y.saving.isSome)
  deferring s core g x &&
  (coreOf s core).contq.any (fun k => k.rdy && keyReady s core k && (k.loose || k.gslot != g) &&
    (match lookup (partOf s k.part).grids k.grid with
     | some gr => !room leaving gr.rec_ &&
       room (without s (fun c i y => y.saving.isSome || (c == core && (k.loose || k.gslot != i) && deferring s c i y))) gr.rec_
     | none => false))

/-- Every member of a set is marked to be saved with the group. -/
def markSet (s : State) (x : Group) (r : Nat) : State :=
  (standing s x).foldl (fun s m => modGroup s m.1 m.2 (fun y => { y with saving := orSave y.saving r })) s

/-- SWAP_OUT (17 R454, 16 R429, R430, R440): the distributor chooses a group whose room others need; a group with accepted
fault records goes to its slot, and the members of its set with it. -/
def execSwapOut (core gslot : Nat) (s : State) : Host.Outcome State Fault Refusal :=
  if 64 ≤ gslot then .next (if ((warpAt s core (gslot - 64)).saving == some 1) then trySaveWarp core (gslot - 64) s else s)
  else match groupAt s core gslot with
    | none => .next s
    | some x =>
      match x.saving with
      | none =>
        if yieldsToProducer s core gslot x || yieldsToDeferral s core gslot x then
          .next (markSet (modGroup s core gslot (fun y => { y with saving := some 0 })) x 0)
        else .next s
      | some 3 => .next s
      | some r => .next (if r = 1 then trySave core gslot (markSet s x r) else markSet s x r)

/-! ### Restoration -/

/-- A continuation record from its bytes (16 R438). -/
def parseCont (bs : List Byte) (part core gslot uid : Nat) (r : LaunchRec) (since : Nat) : ContRec :=
  let w1 := leAt bs 8 8
  let w2 := leAt bs 16 8
  let tx := nbits w2 0 10
  let ty := nbits w2 10 10
  let tz := nbits w2 20 10
  { tpc := BitVec.ofNat 57 (leAt bs 0 8), kind := nbits w1 62 2, free := nbit w1 61, apart := false, level := nbits w1 56 5, npay := nbits w1 50 6,
    nres := nbits w1 47 3, rdy := nbit w1 46, group := nbits w1 0 32, grid := nbits w2 32 32, part := part, gslot := gslot,
    tx := tx, ty := ty, tz := tz, windex := (tx + (r.bx + 1) * (ty + (r.byy + 1) * tz)) / 32,
    pay := (upto (nbits w1 50 6 + nbits w1 47 3)).map (fun i => BitVec.ofNat 32 (leAt bs (32 + 4 * i) 4)), since := since,
    rank := uid, uid := uid, core := core, saw := [] }

/-- A table of the words at consecutive keys, zeros not listed. -/
def tableOf (vals : List Nat) : SMap Word :=
  ((upto vals.length).zip vals).filterMap (fun e => if e.2 % 2 ^ 32 = 0 then none else some (e.1, BitVec.ofNat 32 e.2))

/-- Where and as what a saved warp stands again. -/
structure Stand where
  part : Nat
  num : Nat
  gr : Grid
  gslot : Option Nat
  linear : Nat
  cyc : Nat
  quadrant : Nat
  ix : Nat
deriving DecidableEq, Repr

/-- The barrier object that the instruction at a PC names, as a saved lane with WAIT 2 waits for it (17 R466, R468); where the
instruction can't be read, the one it waited for there when it was saved. -/
def objWait (s : State) (core : Nat) (w : Warp) (ph : Bool) (pc : VA) (kept : Option (VA × LWait)) : LWait :=
  match peekWord s core w pc with
  | none => (match kept with
    | some (q, .barObj quad a _) => if q = pc then .barObj quad a ph else .none
    | _ => .none)
  | some v =>
    let a := rread w 0 (nbits v 35 8)
    if v / 2 ^ 56 = 154 ∨ v / 2 ^ 56 = 155 then .barObj false a ph
    else if v / 2 ^ 56 = 156 then .barObj true a ph
    else .none

/-- A lane from its lane word and the fields of the block, its wait but for an object's; a wait that had ended stands while the
lane's PC is the one saved (17 R466, R468). -/
def laneOf (t : Stand) (b : List Byte) (cont : Bool) (l : Nat) (kept : Option (VA × LWait)) : Lane :=
  let w := leAt b (8 * l) 8
  let r := t.gr.rec_
  let lin := 32 * t.ix + l
  let tid := leAt b (0x300 + 4 * l) 4
  let tx := if cont then nbits tid 0 10 else lin % (r.bx + 1)
  let ty := if cont then nbits tid 10 10 else lin / (r.bx + 1) % (r.byy + 1)
  let tz := if cont then nbits tid 20 10 else lin / ((r.bx + 1) * (r.byy + 1))
  let pc : VA := BitVec.ofNat 57 w
  { live := nbit w 63, pc := pc, pb := BitVec.ofNat 8 (leAt b (0x120 + l) 1) ||| 0x80#8, level := leAt b (0x140 + l) 1,
    waitc := leAt b (0x100 + l) 1, wait := if nbits w 61 2 = 1 then .barGrp else if kept = some (pc, .passed) then .passed else .none,
    trp := nbit w 59, l16 := nbit w 58, tx := tx, ty := ty, tz := tz,
    group := if cont then leAt b (0x380 + 4 * l) 4 else t.linear,
    wix := if cont then (tx + (r.bx + 1) * (ty + (r.byy + 1) * tz)) / 32 else t.ix, saw := [] }

/-- The held rows of a warp, address and bytes from their places in the slot, of which the first is `k` (17 R464). -/
def rowsOfSlot (s : State) (part slot k : Nat) (rows : List HeldRow) : List HeldRow :=
  ((upto rows.length).zip rows).map (fun e =>
    let b := (slotRead s part slot (0x3C0000 + 160 * (k + e.1)) 160).1
    { e.2 with va := BitVec.ofNat 57 (leAt b 0 8), bytes := (b.drop 32).take (leAt b 8 4) })

/-- A warp from its block, registers, tiles and projection blocks (17 R464, R466, R467). -/
def warpOf (t : Stand) (sl : SaveSlot) (b rg ti pj : List Byte) : Warp :=
  let r := t.gr.rec_
  let ww := leAt b 0x260 8
  let mst := leAt b 0x2A8 4
  let cont := nbit ww 52
  let lanes := (getD [] sl.held t.ix).map (fun e => (e.1, laneOf t b cont e.1 e.2))
  { freshWarp t.num t.gr t.part t.cyc t.quadrant with
    gslot := t.gslot, isCont := cont, windex := (match lanes with | (_, l) :: _ => l.wix | [] => t.ix), lanes := lanes,
    vr := lanes32.flatMap (fun l => (upto r.regs).filterMap (fun n =>
      let v := leAt rg (128 * n + 4 * l) 4
      if v = 0 ∨ (lookup lanes l).isNone then none else some (l * 256 + n, BitVec.ofNat 32 v))),
    sr := tableOf (wordsOf 4 (b.drop 0x160) 63), qb := BitVec.ofNat 8 (ww / 2 ^ 56),
    tiles := tableOf (wordsOf 4 ti (r.acc * 1024)), proj := writeRun [] 0 pj,
    fil := (upto 1024).filterMap (fun i =>
      let v := BitVec.ofNat 8 (leAt b (0x400 + i) 1)
      if v = BitVec.ofNat 8 (i % 128) then none else some (i, v)),
    trCause := BitVec.ofNat 32 (leAt b 0x270 4), trPc := BitVec.ofNat 64 (leAt b 0x274 8), trMask := BitVec.ofNat 32 (leAt b 0x27C 4),
    trElem := BitVec.ofNat 32 (leAt b 0x280 1), trAddr := BitVec.ofNat 64 (leAt b 0x284 8),
    trInst := BitVec.ofNat 64 (leAt b 0x28C 8), tba := BitVec.ofNat 64 (leAt b 0x294 8 / 8 * 8),
    tem := BitVec.ofNat 32 (nbits (leAt b 0x29C 4) 0 5),
    fplog := BitVec.ofNat 64 (leAt b 0x2A0 8), clOpen := nbit ww 55, cmask := BitVec.ofNat 32 ww, hmode := nbit ww 54,
    hpc := BitVec.ofNat 57 (leAt b 0x268 8), err := nbit mst 31, etile := nbits mst 28 3, errPc := getD 0#57 sl.errPc t.ix,
    errMore := getD [] sl.errMore t.ix, rerun := nbits mst 16 8, icount := leAt b 0x2AC 4, skid := nbits ww 40 8,
    raisedHalt := nbit ww 53, rows := getD [] sl.rows t.ix }

/-- A warp read back from its slot: its lanes with WAIT 2 wait for the objects that their instructions name. -/
def readWarp (s : State) (slot core : Nat) (t : Stand) (sl : SaveSlot) : Warp × State :=
  let r := t.gr.rec_
  let (b, s) := slotRead s t.part slot (0x10000 + 4096 * t.ix) 4096
  let (rg, s) := slotRead s t.part slot (0x80000 + 128 * (t.ix * r.regs)) (128 * r.regs)
  let (ti, s) := slotRead s t.part slot (0x140000 + 4096 * (t.ix * r.acc)) (4096 * r.acc)
  let (pj, s) := slotRead s t.part slot (0x1C0000 + 2048 * (4 * t.ix * r.acc)) (8192 * r.acc)
  let w := warpOf t sl b rg ti pj
  let before := (sl.rows.filter (fun e => e.1 < t.ix)).foldl (fun n e => n + e.2.length) 0
  ({ w with
     rows := rowsOfSlot s t.part slot before w.rows,
     lanes := w.lanes.map (fun e =>
       let v := leAt b (8 * e.1) 8
       let kept := (getD [] sl.held t.ix).find? (fun h => h.1 == e.1) |>.bind (·.2)
       (e.1, if nbits v 61 2 = 2 then { e.2 with wait := objWait s core w (nbit v 60) e.2.pc kept } else e.2)) }, s)

/-- What a warp's answers do to its held rows: those refused and delivered stay held until their trap discards them, the others are
sent again before its first instruction (11 R523, 17 R467). -/
def answeredRows (rs : List FaultRec) (rows : List HeldRow) : List HeldRow :=
  rows.map (fun r =>
    let told := rs.any (fun q => q.answer == some 1 && q.ofRow r)
    { r with sent := !told, gate := !told })

/-- The rings of a restored group, at their cursors, with what the answers do to them (17 R456, R467). -/
def answeredRings (hdr : List Byte) (sl : SaveSlot) (rs : List FaultRec) (x : Group) : Group :=
  (upto 3).foldl (fun x i =>
    let w := leAt hdr (32 + 8 * i) 8
    let r := getD Ring.init sl.rings i
    let cur := if i = 2 then nbits w 0 30 else nbits w 0 32
    let x := setRing x i { r with act := nbit w 63, cursor := cur, pass := if i = 2 then nbits w 30 2 else r.pass, moved := cur }
    match rs.find? (fun q => q.engine == some i) with
    | some q => if q.answer = some 1 then oweRing x i else unparkRing x i
    | none => x) x

/-- The records of a restored unit: those to be delivered go on under its new name, the others are done with (17 R456). -/
def settleRecords (s : State) (part slot unit : Nat) (wsOf : Nat → Nat) : State :=
  modPart s part (fun p =>
    { p with slots := remove p.slots slot, faults := p.faults.filterMap (fun r =>
        if r.unit ≠ slotUnit slot then some r
        else if r.engine.isNone ∧ r.answer = some 1 then some { r with unit := unit, wslot := wsOf r.wslot }
        else none) })

/-- The continuation records of a slot put back in the queue of its core, in their order (17 R464). -/
def readConts (s : State) (part slot core g n : Nat) (r : LaunchRec) : State :=
  (upto n).foldl (fun s i =>
    let (bs, s) := slotRead s part slot (0x2C0000 + 256 * i) 256
    let rc := parseCont bs part core g s.nextId r (cycOf s core)
    modCore { s with nextId := s.nextId + 1 } core (fun c => { c with contq := c.contq ++ [rc] })) s

/-- The intersection slots of a slot, loaded where the core holds no set of the grid (13 R348). -/
def readKinds (s : State) (part slot core num : Nat) (hdr : List Byte) : State :=
  if (coreOf s core).groups.any (fun e => e.2.part == part && e.2.grid == num) then s
  else (upto 8).foldl (fun s k =>
    let n := leAt hdr (56 + k) 1
    let (bs, s) := slotRead s part slot (0x1000 + 512 * k) 512
    let ds := (wordsOf 8 bs (min n 64)).map (BitVec.ofNat 64)
    modCore s core (fun c => { c with kinds := setD [] c.kinds (kindKey part num k) ds })) s

/-- A warp block that stands for no warp: that of a group with records alone (log 39). -/
def emptyBlock (w : Warp) : Bool := w.isCont && w.lanes.isEmpty

/-- The warps of a slot put on a core; one whose threads have ended keeps its place among those of its group. -/
def readWarps (s : State) (slot core : Nat) (sl : SaveSlot) (rs : List FaultRec) (mk : Nat → Nat → Stand)
    (at_ : List (Nat × Nat)) : State :=
  ((upto at_.length).zip at_).foldl (fun s e =>
    let t := mk e.1 e.2.1
    let (w, s) := readWarp s slot core t sl
    let mine := rs.filter (fun r => r.wslot == e.1)
    if emptyBlock w then s
    else modCore s core (fun c => { c with warps := put c.warps e.2.2 { w with rows := answeredRows mine w.rows } })) s

/-- A saved group restored on a core; the slot it takes there (17 R467). -/
def restoreGroup (s : State) (part slot core : Nat) (sl : SaveSlot) (gr : Grid) : Nat × State :=
  let r := gr.rec_
  let c := coreOf s core
  let rs := recordsOf (partOf s part) (slotUnit slot)
  let (hdr, s) := slotRead s part slot 0 4096
  let (sp, s) := slotRead s part slot 0xC0000 (r.spad * 256)
  let n := hdrNwarp hdr
  let g := pickGroup s.tick c
  let at_ := pickSlots s.tick r.regs r.acc n c
  let s := readKinds s part slot core sl.grid hdr
  let x : Group := { freshGroup sl.grid gr part sl.linear ((freeBase (regions s core) r.spad).getD 0) with
    spad := writeRun [] 0 sp, children := sl.children,
    spadErr := (sl.spadErr.filter (fun e => leAt sp (4 * e.1) 4 == e.2.toNat)).map (·.1),
    sem := ((upto r.sems).map (fun i => (i + 1, leAt hdr (2048 + 2 * (i + 1)) 2))).filter (fun e => e.2 != 0) }
  let s := modCore s core (fun c => { c with groups := put c.groups g (answeredRings hdr sl rs x) })
  let s := readWarps s slot core sl rs (fun i q => ⟨part, sl.grid, gr, some g, sl.linear, c.cyc, q, i⟩) at_
  let arrived := ((coreOf s core).warps.filter (fun e => e.2.gslot == some g)).flatMap
    (fun e => (e.2.lanes.filter (fun l => l.2.wait == .barGrp)).map (fun l => e.1 * 32 + l.1))
  let s := modGroup s core g (fun x => { x with gbar := arrived, ended := (groupWarps (coreOf s core) g).isEmpty })
  let s := readConts s part slot core g (hdrNcont hdr) r
  let s := settleRecords s part slot (groupUnit core g) (fun i => match at_[i]? with | some e => e.2 | none => 0)
  (g, invalidateL1 s core)

/-- A saved free continuation warp restored on a core (17 R463, R467). -/
def restoreWarp (s : State) (part slot core : Nat) (sl : SaveSlot) (gr : Grid) : State :=
  let c := coreOf s core
  let rs := recordsOf (partOf s part) (slotUnit slot)
  let at_ := pickSlots s.tick gr.rec_.regs gr.rec_.acc 1 c
  let s := readWarps s slot core sl rs (fun i q => ⟨part, sl.grid, gr, none, 0, c.cyc, q, i⟩) at_
  let ws := match at_ with | e :: _ => e.2 | [] => 0
  invalidateL1 (settleRecords s part slot (warpUnit core ws) (fun _ => ws)) core

/-- A set restored on cores of a quad in one step. -/
def restoreSet (s : State) (part : Nat) (gr : Grid) (sl : SaveSlot) (at_ : List (Nat × Nat)) : State :=
  let (s, ms) := at_.foldl (fun (a : State × List (Nat × Nat)) e =>
    let (g, s) := restoreGroup a.1 part e.1 e.2 ((lookup (partOf a.1 part).slots e.1).getD sl) gr
    (s, a.2 ++ [(e.2, g)])) (s, [])
  joinSet s ms

/-- GROUP_RESTORE (17 R456, R458, R463, R467; 16 R428, R429): a unit whose answers are there and whose ASID is not held stands
again on a core in its grid's turn, a neighbour set on cores of its quad. -/
def execGroupRestore (part slot core : Nat) (s : State) : Host.Outcome State Fault Refusal :=
  let p := partOf s part
  match lookup p.slots slot with
  | none => .next s
  | some sl =>
    match lookup p.grids sl.grid with
    | none => .next s
    | some gr =>
      if !mayReenter p sl ∨ slot ≠ sl.lead then .next s
      else if !inTurn s part (dieOf core) sl.grid gr then .next s
      else if sl.linear = 0xFFFFFFFF then
        .next (if freeFits s part core gr then restoreWarp s part slot core sl gr else s)
      else
        match againCores s part gr sl.lead core with
        | none => .next s
        | some cores => .next (restoreSet s part gr sl ((setSlots p sl.lead).zip cores))

end Sys2Proof.Machine
end

