-- ==== Sys2Proof/Machine/ScalarSlot.lean ====
section
/-! DEFINITION. Machine/ScalarSlot.lean: the scalar and control slot (15 R398 to R405). -/

namespace Sys2Proof.Machine

/-- `sext(IMM12, 32)` (15 R399). -/
def imm12 (i : BitVec 12) : Word := i.signExtend 32

/-- A scalar result (14 R379). -/
def setK (d : BitVec 5) (v : Word) (x : SIss) (l : LineCore) : LineCore := l.lands x 1 (.k d.toNat v)

/-- The no-operation of every slot (15 R395). -/
def execNoOperation (s : State) : Host.Outcome State Fault Refusal :=
  match s.cur with
  | .slot _ _ _ => .next { s with cur := .idle }
  | _ => .fault .noIssuer

/-- KADD with a register (15 R399). -/
def execKaddReg (d a b : BitVec 5) (s : State) : Host.Outcome State Fault Refusal :=
  slotIssue (.kaddReg d a b) (fun _ x l => setK d (kget l a.toNat + kget l b.toNat) x l) s

/-- KADD with a constant (15 R399). -/
def execKaddImm (d a : BitVec 5) (i : BitVec 12) (s : State) : Host.Outcome State Fault Refusal :=
  slotIssue (.kaddImm d a i) (fun _ x l => setK d (kget l a.toNat + imm12 i) x l) s

/-- KSUB with a register (15 R399). -/
def execKsubReg (d a b : BitVec 5) (s : State) : Host.Outcome State Fault Refusal :=
  slotIssue (.ksubReg d a b) (fun _ x l => setK d (kget l a.toNat - kget l b.toNat) x l) s

/-- KSUB with a constant (15 R399). -/
def execKsubImm (d a : BitVec 5) (i : BitVec 12) (s : State) : Host.Outcome State Fault Refusal :=
  slotIssue (.ksubImm d a i) (fun _ x l => setK d (kget l a.toNat - imm12 i) x l) s

/-- KMUL with a register (15 R399, R400). -/
def execKmulReg (d a b : BitVec 5) (s : State) : Host.Outcome State Fault Refusal :=
  slotIssue (.kmulReg d a b) (fun _ x l => setK d (kget l a.toNat * kget l b.toNat) x l) s

/-- KMUL with a constant (15 R399, R400). -/
def execKmulImm (d a : BitVec 5) (i : BitVec 12) (s : State) : Host.Outcome State Fault Refusal :=
  slotIssue (.kmulImm d a i) (fun _ x l => setK d (kget l a.toNat * imm12 i) x l) s

/-- KMOV (15 R399). -/
def execKmov (d a : BitVec 5) (s : State) : Host.Outcome State Fault Refusal :=
  slotIssue (.kmov d a) (fun _ x l => setK d (kget l a.toNat) x l) s

/-- KLDI (15 R398). -/
def execKldi (d : BitVec 5) (i : BitVec 16) (s : State) : Host.Outcome State Fault Refusal :=
  slotIssue (.kldi d i) (fun _ x l => setK d (i.signExtend 32) x l) s

/-- KLDI.hi: the low half of kD stays (15 R398). -/
def execKldiHi (d : BitVec 5) (i : BitVec 16) (s : State) : Host.Outcome State Fault Refusal :=
  slotIssue (.kldiHi d i) (fun _ x l => setK d (i ++ (kget l d.toNat).extractLsb' 0 16) x l) s

/-- The line-buffer address of KLD and KST; none where it is not a multiple of 4 or its bytes run past the end (15 R401). -/
def lbAddr (l : LineCore) (a : BitVec 5) (i : BitVec 12) : Option Nat :=
  let v : Int := ((kget l a.toNat).toNat : Int) + sxt i.toNat 12
  if v % 4 = 0 ∧ lbOk v 4 then some v.toNat else none

/-- KLD: read at issue, landing after 8 cycles (15 R401, 14 R379). -/
def execKld (d a : BitVec 5) (i : BitVec 12) (s : State) : Host.Outcome State Fault Refusal :=
  slotIssue (.kld d a i) (fun t x l =>
    match lbAddr l a i with
    | none => l.trap 3
    | some n =>
      match lbView t.tick l x.eng none n 4 with
      | none => l.trap 2
      | some bs => l.lands x 8 (.k d.toNat (BitVec.ofNat 32 (ofBytes bs)))) s

/-- KST: written at issue with the data that kd holds then (15 R401). -/
def execKst (d a : BitVec 5) (i : BitVec 12) (s : State) : Host.Outcome State Fault Refusal :=
  slotIssue (.kst d a i) (fun _ _ l =>
    match lbAddr l a i with
    | none => l.trap 3
    | some n => l.will (.lb n (kget l d.toNat))) s

/-- The conditions of KCMP (15 R399). -/
def kCond (f : BitVec 3) (x y : Word) : Bool :=
  if f = 0 then x == y else if f = 1 then x != y else if f = 2 then x.slt y else if f = 3 then x.sle y
  else if f = 4 then x.ult y else x.ule y

def boolWord (b : Bool) : Word := if b then 1#32 else 0#32

/-- KCMP with a register (15 R399). -/
def execKcmpReg (d a : BitVec 5) (f : BitVec 3) (b : BitVec 5) (s : State) : Host.Outcome State Fault Refusal :=
  slotIssue (.kcmpReg d a f b) (fun _ x l => setK d (boolWord (kCond f (kget l a.toNat) (kget l b.toNat))) x l) s

/-- KCMP with a constant (15 R399). -/
def execKcmpImm (d a : BitVec 5) (f : BitVec 3) (i : BitVec 12) (s : State) : Host.Outcome State Fault Refusal :=
  slotIssue (.kcmpImm d a f i) (fun _ x l => setK d (boolWord (kCond f (kget l a.toNat) (imm12 i))) x l) s

/-- BR (15 R402). -/
def execBr (t : BitVec 10) (s : State) : Host.Outcome State Fault Refusal :=
  slotIssue (.br t) (fun _ _ l => l.will (.jump t.toNat)) s

/-- BRC (15 R402). -/
def execBrc (a : BitVec 5) (f : BitVec 3) (t : BitVec 10) (s : State) : Host.Outcome State Fault Refusal :=
  slotIssue (.brc a f t) (fun _ _ l =>
    if (kget l a.toNat == 0#32) == (f == 0#3) then l.will (.jump t.toNat) else l) s

/-- LOOP with a count (15 R403, 14 R380). -/
def loopBody (count : Nat) (stop : Nat) (x : SIss) (l : LineCore) : LineCore :=
  let g := engOf l x.eng
  if stop < g.pc + 1 ∨ 4 ≤ g.loops.length then l.trap 6
  else if count = 0 then l.will (.skip (stop + 1))
  else l.will (.loop { start := g.pc + 1, stop := stop, count := count })

/-- LOOP with its count in a register (15 R403). -/
def execLoopReg (a : BitVec 5) (e : BitVec 10) (s : State) : Host.Outcome State Fault Refusal :=
  slotIssue (.loopReg a e) (fun _ x l => loopBody (fld (kget l a.toNat) 0 16) e.toNat x l) s

/-- LOOP with a constant count (15 R403). -/
def execLoopImm (c e : BitVec 10) (s : State) : Host.Outcome State Fault Refusal :=
  slotIssue (.loopImm c e) (fun _ x l => loopBody c.toNat e.toNat x l) s

/-- HALT: a refused memory-write row of a stream of the engine is taken first; the scan writer's scan stream must have taken
all its rows (14 R378, R382, 15 R405). -/
def execHalt (s : State) : Host.Outcome State Fault Refusal :=
  slotIssue .halt (fun _ x l =>
    match l.streams.find? (fun t => t.2.eng == x.eng && t.2.refused.isSome) with
    | some t => l.takes t.1 (t.2.refused.getD 1)
    | none =>
      if x.eng = 3 ∧ !l.streams.any (fun t => t.2.eng == 3 && t.2.kind == 4 && decide (t.2.nrows ≤ t.2.pos)) then l.trap 7
      else l.will .halt) s

/-- TOKSEND: a full FIFO makes it wait; the token waits for the engine's earlier rows (14 R373, R374, 15 R404). -/
def sendBody (e : Nat) (v : Word) (x : SIss) (l : LineCore) : LineCore :=
  let held := (getD [] l.fifos (fifoKey x.eng e)).length +
    (l.pushes.filter (fun p => p.src == x.eng && p.dst == e)).length
  if 16 ≤ held then l.wait
  else
    let after := (l.streams.filter (fun t => t.2.eng == x.eng && (t.2.kind == 1 || t.2.kind == 3))).map
      (fun t => (bindKey t.1 t.2, t.2.pos))
    l.will (.push e v after)

/-- TOKSEND of a register (15 R404). -/
def execToksendReg (e : BitVec 2) (b : BitVec 5) (s : State) : Host.Outcome State Fault Refusal :=
  slotIssue (.toksendReg e b) (fun _ x l => sendBody e.toNat (kget l b.toNat) x l) s

/-- TOKSEND of a constant (15 R404). -/
def execToksendImm (e : BitVec 2) (i : BitVec 12) (s : State) : Host.Outcome State Fault Refusal :=
  slotIssue (.toksendImm e i) (fun _ x l => sendBody e.toNat (imm12 i) x l) s

/-- TOKRECV: the oldest token popped at issue (15 R404). -/
def execTokrecv (d : BitVec 5) (e : BitVec 2) (s : State) : Host.Outcome State Fault Refusal :=
  slotIssue (.tokrecv d e) (fun _ x l =>
    match getD [] l.fifos (fifoKey e.toNat x.eng) with
    | [] => l.wait
    | v :: _ => setK d v x (l.will (.pop e.toNat))) s

/-- BANDCHK: lines left until the band is abandoned (14 R388, 15 R405). -/
def execBandchk (d : BitVec 5) (s : State) : Host.Outcome State Fault Refusal :=
  slotIssue (.bandchk d) (fun t x l =>
    match l.band with
    | none => l.wait
    | some b =>
      let h := headOf t b.head
      setK d (BitVec.ofNat 32 (wrapN (deadline h b.f b.b - 1 - h.scanned) 32)) x l) s

/-- Word n of a latched record (15 R405). -/
def latchWord (t : Latch) (n : Nat) : Word :=
  if n ≤ 6 then t.pose.getD n 0#32
  else if n = 7 then t.tag.extractLsb' 0 32
  else if n = 8 then t.tag.extractLsb' 32 32
  else if n = 9 then t.seq
  else boolWord t.fresh

/-- LKTRD: it waits for the band's latch (14 R386, 15 R405). -/
def execLktrd (d : BitVec 5) (n : BitVec 12) (s : State) : Host.Outcome State Fault Refusal :=
  slotIssue (.lktrd d n) (fun t x l =>
    match l.band with
    | none => l.wait
    | some b =>
      match bandLatch (headOf t b.head) b.f b.b with
      | none => l.wait
      | some r => setK d (latchWord r n.toNat) x l) s

/-- EVT (15 R405, 14 R389). -/
def execEvt (a : BitVec 5) (s : State) : Host.Outcome State Fault Refusal :=
  slotIssue (.evt a) (fun _ _ l => l.will (.evt (kget l a.toNat))) s

end Sys2Proof.Machine
end

