-- ==== Sys2Proof/Machine/StreamSlot.lean ====
section
/-! DEFINITION. Machine/StreamSlot.lean: the stream slot (15 R413 to R415), the rows of streams on their way (14 R377, R378,
R393) and the suspension of a line core (14 R381). -/

namespace Sys2Proof.Machine

/-- Scan rows of a line of the band, and of the band (14 R378). -/
def scanRowsOf (s : State) (l : LineCore) : Nat :=
  match l.band with
  | none => 0
  | some b => let h := headOf s b.head; cdiv (cfgWidth h.cfg) 32 * bandLines h b.b

/-- The stream that a descriptor names; none where it breaks the map of 14 R377 or R378. -/
def parseStream (bs : List Byte) (eng scanRows : Nat) : Option Stream :=
  let w0 := leAt bs 0 8
  let w1 := leAt bs 8 8
  let kind := nbits w0 61 3
  let addr := nbits w0 0 57
  let nrows := nbits w1 48 16
  let nel := nbits w1 32 7
  let stride := sxt (nbits w1 0 32) 32
  let ok := decide (kind ≤ 4) && nbits w0 57 4 == 0 && addr % 2 == 0 && decide (1 ≤ nrows) && nbits w1 39 9 == 0 &&
    decide (1 ≤ nel) && decide (nel ≤ 64) && decide (stride % 2 = 0) && leAt bs 16 16 == 0 &&
    (kind != 4 || (addr == 0 && decide (stride = 0) && eng == 3 && nrows == scanRows))
  if ok then
    some { eng := eng, kind := kind, addr := addr, nrows := nrows, nel := nel, stride := stride, pos := 0, rows := [],
           done_ := 0, refused := none, bound := 0, band := 0, wrote := [] }
  else none

/-- SBIND (14 R377, R378; 15 R396, R414). -/
def execSbind (s : BitVec 2) (a : BitVec 5) (st : State) : Host.Outcome State Fault Refusal :=
  slotIssue (.sbind s a) (fun t x l =>
    let ka := (kget l a.toNat).toNat
    let go := fun (l : LineCore) =>
      if ka % 32 ≠ 0 then l.trap 4
      else if !lbOk (ka : Int) 32 then l.trap 3
      else match lbView t.tick l x.eng none ka 32 with
        | none => l.trap 2
        | some bs =>
          match parseStream bs x.eng (scanRowsOf t l) with
          | none => l.trap 4
          | some r => l.will (.bind s.toNat { r with bound := l.lbNum, band := (l.band.map Band.b).getD 0 })
    match lookup l.streams s.toNat with
    | none => go l
    | some o =>
      if o.eng ≠ x.eng then l.trap 4
      else if o.unwritten then l.wait
      else match o.refused with
        | some c => l.takes s.toNat c
        | none => go l) st

/-- A stream of the engine and of one of these kinds (14 R377, 15 R414). -/
def ownStream (l : LineCore) (x : SIss) (st : Nat) (kinds : List Nat) : Option Stream :=
  match lookup l.streams st with
  | some t => if t.eng = x.eng ∧ kinds.contains t.kind then some t else none
  | none => none

/-- The next row of a read stream handed on, or the trap or wait it meets (14 R378). -/
def withRow (l : LineCore) (x : SIss) (st : Nat) (go : List Half → LineCore → LineCore) : LineCore :=
  match ownStream l x st [0, 2] with
  | none => l.trap 4
  | some t =>
    if t.nrows ≤ t.pos then l.trap 5
    else match t.rows with
      | [] => l.wait
      | (some c, _) :: _ => l.trap c
      | (none, row) :: _ => go row (l.will (.pull st))

/-- SRD into a row of a tile, landing at 2 (15 R414). -/
def execSrdTile (s : BitVec 2) (c : BitVec 1) (t : BitVec 3) (r : BitVec 4) (st : State) :
    Host.Outcome State Fault Refusal :=
  slotIssue (.srdTile s c t r) (fun _ x l =>
    withRow l x s.toNat (fun row l => l.lands x 2 (.row (c.toNat * 8 + t.toNat) r.toNat row))) st

/-- SRD into a row of a weight set, landing at 2 (15 R414). -/
def execSrdWeight (s k : BitVec 2) (r : BitVec 6) (st : State) : Host.Outcome State Fault Refusal :=
  slotIssue (.srdWeight s k r) (fun _ x l =>
    withRow l x s.toNat (fun row l => l.lands x 2 (.wrow k.toNat r.toNat row))) st

/-- A write stream that has rows to come and holds 4 of them (14 R378). -/
def Stream.full (t : Stream) : Bool := decide (t.pos < t.nrows) && decide (4 ≤ t.rows.length)

/-- The next row of a write stream supplied, or the trap or wait it meets; a line-buffer row out of range traps its bundle
(14 R376, R378). -/
def putRow (l : LineCore) (x : SIss) (st : Nat) (row : List Half) : LineCore :=
  match ownStream l x st [1, 3, 4] with
  | none => l.trap 4
  | some t =>
    if t.nrows ≤ t.pos then l.trap 5
    else if t.full then l.wait
    else if t.kind = 3 ∧ !lbOk (t.rowAt t.pos) (2 * t.nel) then l.trap 3
    else l.will (.supply st row)

/-- SWR of a row of a tile, read at issue (15 R414). -/
def execSwrTile (s : BitVec 2) (c : BitVec 1) (t : BitVec 3) (r : BitVec 4) (st : State) :
    Host.Outcome State Fault Refusal :=
  slotIssue (.swrTile s c t r) (fun _ x l =>
    let k := c.toNat * 8 + t.toNat
    let l := putRow l x s.toNat (rangeVals l.tiles (k * 1024 + r.toNat * 64) 64)
    if l.tileErr.contains (k * 16 + r.toNat) then l.trap 2 else l) st

/-- SWR of the next row of a read stream (15 R414); a full destination makes it wait whatever its source holds (15 R396). -/
def execSwrStream (s b : BitVec 2) (st : State) : Host.Outcome State Fault Refusal :=
  slotIssue (.swrStream s b) (fun _ x l =>
    let l := match ownStream l x s.toNat [1, 3, 4] with
      | some t => if t.full then l.wait else l
      | none => l
    withRow l x b.toNat (fun row l => putRow l x s.toNat row)) st

/-- SFLUSH: it waits until every row written has its answer; a refusal is taken here (14 R378, 15 R414). -/
def execSflush (s : BitVec 2) (st : State) : Host.Outcome State Fault Refusal :=
  slotIssue (.sflush s) (fun _ x l =>
    match ownStream l x s.toNat [0, 1, 2, 3, 4] with
    | none => l.trap 4
    | some t =>
      if t.unwritten then l.wait
      else match t.refused with
        | some c => l.takes s.toNat c
        | none => l) st

/-! ### Rows on their way -/

/-- The elements of a row, those past NEL zero (14 R378). -/
def rowOf (nel : Nat) (bs : List Byte) : List Half :=
  (upto 64).map (fun i => if i < nel then BitVec.ofNat 16 (leAt bs (2 * i) 2) else 0#16)

def errCode (e : AccErr) : Nat :=
  match e with
  | .fault _ => 1
  | .dataError => 2

/-- STREAM_ROW_FETCH (14 R378, R393, 15 R415): the next row of a read stream is fetched ahead, at most 4 and never past the
last; a failure waits with its row. -/
def execStreamRowFetch (lc st : Nat) (s : State) : Host.Outcome State Fault Refusal :=
  let l := lineOf s lc
  match lookup l.streams st, l.head with
  | some t, some hn =>
    if (t.kind ≠ 0 ∧ t.kind ≠ 2) ∨ t.nrows ≤ t.done_ ∨ 4 ≤ t.rows.length then .next s
    else
      let n := 2 * t.nel
      let a := t.rowAt t.done_
      let add := fun (row : Option Nat × List Half) (s : State) =>
        modLine s lc (fun l => { l with streams := adjust l.streams st (fun t =>
          { t with rows := t.rows ++ [row], done_ := t.done_ + 1 }) })
      if t.kind = 2 then
        .next (add (if !lbOk a n then (some 3, [])
          else match lbView s.tick l t.eng (some t.bound) a.toNat n with
            | none => (some 2, [])
            | some bs => (none, rowOf t.nel bs)) s)
      else
        match readN s (headWho s hn) (BitVec.ofInt 57 a) n with
        | (.ok bs, s) => .next (add (none, rowOf t.nel bs) s)
        | (.error e, s) => .next (add (some (errCode e), []) s)
  | _, _ => .next s

/-- A line-buffer-write stream's oldest row lands (14 R374, R376, R378). -/
def landRow (s : State) (lc st : Nat) (t : Stream) (row : List Half) : State :=
  let a := t.rowAt t.done_
  let bs := rowBytes t.nel row
  modLine s lc (fun l =>
    let l := { l with streams := adjust l.streams st (fun t => { t with rows := t.rows.drop 1, done_ := t.done_ + 1 }) }
    if lbOk a bs.length then lbPut l t.eng (some (bindKey st t, t.done_)) a.toNat bs else l)

/-- A write of a memory-write row has its answer; a refusal after the band's end is a TRAP event of that band, one for each
binding (14 R378). -/
def answerRow (s : State) (lc st hn : Nat) (t : Stream) (w : RowWrite) : State :=
  let told := fun (ref : Option Nat) (s : State) =>
    flushEvents (modLine s lc (fun l => { l with streams := adjust l.streams st (fun t => t.answered w ref) })) hn
  match writeN s (headWho s hn) w.va w.bytes with
  | (.ok _, s) => told none s
  | (.error e, s) =>
    let s := told (some (errCode e)) s
    if (lineOf s lc).band.isSome || t.refused.isSome then s else trapEvent s lc hn t.band (errCode e)

/-- The answer of a write that was on its way when its stream went (14 R378, R387). -/
def answerLate (s : State) (lc i : Nat) : State :=
  match (lineOf s lc).late[i]? with
  | none => s
  | some r =>
    let s := modLine s lc (fun l => { l with late := l.late.eraseIdx i })
    match writeN s (headWho s r.head) r.va r.bytes with
    | (.ok _, s) => flushEvents s r.head
    | (.error e, s) =>
      let s := flushEvents (modLine s lc (fun l => { l with late := l.late.map (fun x =>
        if x.key = r.key ∧ x.head = r.head then { x with told := true } else x) })) r.head
      if r.told then s else trapEvent s lc r.head r.band (errCode e)

/-- STREAM_ROW_ANSWER (14 R374, R378, R393, R394): the oldest row of a line-buffer-write stream lands; one write of the waiting rows of
a memory-write stream, which a free value picks, is performed and answered; from 4 on, of the writes left on their way. A refusal
waits for the engine's next SFLUSH, SBIND or HALT. The events that wait for the row are delivered. -/
def execStreamRowAnswer (lc st : Nat) (s : State) : Host.Outcome State Fault Refusal :=
  let l := lineOf s lc
  if 4 ≤ st then .next (answerLate s lc (st - 4))
  else match lookup l.streams st, l.head with
  | some t, some hn =>
    (match t.kind, t.rows, t.writes[Config.freeValue s.tick st % t.writes.length]? with
     | 3, (_, row) :: _, _ => .next (landRow s lc st t row)
     | 1, _, some w => .next (answerRow s lc st hn t w)
     | _, _, _ => .next s)
  | _, _ => .next s

/-- SUSPENSION (14 R381): the engines stop at a bundle boundary; results in flight land. -/
def execSuspension (lc : Nat) (s : State) : Host.Outcome State Fault Refusal :=
  .next (modLine s lc (fun l => { l with susp := true }))

/-- RESUMPTION (14 R381). -/
def execResumption (lc : Nat) (s : State) : Host.Outcome State Fault Refusal :=
  .next (modLine s lc (fun l => { l with susp := false }))

end Sys2Proof.Machine
end

