-- ==== Sys2Proof/Machine/System.lean ====
section
/-! DEFINITION. Machine/System.lean: TRAP, TRET, the trap state registers and BPT (08 R221 to R224, 06 R148, R149). -/

namespace Sys2Proof.Machine

def trapBody (f : Fields) (x : Iss) (s : State) : State :=
  let lanes := guarded (x.warp s) x.mask f.g
  if lanes.isEmpty then x.next s
  else x.trap s 6 0 (laneMask (fun l => lanes.contains l)) 0 (BitVec.ofNat 64 f.b.toNat)

/-- TRAP (08 R221, 17 R444): the lanes with a true guard take the software trap. -/
def execTrap (f : Fields) (s : State) : Host.Outcome State Fault Refusal := issue 64 f (trapBody f) s

/-- Whether an instruction that handlers issue passes its guard: a handler has no lane for a p guard (log 21). -/
def handlerGuard (w : Warp) (g : BitVec 5) : Bool := !guardP g && guardUni w g

def tretBody (f : Fields) (x : Iss) (s : State) : State :=
  let w := x.warp s
  if !w.hmode then x.illegal s 2 0
  else if handlerGuard w f.g then x.mod s returnLanes
  else x.next s

/-- TRET (08 R222, 17 R448). -/
def execTret (f : Fields) (s : State) : Host.Outcome State Fault Refusal := issue 65 f (tretBody f) s

/-- The value of a trap state register (06 R148). -/
def trRead (w : Warp) (n : Nat) : Nat :=
  match n with
  | 0 => w.trCause.toNat
  | 1 => w.trPc.toNat
  | 2 => w.trMask.toNat
  | 3 => w.trElem.toNat
  | 4 => w.trAddr.toNat
  | 5 => w.trInst.toNat
  | 6 => w.tba.toNat
  | 7 => w.tem.toNat
  | _ => w.fplog.toNat

/-- A trap state register written under the field rules of 06 R148. -/
def trWrite (w : Warp) (n v : Nat) : Warp :=
  match n with
  | 0 => { w with trCause := BitVec.ofNat 32 v }
  | 1 => { w with trPc := BitVec.ofNat 64 v }
  | 2 => { w with trMask := BitVec.ofNat 32 v }
  | 3 => { w with trElem := BitVec.ofNat 32 (v % 256) }
  | 4 => { w with trAddr := BitVec.ofNat 64 v }
  | 5 => { w with trInst := BitVec.ofNat 64 v }
  | 6 => { w with tba := BitVec.ofNat 64 (v / 8 * 8) }
  | 7 => { w with tem := BitVec.ofNat 32 (v % 32) }
  | _ => { w with fplog := BitVec.ofNat 64 v }

def trdBody (f : Fields) (x : Iss) (s : State) : State :=
  let w := x.warp s
  if !guardUni w f.g then x.next s
  else x.next (x.mod s (fun w =>
    (LaneRes.ofRegs (dstWords f.d.toNat (if trWidth f.b.toNat = 2 then 15 else 0) (trRead w f.b.toNat))).put w 0))

/-- TRD (08 R223). -/
def execTrd (f : Fields) (s : State) : Host.Outcome State Fault Refusal := issue 66 f (trdBody f) s

def twrBody (f : Fields) (x : Iss) (s : State) : State :=
  let w := x.warp s
  if !guardUni w f.g then x.next s
  else x.next (x.mod s (fun w => trWrite w f.b.toNat (srcN w 0 (trWidth f.b.toNat) f.a.toNat)))

/-- TWR (08 R223). -/
def execTwr (f : Fields) (s : State) : Host.Outcome State Fault Refusal := issue 67 f (twrBody f) s

def bptBody (f : Fields) (x : Iss) (s : State) : State :=
  let w := x.warp s
  if (if w.hmode then handlerGuard w f.g else !(guarded w x.mask f.g).isEmpty) then
    haltUnit (x.next (x.mod s (fun w => { w with trAddr := BitVec.ofNat 64 f.b.toNat }))) x.core x.wslot 2 x.pc
  else x.next s

/-- BPT (08 R224, 17 R452): the warp stops after it, and the halt is broadcast to the group. -/
def execBpt (f : Fields) (s : State) : Host.Outcome State Fault Refusal := issue 68 f (bptBody f) s

end Sys2Proof.Machine
end

