-- ==== Sys2Proof/Machine/TileSlot.lean ====
section
/-! DEFINITION. Machine/TileSlot.lean: the tile slots (15 R406 to R412) and the matrix engine of a line core (14 R392). -/

namespace Sys2Proof.Machine

/-- The cluster of a tile slot (14 R375). -/
def SIss.cluster (x : SIss) : Nat := x.slot - 1

/-- The format of a float TY: 2 bf16, 3 f16 (15 R406). -/
def tyFmt (y : Nat) : Fmt := if y = 2 then bf16 else fp16

/-- An element read as an integer of TY 0 or 1. -/
def tyInt (y v : Nat) : Int := if y = 0 then sxt v 16 else (v : Int)

/-- An exact integer result delivered (15 R407). -/
def intOut (y : Nat) (sat : Bool) (r : Int) : Nat :=
  if sat then (if y = 0 then wrapN (satS r 16) 16 else wrapN (satU r 16) 16) else wrapN r 16

/-- An exact float result delivered (15 R407). -/
def fltOut (y : Nat) (sat : Bool) (r : FVal) : Nat := (rnd (tyFmt y) .rne sat r).1

/-- The element-wise operations. -/
inductive TOp where
  | add | sub | mul | mac | min | max | absd
deriving DecidableEq, Repr

/-- One element of an element-wise instruction on a, b and the old destination c (15 R407, R408). -/
def tileElem (op : TOp) (y : Nat) (sat : Bool) (a b c : Nat) : Nat :=
  if y ≤ 1 then
    let p := tyInt y a
    let q := tyInt y b
    match op with
    | .add => intOut y sat (p + q)
    | .sub => intOut y sat (p - q)
    | .mul => intOut y sat (p * q)
    | .mac => intOut y sat (tyInt y c + p * q)
    | .min => if p ≤ q then a else b
    | .max => if p ≤ q then b else a
    | .absd => (p - q).natAbs % 65536
  else
    let m := tyFmt y
    let p := fdecode m a
    let q := fdecode m b
    match op with
    | .add => fltOut y sat (fadd false p q)
    | .sub => fltOut y sat (fadd false p q.flip)
    | .mul => fltOut y sat (fmul p q)
    | .mac => fltOut y sat (fadd false (fdecode m c) (fmul p q))
    | .min => fltOut y false (fminmax false p q)
    | .max => fltOut y false (fminmax true p q)
    | .absd => fltOut y false (fadd false p q.flip).mag

/-- Operand B: a tile, or a scalar's low half in every element (15 R406). -/
def tileB (l : LineCore) (x : SIss) (b : BitVec 3) (s : BitVec 5) (q : BitVec 1) : List Half :=
  if q = 1 then List.replicate 1024 ((kget l s.toNat).extractLsb' 0 16) else tileVals l x.cluster b.toNat

/-- A tile result of the slot's own cluster after a latency; a source that is uncorrectable is a data error (14 R379,
R382). -/
def tileOut (x : SIss) (lat : Nat) (d : BitVec 3) (srcs : List (Nat × Nat)) (vals : List Half) (l : LineCore) : LineCore :=
  if srcs.any (fun t => tileBad l t.1 t.2) then l.trap 2
  else l.lands x lat (.tile (x.cluster * 8 + d.toNat) vals)

/-- Tiles that an instruction with operand B reads. -/
def tileSrcs (x : SIss) (a b : BitVec 3) (q : BitVec 1) : List (Nat × Nat) :=
  (x.cluster, a.toNat) :: (if q = 1 then [] else [(x.cluster, b.toNat)])

/-- An element-wise instruction (15 R407). -/
def tileMap (op : TOp) (d a b : BitVec 3) (s : BitVec 5) (y : BitVec 2) (sat : Bool) (q : BitVec 1) (x : SIss)
    (l : LineCore) : LineCore :=
  let av := tileVals l x.cluster a.toNat
  let bv := tileB l x b s q
  let cv := if op = .mac then tileVals l x.cluster d.toNat else List.replicate 1024 0#16
  let srcs := tileSrcs x a b q ++ (if op = .mac then [(x.cluster, d.toNat)] else [])
  tileOut x 2 d srcs ((av.zip (bv.zip cv)).map (fun p =>
    BitVec.ofNat 16 (tileElem op y.toNat sat p.1.toNat p.2.1.toNat p.2.2.toNat))) l

/-- TADD (15 R408). -/
def execTadd (d a b : BitVec 3) (s : BitVec 5) (y : BitVec 2) (t q : BitVec 1) (st : State) :
    Host.Outcome State Fault Refusal :=
  slotIssue (.tadd d a b s y t q) (fun _ x l => tileMap .add d a b s y (t == 1) q x l) st

/-- TSUB (15 R408). -/
def execTsub (d a b : BitVec 3) (s : BitVec 5) (y : BitVec 2) (t q : BitVec 1) (st : State) :
    Host.Outcome State Fault Refusal :=
  slotIssue (.tsub d a b s y t q) (fun _ x l => tileMap .sub d a b s y (t == 1) q x l) st

/-- TMUL (15 R408). -/
def execTmul (d a b : BitVec 3) (s : BitVec 5) (y : BitVec 2) (t q : BitVec 1) (st : State) :
    Host.Outcome State Fault Refusal :=
  slotIssue (.tmul d a b s y t q) (fun _ x l => tileMap .mul d a b s y (t == 1) q x l) st

/-- TMAC: d + a × b, rounded once (15 R408). -/
def execTmac (d a b : BitVec 3) (s : BitVec 5) (y : BitVec 2) (t q : BitVec 1) (st : State) :
    Host.Outcome State Fault Refusal :=
  slotIssue (.tmac d a b s y t q) (fun _ x l => tileMap .mac d a b s y (t == 1) q x l) st

/-- TMIN (15 R408). -/
def execTmin (d a b : BitVec 3) (s : BitVec 5) (y : BitVec 2) (q : BitVec 1) (st : State) :
    Host.Outcome State Fault Refusal :=
  slotIssue (.tmin d a b s y q) (fun _ x l => tileMap .min d a b s y false q x l) st

/-- TMAX (15 R408). -/
def execTmax (d a b : BitVec 3) (s : BitVec 5) (y : BitVec 2) (q : BitVec 1) (st : State) :
    Host.Outcome State Fault Refusal :=
  slotIssue (.tmax d a b s y q) (fun _ x l => tileMap .max d a b s y false q x l) st

/-- TABSD (15 R408). -/
def execTabsd (d a b : BitVec 3) (s : BitVec 5) (y : BitVec 2) (q : BitVec 1) (st : State) :
    Host.Outcome State Fault Refusal :=
  slotIssue (.tabsd d a b s y q) (fun _ x l => tileMap .absd d a b s y false q x l) st

/-- The conditions of TCMP: a NaN makes every one but .ne false (15 R408). -/
def tileCond (f y a b : Nat) : Bool :=
  let pick := fun (nan : Bool) (c : Int) =>
    if f = 0 then !nan && c == 0 else if f = 1 then nan || c != 0 else if f = 2 then !nan && decide (c < 0)
    else if f = 3 then !nan && decide (c ≤ 0) else if f = 4 then !nan && decide (c > 0) else !nan && decide (c ≥ 0)
  if y ≤ 1 then pick false (tyInt y a - tyInt y b)
  else
    let p := fdecode (tyFmt y) a
    let q := fdecode (tyFmt y) b
    pick (p.isNan || q.isNan) (fcmp p q)

/-- TCMP (15 R408). -/
def execTcmp (d a b : BitVec 3) (s : BitVec 5) (y : BitVec 2) (q : BitVec 1) (f : BitVec 3) (st : State) :
    Host.Outcome State Fault Refusal :=
  slotIssue (.tcmp d a b s y q f) (fun _ x l =>
    tileOut x 2 d (tileSrcs x a b q) (((tileVals l x.cluster a.toNat).zip (tileB l x b s q)).map (fun p =>
      if tileCond f.toNat y.toNat p.1.toNat p.2.toNat then 0xFFFF#16 else 0#16)) l) st

/-- TSEL (15 R408). -/
def execTsel (d a b m : BitVec 3) (st : State) : Host.Outcome State Fault Refusal :=
  slotIssue (.tsel d a b m) (fun _ x l =>
    let c := x.cluster
    tileOut x 2 d [(c, a.toNat), (c, b.toNat), (c, m.toNat)]
      (((tileVals l c a.toNat).zip ((tileVals l c b.toNat).zip (tileVals l c m.toNat))).map (fun p =>
        if p.2.2 = 0#16 then p.2.1 else p.1)) l) st

/-- TCVT of one element from type y to type z in a mode with a scale (15 R409). -/
def tileCvt (y z : Nat) (sat : Bool) (n mode : Nat) (v : Nat) : Nat :=
  let md := rmode mode
  if y ≤ 1 then
    if z ≤ 1 then intOut z sat (tyInt y v)
    else (rnd (tyFmt z) md sat ((FVal.ofInt (tyInt y v)).scale (-(n : Int)))).1
  else
    let p := fdecode (tyFmt y) v
    if z ≤ 1 then
      match p with
      | .nan _ => 0
      | .inf neg => intOut z true (if neg then -(2 ^ 20 : Int) else 2 ^ 20)
      | p => (match (p.scale n).toInt md with
        | some (r, _) => intOut z true r
        | none => 0)
    else (rnd (tyFmt z) md sat p).1

/-- TCVT (15 R409). -/
def execTcvt (d a : BitVec 3) (y : BitVec 2) (t : BitVec 1) (n : BitVec 4) (m z : BitVec 2) (st : State) :
    Host.Outcome State Fault Refusal :=
  slotIssue (.tcvt d a y t n m z) (fun _ x l =>
    tileOut x 2 d [(x.cluster, a.toNat)] ((tileVals l x.cluster a.toNat).map (fun v =>
      BitVec.ofNat 16 (tileCvt y.toNat z.toNat (t == 1) n.toNat m.toNat v.toNat))) l) st

/-- TSHIFT (15 R409). -/
def execTshift (d a : BitVec 3) (y : BitVec 2) (r : BitVec 1) (n : BitVec 5) (st : State) :
    Host.Outcome State Fault Refusal :=
  slotIssue (.tshift d a y r n) (fun _ x l =>
    tileOut x 2 d [(x.cluster, a.toNat)] ((tileVals l x.cluster a.toNat).map (fun (v : Half) =>
      if r = 0 then v <<< n.toNat else if y = 0 then v.sshiftRight n.toNat else v >>> n.toNat)) l) st

/-- TAND (15 R408). -/
def execTand (d a b : BitVec 3) (s : BitVec 5) (q : BitVec 1) (st : State) : Host.Outcome State Fault Refusal :=
  slotIssue (.tand d a b s q) (fun _ x l =>
    tileOut x 2 d (tileSrcs x a b q)
      (((tileVals l x.cluster a.toNat).zip (tileB l x b s q)).map (fun p => p.1 &&& p.2)) l) st

/-- TOR (15 R408). -/
def execTor (d a b : BitVec 3) (s : BitVec 5) (q : BitVec 1) (st : State) : Host.Outcome State Fault Refusal :=
  slotIssue (.tor d a b s q) (fun _ x l =>
    tileOut x 2 d (tileSrcs x a b q)
      (((tileVals l x.cluster a.toNat).zip (tileB l x b s q)).map (fun p => p.1 ||| p.2)) l) st

/-- TLUT: element x of tile b in row order, x the low byte (15 R408). -/
def execTlut (d a b : BitVec 3) (st : State) : Host.Outcome State Fault Refusal :=
  slotIssue (.tlut d a b) (fun _ x l =>
    let c := x.cluster
    tileOut x 2 d [(c, a.toNat), (c, b.toNat)] ((tileVals l c a.toNat).map (fun v =>
      getD 0#16 l.tiles (tileKey c b.toNat + v.toNat % 256))) l) st

/-- A tile whose element i, j is the element of `a` at the place that `g` names (15 R408). -/
def tilePick (lat : Nat) (d a : BitVec 3) (g : Nat → Nat → Nat × Nat) (x : SIss) (l : LineCore) : LineCore :=
  let base := tileKey x.cluster a.toNat
  tileOut x lat d [(x.cluster, a.toNat)] ((upto 1024).map (fun k =>
    let p := g (k / 64) (k % 64)
    getD 0#16 l.tiles (base + 64 * p.1 + p.2))) l

/-- The count of a rotation or broadcast: in F or in a scalar register (15 R408). -/
def rotCount {n : Nat} (l : LineCore) (s : BitVec 5) (q : BitVec 1) (k : BitVec n) : Nat :=
  if q = 1 then fld (kget l s.toNat) 0 n else k.toNat

/-- RROT (15 R408). -/
def execRrot (d a : BitVec 3) (s : BitVec 5) (q : BitVec 1) (n : BitVec 6) (st : State) :
    Host.Outcome State Fault Refusal :=
  slotIssue (.rrot d a s q n) (fun _ x l => tilePick 2 d a (fun i j => (i, (j + 64 - rotCount l s q n) % 64)) x l) st

/-- RBC (15 R408). -/
def execRbc (d a : BitVec 3) (s : BitVec 5) (q : BitVec 1) (n : BitVec 6) (st : State) :
    Host.Outcome State Fault Refusal :=
  slotIssue (.rbc d a s q n) (fun _ x l => tilePick 2 d a (fun i _ => (i, rotCount l s q n)) x l) st

/-- CROT (15 R408). -/
def execCrot (d a : BitVec 3) (s : BitVec 5) (q : BitVec 1) (n : BitVec 4) (st : State) :
    Host.Outcome State Fault Refusal :=
  slotIssue (.crot d a s q n) (fun _ x l => tilePick 6 d a (fun i j => ((i + 16 - rotCount l s q n) % 16, j)) x l) st

/-- CBC (15 R408). -/
def execCbc (d a : BitVec 3) (s : BitVec 5) (q : BitVec 1) (n : BitVec 4) (st : State) :
    Host.Outcome State Fault Refusal :=
  slotIssue (.cbc d a s q n) (fun _ x l => tilePick 6 d a (fun _ j => (rotCount l s q n, j)) x l) st

/-- The reduction of elements: op 0 add, 1 min, 2 max (15 R410). -/
def tileReduce (o y : Nat) (sat : Bool) (vs : List Nat) : Nat :=
  if o = 0 then
    (if y ≤ 1 then intOut y sat ((vs.map (tyInt y)).foldl (· + ·) 0)
     else fltOut y sat (exactSum (vs.map (fdecode (tyFmt y)))))
  else
    let op : TOp := if o = 1 then .min else .max
    match vs with
    | [] => 0
    | v :: rest =>
      rest.foldl (fun r w => tileElem op y false r w 0) v

/-- RRED (15 R410). -/
def execRred (d a : BitVec 3) (y : BitVec 2) (t : BitVec 1) (o : BitVec 2) (st : State) :
    Host.Outcome State Fault Refusal :=
  slotIssue (.rred d a y t o) (fun _ x l =>
    let base := tileKey x.cluster a.toNat
    let sums := (upto 16).map (fun i => BitVec.ofNat 16 (tileReduce o.toNat y.toNat (t == 1)
      ((rangeVals l.tiles (base + 64 * i) 64).map BitVec.toNat)))
    tileOut x 2 d [(x.cluster, a.toNat)] ((upto 1024).map (fun k => sums.getD (k / 64) 0#16)) l) st

/-- CRED (15 R410). -/
def execCred (d a : BitVec 3) (y : BitVec 2) (t : BitVec 1) (o : BitVec 2) (st : State) :
    Host.Outcome State Fault Refusal :=
  slotIssue (.cred d a y t o) (fun _ x l =>
    let base := tileKey x.cluster a.toNat
    let sums := (upto 64).map (fun j => BitVec.ofNat 16 (tileReduce o.toNat y.toNat (t == 1)
      ((upto 16).map (fun i => (getD 0#16 l.tiles (base + 64 * i + j)).toNat))))
    tileOut x 6 d [(x.cluster, a.toNat)] ((upto 1024).map (fun k => sums.getD (k % 64) 0#16)) l) st

/-- TXMV: a tile of the other cluster (15 R408). -/
def execTxmv (d a : BitVec 3) (st : State) : Host.Outcome State Fault Refusal :=
  slotIssue (.txmv d a) (fun _ x l =>
    let c := 1 - x.cluster
    tileOut x 3 d [(c, a.toNat)] (tileVals l c a.toNat) l) st

/-- TGATH: every element read from the line buffer at issue; one address that is odd or past the end is LB_RANGE
(15 R411). -/
def execTgath (d a b : BitVec 3) (s : BitVec 5) (h : BitVec 5) (st : State) : Host.Outcome State Fault Refusal :=
  slotIssue (.tgath d a b s h) (fun t x l =>
    let c := x.cluster
    let addrs := ((tileVals l c a.toNat).zip (tileVals l c b.toNat)).map (fun p =>
      (kget l s.toNat).toNat + 2 * p.1.toNat + p.2.toNat * 2 ^ h.toNat)
    if addrs.any (fun n => !lbOk (n : Int) 2) then l.trap 3
    else if addrs.any (fun n => l.lbErr.contains (n / 8)) then l.trap 2
    else tileOut x 8 d [(c, a.toNat), (c, b.toNat)]
      (addrs.map (fun n => BitVec.ofNat 16 (ofBytes ((lbView t.tick l x.eng none n 2).getD [])))) l) st

/-- TMATQ: a snapshot of the tile enters the queue of 8; slot A before slot B (14 R392, 15 R412). -/
def execTmatq (a : BitVec 3) (c : BitVec 1) (w : BitVec 2) (st : State) : Host.Outcome State Fault Refusal :=
  slotIssue (.tmatq a c w) (fun _ x l =>
    let before := (l.fx.filter (fun f => match f with | .enq _ => true | _ => false)).length
    if 8 ≤ l.mq.length + before then l.wait
    else if tileBad l x.cluster a.toNat then l.trap 2
    else
      l.will (.enq
        { a := tileVals l x.cluster a.toNat, set := w.toNat, acc := c == 1, started := none, w := [], out := none })) st

/-- The place of the oldest finished result that no later .acc entry consumes (15 R412). -/
def poppable : Nat → List MEntry → Option Nat
  | _, [] => none
  | i, [e] => if e.out.isSome then some i else none
  | i, e :: f :: es => if e.out.isSome && !f.acc then some i else poppable (i + 1) (f :: es)

/-- The matrix queue less the results that earlier slots of the bundle pop (15 R412). -/
def LineCore.mqLeft (l : LineCore) : List MEntry :=
  l.fx.foldl (fun q f => match f with | .deq i => q.eraseIdx i | _ => q) l.mq

/-- TMATR; of two in one bundle slot A pops first (15 R412). -/
def execTmatr (d : BitVec 3) (st : State) : Host.Outcome State Fault Refusal :=
  slotIssue (.tmatr d) (fun _ x l =>
    match poppable 0 l.mqLeft with
    | none => l.wait
    | some i =>
      let out := match l.mqLeft[i]? with
        | some e => e.out.getD []
        | none => []
      (l.will (.deq i)).lands x 2 (.tile (x.cluster * 8 + d.toNat)
        (out.map (fun v => BitVec.ofNat 16 (rnd bf16 .rne false (f32 v.toNat)).1)))) st

/-- The product of an entry: four chunks of 16, each chunk sum rounded once (14 R392, 06 R162). A weight row that was
rewritten while the entry ran gives the old or the new row, whole. -/
def entryProduct (l : LineCore) (tick : Nat) (e : MEntry) (start : List Word) : List Word :=
  let wrow := fun (k : Nat) =>
    let old := (e.w.drop (64 * k)).take 64
    let new := rangeVals l.wsets (e.set * 4096 + 64 * k) 64
    if Config.freeValue tick k % 2 = 0 then old else new
  let rows := (upto 64).map wrow
  let cols := (upto 64).map (fun m => rows.map (fun r => fdecode bf16 (r.getD m 0#16).toNat))
  (upto 1024).map (fun k =>
    let xs := ((e.a.drop (64 * (k / 64))).take 64).map (fun v => fdecode bf16 v.toNat)
    BitVec.ofNat 32 (accChunks 16 [] [] 4 0 xs (cols.getD (k % 64) []) (start.getD k 0#32).toNat).1)

/-- MATRIX_ENTRY_COMPLETION (14 R392): the running entry finishes 8 Cameo cycles after it started; an .acc entry starts from
the finished result before it, which is consumed, or from +0. -/
def execMatrixEntryCompletion (lc : Nat) (s : State) : Host.Outcome State Fault Refusal :=
  let l := lineOf s lc
  match l.mq.findIdx? (fun e => e.started.isSome && e.out.isNone) with
  | none => .next s
  | some i =>
    match l.mq[i]? with
    | none => .next s
    | some e =>
      if l.cyc < e.started.getD 0 + 8 then .next s
      else
        let prev := if e.acc ∧ 0 < i then l.mq[i - 1]? else none
        let start := match prev with
          | some p => p.out.getD []
          | none => []
        let mq := l.mq.set i { e with out := some (entryProduct l s.tick e start) }
        .next (modLine s lc (fun l => { l with mq := if prev.isSome then mq.eraseIdx (i - 1) else mq }))

end Sys2Proof.Machine
end

