-- ==== Sys2Proof/Machine/Dispatch.lean ====
section
/-! DEFINITION. Machine/Dispatch.lean: what each constructor of Instr means, one arm per constructor. -/

namespace Sys2Proof.Machine

def exec (i : Instr) (s : State) : Host.Outcome State Fault Refusal :=
  match i with
  | .iadd f => Sys2Proof.Machine.execIadd f s
  | .iaddI f => Sys2Proof.Machine.execIaddI f s
  | .isub f => Sys2Proof.Machine.execIsub f s
  | .imul f => Sys2Proof.Machine.execImul f s
  | .imulI f => Sys2Proof.Machine.execImulI f s
  | .imulh f => Sys2Proof.Machine.execImulh f s
  | .imad f => Sys2Proof.Machine.execImad f s
  | .imadw f => Sys2Proof.Machine.execImadw f s
  | .imin f => Sys2Proof.Machine.execImin f s
  | .imax f => Sys2Proof.Machine.execImax f s
  | .iabsd f => Sys2Proof.Machine.execIabsd f s
  | .lop3 f => Sys2Proof.Machine.execLop3 f s
  | .shl f => Sys2Proof.Machine.execShl f s
  | .shlI f => Sys2Proof.Machine.execShlI f s
  | .shr f => Sys2Proof.Machine.execShr f s
  | .shrI f => Sys2Proof.Machine.execShrI f s
  | .shra f => Sys2Proof.Machine.execShra f s
  | .shraI f => Sys2Proof.Machine.execShraI f s
  | .shf f => Sys2Proof.Machine.execShf f s
  | .bfx f => Sys2Proof.Machine.execBfx f s
  | .bfxI f => Sys2Proof.Machine.execBfxI f s
  | .bfi f => Sys2Proof.Machine.execBfi f s
  | .popc f => Sys2Proof.Machine.execPopc f s
  | .clz f => Sys2Proof.Machine.execClz f s
  | .brev f => Sys2Proof.Machine.execBrev f s
  | .prmt f => Sys2Proof.Machine.execPrmt f s
  | .iset f => Sys2Proof.Machine.execIset f s
  | .isetI f => Sys2Proof.Machine.execIsetI f s
  | .isel f => Sys2Proof.Machine.execIsel f s
  | .lea f => Sys2Proof.Machine.execLea f s
  | .mov f => Sys2Proof.Machine.execMov f s
  | .movl f => Sys2Proof.Machine.execMovl f s
  | .rdsr f => Sys2Proof.Machine.execRdsr f s
  | .p2v f => Sys2Proof.Machine.execP2v f s
  | .v2p f => Sys2Proof.Machine.execV2p f s
  | .plop f => Sys2Proof.Machine.execPlop f s
  | .bra f => Sys2Proof.Machine.execBra f s
  | .brx f => Sys2Proof.Machine.execBrx f s
  | .call f => Sys2Proof.Machine.execCall f s
  | .ret f => Sys2Proof.Machine.execRet f s
  | .exit f => Sys2Proof.Machine.execExit f s
  | .deferG f => Sys2Proof.Machine.execDeferG f s
  | .deferF f => Sys2Proof.Machine.execDeferF f s
  | .clasp f => Sys2Proof.Machine.execClasp f s
  | .unclasp f => Sys2Proof.Machine.execUnclasp f s
  | .nop f => Sys2Proof.Machine.execNop f s
  | .yield f => Sys2Proof.Machine.execYield f s
  | .launch f => Sys2Proof.Machine.execLaunch f s
  | .launchi f => Sys2Proof.Machine.execLaunchi f s
  | .cwait f => Sys2Proof.Machine.execCwait f s
  | .trap f => Sys2Proof.Machine.execTrap f s
  | .tret f => Sys2Proof.Machine.execTret f s
  | .trd f => Sys2Proof.Machine.execTrd f s
  | .twr f => Sys2Proof.Machine.execTwr f s
  | .bpt f => Sys2Proof.Machine.execBpt f s
  | .fadd f => Sys2Proof.Machine.execFadd f s
  | .fmul f => Sys2Proof.Machine.execFmul f s
  | .ffma f => Sys2Proof.Machine.execFfma f s
  | .fmin f => Sys2Proof.Machine.execFmin f s
  | .fmax f => Sys2Proof.Machine.execFmax f s
  | .fset f => Sys2Proof.Machine.execFset f s
  | .frnd f => Sys2Proof.Machine.execFrnd f s
  | .fclass f => Sys2Proof.Machine.execFclass f s
  | .fscale f => Sys2Proof.Machine.execFscale f s
  | .dadd f => Sys2Proof.Machine.execDadd f s
  | .dmul f => Sys2Proof.Machine.execDmul f s
  | .dfma f => Sys2Proof.Machine.execDfma f s
  | .dset f => Sys2Proof.Machine.execDset f s
  | .f2f f => Sys2Proof.Machine.execF2f f s
  | .f2i f => Sys2Proof.Machine.execF2i f s
  | .i2f f => Sys2Proof.Machine.execI2f f s
  | .fpack f => Sys2Proof.Machine.execFpack f s
  | .funpk f => Sys2Proof.Machine.execFunpk f s
  | .mxexp f => Sys2Proof.Machine.execMxexp f s
  | .rcp f => Sys2Proof.Machine.execRcp f s
  | .rsq f => Sys2Proof.Machine.execRsq f s
  | .sqrt f => Sys2Proof.Machine.execSqrt f s
  | .ex2 f => Sys2Proof.Machine.execEx2 f s
  | .lg2 f => Sys2Proof.Machine.execLg2 f s
  | .sincos f => Sys2Proof.Machine.execSincos f s
  | .tanh f => Sys2Proof.Machine.execTanh f s
  | .fil f => Sys2Proof.Machine.execFil f s
  | .filt f => Sys2Proof.Machine.execFilt f s
  | .shfl f => Sys2Proof.Machine.execShfl f s
  | .vote f => Sys2Proof.Machine.execVote f s
  | .redux f => Sys2Proof.Machine.execRedux f s
  | .scanx f => Sys2Proof.Machine.execScanx f s
  | .matchLanes f => Sys2Proof.Machine.execMatchLanes f s
  | .lrd f => Sys2Proof.Machine.execLrd f s
  | .lwr f => Sys2Proof.Machine.execLwr f s
  | .ld f => Sys2Proof.Machine.execLd f s
  | .st f => Sys2Proof.Machine.execSt f s
  | .ldc f => Sys2Proof.Machine.execLdc f s
  | .ldsp f => Sys2Proof.Machine.execLdsp f s
  | .stsp f => Sys2Proof.Machine.execStsp f s
  | .ldq f => Sys2Proof.Machine.execLdq f s
  | .stq f => Sys2Proof.Machine.execStq f s
  | .pref f => Sys2Proof.Machine.execPref f s
  | .cctl f => Sys2Proof.Machine.execCctl f s
  | .promote f => Sys2Proof.Machine.execPromote f s
  | .demote f => Sys2Proof.Machine.execDemote f s
  | .atom f => Sys2Proof.Machine.execAtom f s
  | .atomc f => Sys2Proof.Machine.execAtomc f s
  | .red f => Sys2Proof.Machine.execRed f s
  | .atomsp f => Sys2Proof.Machine.execAtomsp f s
  | .ldr f => Sys2Proof.Machine.execLdr f s
  | .stc f => Sys2Proof.Machine.execStc f s
  | .fence f => Sys2Proof.Machine.execFence f s
  | .fencex f => Sys2Proof.Machine.execFencex f s
  | .barGrp f => Sys2Proof.Machine.execBarGrp f s
  | .barMeet f => Sys2Proof.Machine.execBarMeet f s
  | .barPost f => Sys2Proof.Machine.execBarPost f s
  | .barAwait f => Sys2Proof.Machine.execBarAwait f s
  | .barxMeet f => Sys2Proof.Machine.execBarxMeet f s
  | .barxPost f => Sys2Proof.Machine.execBarxPost f s
  | .qbarMeet f => Sys2Proof.Machine.execQbarMeet f s
  | .qbarPost f => Sys2Proof.Machine.execQbarPost f s
  | .semadd f => Sys2Proof.Machine.execSemadd f s
  | .semwait f => Sys2Proof.Machine.execSemwait f s
  | .semrd f => Sys2Proof.Machine.execSemrd f s
  | .enq f => Sys2Proof.Machine.execEnq f s
  | .tex f => Sys2Proof.Machine.execTex f s
  | .texC f => Sys2Proof.Machine.execTexC f s
  | .trace f => Sys2Proof.Machine.execTrace f s
  | .doneBit f => Sys2Proof.Machine.execDoneBit f s
  | .tilewait f => Sys2Proof.Machine.execTilewait f s
  | .mma f => Sys2Proof.Machine.execMma f s
  | .mmaExp f => Sys2Proof.Machine.execMmaExp f s
  | .mmaAbs f => Sys2Proof.Machine.execMmaAbs f s
  | .accz f => Sys2Proof.Machine.execAccz f s
  | .accrd f => Sys2Proof.Machine.execAccrd f s
  | .accwr f => Sys2Proof.Machine.execAccwr f s
  | .accst f => Sys2Proof.Machine.execAccst f s
  | .mwait f => Sys2Proof.Machine.execMwait f s
  | .pload f => Sys2Proof.Machine.execPload f s
  | .edge f => Sys2Proof.Machine.execEdge f s
  | .mstat f => Sys2Proof.Machine.execMstat f s
  | .noOperation => Sys2Proof.Machine.execNoOperation s
  | .kaddReg d a b => Sys2Proof.Machine.execKaddReg d a b s
  | .kaddImm d a n => Sys2Proof.Machine.execKaddImm d a n s
  | .ksubReg d a b => Sys2Proof.Machine.execKsubReg d a b s
  | .ksubImm d a n => Sys2Proof.Machine.execKsubImm d a n s
  | .kmulReg d a b => Sys2Proof.Machine.execKmulReg d a b s
  | .kmulImm d a n => Sys2Proof.Machine.execKmulImm d a n s
  | .kmov d a => Sys2Proof.Machine.execKmov d a s
  | .kldi d n => Sys2Proof.Machine.execKldi d n s
  | .kldiHi d n => Sys2Proof.Machine.execKldiHi d n s
  | .kld d a n => Sys2Proof.Machine.execKld d a n s
  | .kst d a n => Sys2Proof.Machine.execKst d a n s
  | .kcmpReg d a f b => Sys2Proof.Machine.execKcmpReg d a f b s
  | .kcmpImm d a f n => Sys2Proof.Machine.execKcmpImm d a f n s
  | .br t => Sys2Proof.Machine.execBr t s
  | .brc a f t => Sys2Proof.Machine.execBrc a f t s
  | .loopReg a e => Sys2Proof.Machine.execLoopReg a e s
  | .loopImm c e => Sys2Proof.Machine.execLoopImm c e s
  | .halt => Sys2Proof.Machine.execHalt s
  | .toksendReg e b => Sys2Proof.Machine.execToksendReg e b s
  | .toksendImm e n => Sys2Proof.Machine.execToksendImm e n s
  | .tokrecv d e => Sys2Proof.Machine.execTokrecv d e s
  | .bandchk d => Sys2Proof.Machine.execBandchk d s
  | .lktrd d n => Sys2Proof.Machine.execLktrd d n s
  | .evt a => Sys2Proof.Machine.execEvt a s
  | .tadd d a b ks y t q => Sys2Proof.Machine.execTadd d a b ks y t q s
  | .tsub d a b ks y t q => Sys2Proof.Machine.execTsub d a b ks y t q s
  | .tmul d a b ks y t q => Sys2Proof.Machine.execTmul d a b ks y t q s
  | .tmac d a b ks y t q => Sys2Proof.Machine.execTmac d a b ks y t q s
  | .tmin d a b ks y q => Sys2Proof.Machine.execTmin d a b ks y q s
  | .tmax d a b ks y q => Sys2Proof.Machine.execTmax d a b ks y q s
  | .tabsd d a b ks y q => Sys2Proof.Machine.execTabsd d a b ks y q s
  | .tcmp d a b ks y q f => Sys2Proof.Machine.execTcmp d a b ks y q f s
  | .tsel d a b m => Sys2Proof.Machine.execTsel d a b m s
  | .tcvt d a y t n m z => Sys2Proof.Machine.execTcvt d a y t n m z s
  | .tshift d a y r n => Sys2Proof.Machine.execTshift d a y r n s
  | .tand d a b ks q => Sys2Proof.Machine.execTand d a b ks q s
  | .tor d a b ks q => Sys2Proof.Machine.execTor d a b ks q s
  | .tlut d a b => Sys2Proof.Machine.execTlut d a b s
  | .rrot d a ks q n => Sys2Proof.Machine.execRrot d a ks q n s
  | .rbc d a ks q n => Sys2Proof.Machine.execRbc d a ks q n s
  | .rred d a y t o => Sys2Proof.Machine.execRred d a y t o s
  | .crot d a ks q n => Sys2Proof.Machine.execCrot d a ks q n s
  | .cbc d a ks q n => Sys2Proof.Machine.execCbc d a ks q n s
  | .cred d a y t o => Sys2Proof.Machine.execCred d a y t o s
  | .txmv d a => Sys2Proof.Machine.execTxmv d a s
  | .tgath d a b ks h => Sys2Proof.Machine.execTgath d a b ks h s
  | .tmatq a c w => Sys2Proof.Machine.execTmatq a c w s
  | .tmatr d => Sys2Proof.Machine.execTmatr d s
  | .sbind ks a => Sys2Proof.Machine.execSbind ks a s
  | .srdTile ks c t r => Sys2Proof.Machine.execSrdTile ks c t r s
  | .srdWeight ks k r => Sys2Proof.Machine.execSrdWeight ks k r s
  | .swrTile ks c t r => Sys2Proof.Machine.execSwrTile ks c t r s
  | .swrStream ks b => Sys2Proof.Machine.execSwrStream ks b s
  | .sflush ks => Sys2Proof.Machine.execSflush ks s
  | .loadDataReturn rid => Sys2Proof.Machine.execLoadDataReturn rid s
  | .storeAcceptance rid => Sys2Proof.Machine.execStoreAcceptance rid s
  | .atomicReply rid => Sys2Proof.Machine.execAtomicReply rid s
  | .texSampleReturn core uid => Sys2Proof.Machine.execTexSampleReturn core uid s
  | .traceResult core uid => Sys2Proof.Machine.execTraceResult core uid s
  | .promoteCompletion core uid => Sys2Proof.Machine.execPromoteCompletion core uid s
  | .ploadCompletion core uid => Sys2Proof.Machine.execPloadCompletion core uid s
  | .queueEntryStart core slice => Sys2Proof.Machine.execQueueEntryStart core slice s
  | .queueEntryCompletion core slice mismatches => Sys2Proof.Machine.execQueueEntryCompletion core slice mismatches s
  | .accstRowAnswer core uid row => Sys2Proof.Machine.execAccstRowAnswer core uid row s
  | .memoryAccess rid => Sys2Proof.Machine.execMemoryAccess rid s
  | .rowPromotion chan bank row pri => Sys2Proof.Machine.execRowPromotion chan bank row pri s
  | .rowDemotion chan bank row => Sys2Proof.Machine.execRowDemotion chan bank row s
  | .automaticPromotion chan => Sys2Proof.Machine.execAutomaticPromotion chan s
  | .seqRenumbering chan bank => Sys2Proof.Machine.execSeqRenumbering chan bank s
  | .refresh chan => Sys2Proof.Machine.execRefresh chan s
  | .patrolScrub chan bank row => Sys2Proof.Machine.execPatrolScrub chan bank row s
  | .channelReset chan => Sys2Proof.Machine.execChannelReset chan s
  | .channelResetComplete chan => Sys2Proof.Machine.execChannelResetComplete chan s
  | .bandwidthWindow chan => Sys2Proof.Machine.execBandwidthWindow chan s
  | .homeSliceAccess rid => Sys2Proof.Machine.execHomeSliceAccess rid s
  | .l2Fill rid => Sys2Proof.Machine.execL2Fill rid s
  | .pageWalk rid => Sys2Proof.Machine.execPageWalk rid s
  | .linkTraining link packed => Sys2Proof.Machine.execLinkTraining link packed s
  | .flitReplay port ok => Sys2Proof.Machine.execFlitReplay port ok s
  | .portRetrain port ok => Sys2Proof.Machine.execPortRetrain port ok s
  | .maintenanceNop part => Sys2Proof.Machine.execMaintenanceNop part s
  | .invRange part => Sys2Proof.Machine.execInvRange part s
  | .invAsid part => Sys2Proof.Machine.execInvAsid part s
  | .invPart part => Sys2Proof.Machine.execInvPart part s
  | .mqtailWrite part v => Sys2Proof.Machine.execMqtailWrite part v s
  | .mqctlWrite part v => Sys2Proof.Machine.execMqctlWrite part v s
  | .faultReservationRetry core wslot => Sys2Proof.Machine.execFaultReservationRetry core wslot s
  | .copy core gslot ring => Sys2Proof.Machine.execCopy core gslot ring s
  | .affine core gslot ring => Sys2Proof.Machine.execAffine core gslot ring s
  | .gather core gslot ring => Sys2Proof.Machine.execGather core gslot ring s
  | .scatter core gslot ring => Sys2Proof.Machine.execScatter core gslot ring s
  | .ragged core gslot ring => Sys2Proof.Machine.execRagged core gslot ring s
  | .fill core gslot ring => Sys2Proof.Machine.execFill core gslot ring s
  | .iuload core gslot ring => Sys2Proof.Machine.execIuload core gslot ring s
  | .scadd core gslot ring => Sys2Proof.Machine.execScadd core gslot ring s
  | .bin core gslot ring => Sys2Proof.Machine.execBin core gslot ring s
  | .hist core gslot ring => Sys2Proof.Machine.execHist core gslot ring s
  | .chunkCompletion core gslot ring => Sys2Proof.Machine.execChunkCompletion core gslot ring s
  | .commandCompletion core gslot ring => Sys2Proof.Machine.execCommandCompletion core gslot ring s
  | .ringResume core gslot ring => Sys2Proof.Machine.execRingResume core gslot ring s
  | .gridDispatch part => Sys2Proof.Machine.execGridDispatch part s
  | .lqtailWrite part q v => Sys2Proof.Machine.execLqtailWrite part q v s
  | .lqstatWrite part q v => Sys2Proof.Machine.execLqstatWrite part q v s
  | .groupPlacement part grid group core => Sys2Proof.Machine.execGroupPlacement part grid group core s
  | .placementTimeout part die => Sys2Proof.Machine.execPlacementTimeout part die s
  | .groupRetire core gslot => Sys2Proof.Machine.execGroupRetire core gslot s
  | .gridCompletion part grid => Sys2Proof.Machine.execGridCompletion part grid s
  | .continuationWarpFormation core rec quadrant => Sys2Proof.Machine.execContinuationWarpFormation core rec quadrant s
  | .spillReturn core => Sys2Proof.Machine.execSpillReturn core s
  | .handlerEntry core wslot => Sys2Proof.Machine.execHandlerEntry core wslot s
  | .fatalHalt core wslot => Sys2Proof.Machine.execFatalHalt core wslot s
  | .debugRequest core gslot => Sys2Proof.Machine.execDebugRequest core gslot s
  | .gridAbort part grid => Sys2Proof.Machine.execGridAbort part grid s
  | .engineFaultTrap core gslot => Sys2Proof.Machine.execEngineFaultTrap core gslot s
  | .impreciseRecordWrite core wslot => Sys2Proof.Machine.execImpreciseRecordWrite core wslot s
  | .swapOut core gslot => Sys2Proof.Machine.execSwapOut core gslot s
  | .groupSave core gslot => Sys2Proof.Machine.execGroupSave core gslot s
  | .groupRestore part slot core => Sys2Proof.Machine.execGroupRestore part slot core s
  | .replay part kind key => Sys2Proof.Machine.execReplay part kind key s
  | .deliver part kind key => Sys2Proof.Machine.execDeliver part kind key s
  | .abort part kind key => Sys2Proof.Machine.execAbort part kind key s
  | .hold part asid => Sys2Proof.Machine.execHold part asid s
  | .release part asid => Sys2Proof.Machine.execRelease part asid s
  | .holdCompletion part => Sys2Proof.Machine.execHoldCompletion part s
  | .assign kind part index => Sys2Proof.Machine.execAssign kind part index s
  | .cancel kind part index => Sys2Proof.Machine.execCancel kind part index s
  | .enable kind part index => Sys2Proof.Machine.execEnable kind part index s
  | .releaseCore part index => Sys2Proof.Machine.execReleaseCore part index s
  | .releaseChannel part index => Sys2Proof.Machine.execReleaseChannel part index s
  | .slcommit part => Sys2Proof.Machine.execSlcommit part s
  | .chcommit part index => Sys2Proof.Machine.execChcommit part index s
  | .blockMove part atag vb => Sys2Proof.Machine.execBlockMove part atag vb s
  | .sweep part => Sys2Proof.Machine.execSweep part s
  | .drainComplete kind index => Sys2Proof.Machine.execDrainComplete kind index s
  | .zeroingComplete kind index => Sys2Proof.Machine.execZeroingComplete kind index s
  | .partFatal part => Sys2Proof.Machine.execPartFatal part s
  | .chmapWrite slot v => Sys2Proof.Machine.execChmapWrite slot v s
  | .hdownEnable head v => Sys2Proof.Machine.execHdownEnable head v s
  | .hdownDisable head => Sys2Proof.Machine.execHdownDisable head s
  | .registerWrite root part offset bytes v => Sys2Proof.Machine.execRegisterWrite root part offset bytes v s
  | .notificationBatch part => Sys2Proof.Machine.execNotificationBatch part s
  | .notificationInterval part => Sys2Proof.Machine.execNotificationInterval part s
  | .rdmaWrite part qp rkey addr data => Sys2Proof.Machine.execRdmaWrite part qp rkey addr data s
  | .rdmaWriteWithImmediate part qp rkey addr data imm => Sys2Proof.Machine.execRdmaWriteWithImmediate part qp rkey addr data imm s
  | .rdmaRead part qp rkey addr len => Sys2Proof.Machine.execRdmaRead part qp rkey addr len s
  | .qpContextEnable part qp => Sys2Proof.Machine.execQpContextEnable part qp s
  | .fabricAccessArrival gid kind addr data => Sys2Proof.Machine.execFabricAccessArrival gid kind addr data s
  | .attestationRequest part v => Sys2Proof.Machine.execAttestationRequest part v s
  | .coldReset => Sys2Proof.Machine.execColdReset s
  | .warmReset => Sys2Proof.Machine.execWarmReset s
  | .moduleFatalError reason => Sys2Proof.Machine.execModuleFatalError reason s
  | .thermalLimit level => Sys2Proof.Machine.execThermalLimit level s
  | .frameStart head => Sys2Proof.Machine.execFrameStart head s
  | .hdcfgPoll head => Sys2Proof.Machine.execHdcfgPoll head s
  | .loadRequest head => Sys2Proof.Machine.execLoadRequest head s
  | .loaded head => Sys2Proof.Machine.execLoaded head s
  | .locketLatch head => Sys2Proof.Machine.execLocketLatch head s
  | .bandStart lc => Sys2Proof.Machine.execBandStart lc s
  | .bandAbandonment lc => Sys2Proof.Machine.execBandAbandonment lc s
  | .fallback head band late => Sys2Proof.Machine.execFallback head band late s
  | .relfWrite head fslot => Sys2Proof.Machine.execRelfWrite head fslot s
  | .streamRowFetch lc st => Sys2Proof.Machine.execStreamRowFetch lc st s
  | .streamRowAnswer lc st => Sys2Proof.Machine.execStreamRowAnswer lc st s
  | .matrixEntryCompletion lc => Sys2Proof.Machine.execMatrixEntryCompletion lc s
  | .suspension lc => Sys2Proof.Machine.execSuspension lc s
  | .resumption lc => Sys2Proof.Machine.execResumption lc s
  | .unreachableNodeFault rid => Sys2Proof.Machine.execUnreachableNodeFault rid s
  | .requesterRetry part => Sys2Proof.Machine.execRequesterRetry part s

end Sys2Proof.Machine
end

