-- ==== Sys2Proof/Machine/Bundle.lean ====
section
/-! DEFINITION. Machine/Bundle.lean: the issue of a bundle by an engine of a line core (14 R372, R382; 15 R395 to R397). -/

namespace Sys2Proof.Machine

/-- The instruction of a slot word, by slot number (15 R395). -/
def decodeSlot (k : Nat) (w : Word) : Option Instr :=
  if k = 0 then decodeScalar w else if k = 3 then decodeStream w else decodeTile w

/-- The slots of a bundle from slot k on, each found to go on, to wait or to trap (15 R396, R397). -/
def runSlots (lc e : Nat) : Nat → List Word → State → Host.Outcome State Fault Refusal
  | _, [], s => .next s
  | k, w :: ws, s =>
    match decodeSlot k w with
    | none => runSlots lc e (k + 1) ws (modLine s lc (fun l => l.trap 0))
    | some i =>
      match exec i { s with cur := .slot lc e k } with
      | .next s => runSlots lc e (k + 1) ws s
      | r => r

/-- An engine's bundle: it issues, waits, or is the trap that ends the band with the cycle (14 R382, 15 R396, R397). A refused row that it
takes counts as reported only where its trap is the one of the cycle (14 R378). -/
def issueBundle (s : State) (lc e : Nat) : Host.Outcome State Fault Refusal :=
  let s := modLine s lc (fun l => { l with fx := [], bst := .ok, took := none })
  match runSlots lc e 0 (slotWords (bundleAt (lineOf s lc) e)) s with
  | .next s =>
    let drop := fun (l : LineCore) => { l with fx := [], bst := .ok, took := none }
    .next (match (lineOf s lc).bst with
      | .ok => commitBundle s lc e
      | .waits => modLine s lc drop
      | .trap c => modLine s lc (fun l => { drop l with
          trapQ := some (l.trapQ.getD c),
          streams := match l.trapQ, l.took with
            | none, some st => adjust l.streams st (fun t => if t.refused = some c then { t with refused := none } else t)
            | _, _ => l.streams }))
  | r => r

/-- Whether the line core's band still lives (14 R388). -/
def bandLives (s : State) (lc : Nat) : Bool :=
  match (lineOf s lc).band with
  | none => false
  | some b => let h := headOf s b.head; decide ((h.scanned : Int) < deadline h b.f b.b - 1)

/-- The turn of a line core's next engine; after the fourth the Cameo cycle ends (14 R372). -/
def lineTurn (s : State) (lc : Nat) : Host.Outcome State Fault Refusal :=
  let e := (lineOf s lc).nextEng
  let fin := fun (s : State) => if 3 ≤ e then endCycle s lc else modLine s lc (fun l => { l with nextEng := e + 1 })
  if engineIssues (lineOf s lc) e && bandLives s lc then
    match issueBundle s lc e with
    | .next s => .next (fin s)
    | r => r
  else .next (fin s)

end Sys2Proof.Machine
end

