-- ==== Sys2Proof/Machine/Sched.lean ====
section
/-! DEFINITION. Machine/Sched.lean: how a quadrant finds its next instructions: the choice of warp and paths among those that
are ready (16 R435 to R437), pairs (08 R190) and what an issue counts (17 R452, R466). -/

namespace Sys2Proof.Machine

/-! ### Candidates -/

/-- A path that can issue with what stands at its PC. -/
structure Cand where
  path : PathAt
  found : Found

/-- What a warp waits to be saved for, with its group or, as a free continuation warp, alone. -/
def savingOf (s : State) (core : Nat) (w : Warp) : Option Nat :=
  match w.gslot with
  | some g => (match groupAt s core g with | some x => x.saving | none => none)
  | none => w.saving

/-- A halt of the warp's unit is under way (17 R452). -/
def haltingOf (s : State) (core : Nat) (w : Warp) : Bool := isHalt (savingOf s core w)

/-- Whether a warp may issue: no stall, trap, row or swap-out holds it, and a halt has at most 8 instructions to run past
(11 R523, 17 R452, R454 to R457, R460). -/
def warpMayIssue (s : State) (core ws : Nat) (w : Warp) : Bool :=
  w.stall.isEmpty && w.trapPend.isNone && !(w.raisedHalt && haltingOf s core w) && w.rows.all (fun r => !r.gate) && !trapDue s core ws w &&
  ((savingOf s core w).isNone || (haltingOf s core w && decide (w.skid < 8))) &&
  !(w.hmode && w.infl.any (fun f => f.lanes == 0#32))

/-- The ready paths of a warp. -/
def readyPaths (s : State) (core ws : Nat) : List Cand :=
  let w := warpAt s core ws
  if !warpMayIssue s core ws w then []
  else (freePaths w).filterMap (fun p =>
    if !p.wait.issues then none
    else
      let fo := (fetchAt s core w p.pc).1
      if pathReady s core ws p fo then some ⟨p, fo⟩ else none)

/-! ### Choice -/

/-- The candidate of the greatest key, ties by the lower PC. -/
def bestBy (key : Cand → Nat) (cs : List Cand) : Option Cand :=
  cs.foldl (fun b c => match b with
    | none => some c
    | some d => if key c > key d ∨ (key c = key d ∧ c.path.pc.toNat < d.path.pc.toNat) then some c else b) none

/-- Whether an instruction is never paired: one that issues alone, and one that fails decoding (07 R167, 16 R436). -/
def Cand.alone (w : Warp) (c : Cand) : Bool :=
  match c.found with
  | .ok _ op f _ _ => issuesAlone op f || !operandsOk w op f
  | _ => true

/-- The paths that issue: one, or a pair where two instructions may still issue before a halt (16 R436, 17 R452). -/
def choosePaths (w : Warp) (halting : Bool) (cs : List Cand) : Option (Cand × Option Cand) :=
  let wait := fun (c : Cand) => c.path.waited w
  let starved := cs.filter (fun c => decide (64 ≤ wait c))
  let first := if w.clOpen then bestBy (fun c => c.path.count) cs
    else if starved.isEmpty then bestBy (fun c => c.path.count) cs else bestBy wait starved
  first.map (fun a =>
    if w.clOpen || w.hmode || a.alone w || (halting && decide (7 ≤ w.skid)) then (a, none)
    else (a, bestBy (fun c => c.path.count) (cs.filter (fun c => c.path != a.path && !c.alone w))))

/-- A warp that can issue in a quadrant. -/
structure WCand where
  ws : Nat
  w : Warp
  paths : List Cand

/-- The choice of a warp: the longest starved of 240 core cycles, or the highest priority and the oldest; one that yielded
is left out while another is ready (16 R435). -/
def chooseWarp (now : Nat) (cs : List WCand) : Option WCand :=
  let pick := fun (better : WCand → WCand → Bool) (l : List WCand) =>
    l.foldl (fun b c => match b with | none => some c | some d => if better c d then some c else b) (none : Option WCand)
  let starved := cs.filter (fun c => decide (240 ≤ now - c.w.lastIssue))
  if !starved.isEmpty then pick (fun c d => decide (c.w.lastIssue < d.w.lastIssue)) starved
  else
    let fresh := cs.filter (fun c => !c.w.yielded)
    pick (fun c d => decide (c.w.pri > d.w.pri) || (c.w.pri == d.w.pri && decide (c.w.placedAt < d.w.placedAt)))
      (if fresh.isEmpty then cs else fresh)

/-! ### Issue -/

/-- The instruction found at a path performed; a word that is refused traps, a fetch that is refused faults or traps
(07 R167; 17 R443, R444; 04 R102). -/
def runFound (s : State) (core ws : Nat) (p : PathAt) (fo : Found) : Host.Outcome State Fault Refusal :=
  match fo with
  | .ok i _ _ word len => exec i (setCur s core ws p word len)
  | .bad word len =>
    .next (takeTrap s core ws
      { code := 1, detail := 0, aux := 0, mask := p.mask, elem := 0, addr := 0, inst := word, pc := p.pc, len := len })
  | .fails va word len (.fault c) =>
    let lanes := if (warpAt s core ws).hmode then [32] else maskLanes p.mask
    .next (reserveFaults s core ws p.pc word len (lanes.map (fun l => ⟨l, va, c, 3, 1⟩)) none)
  | .fails va _ len .dataError =>
    .next (takeTrap s core ws
      { code := 8, detail := 0, aux := 0, mask := p.mask, elem := 0, addr := va.setWidth 64, inst := 0, pc := p.pc,
        len := len })

/-- The hint of the instruction found. -/
def Found.yields : Found → Bool
  | .ok _ _ f _ _ => f.k == 2
  | _ => false

/-- Whether an instruction was found, whole or refused, and no fetch failed. -/
def Found.fetched : Found → Bool
  | .fails _ _ _ _ => false
  | _ => true

/-- What an issue counts: the cycle, and of an instruction that was fetched ICOUNT, and SKID after a halt broadcast (16 R435;
17 R452, R466). -/
def countIssue (s : State) (core ws : Nat) (fo : Found) : State :=
  let halting := haltingOf s core (warpAt s core ws)
  modWarp s core ws (fun w =>
    if fo.fetched then
      { w with lastIssue := cycOf s core, icount := add32 w.icount 1, skid := if halting then min 8 (w.skid + 1) else w.skid }
    else { w with lastIssue := cycOf s core })

/-- An instruction issued: fetched into the cache, counted, performed, its hint kept. -/
def issueOne (s : State) (core ws : Nat) (p : PathAt) : Host.Outcome State Fault Refusal :=
  let (fo, s) := fetchAt s core (warpAt s core ws) p.pc
  match runFound (countIssue s core ws fo) core ws p fo with
  | .next s => .next (if fo.yields then modWarp s core ws (fun w => { w with yielded := true }) else s)
  | r => r

/-- Whether an issue ended in a trap: the handler entered, or waited for, or the group halted (17 R445, R446). -/
def trapped (core ws : Nat) (r : Host.Outcome State Fault Refusal) : Bool :=
  match r with
  | .next t => let w := warpAt t core ws; w.hmode || w.trapPend.isSome || (w.raisedHalt && haltingOf t core w)
  | _ => false

/-- The second of a pair is left to the next step. -/
def thenPair (core ws : Nat) (mask : Word) (r : Host.Outcome State Fault Refusal) : Host.Outcome State Fault Refusal :=
  match r with
  | .next t => .next { t with agenda := .pair core ws mask :: t.agenda }
  | r => r

/-- A pair: the two act on disjoint lanes, one step after the other, a trap last; when both would trap only the lower PC's
does (08 R190, log 11). -/
def issuePair (s : State) (core ws : Nat) (a b : PathAt) : Host.Outcome State Fault Refusal :=
  let lo := if a.pc.toNat ≤ b.pc.toNat then a else b
  let hi := if a.pc.toNat ≤ b.pc.toNat then b else a
  let r := issueOne s core ws lo
  if !trapped core ws r then thenPair core ws hi.mask r
  else
    let q := issueOne s core ws hi
    if trapped core ws q then r else thenPair core ws lo.mask q

/-- Wait counts when a warp issues: 0 for the lanes that issue, one more for those that were ready; frozen in a clasp region
and in handler mode (16 R437, 17 R446). -/
def countWaits (s : State) (core ws : Nat) (issued ready : Word) : State :=
  modWarp s core ws (fun w =>
    if w.clOpen || w.hmode then w
    else modLanes w (issued ||| ready) (fun l t =>
      { t with waitc := if issued.getLsbD l then 0 else min 255 (t.waitc + 1) }))

/-- The object that a waiting lane names has left the phase it waits for, or is gone. -/
def objLeft (s : State) (core g : Nat) (own : Group) (wt : LWait) : Bool :=
  match wt with
  | .barObj quad a ph =>
    let tg := if quad then
        (if own.members.isEmpty then (if a / 2 ^ 19 = 0 then some (core, g) else none) else own.members[a / 2 ^ 19]?)
      else some (core, g)
    match tg with
    | none => false
    | some (c, k) =>
      match groupAt s c k with
      | none => false
      | some x =>
        let o := if quad then a % 2 ^ 19 else a
        (own.members.isEmpty || sameSet own x) && decide (o + 8 ≤ x.rec_.spad * 256) && objPhase (ofBytes (spadRead x o 8)) != ph
  | _ => false

/-- Lanes of a core whose barrier object has left their phase are released (10 R284, 17 R467). -/
def wakeObjs (s : State) (core : Nat) : State :=
  modCore s core (fun c => { c with warps := c.warps.map (fun e =>
    match e.2.gslot with
    | none => e
    | some g =>
      match lookup c.groups g with
      | none => e
      | some own =>
        if e.2.lanes.any (fun l => objLeft s core g own l.2.wait) then
          (e.1, { e.2 with lanes := e.2.lanes.map (fun l =>
            if objLeft s core g own l.2.wait then (l.1, releaseLane 8 l.2) else l) })
        else e) })

/-- The core cycle in which a quadrant's turn falls: quadrants take their turns in ascending order within a cycle (log 1). -/
def turnOf (s : State) (core q : Nat) : State :=
  modCore s core (fun c => { c with cyc := if q ≤ c.lastQ then c.cyc + 1 else c.cyc, lastQ := q })

/-- One issue turn of a quadrant (16 R435, R436). -/
def issueQuadrant (s : State) (core q : Nat) : Host.Outcome State Fault Refusal :=
  let s := wakeObjs (drainImp (turnOf s core q) core) core
  let c := coreOf s core
  let cs := (c.warps.filter (fun e => e.2.quadrant == q)).filterMap (fun e =>
    let ps := readyPaths s core e.1
    if ps.isEmpty then none else some (⟨e.1, e.2, ps⟩ : WCand))
  match chooseWarp c.cyc cs with
  | none => .next s
  | some wc =>
    let s := modCore s core (fun c => { c with warps := c.warps.map (fun e =>
      if e.2.quadrant = q ∧ e.2.yielded then (e.1, { e.2 with yielded := false }) else e) })
    match choosePaths wc.w (haltingOf s core wc.w) wc.paths with
    | none => .next s
    | some (a, second) =>
      let issued := a.path.mask ||| (match second with | some b => b.path.mask | none => 0#32)
      let ready := wc.paths.foldl (fun m c => m ||| c.path.mask) 0#32
      let s := countWaits s core wc.ws issued ready
      match second with
      | none => issueOne s core wc.ws a.path
      | some b => issuePair s core wc.ws a.path b.path

/-- The second instruction of a pair: its lanes stand where they stood. -/
def issueSecond (s : State) (core ws : Nat) (mask : Word) : Host.Outcome State Fault Refusal :=
  match (pathsOf (warpAt s core ws)).find? (fun p => p.mask &&& mask == mask && mask != 0#32) with
  | some p => issueOne s core ws { p with mask := mask }
  | none => .next s

end Sys2Proof.Machine
end

