-- ==== Sys2Proof/Machine/Acts.lean ====
section
/-! DEFINITION. Machine/Acts.lean: what each entry of the agenda does (log 1), and a state in which the next step fetches and
runs a given word (log 2). -/

namespace Sys2Proof.Machine

/-- An event of the opcode table: neither a Suric instruction nor a slot instruction. -/
def isEvent (i : Instr) : Bool := (suricOf i).isNone && (slotKind i).isNone && decide (i ≠ .noOperation)

/-- Errors of stored bits (05 R109, 14 R376, R382). -/
def upsetSpad (s : State) (core g word bits : Nat) : State :=
  if bits = 1 then modCore s core (fun c => { c with spadCorr := c.spadCorr + 1 })
  else modGroup s core g (fun x => { x with spadErr := word :: x.spadErr.filter (· != word) })

def upsetLine (s : State) (lc kind row : Nat) : State :=
  modLine s lc (fun l =>
    if kind = 0 then { l with lbErr := row :: l.lbErr.filter (· != row) }
    else if kind = 1 then { l with tileErr := row :: l.tileErr.filter (· != row) }
    else { l with wErr := row :: l.wErr.filter (· != row) })

/-- An uncorrectable error of a block in a slice is found, after the accesses that were accepted there (log 9): a clean one is gone
and will be fetched again, the only copy of a dirty one is lost, fatally to its partition (18 R482). -/
def upsetBlock (s : State) (slice part atag vb : Nat) : State :=
  match l2Find s slice part atag vb with
  | none => s
  | some b =>
    let (s, b) := performAll s b (fun _ => true)
    let s := l2Drop s slice part atag vb
    if b.dirty then modPart s part (fun p => { p with fatal := p.fatal ++ [(slice, vb)] }) else s

/-- A module held in reset does nothing but be reset again (22 R516, R521). -/
def heldStill (a : Act) (s : State) : Bool :=
  s.root.heldInReset && decide (a ≠ .event .coldReset) && decide (a ≠ .event .warmReset)

/-- One entry of the agenda. -/
def perform (a : Act) (s : State) : Host.Outcome State Fault Refusal :=
  if heldStill a s then .next s
  else match a with
  | .issue core q => issueQuadrant s core q
  | .pair core ws mask => issueSecond s core ws mask
  | .idleCore core n => .next (drainImp (modCore s core (fun c => { c with cyc := c.cyc + n })) core)
  | .line lc => lineTurn s lc
  | .scanLine h => .next (scanLine s h)
  | .upsetDram chan bank row blk n =>
    .next (if blk < 15 then { s with dram := { s.dram with errs := setD 0 s.dram.errs (rowKey chan bank row (blk * 128)) n } }
      else s)
  | .upsetMeta chan n => .next (metaUpset s chan n)
  | .linkAck link n => .next (linkAck s link n)
  | .upsetSpad core g word bits => .next (upsetSpad s core g word bits)
  | .upsetLine lc kind row => .next (upsetLine s lc kind row)
  | .upsetBlock slice part atag vb => .next (upsetBlock s slice part atag vb)
  | .hostAck part n =>
    .next (modPart s part (fun p => { p with sent := p.sent.drop n, qps := adjust p.qps 0 (fun q => { q with tries := 0 }) }))
  | .rdmaOther part qp n => .next (rdmaOther s part qp n)
  | .clock part n => .next (modPart s part (fun p => { p with clock := p.clock + n }))
  | .event i => if isEvent i then exec i s else .next s

/-! ### A word placed for the next step -/

/-- A launch record that allows every register and tile (log 2). -/
def probeRec : LaunchRec := { LaunchRec.zero with gx := 1, gy := 1, gz := 1, regs := 192, acc := 8, spad := 1, sems := 1, depth := 1 }

/-- A thread at address 0. -/
def probeLane : Lane :=
  { live := true, pc := 0, pb := 0x80#8, level := 0, waitc := 0, wait := .none, trp := false, l16 := false, tx := 0, ty := 0,
    tz := 0, group := 0, wix := 0, saw := [] }

def probeWarp : Warp := { Warp.blank with gslot := some 0, rec_ := probeRec, lanes := [(0, probeLane)] }

def probeGroup : Group :=
  { part := 0, asid := 0, grid := 0, linear := 0, member := 0, sysDepth := 0, rec_ := probeRec, base := 0, spad := [],
    sem := [], gbar := [], rings := [], children := [], members := [], saving := none, nfault := 0, haltPc := 0, spadErr := [],
    ended := false }

/-- The words of a Suric instruction in a line of core 0's instruction cache, and one thread that stands at them. -/
def placeSuric (s : State) (nbits w : Nat) : State :=
  let bytes := toBytes 64 (w % 2 ^ nbits)
  let line : CLine := { pid := 0, atag := 0, line := 0, sv := 3, rd := false, wr := false, ex := true, bytes := bytes }
  let c := coreOf s 0
  { setCore s 0 { c with ic := [line], warps := [(0, probeWarp)], groups := [(0, probeGroup)] } with agenda := [.issue 0 0] }

/-- A configuration of 16 lines of which the first is scanned 84 lines later. -/
def probeCfg : List Byte := toBytes 64 (1 * 2 ^ 36 + 16 * 2 ^ 22 + 100 * 2 ^ 8)

/-- The engine that has an instruction: the one that owns the registers it names and has its form (14 R372). -/
def engineOf (i : Instr) : Nat :=
  match [1, 0, 2, 3].find? (fun e => slotFits e (slotKind i |>.getD 0) i) with
  | some e => e
  | none => 1

/-- The bundle that holds one slot word (15 R395). -/
def bundleOf (k : Nat) (w : Word) : BitVec 128 := (w.setWidth 128) <<< (96 - 32 * k)

/-- A slot word alone in the bundle at PC 0 of an engine of line core 0, whose band runs. -/
def placeSlot (s : State) (w : Word) : State :=
  let i := (decodeTableWord 32 w.toNat).getD .noOperation
  let e := engineOf i
  let k := (slotKind i).getD 0
  let l : LineCore := { LineCore.init with
    head := some 0, engs := [(e, { Engine.init with halted := false })], count := [(e, 1)],
    imem := [(e * 1024, bundleOf k w)], nextEng := e, band := some { head := 0, f := 0, b := 0, scanRows := 16, pbFail := false } }
  { setHead (setLine s 0 l) 0 { Head.init with configured := true, cfg := probeCfg } with agenda := [.line 0] }

/-- The instruction of a word stored where the next step fetches (log 2): 32 bits for a slot word, 64 or 128 for a Suric
instruction. -/
def placeWord (s : State) (nbits w : Nat) : State :=
  if nbits ≤ 32 then placeSlot s (BitVec.ofNat 32 w) else placeSuric s nbits w

end Sys2Proof.Machine
end

