-- ==== Sys2Proof/Machine/Step.lean ====
section
/-! DEFINITION. Machine/Step.lean: one step of the device: the next entry of the agenda acts, or nothing does (log 1). -/

namespace Sys2Proof.Machine

def step (s : State) : Host.Outcome State Fault Refusal :=
  match s.agenda with
  | [] => .next { s with tick := s.tick + 1 }
  | a :: rest => perform a { s with agenda := rest, tick := s.tick + 1 }

/-- `s` with an instruction stored where the next step fetches, so that this step runs it (log 2). -/
def State.withFetchWord (s : State) (nbits w : Nat) : State := placeWord s nbits w

end Sys2Proof.Machine
end

