-- ==== Sys2Proof/Safety.lean ====
section
/-! DEFINITION. Safety.lean: the terms in which claims speak of a run: when an instruction is issued and admitted, what it
leaves, what its results are, and the form that every step keeps. -/

namespace Sys2Proof.Machine

/-! ### Issue -/

/-- Instruction `op` with fields `f` is issued as `x`, its warp is resident, and mode and operands allow it (07 R167,
17 R447). -/
structure Issues (s : State) (x : Iss) (op : Nat) (f : Fields) : Prop where
  cur : issOf s = some x
  here : (warpAt? s x.core x.wslot).isSome = true
  mode : (x.warp s).hmode = false ∨ handlerAllows op f = true
  operands : operandsOk (x.warp s) op f = true

/-- The state in which the issuing warp is `w` and nothing else has changed; the issue is over. -/
def Iss.leaves (x : Iss) (s : State) (w : Warp) : State := { x.mod s (fun _ => w) with cur := .idle }

/-- The lane word of a lane of the path, moved past an instruction of `len` bytes (07 R168). -/
def Lane.past (l : Lane) (len : Nat) : Lane := { l with pc := l.pc + BitVec.ofNat 57 len, wait := .none }

/-- A lane apart from what its thread has seen of other threads' stores, which the model keeps for releases (12 R324). -/
def Lane.unseen (l : Lane) : Lane := { l with saw := [] }

/-- From `w` to `w'` the path stepped past the instruction: its lanes outside a handler, the handler's PC in one (17 R447);
no lane came, went or changed otherwise but in its predicates and in what its thread has seen of other threads' stores. -/
structure Stepped (w w' : Warp) (mask : Word) (len : Nat) : Prop where
  handlerPc : w'.hpc = if w.hmode then w.hpc + BitVec.ofNat 57 len else w.hpc
  lanes : ∀ l, (lookup w'.lanes l).map (fun t => { t.unseen with pb := 0 }) =
    (lookup w.lanes l).map (fun t =>
      { (if w.hmode = false ∧ l < 32 ∧ mask.getLsbD l = true then t.past len else t).unseen with pb := 0 })

/-- From `w` to `w'` only registers, predicates, lane words and the handler's PC may differ. -/
def SameButRegs (w w' : Warp) : Prop :=
  { w' with vr := w.vr, sr := w.sr, qb := w.qb, lanes := w.lanes, hpc := w.hpc } = w

/-! ### Results -/

/-- The word a result gives a register; of two the last. -/
def LaneRes.word (r : LaneRes) (n : Nat) : Option Word := (lookup r.regs.reverse n).map (BitVec.ofNat 32)

/-- The value a result gives a predicate, by its number: 0 to 6 for p, 8 to 14 for q. -/
def LaneRes.bit (r : LaneRes) (n : Nat) : Option Bool :=
  lookup (r.preds.filter (fun e => e.1 % 8 != 7)).reverse n

/-- Whether a lane holds a thread's state. -/
def Warp.hasLane (w : Warp) (l : Nat) : Bool := (lookup w.lanes l).isSome

/-- From `w` to `w'` each vector register of each lane in `ls`, and each of its p predicates, took what the lane's result
gives it; every other one kept its value. -/
structure WroteLanes (w w' : Warp) (ls : List Nat) (res : Nat → LaneRes) : Prop where
  regs : ∀ l r, r < 192 → vget w' l r =
    if l ∈ ls ∧ w.hasLane l = true then ((res l).word r).getD (vget w l r) else vget w l r
  preds : ∀ l k, k < 8 → w.hasLane l = true → wbit (pbyte w' l) k =
    if l ∈ ls then ((res l).bit k).getD (wbit (pbyte w l) k) else wbit (pbyte w l) k

/-- No uniform register or predicate changed. -/
def SameUniform (w w' : Warp) : Prop := (∀ n, n < 63 → sget w' n = sget w n) ∧ w'.qb = w.qb

/-- From `w` to `w'` each uniform register and each q predicate took what the one result gives it. -/
structure WroteUniform (w w' : Warp) (res : LaneRes) : Prop where
  regs : ∀ n, n < 63 → sget w' n = (res.word (192 + n)).getD (sget w n)
  preds : ∀ k, k < 8 → wbit w'.qb k = (res.bit (8 + k)).getD (wbit w.qb k)

/-- Every vector register and p predicate kept its value. -/
def SameLanes (w w' : Warp) : Prop :=
  (∀ l r, r < 192 → vget w' l r = vget w l r) ∧ ∀ l, pbyte w' l = pbyte w l

/-- Whether a result names only vector registers and p predicates, or only uniform registers, v255 and q predicates. -/
def LaneRes.perThread (r : LaneRes) : Prop := (∀ e ∈ r.regs, e.1 < 192 ∨ e.1 = 255) ∧ ∀ e ∈ r.preds, e.1 < 8
def LaneRes.uniform (r : LaneRes) : Prop := (∀ e ∈ r.regs, 192 ≤ e.1) ∧ ∀ e ∈ r.preds, 8 ≤ e.1

/-- The flags that the lanes of an instruction raise. -/
def raised (ls : List Nat) (res : Nat → LaneRes) : Flags := orFlags (ls.map (fun l => (res l).all))

/-- The lanes that perform an instruction, lane 0 standing for a uniform execution (06 R140). -/
def performers (op : Nat) (f : Fields) (x : Iss) (w : Warp) : List Nat :=
  if uniformForm op f then (if guardUni w f.g then [x.lane0] else []) else guarded w x.mask f.g

/-! ### Instructions of one lane at a time -/

/-- An instruction that each lane performs on its own operands, with its opcode, its fields and the result of a lane. -/
structure LaneForm where
  op : Nat
  f : Fields
  res : Warp → Nat → LaneRes

/-- All that an instruction of one lane at a time leaves when no lane raises a flag. -/
structure LaneEffect (w : Warp) (x : Iss) (q : LaneForm) (w' : Warp) : Prop where
  same : SameButRegs w w'
  stepped : Stepped w w' x.mask x.len
  vector : uniformForm q.op q.f = false →
    SameUniform w w' ∧ WroteLanes w w' (guarded w x.mask q.f.g) (q.res w)
  uniform : uniformForm q.op q.f = true → SameLanes w w' ∧
    if guardUni w q.f.g = true then WroteUniform w w' (q.res w x.lane0) else SameUniform w w'

/-- The integer, bit, comparison, move and predicate instructions (08 R191 to R206), with the results that their rules give a
lane; RDSR and P2V where their operands are legal (08 R204, R205). -/
def intForm (x : Iss) (s : State) (i : Instr) : Option LaneForm :=
  match i with
  | .iadd f => some ⟨1, f, arithLane opAdd false f⟩
  | .isub f => some ⟨2, f, arithLane opSub false f⟩
  | .imul f => some ⟨3, f, arithLane opMul false f⟩
  | .imulh f => some ⟨4, f, arithLane (mulHigh (tWidth f.t.toNat)) false f⟩
  | .imad f => some ⟨5, f, arithLane opMad true f⟩
  | .imadw f => some ⟨6, f, imadwLane f⟩
  | .imin f => some ⟨7, f, arithLane opMin false f⟩
  | .imax f => some ⟨8, f, arithLane opMax false f⟩
  | .iabsd f => some ⟨9, f, arithLane opAbsd false f⟩
  | .lop3 f => some ⟨10, f, lop3Lane f⟩
  | .shl f => some ⟨11, f, shiftLane .left f⟩
  | .shr f => some ⟨12, f, shiftLane .right f⟩
  | .shra f => some ⟨13, f, shiftLane .arith f⟩
  | .shf f => some ⟨14, f, wordLane (fun a b c => funnel f.fn.toNat a b c) f⟩
  | .bfx f => some ⟨15, f, wordLane (fun a b c => bitExtract (f.t == 0) a b c) f⟩
  | .bfi f => some ⟨16, f, wordLane bitInsert f⟩
  | .popc f => some ⟨17, f, fun w l => .ofRegs [(f.d.toNat, popN (bitsW f) (opA w l f f.t.toNat))]⟩
  | .clz f => some ⟨18, f, fun w l => .ofRegs [(f.d.toNat, clzN (bitsW f) (opA w l f f.t.toNat))]⟩
  | .brev f => some ⟨19, f, fun w l => .ofRegs (dstWords f.d.toNat f.t.toNat (revN (bitsW f) (opA w l f f.t.toNat)))⟩
  | .prmt f => some ⟨20, f, wordLane permute f⟩
  | .iset f => some ⟨21, f, fun w l =>
      .ofPred f.d (intSet f.fn.toNat f.t.toNat (opA w l f f.t.toNat) (opB w l f f.t.toNat)) []⟩
  | .isel f => some ⟨22, f, fun w l => .ofRegs (dstWords f.d.toNat f.t.toNat
      (if predRead w l f.c.toNat then opA w l f f.t.toNat else opB w l f f.t.toNat))⟩
  | .lea f => some ⟨23, f, fun w l =>
      .ofRegs (dstWords f.d.toNat 15 (leaSum f.fn.toNat (rread2 w l f.a.toNat) (leaIndex f w l)))⟩
  | .iaddI f => some ⟨24, f, arithImmLane opAdd f⟩
  | .imulI f => some ⟨25, f, arithImmLane opMul f⟩
  | .shlI f => some ⟨26, f, shiftImmLane .left f⟩
  | .shrI f => some ⟨27, f, shiftImmLane .right f⟩
  | .shraI f => some ⟨28, f, shiftImmLane .arith f⟩
  | .bfxI f => some ⟨29, f, fun w l => .ofRegs [(f.d.toNat,
      bitExtract (f.t == 0) (opA w l f f.t.toNat) f.b.toNat (rread w l f.c.toNat))]⟩
  | .isetI f => some ⟨30, f, fun w l =>
      .ofPred f.d (intSet f.fn.toNat f.t.toNat (opA w l f f.t.toNat) (immElems f.t.toNat (imm8s f))) []⟩
  | .mov f => some ⟨32, f, fun w l => .ofRegs (dstWords f.d.toNat f.t.toNat (opA w l f f.t.toNat))⟩
  | .movl f => some ⟨33, f, fun _ _ => .ofRegs (dstWords f.d.toNat f.t.toNat (f.lit.getD 0).toNat)⟩
  | .rdsr f => some ⟨34, f, fun w l => .ofRegs (dstWords f.d.toNat (if f.b.toNat = 0x18 then 15 else 0)
      (specialReg x s w (if (isUni f.d.toNat && f.d != 255) && decide (0x08 ≤ f.b.toNat) && decide (f.b.toNat ≤ 0x0A)
        then occupiedLane w else l) f.b.toNat))⟩
  | .p2v f => some ⟨35, f, fun w l => .ofRegs [(f.d.toNat, (if f.fn = 0 then pbyte w l else w.qb).toNat)]⟩
  | .v2p f => some ⟨36, f, v2pLane f⟩
  | .plop f => some ⟨37, f, fun w l =>
      .ofPred f.d (nbit (lutOf f) ((if predRead w l f.a.toNat then 1 else 0) + 2 * (if predRead w l f.b.toNat then 1 else 0) +
        4 * (if predRead w l f.c.toNat then 1 else 0))) []⟩
  | _ => none

/-- The float, conversion and special-function instructions (09 R228 to R241), with the results and flags that their rules
give a lane. -/
def fltForm (x : Iss) (i : Instr) : Option LaneForm :=
  match i with
  | .fadd f => some ⟨80, f, fltArithLane .add f⟩
  | .fmul f => some ⟨81, f, fltArithLane .mul f⟩
  | .ffma f => some ⟨82, f, fltArithLane .fma f⟩
  | .fmin f => some ⟨83, f, fltMinMaxLane false f⟩
  | .fmax f => some ⟨84, f, fltMinMaxLane true f⟩
  | .fset f => some ⟨85, f, fltSetLane f⟩
  | .frnd f => some ⟨86, f, fltRoundLane f⟩
  | .fclass f => some ⟨87, f, fltClassLane f⟩
  | .fscale f => some ⟨88, f, fltScaleLane f⟩
  | .dadd f => some ⟨89, f, fltArithLane .add f⟩
  | .dmul f => some ⟨90, f, fltArithLane .mul f⟩
  | .dfma f => some ⟨91, f, fltArithLane .fma f⟩
  | .dset f => some ⟨92, f, fltSetLane f⟩
  | .f2f f => some ⟨96, f, f2fLane f⟩
  | .f2i f => some ⟨97, f, f2iLane f⟩
  | .i2f f => some ⟨98, f, i2fLane f⟩
  | .fpack f => some ⟨99, f, fpackLane f⟩
  | .funpk f => some ⟨100, f, funpkLane f⟩
  | .rcp f => some ⟨104, f, fun w l => fltResult f.d f.t.toNat (specialElems .rcp 0 f x w l)⟩
  | .rsq f => some ⟨105, f, fun w l => fltResult f.d f.t.toNat (specialElems .rsq 0 f x w l)⟩
  | .sqrt f => some ⟨106, f, fun w l => fltResult f.d f.t.toNat (specialElems .sqrt 0 f x w l)⟩
  | .ex2 f => some ⟨107, f, fun w l => fltResult f.d f.t.toNat (specialElems .ex2 0 f x w l)⟩
  | .lg2 f => some ⟨108, f, fun w l => fltResult f.d f.t.toNat (specialElems .lg2 0 f x w l)⟩
  | .sincos f => some ⟨109, f, sincosLane f x⟩
  | .tanh f => some ⟨110, f, fun w l => fltResult f.d f.t.toNat (specialElems .tanh 0 f x w l)⟩
  | _ => none

/-! ### Collectives -/

/-- A collective (09 R244): opcode, fields, whether its destination is uniform, the flags it raises, and what it gives a lane
of the write set, from the source set and the write set. -/
structure CollForm where
  op : Nat
  f : Fields
  uni : Bool
  flags : Warp → List Nat → List Nat → Flags
  res : Warp → List Nat → List Nat → Nat → LaneRes

/-- The collectives with the results their rules give (09 R240, R245 to R249, R252). -/
def collForm (i : Instr) : Option CollForm :=
  match i with
  | .mxexp f => some ⟨101, f, isUni f.d.toNat,
      fun w src _ => flagIf ((src.map (fun l => f32 (rread w l f.a.toNat))).any FVal.isSig) flNV,
      fun w src _ _ => .ofRegs [(f.d.toNat, blockScale f.b.toNat (src.map (fun l => f32 (rread w l f.a.toNat))) % 2 ^ 32)]⟩
  | .fil f => some ⟨112, f, isUni f.d.toNat, fun _ _ _ => 0#5,
      fun w src _ l => .ofRegs [(f.d.toNat, filWord f w src l % 2 ^ 32)]⟩
  | .shfl f => some ⟨114, f, isUni f.d.toNat, fun _ _ _ => 0#5,
      fun w src _ l => .ofRegs (dstWords f.d.toNat f.t.toNat
        (match shflLane f.fn.toNat l (rawB w l f 1) with
         | some k => srcN w (if src.contains k then k else l) (tRegs f.t.toNat) f.a.toNat
         | none => srcN w l (tRegs f.t.toNat) f.a.toNat))⟩
  | .vote f => some ⟨115, f, if f.fn.toNat ≤ 2 then isUni f.d.toNat else f.d.getLsbD 3, fun _ _ _ => 0#5,
      fun w src _ _ =>
        let yes := src.filter (fun l => predRead w l f.a.toNat)
        if f.fn.toNat ≤ 2 then .ofRegs [(f.d.toNat, voteWord f.fn.toNat yes % 2 ^ 32)]
        else .ofPred f.d (voteBool f.fn.toNat yes src) []⟩
  | .redux f => some ⟨116, f, isUni f.d.toNat,
      fun w src _ => (redVals f.t.toNat (f.fn.toNat % 8) (src.map (fun l => opA w l f f.t.toNat))).2,
      fun w src _ _ => .ofRegs [(f.d.toNat,
        (redVals f.t.toNat (f.fn.toNat % 8) (src.map (fun l => opA w l f f.t.toNat))).1 % 2 ^ 32)]⟩
  | .scanx f => some ⟨117, f, isUni f.d.toNat,
      fun w src wset => orFlags (wset.map (fun l => (redVals f.t.toNat (f.fn.toNat % 8)
        ((prefixLanes (wbit f.fn 3) src l).map (fun k => opA w k f f.t.toNat))).2)),
      fun w src _ l => .ofRegs [(f.d.toNat, (redVals f.t.toNat (f.fn.toNat % 8)
        ((prefixLanes (wbit f.fn 3) src l).map (fun k => opA w k f f.t.toNat))).1 % 2 ^ 32)]⟩
  | .matchLanes f => some ⟨118, f, isUni f.d.toNat, fun _ _ _ => 0#5,
      fun w src _ l => .ofRegs [(f.d.toNat,
        matchWord f.fn.toNat (fun k => srcN w k (tRegs f.t.toNat) f.a.toNat) src l % 2 ^ 32)]⟩
  | _ => none

/-! ### Branches and the end of threads -/

/-- From `w` to `w'` the lanes of the path went to the addresses `go` gives, and waits ended; nothing else of any lane
changed. -/
def LanesWent (w w' : Warp) (mask : Word) (go : Nat → VA) : Prop :=
  ∀ l, lookup w'.lanes l = (lookup w.lanes l).map (fun t =>
    if l < 32 ∧ mask.getLsbD l = true then { t with pc := go l, wait := .none } else t)

/-- After these lanes of the issuing warp end, every warp of the core still has a live thread: no warp leaves its slot. -/
def NoWarpEnds (s : State) (x : Iss) (gone : Word) : Prop :=
  liveMask (x.warp s) &&& ~~~gone ≠ 0#32 ∧
  ∀ e ∈ (coreOf s x.core).warps, e.1 ≠ x.wslot → liveMask e.2 ≠ 0#32

/-! ### Traps -/

/-- From `w` to `w'` the warp took trap `t` into its handler (17 R444, R446): the trap state registers name it, the trapped
lanes are held, the handler begins at tr.tba, and a path that waited in ENQ no longer holds the warp; everything else of the warp
is as it was. -/
structure TrapEntered (w w' : Warp) (t : Trap) : Prop where
  mode : w'.hmode = true
  handler : w'.hpc = BitVec.ofNat 57 (fld w.tba 3 54 * 8)
  cause : w'.trCause = BitVec.ofNat 32 (t.aux % 256 * 65536 + t.detail % 256 * 256 + t.code % 256)
  pc : w'.trPc = t.pc.setWidth 64
  mask : w'.trMask = t.mask
  elem : w'.trElem = BitVec.ofNat 32 t.elem
  addr : w'.trAddr = t.addr
  inst : w'.trInst = t.inst
  lanes : ∀ l, lookup w'.lanes l = (lookup w.lanes l).map (fun u =>
    if l < 32 ∧ t.mask.getLsbD l = true then { u with trp := true, l16 := t.len == 16 } else u)
  enq : w'.enqAt = none
  rest : { w' with hmode := w.hmode, hpc := w.hpc, trCause := w.trCause, trPc := w.trPc, trMask := w.trMask,
                   trElem := w.trElem, trAddr := w.trAddr, trInst := w.trInst, lanes := w.lanes, trapPend := w.trapPend,
                   enqAt := w.enqAt } = w

/-- The trap of an issuing instruction. -/
def Iss.trapOf (x : Iss) (code detail : Nat) (mask : Word) (elem : Nat) (addr : DWord) : Trap :=
  { code := code, detail := detail, aux := 0, mask := mask, elem := elem, addr := addr, inst := x.word, pc := x.pc,
    len := x.len }

/-- A handler stands ready: none runs, tr.tba names one, and no imprecise record is pending (17 R445, R446). -/
def HandlerReady (w : Warp) : Prop := w.hmode = false ∧ w.tba ≠ 0#64 ∧ w.imp = none

/-! ### What the memory path may change -/

/-- From `s` to `t` only memory and its caches, translations and reservations changed, where each request in flight stands,
and the lost blocks that partitions still have to answer for; memory kept its form. -/
structure Quiet (s t : State) : Prop where
  root : t.root = s.root
  cores : t.cores = s.cores
  heads : t.heads = s.heads
  lcs : t.lcs = s.lcs
  ports : ∀ i, { portOf t i with replay := (portOf s i).replay, nextSeq := (portOf s i).nextSeq } = portOf s i
  peer : t.peerReply = s.peerReply
  agenda : t.agenda = s.agenda
  cur : t.cur = s.cur
  tick : t.tick = s.tick
  nextId : t.nextId = s.nextId
  parts : ∀ p, { partOf t p with fatal := (partOf s p).fatal } = partOf s p
  mem : Memory.wf s.dram.mem = true → Memory.wf t.dram.mem = true

/-! ### What an instruction leaves beside registers -/

/-- From `w` to `w'` the path stepped past its instruction and nothing else of the warp changed. -/
def OnlyStepped (w w' : Warp) (mask : Word) (len : Nat) : Prop :=
  { w' with lanes := w.lanes, hpc := w.hpc } = w ∧ Stepped w w' mask len ∧ ∀ l, pbyte w' l = pbyte w l

/-- The result of the one actor of an instruction: in its lane, or once for a uniform form (06 R140). -/
def WroteOne (op : Nat) (f : Fields) (w w' : Warp) (l : Nat) (res : LaneRes) : Prop :=
  if uniformForm op f = true then SameLanes w w' ∧ WroteUniform w w' res
  else SameUniform w w' ∧ WroteLanes w w' [l] (fun _ => res)

/-- From `s` to `t` memory, its caches' home slices, the partitions, the heads, the line cores and the secure controller are
as they were. -/
structure Undisturbed (s t : State) : Prop where
  root : t.root = s.root
  dram : t.dram = s.dram
  l2 : t.l2 = s.l2
  parts : t.parts = s.parts
  heads : t.heads = s.heads
  lcs : t.lcs = s.lcs

/-- Every group is as it was: its scratchpad, semaphores, rings and barriers. -/
def SameGroups (s t : State) : Prop := ∀ c k, groupAt t c k = groupAt s c k

/-- A byte of a group's scratchpad region (05 R105). -/
def spadByte (s : State) (c k o : Nat) : Option Byte := (groupAt s c k).map (fun g => getD 0#8 g.spad o)

/-- The lanes of `gone` ended and the other lanes of the path went on; nothing else of any lane changed (08 R209). -/
def ThreadsEnded (w w' : Warp) (mask gone : Word) (len : Nat) : Prop :=
  { w' with lanes := w.lanes } = w ∧ ∀ l, lookup w'.lanes l = (lookup w.lanes l).map (fun u =>
    if l < 32 ∧ gone.getLsbD l = true then { u with live := false, wait := .none }
    else if l < 32 ∧ mask.getLsbD l = true then u.past len else u)

/-- No lane of the issuing warp's group waits at its barrier. -/
def NoBarrierWaits (s : State) (x : Iss) : Prop :=
  ∀ g y, (x.warp s).gslot = some g → groupAt s x.core g = some y → y.gbar = []

/-- Every warp of a core has a live thread. -/
def AllLive (s : State) (core : Nat) : Prop := ∀ e ∈ (coreOf s core).warps, liveMask e.2 ≠ 0#32

/-- From `s` to `t` a child grid of record `r` joined those that wait for dispatch, and the launching group and grid know of
it (08 R216, R219; 16 R424). -/
structure ChildQueued (s t : State) (x : Iss) (g : Nat) (y : Group) (r : LaunchRec) (counts : Option VA) : Prop where
  queued : (partOf t (x.warp s).part).childq = (partOf s (x.warp s).part).childq ++
    [{ rec_ := r, asid := (x.warp s).asid, pri := (x.warp s).pri, depth := (x.warp s).sysDepth + 1, uid := s.nextId,
       parent := (x.warp s).grid, group := y.linear, counts := counts }]
  known : groupAt t x.core g = some { y with children := y.children ++ [s.nextId] }
  counted : ∀ k, lookup (partOf t (x.warp s).part).grids k = (lookup (partOf s (x.warp s).part).grids k).map (fun n =>
    if k = (x.warp s).grid then { n with children := n.children + 1 } else n)
  number : t.nextId = s.nextId + 1

/-- The lane that launches is its group's thread (0, 0, 0) (08 R216). -/
def Leads (w : Warp) (l : Nat) : Prop := ∃ t, lookup w.lanes l = some t ∧ t.tx = 0 ∧ t.ty = 0 ∧ t.tz = 0

/-- What a value written to a trap state register leaves there (06 R148). -/
def trField (n v : Nat) : Nat := if n = 3 then v % 256 else if n = 6 then v / 8 * 8 else if n = 7 then v % 32 else v

/-- The issuing warp's unit halted fatally by a trap in `u` (17 R445, R447, R452): the trap registers name the trap, with no
lanes or elements in handler mode, and no handler runs. -/
structure HaltedFatally (s u : State) (x : Iss) (t : Trap) : Prop where
  cause : (x.warp u).trCause = BitVec.ofNat 32 (t.aux % 256 * 65536 + t.detail % 256 * 256 + t.code % 256)
  pc : (x.warp u).trPc = t.pc.setWidth 64
  mask : (x.warp u).trMask = if (x.warp s).hmode then 0#32 else t.mask
  elem : (x.warp u).trElem = if (x.warp s).hmode then 0#32 else BitVec.ofNat 32 t.elem
  addr : (x.warp u).trAddr = t.addr
  inst : (x.warp u).trInst = t.inst
  raised : (x.warp u).raisedHalt = true
  rest : { x.warp u with trCause := (x.warp s).trCause, trPc := (x.warp s).trPc, trMask := (x.warp s).trMask,
                         trElem := (x.warp s).trElem, trAddr := (x.warp s).trAddr, trInst := (x.warp s).trInst,
                         trapPend := (x.warp s).trapPend, raisedHalt := (x.warp s).raisedHalt, skid := (x.warp s).skid,
                         saving := (x.warp s).saving } = x.warp s
  group : ∀ g y, (x.warp s).gslot = some g → groupAt s x.core g = some y →
    groupAt u x.core g = some { y with saving := some 3, haltPc := t.pc }
  free : (x.warp s).gslot = none → (x.warp u).saving = some 3
  others : Undisturbed s u

/-! ### Requests of global memory -/

/-- The requests `rs` of an instruction entered flight one after another, and its path waits for all the answers, which its lanes
of `m` get (10 R257). Whether data on its way may still fill an L1 line is left aside. -/
structure Sent (s t : State) (x : Iss) (m : Word) (rs : List Req) : Prop where
  reqs : ∀ k, (lookup t.reqs k).map (fun r => { r with noFill := false }) =
    if s.nextId < k ∧ k ≤ s.nextId + rs.length then rs[k - (s.nextId + 1)]?
    else (lookup s.reqs k).map (fun r => { r with noFill := false })
  nextId : t.nextId = s.nextId + 1 + rs.length
  waits : (x.warp t).infl = (x.warp s).infl ++
    [{ iid := s.nextId, pc := x.pc, len := x.len, inst := x.word, lanes := if (x.warp s).hmode then 0#32 else m,
       pathMask := x.mask, open_ := List.range' (s.nextId + 1) rs.length, faults := [], derr := [] }]
  lanes : ∀ l, lookup (x.warp t).lanes l = (lookup (x.warp s).lanes l).map (fun u =>
    if (x.warp s).hmode = false ∧ l < 32 ∧ x.mask.getLsbD l = true then { u with wait := .mem s.nextId } else u)
  rest : { x.warp t with infl := (x.warp s).infl, lanes := (x.warp s).lanes } = x.warp s
  quiet : Undisturbed s t
  groups : SameGroups s t

/-- The lanes that the requests of an access stand for: the one lane or lanes that name it, the issuing path for a uniform
form, none of a handler (10 R257, 17 R447). -/
def servesLanes (op : Nat) (f : Fields) (x : Iss) (w : Warp) (lanes : List Nat) : Word :=
  if w.hmode then 0#32 else if uniformForm op f then x.mask else laneMask (fun l => lanes.contains l)

/-- The lanes that an instruction's answers are for. -/
def waitLanes (op : Nat) (f : Fields) (x : Iss) (lanes : List Nat) : Word :=
  if uniformForm op f then x.mask else laneMask (fun l => lanes.contains l)

/-- Addresses of the lanes of a class M access, each once, with the lanes that name it; 16 bytes are two accesses of 8
(10 R257, R258). -/
def accessParts (w : Warp) (f : Fields) (lanes : List Nat) : List (VA × Nat × Nat × List Nat) :=
  (sameBytes (lanes.map (fun l => (l, eaM w l f (sizeOf f.t.toNat))))).flatMap (fun g =>
    (parts g.1 (sizeOf f.t.toNat)).map (fun p => (p.1, p.2.1, p.2.2, g.2)))

/-- The order of a load or atomic acquires at a scope that empties the L1: QUAD or wider (10 R260). -/
def acquires (f : Fields) : Bool := maAcquires f.ma.toNat && decide (2 ≤ maScope f.ma.toNat)

/-- From `s` to `t` the path stepped past its instruction and nothing else of its warp, of memory, of groups, partitions,
heads and line cores changed. -/
structure JustStepped (s t : State) (x : Iss) : Prop where
  stepped : OnlyStepped (x.warp s) (x.warp t) x.mask x.len
  quiet : Undisturbed s t
  groups : SameGroups s t

/-! ### Scratchpad, queues and units -/

/-- The byte that the lanes of a scratchpad store leave at an offset of a group: that of the highest lane whose access covers
it, none where no access does (10 R257, R263). -/
def storedByte (f : Fields) (x : Iss) (s : State) (quad : Bool) (lanes : List Nat) (c k o : Nat) : Option Byte :=
  let size := sizeOf f.t.toNat
  let hits := lanes.filterMap (fun l =>
    match spadTarget x s quad (eaM (x.warp s) l f size).toNat size with
    | some (c', k', o') =>
      if c' = c ∧ k' = k ∧ o' ≤ o ∧ o < o' + size then some (nthD 0#8 (storeBytes (x.warp s) l f size) (o - o')) else none
    | none => none)
  hits.getLast?

/-- From `s` to `t` a group differs at most in the bytes of its scratchpad. -/
def SameButSpad (s t : State) : Prop :=
  ∀ c k, (groupAt t c k).map (fun g => { g with spad := [], spadErr := [] }) =
    (groupAt s c k).map (fun g => { g with spad := [], spadErr := [] })

/-- The value of a scratchpad location after the atomics of some lanes, one after another (10 R271, R275). -/
def atomRun (f : Fields) (w : Warp) (lanes : List Nat) (v : Nat) : Nat :=
  lanes.foldl (fun v l => atomNew f.fn.toNat f.t.toNat v (srcN w l (tRegs f.t.toNat) f.b.toNat)
    (srcN w l (tRegs f.t.toNat) f.c.toNat) % 2 ^ (8 * atomBytes f.t.toNat)) v

/-- A record apart from the numbers that the device gives it. -/
def ContRec.plain (r : ContRec) : ContRec := { r with uid := 0, rank := 0, since := 0, core := 0 }

/-- The entry that a matrix instruction puts into its slice's queue, with its opcode and fields, where its operands obey their
rules and its guard lets it (11 R293, R296 to R309, R315). -/
def matrixEntry (x : Iss) (s : State) (i : Instr) : Option (Nat × Fields × QEntry) :=
  let w := x.warp s
  let mma := fun (kind : Nat) (f : Fields) =>
    if kind ≠ qDENSE ∧ f.c.toNat + slabBlocks f.ma.toNat f.mb.toNat > 4 * w.rec_.acc then none
    else (collSets w x f).map (fun e => (176, f, { blankEntry x kind f.d.toNat with
      fn := f.fn.toNat, ma := f.ma.toNat, mb := f.mb.toNat, t := f.t.toNat, slab := f.c.toNat,
      a := groupWords w e.1 f.a.toNat 24, b := groupWords w e.1 f.b.toNat 24,
      xs := if kind = qDENSE ∧ wbit f.fn 0 = true then scaleWords w e.1 f.c.toNat else [],
      src := laneMask (fun l => e.1.contains l), grp := (if kind = qEXP then f.b else f.a).toNat }))
  match i with
  | .mma f => mma qDENSE f
  | .mmaExp f => mma qEXP f
  | .mmaAbs f => mma qABS f
  | .accz f => if guardUni w f.g = true then some (177, f, blankEntry x qACCZ f.d.toNat) else none
  | .accwr f => (collSets w x f).map (fun e => (179, f, { blankEntry x qACCWR f.d.toNat with
      fn := f.fn.toNat, a := groupWords w e.2 f.a.toNat 8, wset := laneMask (fun l => e.2.contains l) }))
  | .accst f =>
    if rread w 0 f.b.toNat % 64 ≠ 0 ∨ rread w 0 f.b.toNat < 32 * accstBytes f.fn.toNat ∨ guardUni w f.g = false ∨
      rread2 w 0 f.a.toNat % 64 ≠ 0 ∨ (w.errorOf f.c.toNat).isSome = true then none
    else some (180, f, { blankEntry x qACCST f.c.toNat with
      fn := f.fn.toNat, va := BitVec.ofNat 57 (rread2 w 0 f.a.toNat), stride := rread w 0 f.b.toNat })
  | .edge f => (collSets w x f).bind (fun e =>
      let c := fun (l : Nat) => sxt (rread w l (f.a.toNat + 2) + 2 ^ 32 * rread w l (f.a.toNat + 3)) 64
      if lanes32.any (fun l => e.1.contains l && nbit (rread w l f.b.toNat) 31 &&
          (decide (c l < -4611686018427387904) || decide (4611686018427387904 ≤ c l))) = true then none
      else some (183, f, { blankEntry x qEDGE 0 with
        a := groupWords w e.1 f.a.toNat 4, b := groupWords w e.1 f.b.toNat 1, dst := f.d.toNat,
        wset := laneMask (fun l => e.2.contains l) }))
  | _ => none

/-! ### Slots of a line core -/

/-- Instruction `i` stands in a slot of a bundle that an engine issues, and slot and engine accept it (14 R372, 15 R397). -/
structure SlotIssues (s : State) (x : SIss) (i : Instr) : Prop where
  cur : s.cur = .slot x.lc x.eng x.slot
  fits : slotFits x.eng x.slot i = true

/-- The state in which the line core is `l` and nothing else has changed; the slot is done. -/
def SIss.leaves (x : SIss) (s : State) (l : LineCore) : State := { setLine s x.lc l with cur := .idle }

/-- The effects of the bundle so far with some more. -/
def LineCore.adds (l : LineCore) (xs : List Fx) : LineCore := { l with fx := l.fx ++ xs }

/-- A result of a slot on its way: it lands `lat` cycles after this one (14 R379). -/
def SIss.lands (x : SIss) (l : LineCore) (lat : Nat) (d : LandTo) : Fx :=
  .land { due := l.cyc + lat, issued := l.cyc, slot := x.slot, dest := d }

/-- The scalar register that an arithmetic slot instruction writes, and its value in the integers (15 R398 to R400). -/
def scalarValue (l : LineCore) (i : Instr) : Option (Nat × Word) :=
  let k := fun (r : BitVec 5) => (getD 0#32 l.k r.toNat).toInt
  let u := fun (r : BitVec 5) => (getD 0#32 l.k r.toNat).toNat
  let cond := fun (f : BitVec 3) (a b : Int) (m n : Nat) =>
    if (f = 0 ∧ a = b) ∨ (f = 1 ∧ a ≠ b) ∨ (f = 2 ∧ a < b) ∨ (f = 3 ∧ a ≤ b) ∨ (f = 4 ∧ m < n) ∨ (f = 5 ∧ m ≤ n)
      then 1#32 else 0#32
  match i with
  | .kaddReg d a b => some (d.toNat, BitVec.ofInt 32 (k a + k b))
  | .kaddImm d a c => some (d.toNat, BitVec.ofInt 32 (k a + c.toInt))
  | .ksubReg d a b => some (d.toNat, BitVec.ofInt 32 (k a - k b))
  | .ksubImm d a c => some (d.toNat, BitVec.ofInt 32 (k a - c.toInt))
  | .kmulReg d a b => some (d.toNat, BitVec.ofInt 32 (k a * k b))
  | .kmulImm d a c => some (d.toNat, BitVec.ofInt 32 (k a * c.toInt))
  | .kmov d a => some (d.toNat, BitVec.ofInt 32 (k a))
  | .kldi d c => some (d.toNat, BitVec.ofInt 32 c.toInt)
  | .kldiHi d c => some (d.toNat, BitVec.ofNat 32 (c.toNat * 65536 + u d % 65536))
  | .kcmpReg d a f b => some (d.toNat, cond f (k a) (k b) (u a) (u b))
  | .kcmpImm d a f c => some (d.toNat, cond f (k a) c.toInt (u a) (BitVec.ofInt 32 c.toInt).toNat)
  | _ => none

/-- Element `k` of a tile of a cluster, k = 64 row + column (14 R375). -/
def tileAt (l : LineCore) (c t k : Nat) : Nat := (getD 0#16 l.tiles (tileKey c t + k)).toNat

/-- A tile instruction: latency, destination, the tiles it reads (cluster, tile), and its result's element k. -/
structure TileForm where
  lat : Nat
  d : Nat
  srcs : List (Nat × Nat)
  elem : Nat → Half

/-- The count that RROT, RBC, CROT and CBC take (15 R408). -/
def rotBy {n : Nat} (l : LineCore) (s : BitVec 5) (q : BitVec 1) (k : BitVec n) : Nat :=
  if q = 1 then (getD 0#32 l.k s.toNat).toNat % 2 ^ n else k.toNat

/-- The tile instructions with the elements that their rules give (15 R406 to R411); TGATH apart from its addresses. -/
def tileForm (x : SIss) (l : LineCore) (i : Instr) : Option TileForm :=
  let c := x.slot - 1
  let own := fun (a : BitVec 3) (k : Nat) => tileAt l c a.toNat k
  let opB := fun (b : BitVec 3) (s : BitVec 5) (q : BitVec 1) (k : Nat) =>
    if q = 1 then (getD 0#32 l.k s.toNat).toNat % 65536 else own b k
  let reads := fun (a b : BitVec 3) (q : BitVec 1) => if q = 1 then [(c, a.toNat)] else [(c, a.toNat), (c, b.toNat)]
  let ew := fun (op : TOp) (d a b : BitVec 3) (s : BitVec 5) (y : BitVec 2) (t q : BitVec 1) => some (⟨2, d.toNat,
    reads a b q ++ (if op = .mac then [(c, d.toNat)] else []), fun k => BitVec.ofNat 16 (tileElem op y.toNat (t == 1) (own a k)
      (opB b s q k) (if op = .mac then own d k else 0))⟩ : TileForm)
  match i with
  | .tadd d a b s y t q => ew .add d a b s y t q
  | .tsub d a b s y t q => ew .sub d a b s y t q
  | .tmul d a b s y t q => ew .mul d a b s y t q
  | .tmac d a b s y t q => ew .mac d a b s y t q
  | .tmin d a b s y q => ew .min d a b s y 0 q
  | .tmax d a b s y q => ew .max d a b s y 0 q
  | .tabsd d a b s y q => ew .absd d a b s y 0 q
  | .tcmp d a b s y q f => some ⟨2, d.toNat, reads a b q, fun k =>
      if tileCond f.toNat y.toNat (own a k) (opB b s q k) = true then 0xFFFF#16 else 0#16⟩
  | .tsel d a b m => some ⟨2, d.toNat, [(c, a.toNat), (c, b.toNat), (c, m.toNat)], fun k =>
      BitVec.ofNat 16 (if own m k = 0 then own b k else own a k)⟩
  | .tcvt d a y t n m z => some ⟨2, d.toNat, [(c, a.toNat)], fun k =>
      BitVec.ofNat 16 (tileCvt y.toNat z.toNat (t == 1) n.toNat m.toNat (own a k))⟩
  | .tshift d a y r n => some ⟨2, d.toNat, [(c, a.toNat)], fun k =>
      if r = 0 then BitVec.ofNat 16 (own a k * 2 ^ n.toNat)
      else if y = 0 then BitVec.ofInt 16 ((BitVec.ofNat 16 (own a k)).toInt / 2 ^ n.toNat)
      else BitVec.ofNat 16 (own a k / 2 ^ n.toNat)⟩
  | .tand d a b s q => some ⟨2, d.toNat, reads a b q, fun k => BitVec.ofNat 16 (own a k &&& opB b s q k)⟩
  | .tor d a b s q => some ⟨2, d.toNat, reads a b q, fun k => BitVec.ofNat 16 (own a k ||| opB b s q k)⟩
  | .tlut d a b => some ⟨2, d.toNat, [(c, a.toNat), (c, b.toNat)], fun k => BitVec.ofNat 16 (own b (own a k % 256))⟩
  | .rrot d a s q n => some ⟨2, d.toNat, [(c, a.toNat)], fun k =>
      BitVec.ofNat 16 (own a (64 * (k / 64) + (k % 64 + 64 - rotBy l s q n) % 64))⟩
  | .rbc d a s q n => some ⟨2, d.toNat, [(c, a.toNat)], fun k => BitVec.ofNat 16 (own a (64 * (k / 64) + rotBy l s q n))⟩
  | .crot d a s q n => some ⟨6, d.toNat, [(c, a.toNat)], fun k =>
      BitVec.ofNat 16 (own a (64 * ((k / 64 + 16 - rotBy l s q n) % 16) + k % 64))⟩
  | .cbc d a s q n => some ⟨6, d.toNat, [(c, a.toNat)], fun k => BitVec.ofNat 16 (own a (64 * rotBy l s q n + k % 64))⟩
  | .rred d a y t o => some ⟨2, d.toNat, [(c, a.toNat)], fun k =>
      BitVec.ofNat 16 (tileReduce o.toNat y.toNat (t == 1) ((upto 64).map (fun j => own a (64 * (k / 64) + j))))⟩
  | .cred d a y t o => some ⟨6, d.toNat, [(c, a.toNat)], fun k =>
      BitVec.ofNat 16 (tileReduce o.toNat y.toNat (t == 1) ((upto 16).map (fun j => own a (64 * j + k % 64))))⟩
  | .txmv d a => some ⟨3, d.toNat, [(1 - c, a.toNat)], fun k => BitVec.ofNat 16 (tileAt l (1 - c) a.toNat k)⟩
  | _ => none

/-- The scalar, control and stream slots apart from arithmetic, with what they add to their bundle's effects where they
neither wait nor trap (15 R401 to R405, R414). -/
def slotActs (s : State) (x : SIss) (l : LineCore) (i : Instr) : Option (List Fx) :=
  let k := fun (r : BitVec 5) => getD 0#32 l.k r.toNat
  let g := engOf l x.eng
  let at_ := fun (a : BitVec 5) (n : BitVec 12) => ((k a).toNat : Int) + n.toInt
  let inLb := fun (v : Int) => decide (v % 4 = 0) && decide (0 ≤ v) && decide (v + 4 ≤ 0x180000)
  let loop := fun (count stop : Nat) =>
    if g.pc < stop ∧ g.loops.length < 4 then
      some [if count = 0 then Fx.skip (stop + 1) else .loop { start := g.pc + 1, stop := stop, count := count }]
    else none
  let send := fun (e : Nat) (v : Word) =>
    if (getD [] l.fifos (fifoKey x.eng e)).length + (l.pushes.filter (fun p => p.src == x.eng && p.dst == e)).length < 16 then
      some [Fx.push e v ((l.streams.filter (fun t => t.2.eng == x.eng && (t.2.kind == 1 || t.2.kind == 3))).map
        (fun t => (bindKey t.1 t.2, t.2.pos)))]
    else none
  let next := fun (st : BitVec 2) => (lookup l.streams st.toNat).bind (fun t =>
    if t.eng = x.eng ∧ (t.kind = 0 ∨ t.kind = 2) ∧ t.pos < t.nrows then
      (match t.rows with | (none, row) :: _ => some row | _ => none)
    else none)
  let takes := fun (st : BitVec 2) => match lookup l.streams st.toNat with
    | some t => t.eng == x.eng && (t.kind == 1 || t.kind == 3 || t.kind == 4) && decide (t.pos < t.nrows) &&
        decide (t.rows.length < 4) && (t.kind != 3 || lbOk (t.rowAt t.pos) (2 * t.nel))
    | none => false
  match i with
  | .kld d a n => if inLb (at_ a n) then
      (lbView s.tick l x.eng none (at_ a n).toNat 4).map (fun bs =>
        [x.lands l 8 (.k d.toNat (BitVec.ofNat 32 (ofBytes bs)))]) else none
  | .kst d a n => if inLb (at_ a n) then some [.lb (at_ a n).toNat (k d)] else none
  | .br t => some [.jump t.toNat]
  | .brc a f t => some (if (k a = 0#32 ↔ f = 0#3) then [.jump t.toNat] else [])
  | .loopReg a e => loop ((k a).toNat % 65536) e.toNat
  | .loopImm c e => loop c.toNat e.toNat
  | .halt =>
    if l.streams.any (fun t => t.2.eng == x.eng && t.2.refused.isSome) ||
      (x.eng == 3 && !l.streams.any (fun t => t.2.eng == 3 && t.2.kind == 4 && decide (t.2.nrows ≤ t.2.pos))) then none
    else some [.halt]
  | .toksendReg e b => send e.toNat (k b)
  | .toksendImm e n => send e.toNat (BitVec.ofInt 32 n.toInt)
  | .tokrecv d e => match getD [] l.fifos (fifoKey e.toNat x.eng) with
    | v :: _ => some [.pop e.toNat, x.lands l 1 (.k d.toNat v)]
    | [] => none
  | .bandchk d => l.band.map (fun b =>
      [x.lands l 1 (.k d.toNat (BitVec.ofInt 32 (deadline (headOf s b.head) b.f b.b - 1 - (headOf s b.head).scanned)))])
  | .lktrd d n => l.band.bind (fun b => (bandLatch (headOf s b.head) b.f b.b).map (fun r =>
      [x.lands l 1 (.k d.toNat (latchWord r n.toNat))]))
  | .evt a => some [.evt (k a)]
  | .sbind st a =>
    let free := match lookup l.streams st.toNat with
      | some o => o.eng == x.eng && !o.unwritten && o.refused.isNone
      | none => true
    if free && decide ((k a).toNat % 32 = 0) && decide ((k a).toNat + 32 ≤ 0x180000) then
      (lbView s.tick l x.eng none (k a).toNat 32).bind (fun bs =>
        (parseStream bs x.eng (scanRowsOf s l)).map (fun r =>
          [.bind st.toNat { r with bound := l.lbNum, band := (l.band.map Band.b).getD 0 }]))
    else none
  | .srdTile st c t r => (next st).map (fun row =>
      [.pull st.toNat, x.lands l 2 (.row (c.toNat * 8 + t.toNat) r.toNat row)])
  | .srdWeight st w r => (next st).map (fun row => [.pull st.toNat, x.lands l 2 (.wrow w.toNat r.toNat row)])
  | .swrTile st c t r =>
    if takes st && !l.tileErr.contains ((c.toNat * 8 + t.toNat) * 16 + r.toNat) then
      some [.supply st.toNat ((List.range 64).map (fun j =>
        getD 0#16 l.tiles ((c.toNat * 8 + t.toNat) * 1024 + r.toNat * 64 + j)))]
    else none
  | .swrStream st b => if takes st then (next b).map (fun row => [.pull b.toNat, .supply st.toNat row]) else none
  | .sflush st => match lookup l.streams st.toNat with
    | some t => if t.eng == x.eng && decide (t.kind ≤ 4) && !t.unwritten && t.refused.isNone then some [] else none
    | none => none
  | _ => none

/-! ### Answers, channels and links -/

/-- From `w` to `w'` the one instruction that waits, `f`, has its answer `rid`: while others are open it only loses the number and
takes what is refused; with the last its lanes go on (10 R257). -/
def AnswerTaken (w w' : Warp) (f : Infl) (rid : Nat) (derr : List (Nat × VA)) : Prop :=
  (f.open_.filter (· != rid) ≠ [] →
    w'.infl = [{ f with open_ := f.open_.filter (· != rid), derr := f.derr ++ derr }] ∧
    ∀ l, (lookup w'.lanes l).map Lane.unseen = (lookup w.lanes l).map Lane.unseen) ∧
  (f.open_.filter (· != rid) = [] → f.faults = [] → f.derr = [] → derr = [] →
    w'.infl = [] ∧ ∀ l, l < 32 → f.pathMask.getLsbD l = true → ∀ u, lookup w.lanes l = some u → u.wait = .mem f.iid →
      (lookup w'.lanes l).map Lane.unseen = some (releaseLane f.len u).unseen)

/-- Home slice `h` holds block `b` with these attributes, state and bytes, in some sector slots. -/
def HoldsBlock (s : State) (h : Nat) (b : L2Block) : Prop :=
  ∃ win sp, l2Find s h b.pid b.atag b.vb = some { b with win := win, sp := sp }

/-- From `s` to `t` only the memory banks and their promotion tags, counters and logs may differ. -/
def OnlyDram (s t : State) : Prop := { t with dram := s.dram } = s

/-- From `s` to `t` only ports may differ, and of these only port `i`, which is now `p`. -/
def OnlyPort (s t : State) (i : Nat) (p : Port) : Prop :=
  { t with ports := s.ports } = s ∧ ∀ k, lookup t.ports k = if k = i then some p else lookup s.ports k

/-- An endpoint `p` after training, `q`, with the capability of its neighbour: it is up, its waiting transactions stand in their
order, numbered one after another, each with its data as the link carries it now (03 R67, 22 R514). -/
structure Trained (p q : Port) (packed : Bool) : Prop where
  up : q.up = true ∧ q.training = false ∧ q.fails = 0
  caps : q.packed = packed ∧ q.own = true
  waiting : q.replay.map (fun x => (x.gid, x.head, x.load)) = p.replay.map (fun x => (x.gid, x.head, carriedAs packed x.load))
  order : ∀ k x y, q.replay[k]? = some x → q.replay[k + 1]? = some y → y.seq = x.seq + x.flits

/-- A byte as the memory banks hold it (02 R31). -/
def bankByte (s : State) (k : Nat) : Byte := getD 0#8 s.dram.mem k

/-! ### Engines, rings and windows -/

/-- The commands of the engines: their event at a ring, and their opcode (05 R119). -/
def engineCommand (i : Instr) : Option (EngAt × Nat) :=
  match i with
  | .copy c g r => some (⟨c, g, r⟩, 1)
  | .affine c g r => some (⟨c, g, r⟩, 2)
  | .gather c g r => some (⟨c, g, r⟩, 3)
  | .scatter c g r => some (⟨c, g, r⟩, 4)
  | .ragged c g r => some (⟨c, g, r⟩, 5)
  | .fill c g r => some (⟨c, g, r⟩, 6)
  | .iuload c g r => some (⟨c, g, r⟩, 7)
  | .scadd c g r => some (⟨c, g, r⟩, 16)
  | .bin c g r => some (⟨c, g, r⟩, 17)
  | .hist c g r => some (⟨c, g, r⟩, 18)
  | _ => none

/-- From `s` to `t` of all groups at most `g` of core `c` changed, into `y`. -/
def OnlyGroup (s t : State) (c g : Nat) (y : Group) : Prop :=
  ∀ a b, groupAt t a b = if a = c ∧ b = g then some y else groupAt s a b

/-- From `s` to `t` of partition `p`'s window the words at these offsets hold these values and every other word what it held;
nothing else of the state changed but in that partition. -/
def WindowWrote (s t : State) (p : Nat) (vals : List (Nat × Nat)) : Prop :=
  { t with parts := s.parts } = s ∧ (∀ q, q ≠ p → partOf t q = partOf s q) ∧
  ∀ k, win32 t p (4 * k) = match vals.find? (fun e => e.1 == 4 * k) with
    | some e => e.2 % 2 ^ 32
    | none => win32 s p (4 * k)

/-- The invalidation of a maintenance record: no translation, core-side line or reservation that it meets is left. -/
structure Invalidated (w : Sweep) (t : State) : Prop where
  tlb : ∀ e ∈ t.tlb, ∀ x ∈ e.2, w.meets x.pid x.atag x.leaf.vbase x.leaf.size = false
  lines : ∀ e ∈ t.cores, ∀ c ∈ e.2.l1 ++ e.2.kc ++ e.2.ic, w.meets c.pid c.atag (c.line * 64) 64 = false
  resv : ∀ e ∈ t.resv, w.meets e.2.1 e.2.2.1 (e.2.2.2 * 64) 64 = false

/-! ### Grids, resources and heads -/

/-- A grid as it is dispatched, of a record whose groups number GX · GY · GZ (16 R424). -/
def Grid.fresh (r : LaunchRec) (asid pri depth uid : Nat) (src parent : Option (Nat × Nat)) : Grid :=
  { uid := uid, rec_ := r, asid := asid, pri := pri, depth := depth, src := src, parent := parent, total := r.gx * r.gy * r.gz,
    next := 0, retired := 0, children := 0, aborted := false, haltPc := 0, spilled := [] }

/-- From `s` to `t` resource `i` of a kind went to a state for a partition, which an entry tells it; every other resource is as it
was (18 R470, R473, R492). -/
structure BecameRes (s t : State) (kind i st part : Nat) : Prop where
  here : resWord t kind i = if st = 0 then 0#32 else BitVec.ofNat 32 (part % 16 * 16 + st)
  others : ∀ k j, k < 3 → ¬ (k = kind ∧ j = i) → resWord t k j = resWord s k j
  told : (partOf t part).notif = (partOf s part).notif ++
    [{ typ := 6, asid := 0, arg0 := kind * 2 ^ 62 + i * 2 ^ 32 + st, arg1 := 0, since := (partOf s part).clock }]

/-- The answer of the resize unit to a command (18 R472). -/
def Answered (t : State) (code : Nat) : Prop := t.root.rszstat = BitVec.ofNat 32 code

/-- From `s` to `t` only partition `p`'s own state changed, into `x`. -/
def OnlyPart (s t : State) (p : Nat) (x : Part) : Prop :=
  { t with parts := s.parts } = s ∧ ∀ q, partOf t q = if q = p then x else partOf s q

/-- From `s` to `t` only line core `c` changed, into `l`. -/
def OnlyLine (s t : State) (c : Nat) (l : LineCore) : Prop :=
  { t with lcs := s.lcs } = s ∧ ∀ k, lineOf t k = if k = c then l else lineOf s k

/-- From `s` to `t` only head `h` changed, into `x`. -/
def OnlyHead (s t : State) (h : Nat) (x : Head) : Prop :=
  { t with heads := s.heads } = s ∧ ∀ k, headOf t k = if k = h then x else headOf s k

/-! ### A step's instruction -/

/-- The instruction at the PC of a path, of this opcode, fields, word and length and without the YIELD hint, as its core fetches it,
leaving `u`
(04 R76, 07 R167). -/
def Fetched (s u : State) (core ws : Nat) (p : PathAt) (i : Instr) (op : Nat) (f : Fields) (word : DWord) (len : Nat) : Prop :=
  fetchAt s core (warpAt s core ws) p.pc = (.ok i op f word len, u) ∧ f.k ≠ 2#2

/-- The turn of a quadrant gives path `p` of warp `ws` its instruction, alone; `t` is the state with the wait counts of 16 R437
(16 R435, R436). -/
def TurnGoesTo (s : State) (core q ws : Nat) (p : PathAt) (t : State) : Prop :=
  ∃ u v wc a,
    u = wakeObjs (drainImp (turnOf s core q) core) core ∧
    chooseWarp (coreOf u core).cyc (((coreOf u core).warps.filter (fun e => e.2.quadrant == q)).filterMap (fun e =>
      if (readyPaths u core e.1).isEmpty then none else some (⟨e.1, e.2, readyPaths u core e.1⟩ : WCand))) = some wc ∧
    v = modCore u core (fun c => { c with warps := c.warps.map (fun e =>
      if e.2.quadrant = q ∧ e.2.yielded then (e.1, { e.2 with yielded := false }) else e) }) ∧
    choosePaths wc.w (haltingOf v core wc.w) wc.paths = some (a, none) ∧ ws = wc.ws ∧ p = a.path ∧
    t = countWaits v core wc.ws a.path.mask (wc.paths.foldl (fun m c => m ||| c.path.mask) 0#32)

/-! ### The form every step keeps -/

/-- Memory lists its bytes in their one canonical form, and no instruction is left half issued between steps. -/
def Kept (s : State) : Prop := Memory.wf s.dram.mem = true ∧ s.cur = .idle

end Sys2Proof.Machine
end

