-- ==== Sys2Proof/Certificates/Slice0/Obligations.lean ====
section
/-! DEFINITION. Certificates/Slice0/Obligations.lean: the statements for the provers. -/

open Sys2Proof Sys2Proof.Machine

/-! ### Instructions of one lane at a time -/

/-- 08 R191 to R206, 06 R140: integer, bit, comparison, move and predicate instructions complete, and write their results and
nothing else. -/
def Obligations.IntegerInstructionsWriteTheirResults : Prop :=
  ∀ (i : Instr) (s : State) (x : Iss) (q : LaneForm),
    WellFormed i = true → intForm x s i = some q → Issues s x q.op q.f →
    ∃ w', exec i s = .next (x.leaves s w') ∧ LaneEffect (x.warp s) x q w'

/-- 09 R227 to R241: float, conversion and special-function instructions that raise no flag complete likewise. -/
def Obligations.FloatInstructionsWriteTheirResults : Prop :=
  ∀ (i : Instr) (s : State) (x : Iss) (q : LaneForm),
    WellFormed i = true → fltForm x i = some q → Issues s x q.op q.f →
    raised (performers q.op q.f x (x.warp s)) (q.res (x.warp s)) = 0#5 →
    ∃ w', exec i s = .next (x.leaves s w') ∧ LaneEffect (x.warp s) x q w'

/-- 09 R227, 17 R446, R451: flags of classes that are not enabled leave the results as they are and are ORed into the pending
record of the same PC[56:5], or open one where none is pending. A lane that raises an enabled flag is left unwritten at the
instruction and traps with the flags and the elements that raised them, the other lanes are written and go on; a uniform form
writes nothing and its whole path traps. -/
def Obligations.FlagsAreLoggedOrTrapTheirLanes : Prop :=
  (∀ (i : Instr) (s : State) (x : Iss) (q : LaneForm) (r : Imprecise),
    WellFormed i = true → fltForm x i = some q → Issues s x q.op q.f →
    raised (performers q.op q.f x (x.warp s)) (q.res (x.warp s)) ≠ 0#5 →
    raised (performers q.op q.f x (x.warp s)) (q.res (x.warp s)) &&& enabledFlags (x.warp s) = 0#5 →
    ((x.warp s).imp = none ∧ r.flags = 0#5 ∧ r.since = cycOf s x.core ∨ (x.warp s).imp = some r) →
    r.pcb = fld x.pc 5 52 →
    ∃ w', LaneEffect (x.warp s) x q w' ∧ exec i s = .next (x.leaves s
      { w' with imp := some { r with flags := r.flags ||| raised (performers q.op q.f x (x.warp s)) (q.res (x.warp s)) } })) ∧
  (∀ (i : Instr) (s : State) (x : Iss) (q : LaneForm) (good bad : List Nat),
    WellFormed i = true → fltForm x i = some q → Issues s x q.op q.f → uniformForm q.op q.f = false →
    HandlerReady (x.warp s) →
    good = (guarded (x.warp s) x.mask q.f.g).filter (fun l => (q.res (x.warp s) l).all &&& enabledFlags (x.warp s) == 0#5) →
    bad = (guarded (x.warp s) x.mask q.f.g).filter (fun l => (q.res (x.warp s) l).all &&& enabledFlags (x.warp s) != 0#5) →
    bad ≠ [] →
    raised (guarded (x.warp s) x.mask q.f.g) (q.res (x.warp s)) &&& ~~~enabledFlags (x.warp s) = 0#5 →
    ∃ w₁ w₂, SameButRegs (x.warp s) w₁ ∧ SameUniform (x.warp s) w₁ ∧
      WroteLanes (x.warp s) w₁ good (q.res (x.warp s)) ∧
      Stepped (x.warp s) w₁ (x.mask &&& ~~~laneMask (fun l => bad.contains l)) x.len ∧
      TrapEntered w₁ w₂ (x.trapOf 7 (raised bad (q.res (x.warp s)) &&& enabledFlags (x.warp s)).toNat
        (laneMask (fun l => bad.contains l))
        (bad.foldl (fun k l => k ||| elemBits (enabledFlags (x.warp s)) (q.res (x.warp s) l).flags) 0) 0) ∧
      exec i s = .next (x.leaves s w₂)) ∧
  (∀ (i : Instr) (s : State) (x : Iss) (q : LaneForm),
    WellFormed i = true → fltForm x i = some q → Issues s x q.op q.f → uniformForm q.op q.f = true →
    HandlerReady (x.warp s) → guardUni (x.warp s) q.f.g = true →
    (q.res (x.warp s) x.lane0).all &&& enabledFlags (x.warp s) ≠ 0#5 →
    (q.res (x.warp s) x.lane0).all &&& ~~~enabledFlags (x.warp s) = 0#5 →
    ∃ w', exec i s = .next (x.leaves s w') ∧ TrapEntered (x.warp s) w'
      (x.trapOf 7 ((q.res (x.warp s) x.lane0).all &&& enabledFlags (x.warp s)).toNat x.mask
        (elemBits (enabledFlags (x.warp s)) (q.res (x.warp s) x.lane0).flags) 0))

/-! ### Collectives and single lanes -/

/-- 09 R240, R244 to R249, R252: a collective that raises no flag gives each lane of its write set its result, or a uniform
destination the result once; with a false q guard it writes nothing. That a uniform destination is written also where the write
set is empty is the model's own choice (log 23). -/
def Obligations.CollectivesWriteTheirResults : Prop :=
  ∀ (i : Instr) (s : State) (x : Iss) (q : CollForm),
    WellFormed i = true → collForm i = some q → Issues s x q.op q.f →
    (∀ src wset, collSets (x.warp s) x q.f = some (src, wset) → q.flags (x.warp s) src wset = 0#5) →
    ∃ w', exec i s = .next (x.leaves s w') ∧ SameButRegs (x.warp s) w' ∧ Stepped (x.warp s) w' x.mask x.len ∧
      match collSets (x.warp s) x q.f with
      | none => SameUniform (x.warp s) w' ∧ SameLanes (x.warp s) w'
      | some (src, wset) =>
        if q.uni = true then SameLanes (x.warp s) w' ∧
          WroteUniform (x.warp s) w' (q.res (x.warp s) src wset (wset.headD 0))
        else SameUniform (x.warp s) w' ∧ WroteLanes (x.warp s) w' wset (q.res (x.warp s) src wset)

/-- 09 R254: LRD writes the named lane's register to a uniform register, LWR a uniform value to the named lane's register. -/
def Obligations.SingleLaneAccessesMoveOneRegister : Prop :=
  (∀ (f : Fields) (s : State) (x : Iss),
    WellFormed (.lrd f) = true → Issues s x 119 f → guardUni (x.warp s) f.g = true →
    ∃ w', exec (.lrd f) s = .next (x.leaves s w') ∧ SameButRegs (x.warp s) w' ∧ Stepped (x.warp s) w' x.mask x.len ∧
      SameLanes (x.warp s) w' ∧ WroteUniform (x.warp s) w' (.ofRegs (dstWords f.d.toNat f.t.toNat
        (srcN (x.warp s) (rawB (x.warp s) 0 f 1 % 32) (tRegs f.t.toNat) f.a.toNat)))) ∧
  (∀ (f : Fields) (s : State) (x : Iss),
    WellFormed (.lwr f) = true → Issues s x 120 f → guardUni (x.warp s) f.g = true →
    (clasped (x.warp s) = true → (x.warp s).cmask.getLsbD (rawB (x.warp s) 0 f 1 % 32) = true) →
    ∃ w', exec (.lwr f) s = .next (x.leaves s w') ∧ SameButRegs (x.warp s) w' ∧ Stepped (x.warp s) w' x.mask x.len ∧
      SameUniform (x.warp s) w' ∧ WroteLanes (x.warp s) w' [rawB (x.warp s) 0 f 1 % 32]
        (fun _ => .ofRegs (dstWords f.d.toNat f.t.toNat (srcN (x.warp s) 0 (tRegs f.t.toNat) f.a.toNat))))

/-- 09 R250, R251: FILT reads 128 aligned bytes as a constant fetch and makes them the table of its slot; the other slots keep
theirs. -/
def Obligations.FiltLoadsItsSlot : Prop :=
  ∀ (f : Fields) (s t : State) (x : Iss) (bs : List Byte),
    Issues s x 113 f → guardUni (x.warp s) f.g = true → rread2 (x.warp s) 0 f.a.toNat % 2 ^ 57 % 128 = 0 →
    fetchSpan s x.core (x.warp s).part (x.warp s).asid .const
      (BitVec.ofNat 57 (rread2 (x.warp s) 0 f.a.toNat % 2 ^ 57)) 128 2 = (.ok bs, t) →
    ∃ w', exec (.filt f) s = .next (x.leaves t w') ∧
      (∀ i, i < 128 → filGet w' (f.fn.toNat % 8) i = (nthD 0#8 bs i).toNat) ∧
      (∀ k i, k ≠ f.fn.toNat % 8 → i < 128 → filGet w' k i = filGet (x.warp s) k i) ∧
      OnlyStepped (x.warp s) { w' with fil := (x.warp s).fil } x.mask x.len

/-! ### Control flow -/

/-- 08 R207, R208, 17 R447: outside a handler and a clasp region the guarded lanes of BRA, BRX and RET go to their targets and the
others to the next instruction; in a handler its one path branches on its uniform operands; nothing else changes. CALL goes
likewise, the address of the next instruction left in the link pair of the lanes that branch, or once in a uniform pair. -/
def Obligations.BranchesGoToTheirTargets : Prop :=
  (∀ (i : Instr) (s : State) (x : Iss) (op : Nat) (f : Fields) (go : Nat → VA),
    (i = .bra f ∧ op = 48 ∧ go = (fun _ => branchTarget x.pc f) ∨
     (i = .brx f ∧ op = 49 ∨ i = .ret f ∧ op = 51) ∧ go = (fun l => pairTarget (rread2 (x.warp s) l f.a.toNat))) →
    Issues s x op f → (x.warp s).hmode = false → clasped (x.warp s) = false →
    ∃ w', exec i s = .next (x.leaves s w') ∧ { w' with lanes := (x.warp s).lanes } = x.warp s ∧
      LanesWent (x.warp s) w' x.mask (fun l =>
        if l ∈ guarded (x.warp s) x.mask f.g then go l else x.pc + BitVec.ofNat 57 x.len)) ∧
  (∀ (i : Instr) (s : State) (x : Iss) (op : Nat) (f : Fields) (go : VA),
    (i = .bra f ∧ op = 48 ∧ go = branchTarget x.pc f ∨
     (i = .brx f ∧ op = 49 ∨ i = .ret f ∧ op = 51) ∧ go = pairTarget (rread2 (x.warp s) 0 f.a.toNat)) →
    Issues s x op f → (x.warp s).hmode = true →
    exec i s = .next (x.leaves s { x.warp s with
      hpc := if guardUni (x.warp s) f.g = true then go else x.pc + BitVec.ofNat 57 x.len })) ∧
  (∀ (f : Fields) (s : State) (x : Iss),
    Issues s x 50 f → (x.warp s).hmode = false → clasped (x.warp s) = false → x.len = 8 →
    ∃ w', exec (.call f) s = .next (x.leaves s w') ∧ SameButRegs (x.warp s) w' ∧ w'.hpc = (x.warp s).hpc ∧
      LanesWent (x.warp s) w' x.mask (fun l =>
        if l ∈ guarded (x.warp s) x.mask f.g then branchTarget x.pc f else x.pc + 8#57) ∧
      let link := LaneRes.ofRegs (dstWords f.d.toNat 15 (x.pc + 8#57).toNat)
      if isUni f.d.toNat = true then SameLanes (x.warp s) w' ∧
        (if guarded (x.warp s) x.mask f.g = [] then SameUniform (x.warp s) w' else WroteUniform (x.warp s) w' link)
      else SameUniform (x.warp s) w' ∧ WroteLanes (x.warp s) w' (guarded (x.warp s) x.mask f.g) (fun _ => link))

/-- 08 R210 to R212, R215: inside a clasp region a branch of some lane out of sequential order, and an EXIT or DEFER of some lane,
raise the clasp trap with the whole path. CLASP opens a region with the issuing path and UNCLASP closes it; with a false guard
they only step, as NOP does; YIELD steps and leaves its mark. -/
def Obligations.ClaspRegionsOpenAndRefuseDivergence : Prop :=
  (∀ (i : Instr) (s : State) (x : Iss) (op : Nat) (f : Fields),
    (i = .bra f ∧ op = 48 ∧ branchTarget x.pc f ≠ x.pc + BitVec.ofNat 57 x.len ∨
     i = .call f ∧ op = 50 ∧ branchTarget x.pc f ≠ x.pc + 8#57 ∨
     (i = .brx f ∧ op = 49 ∨ i = .ret f ∧ op = 51) ∧
       (∃ l ∈ guarded (x.warp s) x.mask f.g, pairTarget (rread2 (x.warp s) l f.a.toNat) ≠ x.pc + BitVec.ofNat 57 x.len) ∨
     i = .exit f ∧ op = 52 ∨
     (i = .deferF f ∨ i = .deferG f ∧ (x.warp s).gslot.isSome = true) ∧ op = 53) →
    Issues s x op f → clasped (x.warp s) = true → guarded (x.warp s) x.mask f.g ≠ [] → HandlerReady (x.warp s) →
    ∃ w', exec i s = .next (x.leaves s w') ∧ TrapEntered (x.warp s) w' (x.trapOf 3 0 x.mask 0 0)) ∧
  (∀ (f : Fields) (s : State) (x : Iss), Issues s x 54 f → guardUni (x.warp s) f.g = true → (x.warp s).clOpen = false →
    ∃ w', exec (.clasp f) s = .next (x.leaves s w') ∧ w'.clOpen = true ∧ w'.cmask = x.mask ∧
      OnlyStepped (x.warp s) { w' with clOpen := false, cmask := (x.warp s).cmask } x.mask x.len) ∧
  (∀ (f : Fields) (s : State) (x : Iss), Issues s x 55 f → guardUni (x.warp s) f.g = true → (x.warp s).clOpen = true →
    ∃ w', exec (.unclasp f) s = .next (x.leaves s w') ∧ w'.clOpen = false ∧ w'.cmask = 0#32 ∧
      OnlyStepped (x.warp s) { w' with clOpen := true, cmask := (x.warp s).cmask } x.mask x.len) ∧
  (∀ (i : Instr) (f : Fields) (s : State) (x : Iss) (op : Nat),
    (i = .clasp f ∧ op = 54 ∧ guardUni (x.warp s) f.g = false ∨ i = .unclasp f ∧ op = 55 ∧ guardUni (x.warp s) f.g = false ∨
      i = .nop f ∧ op = 56) → Issues s x op f →
    ∃ w', exec i s = .next (x.leaves s w') ∧ OnlyStepped (x.warp s) w' x.mask x.len) ∧
  (∀ (f : Fields) (s : State) (x : Iss), Issues s x 57 f →
    ∃ w', exec (.yield f) s = .next (x.leaves s w') ∧ w'.yielded = true ∧
      OnlyStepped (x.warp s) { w' with yielded := (x.warp s).yielded } x.mask x.len)

/-- 08 R209, 16 R431: EXIT ends the threads of the guarded lanes and the other lanes of the path go on, where the warp keeps
another thread and no lane of its group waits at the group barrier; a quiet warp whose last threads end leaves its slot, and a
group with the last of its warps has ended. -/
def Obligations.ExitEndsItsThreads : Prop :=
  (∀ (f : Fields) (s : State) (x : Iss) (gone : Word),
    Issues s x 52 f → clasped (x.warp s) = false →
    gone = laneMask (fun l => (guarded (x.warp s) x.mask f.g).contains l) → NoWarpEnds s x gone → NoBarrierWaits s x →
    ∃ t, exec (.exit f) s = .next t ∧ t.dram = s.dram ∧ t.parts = s.parts ∧ t.root = s.root ∧
      ThreadsEnded (x.warp s) (x.warp t) x.mask gone x.len) ∧
  (∀ (f : Fields) (s : State) (x : Iss) (gone : Word),
    Issues s x 52 f → clasped (x.warp s) = false →
    gone = laneMask (fun l => (guarded (x.warp s) x.mask f.g).contains l) → gone ≠ 0#32 →
    liveMask (x.warp s) &&& ~~~gone = 0#32 → warpQuiet (coreOf s x.core) x.wslot (x.warp s) = true →
    (x.warp s).saving = none → NoBarrierWaits s x →
    ((x.warp s).gslot = none ∨ (x.warp s).isCont = true → ∃ t, exec (.exit f) s = .next t ∧ warpAt? t x.core x.wslot = none) ∧
    (∀ g y, (x.warp s).gslot = some g → groupAt s x.core g = some y → (∀ k ∈ groupWarps (coreOf s x.core) g, k = x.wslot) →
      ∃ t y', exec (.exit f) s = .next t ∧ warpAt? t x.core x.wslot = none ∧ groupAt t x.core g = some y' ∧
        y'.ended = true))

/-- 08 R213, R214, 16 R438: DEFER leaves a record for each guarded lane in the core's queue, in lane order, with its first
registers and where its thread resumes, and ends those lanes; the other lanes of the path go on. -/
def Obligations.DeferLeavesItsRecords : Prop :=
  ∀ (i : Instr) (f : Fields) (s : State) (x : Iss) (free : Bool) (gone : Word) (lanes : List Nat),
    (i = .deferG f ∧ free = false ∧ (x.warp s).gslot.isSome = true ∨ i = .deferF f ∧ free = true) →
    Issues s x 53 f → clasped (x.warp s) = false → lanes = guarded (x.warp s) x.mask f.g → gone = laneMask (fun l => lanes.contains l) → NoWarpEnds s x gone →
    NoBarrierWaits s x → (coreOf s x.core).contq.length + lanes.length ≤ contQueueSize →
    ∃ t recs, exec i s = .next t ∧ (coreOf t x.core).contq = (coreOf s x.core).contq ++ recs ∧
      recs.map ContRec.plain = lanes.map (fun l => ContRec.plain <|
        laneRecord (x.warp s) l (branchTarget x.pc f) 0 free (laneLevel (x.warp s) l) (deferWords f) 0 true) ∧
      t.dram = s.dram ∧ t.parts = s.parts ∧ t.root = s.root ∧ ThreadsEnded (x.warp s) (x.warp t) x.mask gone x.len

/-- 08 R216 to R218: LAUNCH and LAUNCHI of a leading lane read their record, put a child grid among those that wait for
dispatch, and write status 0; a lane that does not lead writes 1, at depth 10 it writes 2, and a record that breaks a rule
writes 3. -/
def Obligations.LaunchQueuesAChildGrid : Prop :=
  (∀ (f : Fields) (s t : State) (x : Iss) (l g : Nat) (y : Group) (bs : List Byte),
    Issues s x 58 f → actors 58 f x (x.warp s) = [l] → Leads (x.warp s) l → (x.warp s).gslot = some g →
    groupAt s x.core g = some y → (x.warp s).sysDepth ≠ 10 → rread2 (x.warp s) l f.a.toNat % 128 = 0 →
    releaseReady s x.core x.wslot (laneMask (· == l)) 3 = true →
    readN s (warpWho x.core (x.warp s)) (BitVec.ofNat 57 (rread2 (x.warp s) l f.a.toNat)) 128 = (.ok bs, t) →
    recordOk bs true = true → countsOk (parseRecord bs) = true → (partOf s (x.warp s).part).childq.length < 4096 →
    ∃ u, exec (.launch f) s = .next u ∧ ChildQueued s u x g y (parseRecord bs) none ∧ SameButRegs (x.warp s) (x.warp u) ∧
      Stepped (x.warp s) (x.warp u) x.mask x.len ∧ WroteOne 58 f (x.warp s) (x.warp u) l (.ofRegs [(f.d.toNat, 0)])) ∧
  (∀ (f : Fields) (s t u : State) (x : Iss) (l g : Nat) (y : Group) (bs : List Byte),
    Issues s x 59 f → actors 59 f x (x.warp s) = [l] → Leads (x.warp s) l → (x.warp s).gslot = some g →
    groupAt s x.core g = some y → (x.warp s).sysDepth ≠ 10 → rread2 (x.warp s) l f.a.toNat % 128 = 0 →
    rawB (x.warp s) l f 2 % 4 = 0 → releaseReady s x.core x.wslot (laneMask (· == l)) 3 = true →
    readN s (warpWho x.core (x.warp s)) (BitVec.ofNat 57 (rread2 (x.warp s) l f.a.toNat)) 128 = (.ok bs, t) →
    countFault (warpWho x.core (x.warp s)) (BitVec.ofNat 57 (rawB (x.warp s) l f 2)) 3 t = (none, u) →
    recordOk bs true = true → (partOf s (x.warp s).part).childq.length < 4096 →
    ∃ v, exec (.launchi f) s = .next v ∧
      ChildQueued s v x g y (parseRecord bs) (some (BitVec.ofNat 57 (rawB (x.warp s) l f 2))) ∧
      SameButRegs (x.warp s) (x.warp v) ∧ Stepped (x.warp s) (x.warp v) x.mask x.len ∧
      WroteOne 59 f (x.warp s) (x.warp v) l (.ofRegs [(f.d.toNat, 0)])) ∧
  (∀ (i : Instr) (f : Fields) (s t : State) (x : Iss) (op l status : Nat) (two : Bool),
    (i = .launch f ∧ op = 58 ∧ two = false ∨ i = .launchi f ∧ op = 59 ∧ two = true) → Issues s x op f →
    actors op f x (x.warp s) = [l] →
    (status = 1 ∧ ¬ ((x.warp s).gslot.isSome = true ∧ Leads (x.warp s) l) ∧ t = s ∨
     (x.warp s).gslot.isSome = true ∧ Leads (x.warp s) l ∧
      (status = 2 ∧ (x.warp s).sysDepth = 10 ∧ t = s ∨ status = 3 ∧ (x.warp s).sysDepth ≠ 10 ∧
        (t = s ∧ (rread2 (x.warp s) l f.a.toNat % 128 ≠ 0 ∨ two = true ∧ rawB (x.warp s) l f 2 % 4 ≠ 0) ∨
         two = false ∧ rread2 (x.warp s) l f.a.toNat % 128 = 0 ∧
          releaseReady s x.core x.wslot (laneMask (· == l)) 3 = true ∧
          ∃ bs, readN s (warpWho x.core (x.warp s)) (BitVec.ofNat 57 (rread2 (x.warp s) l f.a.toNat)) 128 = (.ok bs, t) ∧
            ¬ (recordOk bs true = true ∧ countsOk (parseRecord bs) = true)))) →
    ∃ w', exec i s = .next (x.leaves t w') ∧ SameButRegs (x.warp s) w' ∧ Stepped (x.warp s) w' x.mask x.len ∧
      WroteOne op f (x.warp s) w' l (.ofRegs [(f.d.toNat, status)]))

/-- 08 R219: the lanes of CWAIT go on, and the core's L1 is emptied, once every child grid of the group that was launched before
they came is complete; a lane whose children are not stays. -/
def Obligations.CwaitWaitsForTheChildren : Prop :=
  (∀ (f : Fields) (s : State) (x : Iss),
    Issues s x 60 f → guarded (x.warp s) x.mask f.g ≠ [] →
    (∀ l ∈ guarded (x.warp s) x.mask f.g, ∀ k ∈ groupChildren s x.core (x.warp s), cwaitBound s (x.warp s) l ≤ k) →
    ∃ t, exec (.cwait f) s = .next t ∧ OnlyStepped (x.warp s) (x.warp t) x.mask x.len ∧ (coreOf t x.core).l1 = [] ∧
      Undisturbed s t ∧ SameGroups s t) ∧
  (∀ (f : Fields) (s : State) (x : Iss),
    Issues s x 60 f →
    (∀ l ∈ guarded (x.warp s) x.mask f.g, ∃ k ∈ groupChildren s x.core (x.warp s), k < cwaitBound s (x.warp s) l) →
    ∃ w', exec (.cwait f) s = .next (x.leaves s w') ∧ { w' with lanes := (x.warp s).lanes } = x.warp s ∧
      ∀ l, lookup w'.lanes l = (lookup (x.warp s).lanes l).map (fun u =>
        if l ∈ guarded (x.warp s) x.mask f.g then { u with wait := .cwait (cwaitBound s (x.warp s) l) }
        else if l < 32 ∧ x.mask.getLsbD l = true then u.past x.len else u))

/-! ### Traps, handlers and halts -/

/-- 08 R221, 17 R444, R446: TRAP takes the software trap with the guarded lanes, its number in tr.addr, where a handler stands
ready. -/
def Obligations.TrapEntersTheHandler : Prop :=
  ∀ (f : Fields) (s : State) (x : Iss),
    Issues s x 64 f → guarded (x.warp s) x.mask f.g ≠ [] → HandlerReady (x.warp s) →
    ∃ w', exec (.trap f) s = .next (x.leaves s w') ∧ TrapEntered (x.warp s) w'
      (x.trapOf 6 0 (laneMask (fun l => (guarded (x.warp s) x.mask f.g).contains l)) 0 (BitVec.ofNat 64 f.b.toNat))

/-- 17 R448: TRET ends handler mode; the lanes that trapped resume at tr.pc where tr.mask names them, else past the trapping
instruction. -/
def Obligations.TretResumesTheLanes : Prop :=
  ∀ (f : Fields) (s : State) (x : Iss),
    Issues s x 65 f → (x.warp s).hmode = true → handlerGuard (x.warp s) f.g = true →
    ∃ w', exec (.tret f) s = .next (x.leaves s w') ∧ w'.hmode = false ∧
      { w' with lanes := (x.warp s).lanes, hmode := true } = x.warp s ∧
      ∀ l, l < 32 → (lookup w'.lanes l).map (fun u => (u.live, u.trp, u.pc, u.pb)) =
        (lookup (x.warp s).lanes l).map (fun u =>
          if u.trp = true then
            (u.live, false, if (x.warp s).trMask.getLsbD l = true then (((x.warp s).trPc >>> 3) <<< 3).setWidth 57
              else u.pc + (if u.l16 = true then 16#57 else 8#57), u.pb)
          else (u.live, false, u.pc, u.pb))

/-- 08 R223, 06 R148: TRD writes a trap state register to a uniform register or pair; TWR writes one under its field rules, and
no other. That TWR of tr.elem keeps bits [7:0] of its source is the model's own reading (log 17). -/
def Obligations.TrapRegistersReadAndWrite : Prop :=
  (∀ (f : Fields) (s : State) (x : Iss),
    Issues s x 66 f → f.b.toNat < 9 → guardUni (x.warp s) f.g = true →
    ∃ w', exec (.trd f) s = .next (x.leaves s w') ∧ SameButRegs (x.warp s) w' ∧ Stepped (x.warp s) w' x.mask x.len ∧
      SameLanes (x.warp s) w' ∧ WroteUniform (x.warp s) w' (.ofRegs (dstWords f.d.toNat
        (if f.b.toNat ∈ [1, 4, 5, 6, 8] then 15 else 0) (trRead (x.warp s) f.b.toNat)))) ∧
  (∀ (f : Fields) (s : State) (x : Iss),
    Issues s x 67 f → f.b.toNat < 9 → guardUni (x.warp s) f.g = true →
    ∃ w', exec (.twr f) s = .next (x.leaves s w') ∧
      trRead w' f.b.toNat = trField f.b.toNat (srcN (x.warp s) 0 (if f.b.toNat ∈ [1, 4, 5, 6, 8] then 2 else 1) f.a.toNat) ∧
      (∀ n, n < 9 → n ≠ f.b.toNat → trRead w' n = trRead (x.warp s) n) ∧
      OnlyStepped (x.warp s) { w' with trCause := (x.warp s).trCause, trPc := (x.warp s).trPc, trMask := (x.warp s).trMask,
                                       trElem := (x.warp s).trElem, trAddr := (x.warp s).trAddr, trInst := (x.warp s).trInst,
                                       tba := (x.warp s).tba, tem := (x.warp s).tem, fplog := (x.warp s).fplog }
        x.mask x.len)

/-- 08 R224, 17 R452: BPT leaves its number in tr.addr, steps, and orders a debug halt of its group, or of its own warp where it
has none; a fatal halt ordered before stays. -/
def Obligations.BptHaltsItsGroup : Prop :=
  ∀ (f : Fields) (s : State) (x : Iss),
    Issues s x 68 f →
    (if (x.warp s).hmode = true then handlerGuard (x.warp s) f.g = true else guarded (x.warp s) x.mask f.g ≠ []) →
    ∃ t, exec (.bpt f) s = .next t ∧ (x.warp t).trAddr = BitVec.ofNat 64 f.b.toNat ∧ (x.warp t).raisedHalt = true ∧
      OnlyStepped (x.warp s) { x.warp t with trAddr := (x.warp s).trAddr, raisedHalt := (x.warp s).raisedHalt,
                                             skid := (x.warp s).skid, saving := (x.warp s).saving } x.mask x.len ∧
      (∀ g y, (x.warp s).gslot = some g → groupAt s x.core g = some y → groupAt t x.core g =
        some { y with saving := if y.saving = some 3 then some 3 else some 2, haltPc := x.pc }) ∧
      ((x.warp s).gslot = none → (x.warp t).saving = if (x.warp s).saving = some 3 then some 3 else some 2) ∧
      Undisturbed s t

/-- 17 R445, R447: in a handler every instruction that handlers may not issue is an illegal instruction with DETAIL 1, which
halts the unit fatally and aborts its grid. -/
def Obligations.HandlersMayNotIssueEverything : Prop :=
  ∀ (i : Instr) (s : State) (x : Iss) (op : Nat) (c : Cls) (f : Fields),
    suricOf i = some (op, c, f) → issOf s = some x → (warpAt? s x.core x.wslot).isSome = true →
    (x.warp s).hmode = true → handlerAllows op f = false →
    ∃ u, exec i s = .next { abort u (x.warp s).part (x.warp s).grid x.pc with cur := .idle } ∧
      HaltedFatally s u x (x.trapOf 1 1 x.mask 0 0)

/-- 07 R167, 17 R443 to R446: operands that break a rule are the illegal-operand trap of the whole path, and nothing of the
instruction is done; without a handler that trap halts the unit fatally. -/
def Obligations.IllegalOperandsTrap : Prop :=
  ∀ (i : Instr) (s : State) (x : Iss) (op : Nat) (c : Cls) (f : Fields),
    suricOf i = some (op, c, f) → issOf s = some x → (warpAt? s x.core x.wslot).isSome = true →
    ((x.warp s).hmode = false ∨ handlerAllows op f = true) → operandsOk (x.warp s) op f = false →
    (HandlerReady (x.warp s) →
      ∃ w', exec i s = .next (x.leaves s w') ∧ TrapEntered (x.warp s) w' (x.trapOf 2 0 x.mask 0 0)) ∧
    ((x.warp s).hmode = true ∨ (x.warp s).tba = 0#64 →
      ∃ u, exec i s = .next { abort u (x.warp s).part (x.warp s).grid x.pc with cur := .idle } ∧
        HaltedFatally s u x (x.trapOf 2 0 x.mask 0 0))

/-! ### Global memory -/

/-- 10 R257, R258, R276: LD and LDR whose lines the L1 does not hold send one request for each address their lanes name, two
for 16 bytes, and the lanes wait for the answers. -/
def Obligations.LoadsSendTheirRequests : Prop :=
  ∀ (i : Instr) (f : Fields) (s : State) (x : Iss) (op : Nat) (mop : MemOp) (lanes : List Nat),
    (i = .ld f ∧ op = 128 ∧ mop = .load ∨ i = .ldr f ∧ op = 148 ∧ mop = .ldr) → Issues s x op f →
    lanes = actors op f x (x.warp s) → lanes ≠ [] →
    (∀ l ∈ lanes, (eaM (x.warp s) l f (Machine.sizeOf f.t.toNat)).toNat % Machine.sizeOf f.t.toNat = 0) →
    (∀ p ∈ accessParts (x.warp s) f lanes, l1Line s x.core (x.warp s).part (x.warp s).asid p.1 = none) →
    ∃ t, exec i s = .next t ∧ Sent s t x (waitLanes op f x lanes) ((accessParts (x.warp s) f lanes).map (fun p =>
      warpReq x (x.warp s) s.nextId (servesLanes op f x (x.warp s) p.2.2.2) p.1 p.2.1 mop f.d.toNat f.t.toNat p.2.2.1
        (uniformForm op f) (maAcquires f.ma.toNat) (acquires f) (f.mb != 0#4) (f.mb == 2#4)))

/-- 10 R257, R259, R260, 04 R77: ST sends its bytes, of lanes that name the same bytes those of the highest lane; L1 lines that
hold them take them too. A store that releases waits at the instruction until its release may be performed. -/
def Obligations.StoresSendTheirBytes : Prop :=
  (∀ (f : Fields) (s : State) (x : Iss) (lanes : List Nat),
    Issues s x 129 f → lanes = actors 129 f x (x.warp s) → lanes ≠ [] →
    (∀ l ∈ lanes, (eaM (x.warp s) l f (Machine.sizeOf f.t.toNat)).toNat % Machine.sizeOf f.t.toNat = 0) →
    holdsRelease x s (releasers 129 f x lanes) f.ma.toNat = false →
    (∀ p ∈ accessParts (x.warp s) f lanes, ∀ c,
      l1Line s x.core (x.warp s).part (x.warp s).asid p.1 = some c → c.wr = true) →
    ∃ t, exec (.st f) s = .next t ∧
      Sent s t x (waitLanes 129 f x lanes) ((accessParts (x.warp s) f lanes).map (fun p =>
        warpReq x (x.warp s) s.nextId (servesLanes 129 f x (x.warp s) p.2.2.2) p.1 p.2.1
          (.store (sliceBytes (storeBytes (x.warp s) (p.2.2.2.getLastD 0) f (Machine.sizeOf f.t.toNat)) (4 * p.2.2.1) p.2.1)) 255
          f.t.toNat 0 (uniformForm 129 f) false false (f.mb != 0#4) (f.mb == 2#4))) ∧
      (coreOf t x.core).l1 = (accessParts (x.warp s) f lanes).foldl (fun ls p => ls.map (fun c =>
        if ¬ (regionOf p.1 = .aperture ∧ (x.warp s).asid ≠ 0) ∧ isLine (x.warp s).part (atagOf (x.warp s).asid p.1) (p.1.toNat / 64) c = true then
          { c with bytes := patchBytes c.bytes (p.1.toNat % 64) (sliceBytes
            (storeBytes (x.warp s) (p.2.2.2.getLastD 0) f (Machine.sizeOf f.t.toNat)) (4 * p.2.2.1) p.2.1) }
        else c)) (coreOf s x.core).l1) ∧
  (∀ (f : Fields) (s : State) (x : Iss) (lanes : List Nat),
    Issues s x 129 f → lanes = actors 129 f x (x.warp s) → lanes ≠ [] →
    (∀ l ∈ lanes, (eaM (x.warp s) l f (Machine.sizeOf f.t.toNat)).toNat % Machine.sizeOf f.t.toNat = 0) →
    holdsRelease x s (releasers 129 f x lanes) f.ma.toNat = true → exec (.st f) s = .next { s with cur := .idle })

/-- 10 R271 to R274, R277: ATOM, ATOMC and RED send one request for each location their lanes name, with the operands of its
lanes in ascending order; STC sends one for each lane. -/
def Obligations.AtomicsSendTheirRequests : Prop :=
  ∀ (i : Instr) (f : Fields) (s : State) (x : Iss) (op dst : Nat) (apart : Bool) (mk : List (Nat × Nat × Nat) → MemOp)
    (lanes : List Nat),
    (i = .atom f ∧ op = 144 ∧ dst = f.d.toNat ∧ apart = false ∧ mk = (fun os => .atomic f.fn.toNat f.t.toNat os) ∨
     i = .atomc f ∧ op = 145 ∧ dst = f.d.toNat ∧ apart = false ∧ mk = (fun os => .atomic 9 f.t.toNat os) ∨
     i = .red f ∧ op = 146 ∧ dst = 255 ∧ apart = false ∧ mk = (fun os => .atomic f.fn.toNat f.t.toNat os) ∨
     i = .stc f ∧ op = 149 ∧ dst = f.d.toNat ∧ apart = true ∧ mk = (fun os => .stc f.t.toNat (os.map (fun o => (o.1, o.2.1))))) →
    Issues s x op f → lanes = actors op f x (x.warp s) → lanes ≠ [] →
    (∀ l ∈ lanes, (eaA (x.warp s) l f).toNat % atomBytes f.t.toNat = 0) →
    holdsRelease x s (releasers op f x lanes) f.ma.toNat = false →
    ∃ t, exec i s = .next t ∧ Sent s t x (waitLanes op f x lanes)
      ((if apart = true then lanes.map (fun l => (eaA (x.warp s) l f, [l]))
        else sameBytes (lanes.map (fun l => (l, eaA (x.warp s) l f)))).map (fun g =>
        warpReq x (x.warp s) s.nextId (servesLanes op f x (x.warp s) g.2) g.1 (atomBytes f.t.toNat)
          (mk (g.2.map (fun l => (l, srcN (x.warp s) l (tRegs f.t.toNat) f.b.toNat,
            srcN (x.warp s) l (tRegs f.t.toNat) f.c.toNat)))) dst 4 0 (uniformForm op f) (maAcquires f.ma.toNat)
          (acquires f) (f.mb != 0#4) (f.mb == 2#4)))

/-- 10 R262, 04 R78: LDC of one actor fetches its bytes through the constant cache and writes them to D. -/
def Obligations.ConstantLoadsWriteTheirBytes : Prop :=
  (∀ (f : Fields) (s t : State) (x : Iss) (l : Nat) (bs : List Byte),
    Issues s x 130 f → actors 130 f x (x.warp s) = [l] →
    (eaM (x.warp s) l f (Machine.sizeOf f.t.toNat)).toNat % Machine.sizeOf f.t.toNat = 0 →
    fetchC s x.core (x.warp s).part (x.warp s).asid .const (eaM (x.warp s) l f (Machine.sizeOf f.t.toNat)) (Machine.sizeOf f.t.toNat) =
      (.ok bs, t) →
    ∃ w', exec (.ldc f) s = .next (x.leaves t w') ∧ SameButRegs (x.warp s) w' ∧ Stepped (x.warp s) w' x.mask x.len ∧
      WroteOne 130 f (x.warp s) w' l (.ofRegs (loadRegs f (ofBytes bs)))) ∧
  (∀ (f : Fields) (s t : State) (x : Iss) (lanes : List Nat) (good : List (Nat × Nat)),
    Issues s x 130 f → uniformForm 130 f = false → lanes = guarded (x.warp s) x.mask f.g →
    (∀ l ∈ lanes, (eaM (x.warp s) l f (Machine.sizeOf f.t.toNat)).toNat % Machine.sizeOf f.t.toNat = 0) →
    ldcLanes x (x.warp s) f (Machine.sizeOf f.t.toNat) (lanes.map (fun l => (l, eaM (x.warp s) l f (Machine.sizeOf f.t.toNat)))) s =
      ((good, []), t) →
    ∃ w', exec (.ldc f) s = .next (x.leaves t w') ∧ SameButRegs (x.warp s) w' ∧ Stepped (x.warp s) w' x.mask x.len ∧
      SameUniform (x.warp s) w' ∧
      WroteLanes (x.warp s) w' lanes (fun l => .ofRegs (loadRegs f ((lookup good l).getD 0))))

/-- 10 R265: PREF sends a request for each line its lanes name and steps; nothing waits for it. -/
def Obligations.PrefSendsItsLines : Prop :=
  ∀ (f : Fields) (s : State) (x : Iss) (vas : List VA),
    Issues s x 135 f → vas = (sameBytes ((actors 135 f x (x.warp s)).map (fun l =>
      (l, BitVec.ofNat 57 ((eaM (x.warp s) l f 1).toNat / 64 * 64))))).map (·.1) →
    ∃ t, exec (.pref f) s = .next t ∧ OnlyStepped (x.warp s) (x.warp t) x.mask x.len ∧ Undisturbed s t ∧ SameGroups s t ∧
      t.nextId = s.nextId + vas.length ∧ ∀ k, lookup t.reqs k = if s.nextId ≤ k ∧ k < s.nextId + vas.length then
        vas[k - s.nextId]?.map (fun va => warpReq x (x.warp s) 0 0#32 va 64 .pref 255 4 0 false false false (f.mb != 0#4) (f.mb == 2#4))
      else lookup s.reqs k

/-- 10 R266: CCTL removes the lines that its lanes name, or every line, from the cache it names, and no other line. -/
def Obligations.CctlRemovesItsLines : Prop :=
  ∀ (f : Fields) (s : State) (x : Iss) (keep : CLine → Bool),
    Issues s x 136 f →
    (wbit f.t 2 = true ∧ keep = (fun _ => false) ∧
       (if guardP f.g = true then guarded (x.warp s) x.mask f.g ≠ [] else guardUni (x.warp s) f.g = true) ∨
     wbit f.t 2 = false ∧ keep = (fun c => (actors 136 f x (x.warp s)).all (fun l => !isLine (x.warp s).part
       (atagOf (x.warp s).asid (eaM (x.warp s) l f 1)) ((eaM (x.warp s) l f 1).toNat / 64) c))) →
    ∃ t, exec (.cctl f) s = .next t ∧ OnlyStepped (x.warp s) (x.warp t) x.mask x.len ∧ Undisturbed s t ∧ SameGroups s t ∧
      (coreOf t x.core).l1 = (if fld f.t 0 2 = 0 then (coreOf s x.core).l1.filter keep else (coreOf s x.core).l1) ∧
      (coreOf t x.core).kc = (if fld f.t 0 2 = 1 then (coreOf s x.core).kc.filter keep else (coreOf s x.core).kc) ∧
      (coreOf t x.core).ic = (if 2 ≤ fld f.t 0 2 then (coreOf s x.core).ic.filter keep else (coreOf s x.core).ic)

/-- 10 R257, 17 R444: an address that is not a multiple of the access size is the misaligned trap of the lanes that name it,
with the address of the lowest; no access is made. -/
def Obligations.MisalignedAddressesTrap : Prop :=
  ∀ (i : Instr) (f : Fields) (s : State) (x : Iss) (op size : Nat) (ea : Nat → VA) (bad : List Nat) (l : Nat),
    (((i = .ld f ∧ op = 128 ∨ i = .st f ∧ op = 129 ∨ i = .ldc f ∧ op = 130 ∨ i = .ldsp f ∧ op = 131 ∨ i = .stsp f ∧ op = 132 ∨
       i = .ldq f ∧ op = 133 ∨ i = .stq f ∧ op = 134 ∧ holdsRelease x s (releasers 134 f x
         (actors 134 f x (x.warp s))) f.ma.toNat = false ∨ i = .ldr f ∧ op = 148) ∧
      size = Machine.sizeOf f.t.toNat ∧ ea = (fun l => eaM (x.warp s) l f size)) ∨
     ((i = .atom f ∧ op = 144 ∨ i = .atomc f ∧ op = 145 ∨ i = .red f ∧ op = 146 ∨ i = .atomsp f ∧ op = 147 ∨
       i = .stc f ∧ op = 149) ∧ size = atomBytes f.t.toNat ∧ ea = (fun l => eaA (x.warp s) l f))) →
    Issues s x op f → bad = (actors op f x (x.warp s)).filter (fun l => (ea l).toNat % size != 0) → bad.head? = some l →
    HandlerReady (x.warp s) →
    ∃ w', exec i s = .next (x.leaves s w') ∧ TrapEntered (x.warp s) w' (x.trapOf 4 0
      (if uniformForm op f = true then x.mask else laneMask (fun k => bad.contains k)) 0 ((ea l).setWidth 64))

/-! ### Scratchpads, barriers, semaphores, engines' rings -/

/-- 10 R263, R264, 05 R108, R110: LDSP and LDQ write the bytes of the scratchpads that their lanes name; LDQ with code 3, where
a lane acts, then empties the L1. -/
def Obligations.ScratchpadLoadsWriteTheirBytes : Prop :=
  ∀ (i : Instr) (f : Fields) (s : State) (x : Iss) (op : Nat) (quad : Bool) (q : LaneForm) (place : Nat → Nat × Nat × Nat),
    (i = .ldsp f ∧ op = 131 ∧ quad = false ∨ i = .ldq f ∧ op = 133 ∧ quad = true) → Issues s x op f →
    (∀ l ∈ actors op f x (x.warp s),
      (eaM (x.warp s) l f (Machine.sizeOf f.t.toNat)).toNat % Machine.sizeOf f.t.toNat = 0 ∧
      spadTarget x s quad (eaM (x.warp s) l f (Machine.sizeOf f.t.toNat)).toNat (Machine.sizeOf f.t.toNat) = some (place l) ∧
      ∃ g, groupAt s (place l).1 (place l).2.1 = some g ∧ spadBad g (place l).2.2 (Machine.sizeOf f.t.toNat) = false) →
    q = ⟨op, f, fun _ l => .ofRegs (loadRegs f (ofBytes ((List.range (Machine.sizeOf f.t.toNat)).map (fun j =>
      (spadByte s (place l).1 (place l).2.1 ((place l).2.2 + j)).getD 0#8))))⟩ →
    ∃ t, exec i s = .next t ∧ LaneEffect (x.warp s) x q (x.warp t) ∧ Undisturbed s t ∧ SameGroups s t ∧
      (coreOf t x.core).l1 = if i = .ldq f ∧ f.ma = 3#4 ∧ actors op f x (x.warp s) ≠ [] then [] else (coreOf s x.core).l1

/-- 10 R263, R264: STSP and STQ leave in each byte of a scratchpad that some lane names that of the highest such lane, and every
other byte as it was. That the highest lane wins byte by byte, where stores narrower than a word overlap in part, is the model's
own choice (log 35). -/
def Obligations.ScratchpadStoresLeaveTheirBytes : Prop :=
  ∀ (i : Instr) (f : Fields) (s : State) (x : Iss) (op : Nat) (quad : Bool) (lanes : List Nat),
    (i = .stsp f ∧ op = 132 ∧ quad = false ∨
     i = .stq f ∧ op = 134 ∧ quad = true ∧ holdsRelease x s (releasers 134 f x lanes) f.ma.toNat = false) →
    Issues s x op f → lanes = actors op f x (x.warp s) →
    (∀ l ∈ lanes, (eaM (x.warp s) l f (Machine.sizeOf f.t.toNat)).toNat % Machine.sizeOf f.t.toNat = 0 ∧
      (spadTarget x s quad (eaM (x.warp s) l f (Machine.sizeOf f.t.toNat)).toNat (Machine.sizeOf f.t.toNat)).isSome = true) →
    ∃ t, exec i s = .next t ∧ OnlyStepped (x.warp s) (x.warp t) x.mask x.len ∧ Undisturbed s t ∧ SameButSpad s t ∧
      ∀ c k o, (groupAt s c k).isSome = true →
        spadByte t c k o = (storedByte f x s quad lanes c k o).or (spadByte s c k o)

/-- 10 R271, R275: ATOMSP performs its lanes one after another on the locations they name: each gets the value before it, and
the location keeps the last. -/
def Obligations.ScratchpadAtomicsRunInLaneOrder : Prop :=
  ∀ (f : Fields) (s : State) (x : Iss) (g n : Nat) (y : Group) (lanes : List Nat) (ea : Nat → Nat)
    (before : Nat → List Nat) (at_ : Nat → Nat) (q : LaneForm),
    Issues s x 147 f → lanes = actors 147 f x (x.warp s) → n = atomBytes f.t.toNat → ea = (fun l => (eaA (x.warp s) l f).toNat) →
    (x.warp s).gslot = some g → groupAt s x.core g = some y →
    (∀ l ∈ lanes, ea l % n = 0 ∧ ea l + n ≤ 256 * y.rec_.spad ∧ spadBad y (ea l) n = false) →
    before = (fun l => (lanes.takeWhile (fun k => k != l)).filter (fun k => ea k == ea l)) →
    at_ = (fun a => ofBytes ((List.range n).map (fun j => (spadByte s x.core g (a + j)).getD 0#8))) →
    q = ⟨147, f, fun w l => .ofRegs (dstWords f.d.toNat f.t.toNat (atomRun f w (before l) (at_ (ea l))))⟩ →
    ∃ t, exec (.atomsp f) s = .next t ∧ LaneEffect (x.warp s) x q (x.warp t) ∧ Undisturbed s t ∧ SameButSpad s t ∧
      ∀ c k o, (groupAt s c k).isSome = true → spadByte t c k o =
        if c = x.core ∧ k = g ∧ (∃ l ∈ lanes, ea l = o / n * n) then
          some (nthD 0#8 (toBytes n (atomRun f (x.warp s) (lanes.filter (fun l => ea l == o / n * n)) (at_ (o / n * n)))) (o % n))
        else spadByte s c k o

/-- 10 R280, R281, R260, 12 R322: FENCE and FENCEX wait until their release may be performed and, where they order later accesses,
until their earlier loads have returned; then they empty the L1 where they acquire at QUAD scope or wider, and step. -/
def Obligations.FencesWaitThenStep : Prop :=
  ∀ (i : Instr) (f : Fields) (s : State) (x : Iss) (op : Nat) (lanes : List Nat) (hold acq : Bool),
    (i = .fence f ∧ op = 152 ∧ acq = maAcquires f.ma.toNat ∧ hold = (holdsRelease x s lanes f.ma.toNat ||
       acq && !valuesBack s x.core x.wslot (laneMask (fun l => lanes.contains l))) ∨
     i = .fencex f ∧ op = 153 ∧ acq = wbit f.c 0 ∧ hold = (wbit f.b 0 && holdsRelease x s lanes f.ma.toNat ||
       !valuesBack s x.core x.wslot (laneMask (fun l => lanes.contains l)))) →
    Issues s x op f → lanes = fenceLanes x (x.warp s) f.g →
    (lanes ≠ [] → hold = true → exec i s = .next { s with cur := .idle }) ∧
    (lanes = [] ∨ hold = false → ∃ t, exec i s = .next t ∧ JustStepped s t x ∧
      (coreOf t x.core).l1 =
        if lanes ≠ [] ∧ acq = true ∧ 2 ≤ maScope f.ma.toNat then [] else (coreOf s x.core).l1)

/-- 10 R283, R285: at BAR.grp the guarded lanes wait until every thread of the group that has not ended has arrived; then all
that wait stand at the next instruction. -/
def Obligations.GroupBarrierHoldsUntilAllArrive : Prop :=
  ∀ (f : Fields) (s : State) (x : Iss) (g : Nat) (y : Group) (lanes keys : List Nat),
    Issues s x 154 f → x.len = 8 → (x.warp s).hmode = false → hasPassed (x.warp s) x.mask = false → (x.warp s).isCont = false →
    (x.warp s).clOpen = false → (x.warp s).gslot = some g → groupAt s x.core g = some y →
    lanes = guarded (x.warp s) x.mask f.g → lanes ≠ [] → keys = y.gbar ++ lanes.map (fun l => x.wslot * 32 + l) →
    releaseReady s x.core x.wslot (laneMask (fun l => lanes.contains l)) 1 = true →
    ((∃ k ∈ groupThreads (coreOf s x.core) g, k ∉ keys) →
      ∃ t, exec (.barGrp f) s = .next t ∧ groupAt t x.core g = some { y with gbar := keys } ∧ Undisturbed s t ∧
        ∀ l, lookup (x.warp t).lanes l = (lookup (x.warp s).lanes l).map (fun u =>
          if l ∈ lanes then { u with wait := .barGrp }
          else if l < 32 ∧ x.mask.getLsbD l = true then u.past 8 else u)) ∧
    ((∀ k ∈ groupThreads (coreOf s x.core) g, k ∈ keys) →
      ∃ t, exec (.barGrp f) s = .next t ∧ groupAt t x.core g = some { y with gbar := [] } ∧ Undisturbed s t ∧
        ∀ ws w, warpAt? s x.core ws = some w → w.gslot = some g → ∀ l,
          (lookup (warpAt t x.core ws).lanes l).map Lane.unseen = (lookup w.lanes l).map (fun u => Lane.unseen
            (if ws = x.wslot ∧ l ∈ lanes then releaseLane 8 u
             else if ws = x.wslot ∧ l < 32 ∧ x.mask.getLsbD l = true then u.past 8
             else if u.wait = .barGrp then releaseLane 8 u else u)))

/-- 10 R282, R284, 05 R129: an arrival at a barrier object updates its 8 bytes; the post forms write the phase before it and
step, the meet forms wait unless it completes the phase; a completed phase releases the lanes that wait for it. -/
def Obligations.BarrierObjectsCountArrivals : Prop :=
  (∀ (i : Instr) (f : Fields) (s : State) (x : Iss) (op : Nat) (quad bytes post : Bool) (tg : Nat × Nat × Nat) (v v' : Nat),
    (i = .barMeet f ∧ op = 154 ∧ quad = false ∧ bytes = false ∧ post = false ∨
     i = .barPost f ∧ op = 154 ∧ quad = false ∧ bytes = false ∧ post = true ∨
     i = .barxMeet f ∧ op = 155 ∧ quad = false ∧ bytes = true ∧ post = false ∨
     i = .barxPost f ∧ op = 155 ∧ quad = false ∧ bytes = true ∧ post = true ∨
     i = .qbarMeet f ∧ op = 156 ∧ quad = true ∧ bytes = true ∧ post = false ∨
     i = .qbarPost f ∧ op = 156 ∧ quad = true ∧ bytes = true ∧ post = true) →
    WellFormed i = true → Issues s x op f → (x.warp s).hmode = false → guardUni (x.warp s) f.g = true →
    (∀ l u, x.mask.getLsbD l = true → lookup (x.warp s).lanes l = some u → u.wait = .none) →
    findObj x s quad (rread (x.warp s) 0 f.a.toNat) = .ok (tg, v) →
    releaseReady s x.core x.wslot x.mask (if quad then 2 else 1) = true →
    v' = objUpdate v (if bytes then sxt (nbits (rread (x.warp s) 0 f.b.toNat) 0 24) 24 else 0) true →
    ∃ t, exec i s = .next t ∧ Undisturbed s t ∧ SameButSpad s t ∧
      (∀ c k o, spadByte t c k o =
        if c = tg.1 ∧ k = tg.2.1 ∧ tg.2.2 ≤ o ∧ o < tg.2.2 + 8 then some (nthD 0#8 (toBytes 8 v') (o - tg.2.2))
        else spadByte s c k o) ∧
      (post = true → SameLanes (x.warp s) (x.warp t) ∧
        WroteUniform (x.warp s) (x.warp t) (.ofRegs [(f.d.toNat, if objPhase v then 1 else 0)])) ∧
      (∀ l, x.mask.getLsbD l = true → l < 32 → (lookup (x.warp t).lanes l).map Lane.unseen =
        (lookup (x.warp s).lanes l).map (fun u => Lane.unseen (if post = true ∨ objPhase v' ≠ objPhase v then u.past x.len
          else { u with wait := .barObj quad (rread (x.warp s) 0 f.a.toNat) (objPhase v) }))) ∧
      (∀ c ws w l u, warpAt? s c ws = some w → lookup w.lanes l = some u → (c, ws) ≠ (x.core, x.wslot) →
        (lookup (warpAt t c ws).lanes l).map Lane.unseen = some (Lane.unseen (if objPhase v' ≠ objPhase v ∧ (match w.gslot with
            | some k => (match groupAt s c k with
              | some own => waitsFor own c k tg.1 tg.2.1 tg.2.2 (objPhase v) u.wait
              | none => false)
            | none => false) = true then releaseLane 8 u else u)))) ∧
  (∀ (f : Fields) (s : State) (x : Iss) (tg : Nat × Nat × Nat) (v : Nat),
    Issues s x 154 f → (x.warp s).hmode = false → (x.warp s).gslot.isSome = true → guardUni (x.warp s) f.g = true →
    hasPassed (x.warp s) x.mask = false → findObj x s false (rread (x.warp s) 0 f.a.toNat) = .ok (tg, v) →
    ∃ w', exec (.barAwait f) s = .next (x.leaves s w') ∧
      if objPhase v = nbit (rread (x.warp s) 0 f.b.toNat) 0 then
        { w' with lanes := (x.warp s).lanes } = x.warp s ∧
        ∀ l, lookup w'.lanes l = (lookup (x.warp s).lanes l).map (fun u => if l < 32 ∧ x.mask.getLsbD l = true then
          { u with wait := .barObj false (rread (x.warp s) 0 f.a.toNat) (objPhase v) } else u)
      else OnlyStepped (x.warp s) w' x.mask x.len)

/-- 10 R286, 05 R111, R112: SEMADD adds to a semaphore within 0 to 65535 and answers its new value, SEMRD answers its value,
SEMWAIT answers it once it reaches the threshold and stays at the instruction before; semaphore 0 keeps its value. -/
def Obligations.SemaphoresCountWithinTheirRange : Prop :=
  (∀ (f : Fields) (s : State) (x : Iss) (g : Nat) (y : Group),
    Issues s x 161 f → guardUni (x.warp s) f.g = true → (x.warp s).gslot = some g → groupAt s x.core g = some y →
    0 < rread (x.warp s) 0 f.a.toNat → rread (x.warp s) 0 f.a.toNat ≤ y.rec_.sems →
    getD 0 y.sem (rread (x.warp s) 0 f.a.toNat) < nbits (rawB (x.warp s) 0 f 1) 0 16 →
    exec (.semwait f) s = .next { s with cur := .idle }) ∧
  ∀ (i : Instr) (f : Fields) (s : State) (x : Iss) (op g k : Nat) (y : Group) (old new : Nat) (sems : SMap Nat),
    (i = .semadd f ∧ op = 160 ∧ sems = (if k = 0 then y.sem else setD 0 y.sem k new) ∧ new = (if k = 0 then 65535 else
      (max 0 (min 65535 ((old : Int) + (if f.t = 0 then sxt (nbits (rawB (x.warp s) 0 f 1) 0 16) 16
        else (nbits (rawB (x.warp s) 0 f 1) 0 16 : Nat))))).toNat) ∨
     i = .semrd f ∧ op = 162 ∧ sems = y.sem ∧ new = old ∨
     i = .semwait f ∧ op = 161 ∧ sems = y.sem ∧ new = old ∧ nbits (rawB (x.warp s) 0 f 1) 0 16 ≤ old) →
    WellFormed i = true → Issues s x op f → guardUni (x.warp s) f.g = true → k = rread (x.warp s) 0 f.a.toNat →
    (x.warp s).gslot = some g → groupAt s x.core g = some y → k ≤ y.rec_.sems →
    old = (if k = 0 then 65535 else getD 0 y.sem k) →
    ∃ t, exec i s = .next t ∧ SameButRegs (x.warp s) (x.warp t) ∧ Stepped (x.warp s) (x.warp t) x.mask x.len ∧
      SameLanes (x.warp s) (x.warp t) ∧ WroteUniform (x.warp s) (x.warp t) (.ofRegs [(f.d.toNat, new)]) ∧ Undisturbed s t ∧
      ∀ c j, groupAt t c j = if (c, j) = (x.core, g) then some { y with sem := sems } else groupAt s c j

/-- 10 R287, 05 R115: ENQ puts the words of a command into the ring behind TAIL, advances TAIL by their number, and leaves every
other byte; with too little room the path stays and holds its warp. -/
def Obligations.EnqPutsACommandIntoItsRing : Prop :=
  ∀ (f : Fields) (s : State) (x : Iss) (g ring a n : Nat) (y : Group) (e : Entry),
    Issues s x 163 f → guardUni (x.warp s) f.g = true → ring = f.fn.toNat % 4 →
    (x.warp s).gslot = some g → groupAt s x.core g = some y → a = rread (x.warp s) 0 f.a.toNat → a % 8 = 0 →
    n = nbits (ofBytes (spadRead y a 8)) 32 8 + 1 → a + 8 * n ≤ 256 * y.rec_.spad → y.spadErr = [] →
    e = ringEntry y ring → entryOk y e = true → n ≤ 2 ^ e.log2w →
    (2 ^ e.log2w < sub32 e.tail e.head + n →
      exec (.enq f) s = .next (x.leaves s { x.warp s with enqAt := some x.mask })) ∧
    (sub32 e.tail e.head + n ≤ 2 ^ e.log2w →
      ∃ t, exec (.enq f) s = .next t ∧ (x.warp t).enqAt = none ∧ Undisturbed s t ∧
        OnlyStepped (x.warp s) { x.warp t with enqAt := (x.warp s).enqAt } x.mask x.len ∧
        ∀ c k o, spadByte t c k o =
          if (c, k) = (x.core, g) then
            (if 32 * ring + 8 ≤ o ∧ o < 32 * ring + 12 then some (nthD 0#8 (toBytes 4 (e.tail + n)) (o - (32 * ring + 8)))
             else match (List.range n).find? (fun j => o / 8 == e.base + (e.tail + j) % 2 ^ e.log2w) with
               | some j => spadByte s c k (a + 8 * j + o % 8)
               | none => spadByte s c k o)
          else spadByte s c k o)

/-! ### Completion bitmaps, promotion, texture and rays -/

/-- 10 R291, R292, R272: DONE sets its lanes' bits one after another, each by an atomic at the bit's home slice of which the core's
own L1 line takes the new value; the lanes of TILEWAIT whose bits are 1 step, the L1 emptied, and those whose bits are 0 stay. That
both are performed in the step of their instruction, and that a bit in a block of which the core has a request in flight counts as
0, are the model's own choices (logs 32, 9). -/
def Obligations.CompletionBitsAreSetAndAwaited : Prop :=
  (∀ (f : Fields) (s : State) (x : Iss) (lanes : List Nat) (ix : Nat → Nat) (va : Nat → VA) (v : Nat → State)
    (n : Nat → List Byte),
    Issues s x 166 f → lanes = guarded (x.warp s) x.mask f.g → lanes ≠ [] → ix = (fun l => rread (x.warp s) l f.a.toNat) →
    (∀ l ∈ lanes, ix l < (x.warp s).rec_.bmlen) → va = (fun l => (x.warp s).rec_.bmaddr + BitVec.ofNat 57 (ix l / 8)) →
    releaseReady s x.core x.wslot (laneMask (fun l => lanes.contains l)) 3 = true → v 0 = s →
    (∀ k l, lanes[k]? = some l → ∃ u,
      homeRmw (v k) (warpWho x.core (x.warp s)) .rw (va l) 1 [threadKey x.core x.wslot l] (fun bs =>
        (toBytes 1 (ofBytes bs ||| 2 ^ (ix l % 8)), toBytes 1 (ofBytes bs ||| 2 ^ (ix l % 8)))) = (.ok (n k), u) ∧
      v (k + 1) = l1Patch (markNoFill u x.core (x.warp s).part (atagOf (x.warp s).asid (va l)) ((va l).toNat / 64))
        x.core (x.warp s).part (atagOf (x.warp s).asid (va l)) (va l) (n k)) →
    ∃ t, exec (.doneBit f) s = .next t ∧ OnlyStepped (x.warp s) (x.warp t) x.mask x.len ∧ Undisturbed (v lanes.length) t ∧
      SameGroups s t ∧ (coreOf t x.core).l1 = (coreOf (v lanes.length) x.core).l1) ∧
  (∀ (f : Fields) (s : State) (x : Iss) (lanes stay : List Nat) (ix : Nat → Nat) (va : Nat → VA) (v : Nat → State)
    (b : Nat → Byte),
    Issues s x 167 f → lanes = guarded (x.warp s) x.mask f.g → (x.warp s).hmode = false →
    ix = (fun l => rread (x.warp s) l f.a.toNat) →
    va = (fun l => BitVec.ofNat 57 (rawB (x.warp s) l f 2) + BitVec.ofNat 57 (ix l / 8)) → v 0 = s →
    (∀ k l, lanes[k]? = some l →
      if blockBusy (v k) x.core (x.warp s).part (atagOf (x.warp s).asid (va l)) ((va l).toNat / 128) = true
      then b l = 0#8 ∧ v (k + 1) = v k
      else homeRead (v k) (warpWho x.core (x.warp s)) .rd (va l) 1 = (.ok [b l], v (k + 1))) →
    stay = lanes.filter (fun l => !(b l).getLsbD (ix l % 8)) →
    ∃ t, exec (.tilewait f) s = .next t ∧ Undisturbed (v lanes.length) t ∧ SameGroups s t ∧
      OnlyStepped (x.warp s) (x.warp t) (x.mask &&& ~~~laneMask (fun l => stay.contains l)) x.len ∧
      (coreOf t x.core).l1 = if stay = lanes then (coreOf s x.core).l1 else [])

/-- 10 R267 to R270: PROMOTE and DEMOTE hand their range to the core's unit and step; when it completes D takes the outcome of
the rows and their number, and the semaphore is incremented. -/
def Obligations.PromotionsRunToCompletion : Prop :=
  (∀ (i : Instr) (f : Fields) (s : State) (x : Iss) (op : Nat) (prom : Bool) (sems : Nat),
    (i = .promote f ∧ op = 137 ∧ prom = true ∨ i = .demote f ∧ op = 138 ∧ prom = false) → Issues s x op f →
    guardUni (x.warp s) f.g = true → 0 < rawB (x.warp s) 0 f 1 → rawB (x.warp s) 0 f 1 ≤ 67108864 →
    sems = (match (x.warp s).gslot with
      | some g => (match groupAt s x.core g with | some y => y.rec_.sems | none => 0)
      | none => 0) → f.c.toNat ≤ sems →
    ∃ t, exec i s = .next t ∧ JustStepped s t x ∧ t.nextId = s.nextId + 1 ∧
      ∀ k, lookup (coreOf t x.core).units k = if k = s.nextId then some
        { part := (x.warp s).part, asid := (x.warp s).asid, gslot := (x.warp s).gslot, grid := (x.warp s).grid,
          op := .promote x.wslot f.d.toNat (BitVec.ofNat 57 (rread2 (x.warp s) 0 f.a.toNat)) (rawB (x.warp s) 0 f 1)
            (f.fn.toNat % 4) f.c.toNat prom }
        else lookup (coreOf s x.core).units k) ∧
  (∀ (s u v : State) (core uid g ws dst len pri sem oc n : Nat) (va : VA) (prom : Bool) (job : UnitJob)
    (rows : List (Option (Nat × Nat × Nat))) (w : Warp) (y : Group),
    lookup (coreOf s core).units uid = some job → job.op = .promote ws dst va len pri sem prom → job.gslot = some g →
    groupAt s core g = some y → warpAt? s core ws = some w → AllLive s core →
    rowsOf job.part job.asid ((va.toNat + len - 1) / 128 - va.toNat / 128 + 1) (va.toNat / 128) s [] = (rows, u) →
    promoteRows prom pri rows u 15 0 = ((oc, n), v) →
    ∃ t, exec (.promoteCompletion core uid) s = .next t ∧
      warpAt? t core ws = some (rwrite w 0 dst (oc * 2 ^ 28 + min n 0xFFFFFF)) ∧
      (groupAt t core g).map (·.sem) = some (semAdd y sem 1).sem ∧ lookup (coreOf t core).units uid = none)

/-- 10 R288, R289, R290, 13 R352, R353, R358: TEX hands the samples of its lanes to the unit and steps; TEX.C and TRACE leave
records that are not ready, and end their lanes; a traversal takes its reads one after another; when the unit answers, the words
go to D or into the record. A ray at its warp's depth is answered at once and traces nothing. The model's own choices: a sample
reads memory when its instruction issues (log 27), a level of detail that is NaN gives level 0 (log 28), TRACE looks ahead over the
scene for refused reads, and a ray whose later read is refused ends with the words of that look where its warp can't be charged
(log 29), and the records of TEX.C and TRACE have FREE = 0 (log 30). -/
def Obligations.SamplesAndRaysAnswerLater : Prop :=
  (∀ (f : Fields) (s u : State) (x : Iss) (good : List (Nat × List Nat)),
    Issues s x 164 f →
    texLanes x.core (x.warp s) f (fun l => BitVec.ofNat 57 (rawB (x.warp s) l f 2))
      (texSet x (x.warp s) (actors 164 f x (x.warp s))) (actors 164 f x (x.warp s)) s = ((good, []), u) →
    (∀ e ∈ good, e.2 ≠ []) →
    ∃ t, exec (.tex f) s = .next t ∧ OnlyStepped (x.warp s) (x.warp t) x.mask x.len ∧ Undisturbed u t ∧
      ∀ k, lookup (coreOf t x.core).units k =
        if s.nextId ≤ k ∧ k < s.nextId + good.length then good[k - s.nextId]?.map (fun e =>
          { part := (x.warp s).part, asid := (x.warp s).asid, gslot := (x.warp s).gslot, grid := (x.warp s).grid,
            op := .tex x.wslot e.1 f.d.toNat e.2 })
        else lookup (coreOf s x.core).units k) ∧
  (∀ (f : Fields) (s u : State) (x : Iss) (good : List (Nat × List Nat)) (lanes : List Nat) (gone : Word),
    lanes = guarded (x.warp s) x.mask f.g → gone = laneMask (fun l => lanes.contains l) → lanes ≠ [] →
    texLanes x.core (x.warp s) f (fun l => pairVA (x.warp s) l f.c.toNat) (texSet x (x.warp s) lanes) lanes s = ((good, []), u) →
    (∀ e ∈ good, e.2 ≠ []) → Issues s x 164 f → wbit f.fn 3 = true → clasped (x.warp s) = false → NoWarpEnds s x gone →
    NoBarrierWaits s x → (coreOf s x.core).contq.length + lanes.length ≤ contQueueSize →
    ∃ t recs, exec (.texC f) s = .next t ∧ (coreOf t x.core).contq = (coreOf s x.core).contq ++ recs ∧
      recs.map ContRec.plain = good.map (fun e => (unitRecord f x (x.warp s) e.1 2 (if f.t = 8#4 then 4 else 2)
        (laneLevel (x.warp s) e.1) none).plain) ∧
      (∀ p ∈ recs.zip good, ∃ k, (lookup (coreOf t x.core).units k).map (·.op) = some (.texC p.1.uid p.2.2)) ∧
      ThreadsEnded (x.warp s) (x.warp t) x.mask gone x.len) ∧
  (∀ (f : Fields) (s u : State) (x : Iss) (good : List (Nat × Option RayJob)) (lanes : List Nat) (gone : Word) (deep : Bool),
    lanes = guarded (x.warp s) x.mask f.g → gone = laneMask (fun l => lanes.contains l) → lanes ≠ [] →
    traceLanes x (x.warp s) f lanes s = ((good, []), u) →
    (∀ l ∈ lanes, deep = decide ((x.warp s).rec_.depth ≤ laneLevel (x.warp s) l)) →
    Issues s x 165 f → clasped (x.warp s) = false → NoWarpEnds s x gone → NoBarrierWaits s x →
    (coreOf s x.core).contq.length + lanes.length ≤ contQueueSize →
    ∃ t recs, exec (.trace f) s = .next t ∧ (coreOf t x.core).contq = (coreOf s x.core).contq ++ recs ∧
      recs.map ContRec.plain = lanes.map (fun l => (unitRecord f x (x.warp s) l 1 4
        (laneLevel (x.warp s) l + if deep then 0 else 1) (if deep then some [3, 0, 0, 0] else none)).plain) ∧
      (if deep then (coreOf t x.core).units = (coreOf s x.core).units
       else ∀ p ∈ recs.zip good, ∃ k ws, p.2.2 = some { laneRay x (x.warp s) f p.2.1 with old := ws } ∧
         (lookup (coreOf t x.core).units k).map (·.op) =
           some (.ray p.1.uid { laneRay x (x.warp s) f p.2.1 with old := ws })) ∧
      ThreadsEnded (x.warp s) (x.warp t) x.mask gone x.len) ∧
  (∀ (s u : State) (core uid r : Nat) (job : UnitJob) (j j' : RayJob) (who : Who),
    lookup (coreOf s core).units uid = some job → job.op = .ray r j → j.res = none →
    who = { part := job.part, asid := job.asid, path := .X, ap := false, core := some core } →
    rayStep who (kindsOf s core who job.grid) j s = (.ok j', u) →
    ∃ t, exec (.traceResult core uid) s = .next t ∧ Undisturbed u t ∧ SameGroups s t ∧
      (∀ k, lookup (coreOf t core).units k = if k = uid then some { job with op := .ray r j' }
        else lookup (coreOf s core).units k) ∧
      ∀ c k, warpAt? t c k = warpAt? s c k) ∧
  (∀ (s u : State) (core uid r : Nat) (job : UnitJob) (j : RayJob) (who : Who) (e : VA × AccErr) (words : List Nat),
    lookup (coreOf s core).units uid = some job → job.op = .ray r j → j.res = none →
    who = { part := job.part, asid := job.asid, path := .X, ap := false, core := some core } →
    rayStep who (kindsOf s core who job.grid) j s = (.error e, u) → j.old = some words →
    (∀ src, j.src = some src → chargeable u core r src = false) →
    ∃ t, exec (.traceResult core uid) s = .next t ∧ lookup (coreOf t core).units uid = none ∧
      (coreOf t core).contq.map ContRec.plain = (coreOf s core).contq.map (fun c =>
        if c.uid = r ∧ c.rdy = false then
          { c.plain with pay := c.pay.take c.npay ++ words.map (BitVec.ofNat 32), rdy := true }
        else c.plain)) ∧
  (∀ (s : State) (core uid ws lane dst : Nat) (words : List Nat) (job : UnitJob) (w : Warp),
    lookup (coreOf s core).units uid = some job → job.op = .tex ws lane dst words → AllLive s core →
    warpAt? s core ws = some w →
    ∃ t, exec (.texSampleReturn core uid) s = .next t ∧ lookup (coreOf t core).units uid = none ∧
      warpAt? t core ws = some (if dst = 255 then w else (words.zipIdx).foldl (fun w e => rwrite w lane (dst + e.2) e.1) w)) ∧
  (∀ (i : Instr) (s : State) (core uid r : Nat) (words : List Nat) (job : UnitJob),
    lookup (coreOf s core).units uid = some job →
    (i = .texSampleReturn core uid ∧ job.op = .texC r words ∨
     i = .traceResult core uid ∧ ∃ j, job.op = .ray r j ∧ j.res = some words) →
    ∃ t, exec i s = .next t ∧ lookup (coreOf t core).units uid = none ∧
      (coreOf t core).contq.map ContRec.plain = (coreOf s core).contq.map (fun c =>
        if c.uid = r ∧ c.rdy = false then
          { c.plain with pay := c.pay.take c.npay ++ words.map (BitVec.ofNat 32), rdy := true }
        else c.plain))

/-! ### The matrix engine -/

/-- 11 R293, R296 to R309, R315: a matrix instruction puts its entry, with the operands it read, at the end of the queue of its
quadrant's slice and steps; a queue of 8 entries stalls it. -/
def Obligations.MatrixInstructionsJoinTheirQueue : Prop :=
  ∀ (i : Instr) (s : State) (x : Iss) (op q : Nat) (f : Fields) (e : QEntry),
    matrixEntry x s i = some (op, f, e) → Issues s x op f → q = (x.warp s).quadrant →
    ((sliceQ s x.core q).length < 8 → ∃ t, exec i s = .next t ∧ JustStepped s t x ∧ t.nextId = s.nextId + 1 ∧
      (∀ k, sliceQ t x.core k = if k = q then sliceQ s x.core q ++ [{ e with num := s.nextId }] else sliceQ s x.core k)) ∧
    (8 ≤ (sliceQ s x.core q).length → exec i s = .next { s with cur := .idle })

/-- 11 R306, R307, R310, R311, R303: ACCRD writes eight columns of its tile once the tile has no entry outstanding; MWAIT steps
once nothing of the warp is outstanding and stays before; MSTAT writes the status word; PLOAD waits for its blocks. -/
def Obligations.MatrixStateIsReadAndAwaited : Prop :=
  (∀ (f : Fields) (s : State) (x : Iss) (src wset : List Nat),
    WellFormed (.accrd f) = true → Issues s x 178 f → collSets (x.warp s) x f = some (src, wset) →
    ((warpEntries s x.core x.wslot).any (fun e => e.names f.a.toNat) = true → exec (.accrd f) s = .next { s with cur := .idle }) ∧
    ((warpEntries s x.core x.wslot).any (fun e => e.names f.a.toNat) = false →
      (x.warp s).errorOf f.a.toNat = none →
      ∃ w', exec (.accrd f) s = .next (x.leaves s w') ∧ SameButRegs (x.warp s) w' ∧ Stepped (x.warp s) w' x.mask x.len ∧
        SameUniform (x.warp s) w' ∧ WroteLanes (x.warp s) w' wset (fun l => .ofRegs ((List.range 8).map (fun k =>
          (f.d.toNat + k, tileGet (x.warp s) f.a.toNat l (8 * (f.fn.toNat % 4) + k))))))) ∧
  (∀ (f : Fields) (s : State) (x : Iss),
    Issues s x 181 f → guardUni (x.warp s) f.g = true →
    ((x.warp s).err = false ∧ warpEntries s x.core x.wslot = [] ∧ (x.warp s).rows = [] →
      ∃ w', exec (.mwait f) s = .next (x.leaves s w') ∧ OnlyStepped (x.warp s) w' x.mask x.len) ∧
    (warpEntries s x.core x.wslot ≠ [] ∨ (x.warp s).rows ≠ [] → exec (.mwait f) s = .next { s with cur := .idle })) ∧
  (∀ (f : Fields) (s : State) (x : Iss) (es : List QEntry),
    WellFormed (.mstat f) = true → Issues s x 184 f → guardUni (x.warp s) f.g = true → es = warpEntries s x.core x.wslot →
    ∃ w', exec (.mstat f) s = .next (x.leaves s w') ∧
      w'.rerun = (if wbit f.fn 0 then 0 else (x.warp s).rerun) ∧
      SameButRegs (x.warp s) { w' with rerun := (x.warp s).rerun } ∧ Stepped (x.warp s) w' x.mask x.len ∧
      SameLanes (x.warp s) w' ∧ WroteUniform (x.warp s) w' (.ofRegs [(f.d.toNat,
        (if (x.warp s).err then 2 ^ 31 else 0) + (x.warp s).etile * 2 ^ 28 + min (x.warp s).rerun 255 * 2 ^ 16 +
        es.length * 256 + ((List.range 8).filter (fun t => es.any (fun e => e.names t))).foldl (fun m t => m + 2 ^ t) 0)])) ∧
  (∀ (f : Fields) (s : State) (x : Iss) (va : Nat),
    Issues s x 182 f → guardUni (x.warp s) f.g = true → va = rread2 (x.warp s) 0 f.a.toNat → va % 128 = 0 →
    0 < f.b.toNat → f.b.toNat ≤ 32 → f.c.toNat + f.b.toNat ≤ 4 * (x.warp s).rec_.acc →
    ∃ t, exec (.pload f) s = .next t ∧ Undisturbed s t ∧ SameGroups s t ∧ t.nextId = s.nextId + 2 ∧
      (lookup (coreOf t x.core).units (s.nextId + 1)).map (·.op) =
        some (.pload x.wslot s.nextId (BitVec.ofNat 57 va) f.c.toNat f.b.toNat) ∧
      (x.warp t).infl = (x.warp s).infl ++
        [{ iid := s.nextId, pc := x.pc, len := x.len, inst := x.word, lanes := x.mask,
           pathMask := x.mask, open_ := [s.nextId + 1], faults := [], derr := [] }] ∧
      { x.warp t with infl := (x.warp s).infl, lanes := (x.warp s).lanes } = x.warp s ∧
      ∀ l, lookup (x.warp t).lanes l = (lookup (x.warp s).lanes l).map (fun u =>
        if l < 32 ∧ x.mask.getLsbD l = true then { u with wait := .mem s.nextId } else u))

/-- 11 R293, R299, R302, R305, R306, R308, R316, R523: entries start in the order of their queue; the oldest entry leaves it and takes its
effect on its tile, on rows on their way to memory, or on registers; a latent entry takes the output of its stage from its slice's
buffer where that serves it, which gives the same values, and leaves its own there, and a projection load empties the buffers it
overlaps. (Where no flag is raised, no error is recorded, and no word is in error.) The model's own choices: an effect falls at the
completion event, in the order of issue, RERUN counts the runs that the event names where the comparison of sums sees them
(logs 55, 68), and a buffer is valid by the sources it was made from (log 69). -/
def Obligations.MatrixEntriesTakeEffectInOrder : Prop :=
  (∀ (s : State) (core q : Nat) (before after : List QEntry) (e : QEntry),
    sliceQ s core q = before ++ e :: after → (∀ d ∈ before, d.started = true) → e.started = false → afterPload s core e = false →
    ∃ t, exec (.queueEntryStart core q) s = .next t ∧ Undisturbed s t ∧
      sliceQ t core q = before ++ ({ e with
        started := true
        proj := if e.kind = 1 ∨ e.kind = 2 then slabBytes (warpAt s core e.wslot) e.slab (slabBlocks e.ma e.mb) else [] } :
          QEntry) :: after) ∧
  (∀ (d e : QEntry), (d.buffered (stageRun d)).serves e = true → stageRun e = stageRun d) ∧
  (∀ (s : State) (core q k : Nat) (e : QEntry) (rest : List QEntry) (w : Warp) (st : List (List Nat) × Flags),
    sliceQ s core q = e :: rest → e.started = true → warpAt? s core e.wslot = some w → w.err = false → AllLive s core →
    st = stageOf (bufferOf s core q) e →
    k ≤ 1 → (e.kind ≤ 2 → (mmaTile w st e).2 = 0#5) → (e.kind = 5 → (accstRows w e).2 = 0#5) →
    ∃ t w', exec (.queueEntryCompletion core q k) s = .next t ∧ sliceQ t core q = rest ∧ Undisturbed s t ∧
      warpAt? t core e.wslot = some w' ∧
      (∀ p, bufferOf t core p = if p = q ∧ (e.kind = 1 ∨ e.kind = 2) then some (e.buffered st) else bufferOf s core p) ∧
      (e.kind ≤ 2 → (∀ o ∈ (mmaTile w st e).1, tileGet w' e.tile o.1 o.2.1 = o.2.2 % 2 ^ 32) ∧
        (∀ j r c, j ≠ e.tile → r < 32 → c < 32 → tileGet w' j r c = tileGet w j r c) ∧
        { w' with tiles := w.tiles, rerun := w.rerun } = w ∧ w'.rerun = if k = 1 ∧ mismatchSeen st e = true then min 255 (w.rerun + 1) else w.rerun) ∧
      (e.kind = 3 → { w' with tiles := w.tiles } = w ∧ ∀ j r c, r < 32 → c < 32 →
        tileGet w' j r c = if j = e.tile then 0 else tileGet w j r c) ∧
      (e.kind = 4 → { w' with tiles := w.tiles } = w ∧ ∀ j r c, r < 32 → c < 32 → tileGet w' j r c =
        if j = e.tile ∧ e.wset.getLsbD r = true ∧ c / 8 = e.fn % 4 then e.a.getD (8 * r + c % 8) 0 % 2 ^ 32
        else tileGet w j r c) ∧
      (e.kind = 5 → w' = { w with rows := w.rows ++ (accstRows w e).1 }) ∧
      (e.kind = 6 → (e.dst + 8 ≤ 192 ∨ e.dst = 255) → SameUniform w w' ∧ { w' with vr := w.vr } = w ∧ WroteLanes w w' (maskLanes e.wset) (fun l =>
        .ofRegs ((List.range 8).map (fun k => (e.dst + k, nbits (edgeTriangle e l) (32 * k) 32)))))) ∧
  (∀ (s u v : State) (core ws row : Nat) (w : Warp) (r : HeldRow),
    warpAt? s core ws = some w → w.rows[row]? = some r → rowReady s core ws w row r = true → AllLive s core →
    storeCheck s (warpWho core w) r.va r.bytes.length 3 = (none, u) → writeN u (warpWho core w) r.va r.bytes = (.ok (), v) →
    ∃ t, exec (.accstRowAnswer core ws row) s = .next t ∧ Undisturbed v t ∧
      warpAt? t core ws = some { w with rows := w.rows.eraseIdx row }) ∧
  (∀ (s u : State) (core uid ws iid first n : Nat) (va : VA) (job : UnitJob) (w : Warp) (f : Infl) (bs : List Byte),
    lookup (coreOf s core).units uid = some job → job.op = .pload ws iid va first n → warpAt? s core ws = some w →
    ws ≠ noWarp → w.infl.find? (fun f => f.iid == iid) = some f → f.open_ = [uid] → f.faults = [] → f.derr = [] →
    releaseReady s core ws f.pathMask 2 = true →
    (warpEntries s core ws).any (fun e => !e.started && decide (e.num < uid) && e.reads first n) = false → AllLive s core →
    ploadRead (warpWho core w) (16 * n) va (dropUnit s core uid) = (.ok bs, u) →
    ∃ t w', exec (.ploadCompletion core uid) s = .next t ∧ warpAt? t core ws = some w' ∧
      lookup (coreOf t core).units uid = none ∧ (∀ g ∈ w'.infl, g.iid ≠ iid) ∧
      (coreOf t core).xform = (coreOf s core).xform.filter (fun b =>
        !(b.2.wslot == ws && decide (first < b.2.slab + slabBlocks b.2.ma b.2.mb) && decide (b.2.slab < first + n))) ∧
      (∀ k, getD 0#8 w'.proj k = if first * 2048 ≤ k ∧ k < first * 2048 + bs.length then nthD 0#8 bs (k - first * 2048)
        else getD 0#8 w.proj k) ∧
      ∀ l, l < 32 → f.pathMask.getLsbD l = true → ∀ u, lookup w.lanes l = some u → u.wait = .mem iid →
        lookup w'.lanes l = some (releaseLane f.len u))

/-! ### Slots of a line core -/

/-- 15 R398 to R400, 14 R379: the scalar arithmetic, move and compare slots give their register its value, which lands one cycle
after the bundle. -/
def Obligations.ScalarSlotsComputeTheirValues : Prop :=
  ∀ (s : State) (x : SIss) (i : Instr) (d : Nat) (v : Word),
    SlotIssues s x i → scalarValue (lineOf s x.lc) i = some (d, v) →
    exec i s = .next (x.leaves s ((lineOf s x.lc).adds [x.lands (lineOf s x.lc) 1 (.k d v)]))

/-- 15 R395, R401 to R405, R414: the memory, control, token and stream slots that neither wait nor trap add their effect to the
bundle and change nothing else; NO_OPERATION adds none. -/
def Obligations.ControlAndStreamSlotsAddTheirEffects : Prop :=
  (∀ (s : State) (x : SIss) (i : Instr) (fx : List Fx),
    SlotIssues s x i → slotActs s x (lineOf s x.lc) i = some fx →
    exec i s = .next (x.leaves s ((lineOf s x.lc).adds fx))) ∧
  (∀ (s : State) (lc e k : Nat), s.cur = .slot lc e k → exec .noOperation s = .next { s with cur := .idle })

/-- 15 R406 to R412, 14 R379, R392: a tile slot gives each element of its tile the value of its rule, landing after its latency;
TGATH gathers from the line buffer, TMATQ queues a snapshot, TMATR takes the oldest finished result, rounded to BF16. -/
def Obligations.TileSlotsComputeTheirElements : Prop :=
  (∀ (s : State) (x : SIss) (i : Instr) (q : TileForm),
    SlotIssues s x i → tileForm x (lineOf s x.lc) i = some q →
    (∀ t ∈ q.srcs, tileBad (lineOf s x.lc) t.1 t.2 = false) →
    exec i s = .next (x.leaves s ((lineOf s x.lc).adds
      [x.lands (lineOf s x.lc) q.lat (.tile ((x.slot - 1) * 8 + q.d) ((List.range 1024).map q.elem))]))) ∧
  (∀ (s : State) (x : SIss) (l : LineCore) (d a b : BitVec 3) (k h : BitVec 5) (addr : Nat → Nat) (v : Nat → List Byte),
    SlotIssues s x (.tgath d a b k h) → l = lineOf s x.lc →
    addr = (fun j => (getD 0#32 l.k k.toNat).toNat + 2 * tileAt l (x.slot - 1) a.toNat j +
      tileAt l (x.slot - 1) b.toNat j * 2 ^ h.toNat) →
    (∀ j, j < 1024 → addr j % 2 = 0 ∧ addr j + 2 ≤ 0x180000) → l.tileErr = [] →
    (∀ j, j < 1024 → lbView s.tick l x.eng none (addr j) 2 = some (v j)) →
    exec (.tgath d a b k h) s = .next (x.leaves s (l.adds [x.lands l 8 (.tile ((x.slot - 1) * 8 + d.toNat)
      ((List.range 1024).map (fun j => BitVec.ofNat 16 (ofBytes (v j)))))]))) ∧
  (∀ (s : State) (x : SIss) (l : LineCore) (a : BitVec 3) (c : BitVec 1) (w : BitVec 2),
    SlotIssues s x (.tmatq a c w) → l = lineOf s x.lc → l.tileErr = [] →
    l.mq.length + (l.fx.filter (fun f => match f with | .enq _ => true | _ => false)).length < 8 →
    exec (.tmatq a c w) s = .next (x.leaves s (l.adds [.enq
      { a := tileVals l (x.slot - 1) a.toNat, set := w.toNat, acc := c == 1#1, started := none, w := [], out := none }]))) ∧
  (∀ (s : State) (x : SIss) (l : LineCore) (d : BitVec 3) (i : Nat) (e : MEntry) (out : List Word),
    SlotIssues s x (.tmatr d) → l = lineOf s x.lc → poppable 0 l.mqLeft = some i → l.mqLeft[i]? = some e → e.out = some out →
    exec (.tmatr d) s = .next (x.leaves s (l.adds [.deq i, x.lands l 2 (.tile ((x.slot - 1) * 8 + d.toNat)
      (out.map (fun v => BitVec.ofNat 16 (rnd bf16 .rne false (f32 v.toNat)).1)))])))

/-! ### Events of the memory path -/

/-- 04 R81, R85, R91, 10 R257, R272, 02 R36: a request is checked at its home slice and accepted, its missing translation walked
and its missing block read and installed, and an accepted one performed: a load returns the bytes of its block, a store and an
atomic leave theirs in it. -/
def Obligations.RequestsAreServedAtTheirHomes : Prop :=
  (∀ (s u : State) (rid h : Nat) (r : Req) (b : L2Block) (bs : List Byte),
    lookup s.reqs rid = some r → r.stage = .toHome → behind s rid r = false → queuedBehind s rid r = false →
    regionOf r.va ≠ .aperture → twinOf s rid r = none → homeHit (leaveCore s rid r) r.part r.atag r.vb = (some (h, b), u) →
    twinOf u rid r = none → lookup u.reqs rid = some { r with sent := true } → permits b.rd b.wr b.ex r.op.need = true → blockBytes b = .ok bs →
    AllLive s r.core → (∀ w, warpAt? s r.core r.wslot = some w → ∀ f ∈ w.infl, f.faults = []) →
    (r.op.isStore = true →
      ∃ t, exec (.homeSliceAccess rid) s = .next t ∧ t.cores = s.cores ∧
        lookup t.reqs rid = some { r with stage := .checked, sent := true }) ∧
    (r.op.isStore = false → r.op ≠ .pref →
      ∃ t, exec (.homeSliceAccess rid) s = .next t ∧ lookup t.reqs rid = some { r with
        stage := .accepted, sent := true, snap := bs, fill := if b.pol = 0 then some (b.rd, b.wr) else none })) ∧
  (∀ (s u : State) (rid q h : Nat) (r r' p p' : Req) (b : L2Block) (bs : List Byte) (st : Stage),
    lookup s.reqs rid = some r → r.stage = .toHome → behind s rid r = false → queuedBehind s rid r = false →
    regionOf r.va ≠ .aperture → twinOf s rid r = some (q, p) → r.op.isStore = true →
    homeHit (leaveCore (leaveCore s rid r) q p) r.part r.atag r.vb = (some (h, b), u) →
    twinOf u rid r = some (q, p') → p'.op.isStore = true → lookup u.reqs rid = some r' → lookup u.reqs q = some p' →
    blockBytes b = .ok bs → st = (if permits b.rd b.wr b.ex r.op.need = true then .checked else .refused (.fault .permission)) →
    ∃ t, exec (.homeSliceAccess rid) s = .next t ∧ t.cores = s.cores ∧
      lookup t.reqs rid = some { r' with stage := st } ∧ lookup t.reqs q = some { p' with stage := st }) ∧
  (∀ (s u : State) (rid h : Nat) (r : Req) (b : L2Block) (bs : List Byte),
    lookup s.reqs rid = some r → r.stage = .accepted → behind s rid r = false → regionOf r.va ≠ .aperture →
    homeHit s r.part r.atag r.vb = (some (h, b), u) → lookup u.reqs rid = some r → blockBytes b = .ok bs →
    (r.op = .load →
      ∃ t, exec (.homeSliceAccess rid) s = .next t ∧ t.cores = s.cores ∧ lookup t.reqs rid = some { r with
        stage := .replied [ofBytes (sliceBytes bs (r.va.toNat % 128) r.size)], snap := bs }) ∧
    (∀ new, r.op = .store new →
      ∃ t c, exec (.homeSliceAccess rid) s = .next t ∧ t.cores = s.cores ∧ lookup t.reqs rid = none ∧
        c = rewritten u b (patchBytes bs (r.va.toNat % 128) (new.take (128 - r.va.toNat % 128))) ∧
        (tooBig u c = false → HoldsBlock t h c)) ∧
    (∀ fn ty ops olds last, r.op = .atomic fn ty ops →
      atomFold fn ty ops (ofBytes (sliceBytes bs (r.va.toNat % 128) r.size)) = (olds, last) →
      ∃ t c after, exec (.homeSliceAccess rid) s = .next t ∧ t.cores = s.cores ∧
        after = patchBytes bs (r.va.toNat % 128) ((toBytes r.size last).take (128 - r.va.toNat % 128)) ∧
        lookup t.reqs rid = some { r with stage := .replied (olds ++ [last]), snap := after } ∧
        c = rewritten u b after ∧ (tooBig u c = false → HoldsBlock t h c))) ∧
  (∀ (s u : State) (rid h : Nat) (r : Req) (lf : Leaf),
    lookup s.reqs rid = some r → r.stage = .needWalk → homeSlice s r.part r.vb r.atag = some h →
    tlbFind s (xlatUnit h) r.part r.atag r.va.toNat = none → walk s (xlatUnit h) r.part r.atag r.va.toNat = (.ok lf, u) →
    lookup u.reqs rid = some r →
    ∃ t, exec (.pageWalk rid) s = .next t ∧ lookup t.reqs rid = some { r with stage := .toHome } ∧ t.cores = s.cores ∧
      (getD [] t.tlb (xlatUnit h)).head? = some ⟨r.part, r.atag, lf⟩) ∧
  (∀ (s u : State) (rid h : Nat) (r : Req) (lf : Leaf) (l : Loc) (b : PBlock),
    lookup s.reqs rid = some r → r.stage = .needMem → fetching s r = false → leafFor s r = some lf →
    locate s r.part (nbits (r.blockPA s lf) 0 41) = some l → homeSlice s r.part r.vb r.atag = some h →
    fetchBlock s h l (r.blockPA s lf) = (.ok b, u) → lookup u.reqs rid = some r →
    ∃ t, exec (.memoryAccess rid) s = .next t ∧ t.cores = s.cores ∧
      lookup t.reqs rid = some { r with stage := .fetched (some b) }) ∧
  (∀ (s u v : State) (rid h : Nat) (r : Req) (lf : Leaf) (b : PBlock) (c : L2Block),
    lookup s.reqs rid = some r → r.stage = .fetched (some b) → homeHit (setStage s rid .toHome) r.part r.atag r.vb = (none, u) →
    homeSlice u r.part r.vb r.atag = some h → leafFor u r = some lf → lookup u.reqs rid = some { r with stage := .toHome } →
    installBlock u h r.part r.atag r.vb (r.blockPA u lf) lf b r.stream = (c, v) →
    tooBig u { c with blk := b, dirty := false } = false → tooBig v c = false →
    exec (.l2Fill rid) s = .next v ∧ v.cores = s.cores ∧ lookup v.reqs rid = some { r with stage := .toHome } ∧
    c.blk = b ∧ HoldsBlock v h c)

/-- 10 R257, R258, R272, 22 R507, R513: a load's data and an atomic's old values are written to their registers when they return, a
store's lanes learn that it is accepted, and an access that no port serves is a data error. -/
def Obligations.AnswersReachTheirLanes : Prop :=
  (∀ (s : State) (rid v : Nat) (r : Req) (w : Warp),
    lookup s.reqs rid = some r → r.op.isLoad = true → r.stage = .replied [v] → r.acquire = false → r.wslot ≠ noWarp →
    warpAt? s r.core r.wslot = some w →
    ∃ t, exec (.loadDataReturn rid) s = .next t ∧ lookup t.reqs rid = none ∧ Undisturbed s t ∧
      warpAt? t r.core r.wslot = some
        (loadWrite w (if r.lanes = 0#32 then [0] else maskLanes r.lanes) r.dst r.ext r.off r.size v)) ∧
  (∀ (s : State) (rid v : Nat) (r : Req) (w : Warp) (f : Infl),
    lookup s.reqs rid = some r → r.op.isLoad = true → r.stage = .replied [v] → r.acquire = true → r.wslot ≠ noWarp →
    warpAt? s r.core r.wslot = some w → AllLive s r.core → w.infl = [f] → f.iid = r.iid →
    ∃ t w', exec (.loadDataReturn rid) s = .next t ∧ lookup t.reqs rid = none ∧
      (r.wide = true → (coreOf t r.core).l1 = []) ∧ warpAt? t r.core r.wslot = some w' ∧ AnswerTaken w w' f rid []) ∧
  (∀ (s : State) (rid : Nat) (r : Req) (w : Warp) (f : Infl),
    lookup s.reqs rid = some r → r.op.isStore = true → r.wslot ≠ noWarp →
    warpAt? s r.core r.wslot = some w → AllLive s r.core → w.infl = [f] → f.iid = r.iid → f.faults = [] →
    (r.stage = .checked →
      ∃ t w', exec (.storeAcceptance rid) s = .next t ∧ lookup t.reqs rid = some { r with stage := .accepted } ∧
        warpAt? t r.core r.wslot = some w' ∧ AnswerTaken w w' f rid []) ∧
    (r.stage = .merged →
      ∃ t w', exec (.storeAcceptance rid) s = .next t ∧ lookup t.reqs rid = none ∧
        warpAt? t r.core r.wslot = some w' ∧ AnswerTaken w w' f rid [])) ∧
  (∀ (s : State) (rid : Nat) (r : Req) (vals : List Nat) (w : Warp),
    lookup s.reqs rid = some r → r.op.replyLanes ≠ [] → r.stage = .replied vals → r.acquire = false → r.wslot ≠ noWarp →
    warpAt? s r.core r.wslot = some w →
    ∃ t, exec (.atomicReply rid) s = .next t ∧ lookup t.reqs rid = none ∧ Undisturbed s t ∧
      warpAt? t r.core r.wslot = some (writeOlds w r.dst (r.op.resultBytes r.size) (r.op.replyLanes.zip vals))) ∧
  (∀ (s : State) (rid : Nat) (r : Req) (w : Warp) (f : Infl),
    lookup s.reqs rid = some r → r.stage = .remote → portsTo s (nodeOf r.farPA) = [] → r.wslot ≠ noWarp →
    warpAt? s r.core r.wslot = some w → AllLive s r.core → w.infl = [f] → f.iid = r.iid →
    ∃ t w', exec (.unreachableNodeFault rid) s = .next t ∧ lookup t.reqs rid = none ∧
      warpAt? t r.core r.wslot = some w' ∧ AnswerTaken w w' f rid
        ((if f.lanes = 0#32 then [32] else maskLanes r.lanes).map (fun l => (l, r.va))))

/-! ### Events of channels and links -/

/-- 02 R39 to R46: a promoted far row stands in a free promotion slot, bit for bit, and a held one takes the higher priority;
a demotion copies a dirty row home; a reset channel is all reset rows. That a promotion takes the counter's present value as its SEQ
is the model's own choice (log 6). -/
def Obligations.RowsMoveWhole : Prop :=
  (∀ (s : State) (chan bank row pri k : Nat),
    farRow chan bank row = true → chanDraining s chan = false → promSlot s chan bank row = none →
    Memory.wf s.dram.mem = true → pri < 3 → k < 512 → lookup s.dram.ptag (ptagKey chan bank k) = none →
    (∀ j, j < k → lookup s.dram.ptag (ptagKey chan bank j) ≠ none) → getD 0 s.dram.pctr (chan * 32 + bank) < 2 ^ 40 - 1 →
    ∃ t, exec (.rowPromotion chan bank row pri) s = .next t ∧ OnlyDram s t ∧
      lookup t.dram.ptag (ptagKey chan bank k) = some
        { dirty := false, pri := pri, frow := row, seq := getD 0 s.dram.pctr (chan * 32 + bank) } ∧
      (∀ o, o < 2048 → bankByte t (rowKey chan bank (512 + k) o) = bankByte s (rowKey chan bank row o)) ∧
      ∀ a, ¬ (rowKey chan bank (512 + k) 0 ≤ a ∧ a < rowKey chan bank (512 + k) 2048) → bankByte t a = bankByte s a) ∧
  (∀ (s : State) (chan bank row pri k : Nat) (e : PTag),
    farRow chan bank row = true → chanDraining s chan = false → promSlot s chan bank row = some k → pri < 3 →
    lookup s.dram.ptag (ptagKey chan bank k) = some e → getD 0 s.dram.pctr (chan * 32 + bank) < 2 ^ 40 - 1 →
    ∃ t, exec (.rowPromotion chan bank row pri) s = .next t ∧ OnlyDram s t ∧ t.dram.mem = s.dram.mem ∧
      lookup t.dram.ptag (ptagKey chan bank k) = some
        { e with pri := max e.pri pri, seq := getD 0 s.dram.pctr (chan * 32 + bank) }) ∧
  (∀ (s : State) (chan bank row k : Nat) (e : PTag),
    farRow chan bank row = true → promSlot s chan bank row = some k → Memory.wf s.dram.mem = true →
    lookup s.dram.ptag (ptagKey chan bank k) = some e →
    ∃ t, exec (.rowDemotion chan bank row) s = .next t ∧ OnlyDram s t ∧
      lookup t.dram.ptag (ptagKey chan bank k) = none ∧ (e.dirty = false → t.dram.mem = s.dram.mem) ∧
      (e.dirty = true → (∀ o, o < 2048 → bankByte t (rowKey chan bank row o) = bankByte s (rowKey chan bank (512 + k) o)) ∧
        ∀ a, ¬ (rowKey chan bank row 0 ≤ a ∧ a < rowKey chan bank row 2048) → bankByte t a = bankByte s a)) ∧
  (∀ (s : State) (chan : Nat) (e : Nat × Nat × Nat × Nat),
    s.dram.autoq.find? (fun e => e.1 == chan) = some e →
    ∃ t, exec (.automaticPromotion chan) s = .next t ∧ OnlyDram s t ∧ t.dram.autoq = s.dram.autoq.erase e ∧
      t.dram = { (promoteRow s e.1 e.2.1 e.2.2.1 e.2.2.2).2.dram with autoq := s.dram.autoq.erase e }) ∧
  (∀ (s : State) (chan : Nat), s.root.chmap.any (fun e => chValid e.2 && chLsz e.2 != 7 && chChan e.2 == chan) = false →
    chan ∉ s.dram.resetting →
    exec (.channelReset chan) s = .next { s with dram := { s.dram with resetting := chan :: s.dram.resetting } }) ∧
  (∀ (s : State) (chan : Nat), chan ∈ s.dram.resetting → Memory.wf s.dram.mem = true →
    ∃ t, exec (.channelResetComplete chan) s = .next t ∧ OnlyDram s t ∧ chan ∉ t.dram.resetting ∧
      ∀ a, bankByte t a =
        if rowKey chan 0 0 0 ≤ a ∧ a < rowKey (chan + 1) 0 0 0 then 0#8 else bankByte s a)

/-- 02 R33, R43, R47, R49, 03 R67, 22 R514: sequence numbers are renumbered in their order, a scrub corrects what can be
corrected and logs the rest, a refresh changes nothing, a new window has its quota, and links and ports train, replay and
retrain; each event completes in every state. The model's own choices: an event whose conditions fail leaves the state as it is
(log 1), and the die links, from 144 on, always carry packed blocks (log 63). -/
def Obligations.ChannelsAndPortsLookAfterThemselves : Prop :=
  (∀ (s : State) (chan bank : Nat), getD 0 s.dram.pctr (chan * 32 + bank) < 2 ^ 40 - 1 →
    exec (.seqRenumbering chan bank) s = .next s) ∧
  (∀ (s : State) (chan bank : Nat), 2 ^ 40 - 1 ≤ getD 0 s.dram.pctr (chan * 32 + bank) →
    ∃ t, exec (.seqRenumbering chan bank) s = .next t ∧ OnlyDram s t ∧ t.dram.mem = s.dram.mem ∧
      getD 0 t.dram.pctr (chan * 32 + bank) = (bankTags s chan bank).length ∧
      ∀ k, k < 512 → lookup t.dram.ptag (ptagKey chan bank k) = (lookup s.dram.ptag (ptagKey chan bank k)).map (fun e =>
        { e with seq := ((bankTags s chan bank).filter (fun o => decide (o.2.seq < e.seq))).length })) ∧
  (∀ (s : State) (chan : Nat), exec (.refresh chan) s = .next s) ∧
  (∀ (s : State) (chan bank row : Nat),
    rowHeld s chan bank row = none ∨ (∃ h, rowHeld s chan bank row = some h ∧ guardSays s chan bank row h = .reset) →
    exec (.patrolScrub chan bank row) s = .next s) ∧
  (∀ (s : State) (chan bank row h : Nat), rowHeld s chan bank row = some h → guardSays s chan bank row h = .good →
    ∃ t, exec (.patrolScrub chan bank row) s = .next t ∧ OnlyDram s t ∧ t.dram.mem = s.dram.mem ∧ t.dram.ptag = s.dram.ptag ∧
      (∀ b, b < 15 → getD 0 t.dram.errs (rowKey chan bank row (b * 128)) =
        if getD 0 s.dram.errs (rowKey chan bank row (b * 128)) ≤ 3 then 0
        else getD 0 s.dram.errs (rowKey chan bank row (b * 128))) ∧
      getD 0 t.dram.corr (chan * 32 + bank) = getD 0 s.dram.corr (chan * 32 + bank) + ((List.range 15).filter (fun b =>
        let e := getD 0 s.dram.errs (rowKey chan bank row (b * 128))
        decide (1 ≤ e) && decide (e ≤ 3))).length ∧
      ∀ b, b < 15 → getD 0 s.dram.errs (rowKey chan bank row (b * 128)) = 4 ∨
        getD 0 s.dram.errs (rowKey chan bank row (b * 128)) = 5 → rowKey chan bank row (b * 128) ∈ t.dram.scrubLog) ∧
  (∀ (s : State) (chan bank row h : Nat), rowHeld s chan bank row = some h → guardSays s chan bank row h = .bad →
    exec (.patrolScrub chan bank row) s = .next { s with dram := { s.dram with
      scrubLog := (List.range 15).reverse.map (fun b => rowKey chan bank row (b * 128)) ++ s.dram.scrubLog } }) ∧
  (∀ (s : State) (chan : Nat), ∃ t, exec (.bandwidthWindow chan) s = .next t ∧ OnlyDram s t ∧
    ∀ c, getD 0 t.dram.quota c = if c = chan then 15 * (s.root.dshare.toNat % 16) else getD 0 s.dram.quota c) ∧
  (∀ (s : State) (i : Nat) (packed : Bool), ∃ t q, exec (.linkTraining i packed) s = .next t ∧ OnlyPort s t i q ∧
    Trained (portOf s i) q (packed || decide (144 ≤ i))) ∧
  (∀ (s : State) (i : Nat) (p : Port), p = portOf s i → p.up = true → p.training = false → p.replay ≠ [] →
    (∃ t, exec (.flitReplay i true) s = .next t ∧ OnlyPort s t i { p with replay := [], fails := 0 }) ∧
    (∃ t, exec (.flitReplay i false) s = .next t ∧
      OnlyPort s t i { p with fails := p.fails + 1, training := decide (8 ≤ p.fails + 1) })) ∧
  (∀ (s : State) (i : Nat) (ok : Bool),
    (portOf s i).up = false ∨ (portOf s i).training = true ∨ (portOf s i).replay = [] → exec (.flitReplay i ok) s = .next s) ∧
  (∀ (s : State) (i : Nat) (p : Port), p = portOf s i → p.training = true →
    (∃ t q, exec (.portRetrain i true) s = .next t ∧ OnlyPort s t i q ∧
      Trained p q (advertised s i || decide (144 ≤ i))) ∧
    (∃ t, exec (.portRetrain i false) s = .next t ∧
      OnlyPort s t i { p with training := false, fails := 0, up := false, replay := [] })) ∧
  (∀ (s : State) (i : Nat) (ok : Bool), (portOf s i).training = false → exec (.portRetrain i ok) s = .next s)

/-! ### Maintenance and window registers -/

/-- 04 R97, R100, R104: a maintenance record that may start has its effect and is completed, HEAD passing it; after an invalidation
nothing that it meets is left; a warp whose wait is over reserves its fault slots or waits twice as long. -/
def Obligations.MaintenanceRecordsRunInTurn : Prop :=
  (∀ (s u : State) (part : Nat) (bs : List Byte),
    maintRecord s part = (some bs, u) → maintOk bs = true → mOp bs = 0 →
    ∃ t, exec (.maintenanceNop part) s = .next t ∧ t.cores = s.cores ∧
      win32 t part oMQHEAD = (win32 s part oMQHEAD + 1) % 2 ^ 32) ∧
  (∀ (i : Instr) (s u : State) (part : Nat) (bs : List Byte),
    (i = .invRange part ∧ mOp bs = 1 ∨ i = .invAsid part ∧ mOp bs = 2 ∨ i = .invPart part ∧ mOp bs = 3) →
    maintRecord s part = (some bs, u) → maintOk bs = true → (maintSweep part bs).busy u = false →
    (∀ e ∈ u.reqs, 0 < e.2.size) →
    ∃ t, exec i s = .next t ∧ Invalidated (maintSweep part bs) t ∧
      win32 t part oMQHEAD = (win32 s part oMQHEAD + 1) % 2 ^ 32) ∧
  (∀ (s : State) (core ws : Nat) (st : Stall) (rest : List Stall),
    (warpAt s core ws).stall = st :: rest → (warpAt? s core ws).isSome = true →
    (cycOf s core < st.retryAt → exec (.faultReservationRetry core ws) s = .next s) ∧
    (st.retryAt ≤ cycOf s core → groupFaults st.faults ≠ [] →
      ∃ t, exec (.faultReservationRetry core ws) s = .next t ∧
        ((groupFaults st.faults).length ≤ faultRoom s (warpAt s core ws).part → (warpAt t core ws).stall = rest ∧
          win32 t (warpAt s core ws).part oFBTAIL =
            (win32 s (warpAt s core ws).part oFBTAIL + (groupFaults st.faults).length) % 2 ^ 32) ∧
        (faultRoom s (warpAt s core ws).part < (groupFaults st.faults).length → (warpAt t core ws).stall =
          { st with retryAt := cycOf s core + st.backoff, backoff := min (2 * st.backoff) 65536 } :: rest)))

/-- 04 R96, R100, 16 R419, R422, 22 R507, R508, 02 R47: a write of a window register leaves the value its field rules give and
every other register as it was; a write of DSHARE with an index of 14 or 15 leaves it alone. That LQSTAT.CODE stays when PARK is
cleared is the model's own choice (log 56). -/
def Obligations.WindowWritesKeepTheFieldRules : Prop :=
  (∀ (s : State) (part v : Nat), ∃ t, exec (.mqtailWrite part v) s = .next t ∧ WindowWrote s t part [(oMQTAIL, v)]) ∧
  (∀ (s : State) (part v : Nat), ∃ t, exec (.mqctlWrite part v) s = .next t ∧ WindowWrote s t part
    [(oMQCTL, v / 2 ^ 31 % 2 * 2 ^ 31 +
      if win32 s part oMQCTL / 2 ^ 31 % 2 = 1 then win32 s part oMQCTL % 16 else min 12 (v % 16))]) ∧
  (∀ (s : State) (part q v : Nat), q < 64 →
    ∃ t, exec (.lqtailWrite part q v) s = .next t ∧ WindowWrote s t part [(oLQTAIL q, v)]) ∧
  (∀ (s : State) (part q v : Nat), q < 64 → win32 s part (oLQSTAT q) / 2 ^ 31 % 2 = 1 → v / 2 ^ 31 % 2 = 0 →
    ∃ t, exec (.lqstatWrite part q v) s = .next t ∧
      win32 t part (oLQSTAT q) = win32 s part (oLQSTAT q) % 2 ^ 31 ∧
      win32 t part (oLQHEAD q) = (win32 s part (oLQHEAD q) + 1) % 2 ^ 32) ∧
  (∀ (s : State) (part off v : Nat), off = oMQTAIL ∨ off = oFBHEAD ∨ off = oNQHEAD →
    ∃ t, exec (.registerWrite false part off 4 v) s = .next t ∧ WindowWrote s t part [(off, v)]) ∧
  (∀ (s : State) (v : Nat), v % 16 ≤ 13 → exec (.registerWrite true 0 1 0 v) s =
    .next { s with root := { s.root with dshare := BitVec.ofNat 32 (v % 16) } }) ∧
  (∀ (s : State) (v : Nat), 14 ≤ v % 16 → exec (.registerWrite true 0 1 0 v) s = .next s)

/-! ### The engines -/

/-- 05 R114, R117, R118, R121, R129, R131, R135: a command whose wait has passed starts; a chunk of it is moved whole; its cursor
moves on; and at its end the semaphore is signalled, HEAD passes the command, DONE counts it. Without a chain a chunk of COPY
from scratchpad to scratchpad that do not overlap leaves the source bytes in its destination, and one of FILL its pattern. With a
barrier a completed chunk takes its bytes off the object's PEND and releases the waiters of a phase that this completes; with a
chain the command's checksum, if it has one, is written before it completes. That a chunk moves in one step, and when the checks of
a command are made, are the model's own choices (logs 12, 57). -/
def Obligations.EnginesRunTheirCommands : Prop :=
  (∀ (i : Instr) (s : State) (x : EngAt) (opc : Nat) (y : Group) (c : Cmd) (ds : List Nat),
    engineCommand i = some (x, opc) → x.group s = some y → engineServes y x.ring = true → y.spadErr = [] →
    c = cmdAt y (ringEntry y x.ring) → c.opc = opc → cmdOk x.ring c = true → (ringOf y x.ring).act = false →
    hWsem c.h ≤ y.rec_.sems → hSsem c.h ≤ y.rec_.sems → hThr c.h ≤ semGet y (hWsem c.h) →
    (x.ring = 2 ∧ ds = [] ∨ x.ring ≠ 2 ∧ startDescr y c = .ok ds) →
    ∃ t y', exec i s = .next t ∧ OnlyGroup s t x.core x.gslot y' ∧ Undisturbed s t ∧ { y' with rings := y.rings } = y ∧
      ringOf y' x.ring = { Ring.init with
        used := true, act := true, fin := cmdTotal ds x.ring c == 0, owes := (ringOf y x.ring).owes, descr := ds }) ∧
  (∀ (i : Instr) (s u : State) (x : EngAt) (opc : Nat) (y z : Group) (c : Cmd) (r : Ring),
    engineCommand i = some (x, opc) → x.group s = some y → engineServes y x.ring = true → y.spadErr = [] →
    c = cmdAt y (ringEntry y x.ring) → c.opc = opc → r = ringOf y x.ring → r.act = true → r.fin = false →
    r.moved = r.cursor →
    (if x.ring = 2 then saeWindow x c r.pass r.cursor s else transferChunk x c r.cursor s) = (.ok (), u) →
    x.group u = some z →
    ∃ t z', exec i s = .next t ∧ OnlyGroup u t x.core x.gslot z' ∧ Undisturbed u t ∧ { z' with rings := z.rings } = z ∧
      ringOf z' x.ring = { ringOf z x.ring with moved := r.cursor + 1 }) ∧
  (∀ (s : State) (core g ring : Nat) (y : Group) (c : Cmd) (r r' : Ring),
    groupAt s core g = some y → ring < 3 → r = ringOf y ring → r.act = true → r.cursor < r.moved →
    y.spadErr = [] → c = cmdAt y (ringEntry y ring) → hBar c.h = false →
    r' = (if r.cursor + 1 < cmdTotal r.descr ring c then { r with cursor := r.cursor + 1 }
      else if r.pass + 1 < cmdPasses ring c then { r with pass := r.pass + 1, cursor := 0, moved := 0 }
      else { r with cursor := r.cursor + 1, fin := true }) →
    ∃ t y', exec (.chunkCompletion core g ring) s = .next t ∧ OnlyGroup s t core g y' ∧ Undisturbed s t ∧
      { y' with rings := y.rings } = y ∧ ringOf y' ring = r') ∧
  (∀ (s : State) (core g ring v v' : Nat) (y : Group) (c : Cmd) (r r' : Ring),
    groupAt s core g = some y → ring < 3 → r = ringOf y ring → r.act = true → r.cursor < r.moved →
    y.spadErr = [] → c = cmdAt y (ringEntry y ring) → hBar c.h = true → v = ofBytes (spadRead y c.barOff 8) →
    v' = objUpdate v (-(chunkBytes r.descr c r.cursor : Int)) false →
    r' = (if r.cursor + 1 < cmdTotal r.descr ring c then { r with cursor := r.cursor + 1 }
      else if r.pass + 1 < cmdPasses ring c then { r with pass := r.pass + 1, cursor := 0, moved := 0 }
      else { r with cursor := r.cursor + 1, fin := true }) →
    ∃ t, exec (.chunkCompletion core g ring) s = .next t ∧ Undisturbed s t ∧
      (groupAt t core g).map (fun z => ringOf z ring) = some r' ∧
      (∀ a k o, spadByte t a k o =
        if a = core ∧ k = g ∧ c.barOff ≤ o ∧ o < c.barOff + 8 then some (nthD 0#8 (toBytes 8 v') (o - c.barOff))
        else spadByte s a k o) ∧
      (∀ a ws w l u, warpAt? s a ws = some w → lookup w.lanes l = some u →
        (lookup (warpAt t a ws).lanes l).map Lane.unseen = some (Lane.unseen (if objPhase v' ≠ objPhase v ∧ (match w.gslot with
            | some k => (match groupAt s a k with
              | some own => waitsFor own a k core g c.barOff (objPhase v) u.wait
              | none => false)
            | none => false) = true then releaseLane 8 u else u)))) ∧
  (∀ (s u : State) (core g ring : Nat) (y z : Group) (e : Entry) (c : Cmd),
    groupAt s core g = some y → ring < 3 → (ringOf y ring).act = true → (ringOf y ring).fin = true →
    (ringOf y ring).parked = false → y.spadErr = [] → c = cmdAt y (ringEntry y ring) →
    (hChn c.h = false ∧ u = s ∨
     ∃ ch, ring < 2 ∧ cmdChain c (ringOf y ring).descr = .ok (some ch) ∧
       (checksumOf ch.rev = none ∧ u = s ∨
        ∃ st, checksumOf ch.rev = some st ∧ engWrite ⟨core, g, ring⟩ st.1.dw 0 4
          (toBytes 4 ((ringOf y ring).crc.toNat ^^^ 0xFFFFFFFF)) s = (.ok (), u))) →
    groupAt u core g = some z → e = ringEntry z ring →
    ∃ t y', exec (.commandCompletion core g ring) s = .next t ∧ OnlyGroup u t core g y' ∧ Undisturbed u t ∧
      y'.sem = (semAdd z (hSsem c.h) (hInc c.h : Int)).sem ∧
      (ringEntry y' ring).head = (e.head + 1 + hNpay (ringWord z e 0)) % 2 ^ 32 ∧ (ringEntry y' ring).tail = e.tail ∧
      (ringEntry y' ring).stat % 2 ^ 32 = (e.stat % 2 ^ 32 + 1) % 2 ^ 32 ∧ (ringEntry y' ring).ctl = e.ctl ∧
      ∀ o, ¬ (32 * ring + 12 ≤ o ∧ o < 32 * ring + 24) → getD 0#8 y'.spad o = getD 0#8 z.spad o) ∧
  (∀ (s : State) (core g ring : Nat) (y : Group) (e : Entry),
    groupAt s core g = some y → ring < 3 → (ringOf y ring).parked = true → y.saving = none → y.spadErr = [] →
    e = ringEntry y ring → e.park = false →
    ∃ t y', exec (.ringResume core g ring) s = .next t ∧ OnlyGroup s t core g y' ∧ Undisturbed s t ∧ y'.sem = y.sem ∧
      (ringEntry y' ring).head = (if e.head = e.tail then e.head else (e.head + 1 + hNpay (ringWord y e 0)) % 2 ^ 32) ∧
      (ringOf y' ring).parked = false ∧ (ringOf y' ring).act = false) ∧
  (∀ (i : Instr) (s : State) (x : EngAt) (opc k n dst : Nat) (y : Group) (c : Cmd) (r : Ring),
    (i = .copy x.core x.gslot x.ring ∧ opc = 1 ∧ c.w 0 / 2 ^ 63 % 2 = 1 ∧ c.w 1 / 2 ^ 63 % 2 = 1 ∧ dst = c.w 1 % 2 ^ 19 ∧
       (c.w 0 % 2 ^ 19 + cLen c ≤ dst ∨ dst + cLen c ≤ c.w 0 % 2 ^ 19) ∧ c.w 0 % 2 ^ 19 + 4096 * k + n ≤ 256 * y.rec_.spad ∨
     i = .fill x.core x.gslot x.ring ∧ opc = 6 ∧ c.w 0 / 2 ^ 63 % 2 = 1 ∧ dst = c.w 0 % 2 ^ 19) →
    x.group s = some y → engineServes y x.ring = true → x.ring < 2 → y.spadErr = [] → c = cmdAt y (ringEntry y x.ring) →
    c.opc = opc → hChn c.h = false → r = ringOf y x.ring → r.act = true → r.fin = false → r.moved = r.cursor → k = r.cursor →
    n = min 4096 (cLen c - 4096 * k) → dst + 4096 * k + n ≤ 256 * y.rec_.spad →
    ∃ t, exec i s = .next t ∧ Undisturbed s t ∧ ∀ o, spadByte t x.core x.gslot o =
      if dst + 4096 * k ≤ o ∧ o < dst + 4096 * k + n then
        (if opc = 1 then spadByte s x.core x.gslot (c.w 0 % 2 ^ 19 + (o - dst))
         else some (nthD 0#8 (toBytes 8 (c.w 2)) ((o - dst) % 8)))
      else spadByte s x.core x.gslot o)


/-! ### Grids -/

/-- 16 R419, R423 to R431, R438 to R441: a waiting child or a ready record becomes a grid; its next group is placed with fresh
threads; after the timeout its die waits for it; a group whose resources are free retires; a grid whose groups have retired
completes; continuation warps are formed of the eligible records, and spilled records return, the oldest first. -/
def Obligations.GridsRunFromDispatchToCompletion : Prop :=
  (∀ (s : State) (part : Nat) (ch : Child),
    part < 16 → (partOf s part).childq.find? (fun c => c.pri == 7) = some ch → ch.counts = none →
    ch.rec_.gx * ch.rec_.gy * ch.rec_.gz ≠ 0 →
    ∃ t, exec (.gridDispatch part) s = .next t ∧ { t with parts := s.parts } = s ∧
      (partOf t part).childq = (partOf s part).childq.filter (fun c => c.uid != ch.uid) ∧
      (partOf t part).gridCtr = ((partOf s part).gridCtr + 1) % 2 ^ 32 ∧
      lookup (partOf t part).grids (partOf s part).gridCtr =
        some (Grid.fresh ch.rec_ ch.asid ch.pri ch.depth ch.uid none (some (ch.parent, ch.group)))) ∧
  (∀ (s u : State) (part q : Nat) (qs : List Nat) (r : LaunchRec),
    part < 16 → (partOf s part).childq = [] → turnsAt (partOf s part) 7 = q :: qs →
    headOfQueue s part q = (.ready r, u) → r.gx * r.gy * r.gz ≠ 0 →
    ∃ t, exec (.gridDispatch part) s = .next t ∧ { t with parts := u.parts } = u ∧
      win32 t part (oLQHEAD q) = (win32 u part (oLQHEAD q) + 1) % 2 ^ 32 ∧
      lookup (partOf t part).grids (partOf u part).gridCtr =
        some (Grid.fresh r (lqAsid (partOf u part) q) (lqPri (partOf u part) q) 0 0
          (some (q, win32 u part (oLQHEAD q))) none)) ∧
  (∀ (s : State) (part num core : Nat) (g : Grid),
    lookup (partOf s part).grids num = some g → g.rec_.setSize = 1 → mayPlace s part (dieOf core) num g = true →
    coreFits s part core g.rec_ g.rec_.warps = true →
    ∃ t k y, exec (.groupPlacement part num g.next core) s = .next t ∧ groupAt s core k = none ∧
      groupAt t core k = some y ∧ y.part = part ∧ y.asid = g.asid ∧ y.grid = num ∧ y.linear = g.next ∧ y.rec_ = g.rec_ ∧
      y.spad = [] ∧ y.sem = [] ∧ y.rings = [] ∧
      (∀ ws w, warpAt? s core ws = none → warpAt? t core ws = some w →
        w.gslot = some k ∧ w.grid = num ∧ w.vr = [] ∧ w.sr = [] ∧ w.hmode = false ∧
        ∀ l u, lookup w.lanes l = some u → u.live = true ∧ u.pc = g.rec_.kaddr ∧ u.pb = 0x80#8) ∧
      (lookup (partOf t part).grids num).map (·.next) = some (g.next + 1)) ∧
  (∀ (s : State) (part die num : Nat) (g : Grid) (gs : List (Nat × Grid)),
    waitingGrids (partOf s part) = (num, g) :: gs → blockerOf (partOf s part) die = none → die < 4 →
    ∃ t, exec (.placementTimeout part die) s = .next t ∧ { t with parts := s.parts } = s ∧
      lookup (partOf t part).blockedDies die = some (num, nextLinear (partOf s part) num g)) ∧
  (∀ (s : State) (core k : Nat) (y : Group),
    k < 64 → groupAt s core k = some y → regionFree s core k y = true →
    (y.children = [] → ∃ t, exec (.groupRetire core k) s = .next t ∧ groupAt t core k = none ∧
      lookup (partOf t y.part).grids y.grid =
        (lookup (partOf s y.part).grids y.grid).map (fun g => { g with retired := g.retired + 1 })) ∧
    (∀ i, y.children ≠ [] → (upto 64).find? (fun i => (lookup (coreOf s core).retire i).isNone) = some i →
      ∃ t, exec (.groupRetire core k) s = .next t ∧ groupAt t core k = none ∧ t.parts = s.parts ∧
        lookup (coreOf t core).retire i =
          some { part := y.part, grid := y.grid, linear := y.linear, children := y.children })) ∧
  (∀ (s : State) (core k : Nat) (r : RetireRec),
    lookup (coreOf s core).retire k = some r → r.children = [] →
    ∃ t, exec (.groupRetire core (64 + k)) s = .next t ∧ lookup (coreOf t core).retire k = none ∧
      lookup (partOf t r.part).grids r.grid =
        (lookup (partOf s r.part).grids r.grid).map (fun g => { g with retired := g.retired + 1 })) ∧
  (∀ (s : State) (part num : Nat) (g : Grid),
    lookup (partOf s part).grids num = some g → g.retired = g.total → g.children = 0 → g.spilled = [] →
    (∀ e ∈ (partOf s part).slots, e.2.grid ≠ num) → (∀ e ∈ s.cores, gridOn part num e.2 = false) →
    (∀ e ∈ s.reqs, ¬ (e.2.part = part ∧ e.2.grid = num)) →
    (∀ q seq, g.src = some (q, seq) →
      ∃ t, exec (.gridCompletion part num) s = .next t ∧ t.cores = s.cores ∧ lookup (partOf t part).grids num = none ∧
        (partOf t part).notif = (partOf s part).notif ++
          [{ typ := 1, asid := g.asid, arg0 := q * 2 ^ 58 + seq, arg1 := num, since := (partOf s part).clock }] ∧
        (q < 64 → seq < 2 ^ 32 → (partOf s part).marks = [] → win32 s part (oLQPDONE q) = seq →
          win32 s part (oLQCDONE q) = seq → win32 t part (oLQCDONE q) = (seq + 1) % 2 ^ 32)) ∧
    (∀ pg gl, g.src = none → g.parent = some (pg, gl) → pg ≠ num →
      ∃ t, exec (.gridCompletion part num) s = .next t ∧ lookup (partOf t part).grids num = none ∧
        lookup (partOf t part).grids pg =
          (lookup (partOf s part).grids pg).map (fun p => { p with children := p.children - 1 }) ∧
        ∀ c k, groupAt t c k = (groupAt s c k).map (fun y => { y with children := y.children.filter (· != g.uid) }))) ∧
  (∀ (s : State) (core rec quadrant ws : Nat) (k first : ContRec) (g : Grid) (wss : List Nat) (rs : List ContRec),
    (coreOf s core).contq.find? (fun r => r.uid == rec) = some k → lookup (partOf s k.part).grids k.grid = some g →
    quadSlots (coreOf s core) quadrant = ws :: wss → (eligible (coreOf s core) k).take 32 = first :: rs → quadrant < 4 →
    quadRoom (coreOf s core) quadrant g.rec_.regs g.rec_.acc ≠ 0 → formsNow s core (eligible (coreOf s core) k) = true →
    g.asid ∉ (partOf s k.part).held → coreOwned s k.part core = true → keyReady s core k = true →
    ∃ t w, exec (.continuationWarpFormation core rec quadrant) s = .next t ∧ Undisturbed s t ∧
      warpAt? t core ws = some w ∧ w.isCont = true ∧ w.gslot = (if first.loose = true then none else some first.gslot) ∧
      w.rec_ = g.rec_ ∧ (∀ l r, (first :: rs)[l]? = some r → ∃ u, lookup w.lanes l = some u ∧ u.live = true ∧ u.pc = r.tpc ∧
        u.tx = r.tx ∧ u.ty = r.ty ∧ u.tz = r.tz ∧ u.group = r.group ∧ u.level = r.level) ∧
      (coreOf t core).contq = (coreOf s core).contq.filter (fun r => !(first :: rs).any (fun x => x.uid == r.uid))) ∧
  (∀ (s : State) (core part : Nat) (r : ContRec),
    (coreOf s core).contq.length < contQueueSize → part = corePart s core → coreOwned s part core = true →
    r ∈ (partOf s part).grids.flatMap (fun e => e.2.spilled.filterMap (returnsTo s core)) →
    (∀ q ∈ (partOf s part).grids.flatMap (fun e => e.2.spilled.filterMap (returnsTo s core)), q = r ∨ r.uid < q.uid) →
    ∃ t, exec (.spillReturn core) s = .next t ∧
      (coreOf t core).contq = (coreOf s core).contq ++ [{ r with core := core, since := cycOf s core }] ∧
      lookup (partOf t part).grids r.grid = (lookup (partOf s part).grids r.grid).map (fun g =>
        { g with spilled := g.spilled.filter (fun x => x.uid != r.uid) }))

/-! ### Traps, halts and saves -/

/-- 17 R443 to R446, R451 to R453, R456, R457, 11 R523: the trap that waits for a warp, of an access in flight or of delivered
records, enters its handler or halts its group; an engine's fault traps the group's lowest warp; service firmware halts a
group or aborts a grid; and a pending record is written in time. Which path takes an engine's fault, and the length it holds, are
the model's own choice (log 36). -/
def Obligations.TrapsReachTheirWarps : Prop :=
  (∀ (s : State) (core ws : Nat) (w : Warp) (t : Trap),
    warpAt? s core ws = some w → w.trapPend = some t → HandlerReady w →
    ∃ u w', exec (.handlerEntry core ws) s = .next u ∧ warpAt? u core ws = some w' ∧ TrapEntered w w' t ∧ Undisturbed s u ∧
      SameGroups s u) ∧
  (∀ (s : State) (core ws : Nat) (w : Warp) (t : Trap) (mine : List FaultRec),
    warpAt? s core ws = some w → w.trapPend = none → accessTrap s core ws (delivered s core ws w) = some (t, mine) → HandlerReady w →
    ∃ u w', exec (.handlerEntry core ws) s = .next u ∧ warpAt? u core ws = some w' ∧
      TrapEntered { w with rows := w.rows.filter (fun r => !refusedRow mine r) } w' t ∧
      (partOf u w.part).faults = (partOf s w.part).faults.filter (fun r => !mine.any (fun q => q.seq == r.seq))) ∧
  (∀ (s : State) (x : Iss) (t : Trap),
    (warpAt? s x.core x.wslot).isSome = true → (x.warp s).trapPend = some t → trapIsFatal (x.warp s) = true →
    ∃ u, exec (.fatalHalt x.core x.wslot) s = .next (abort u (x.warp s).part (x.warp s).grid t.pc) ∧ HaltedFatally s u x t) ∧
  (∀ (s : State) (core g : Nat) (y : Group), g < 64 → groupAt s core g = some y → exited s core g y = false →
    ∃ t, exec (.debugRequest core g) s = .next t ∧ Undisturbed s t ∧
      OnlyGroup s t core g { y with saving := if y.saving = some 3 then some 3 else some 2 } ∧
      ∀ ws, warpAt? t core ws = (warpAt? s core ws).map (fun w =>
        if w.gslot = some g ∧ isHalt y.saving = false then { w with skid := 0, raisedHalt := false } else w)) ∧
  (∀ (s : State) (core ws : Nat) (w : Warp), warpAt? s core ws = some w → w.gslot = none →
    ∃ t, exec (.debugRequest core (64 + ws)) s = .next t ∧ Undisturbed s t ∧
      warpAt? t core ws = some { w with
        saving := if w.saving = some 3 then some 3 else some 2, skid := if isHalt w.saving = true then w.skid else 0,
        raisedHalt := if isHalt w.saving = true then w.raisedHalt else false }) ∧
  (∀ (s : State) (part num q seq : Nat) (g : Grid), lookup (partOf s part).grids num = some g → g.src = some (q, seq) →
    ∃ t, exec (.gridAbort part num) s = .next t ∧ lookup (partOf t part).grids num = none ∧
      (partOf t part).notif.getLast?.map (fun e => (e.typ, e.asid, e.arg0, e.arg1)) =
        some (2, g.asid, q * 2 ^ 58 + seq, num) ∧
      ∀ c k y, groupAt t c k = some y → y.part = part → y.grid = num → y.saving = some 3) ∧
  (∀ (s : State) (core g ring : Nat) (y : Group),
    groupAt s core g = some y → (upto 3).find? (fun i => (ringOf y i).owes) = some ring →
    engineWarp (coreOf s core) g = none → y.saving = none →
    ∃ u, exec (.engineFaultTrap core g) s = .next (abort u y.part y.grid 0#57) ∧
      OnlyGroup s u core g (setRing y ring { ringOf y ring with owes := false }) ∧ Undisturbed s u) ∧
  (∀ (s : State) (core g ring ws : Nat) (y : Group) (w : Warp) (p : PathAt),
    groupAt s core g = some y → (upto 3).find? (fun i => (ringOf y i).owes) = some ring →
    engineWarp (coreOf s core) g = some ws → warpAt? s core ws = some w → y.saving = none → HandlerReady w →
    w.trapPend = none → delivered s core ws w = [] → w.stall = [] → boundaryPath s core ws = some p →
    ∃ u w', exec (.engineFaultTrap core g) s = .next u ∧ warpAt? u core ws = some w' ∧
      TrapEntered w w' { code := 9, detail := ring, aux := statHi y ring / 2 ^ 16 % 256, mask := p.mask, elem := 0, addr := 0,
                         inst := 0, pc := p.pc, len := lengthAt s core ws p.pc } ∧
      OnlyGroup s u core g (setRing y ring { ringOf y ring with owes := false })) ∧
  (∀ (s : State) (core ws g : Nat) (w : Warp) (r : Imprecise) (y : Group),
    warpAt? s core ws = some w → w.imp = some r → r.since + 256 ≤ cycOf s core → w.gslot = some g →
    groupAt s core g = some y → (coreOf s core).impq = [] →
    ((∃ e ∈ s.reqs, e.2.core = core ∧ e.2.wslot = ws ∧ e.2.op.isWrite = true) →
      ∃ t e, exec (.impreciseRecordWrite core ws) s = .next t ∧ Undisturbed s t ∧
        warpAt? t core ws = some { w with imp := none } ∧ (coreOf t core).impq = [e] ∧
        (e.fplog, e.pcb, e.flags, e.group, e.windex, e.isCont) = (w.fplog, r.pcb, r.flags, y.linear, w.windex, w.isCont)) ∧
    ((∀ e ∈ s.reqs, ¬ (e.2.core = core ∧ e.2.wslot = ws ∧ e.2.op.isWrite = true)) → (∀ e ∈ w.lanes, e.2.saw = []) →
      (w.fplog.getLsbD 63 = false → ∃ t, exec (.impreciseRecordWrite core ws) s = .next t ∧ Undisturbed s t ∧
        warpAt? t core ws = some { w with imp := none } ∧ (coreOf t core).impq = []) ∧
      (∀ (n seq : Nat) (u v : State), w.fplog.getLsbD 63 = true → n = fld w.fplog 58 5 → 4 ≤ n → n ≤ 20 →
        v = modCore (modWarp s core ws (fun w => { w with imp := none })) core (fun c => { c with impq := c.impq ++ [
          { part := w.part, asid := w.asid, grid := w.grid, fplog := w.fplog, pcb := r.pcb, flags := r.flags,
            group := y.linear, windex := w.windex, isCont := w.isCont, after := [] }] }) →
        homeRmw v (warpWho core w) .rw (BitVec.ofNat 57 (fld w.fplog 6 51 * 64)) 24 [] (fun bs =>
          if (leAt bs 0 8 + 2 ^ 64 - leAt bs 8 8) % 2 ^ 64 < 2 ^ n then
            (toBytes 8 (leAt bs 0 8 + 1) ++ bs.drop 8, some (leAt bs 0 8))
          else (bs.take 16 ++ toBytes 8 (leAt bs 16 8 + 1), (none : Option Nat))) = (.ok (some seq), u) →
        exec (.impreciseRecordWrite core ws) s = .next (modCore (writeN u (warpWho core w)
          (BitVec.ofNat 57 (fld w.fplog 6 51 * 64) + BitVec.ofNat 57 (64 + 16 * (seq % 2 ^ n)))
          (toBytes 8 (r.pcb * 32 + r.flags.toNat) ++ toBytes 8 (y.linear * 2 ^ 32 + w.windex * 2 ^ 27 +
            (if w.isCont = true then 2 ^ 26 else 0) + (if nbit seq n = true then 0 else 2 ^ 25) + core))).2 core
          (fun c => { c with impq := [] })))))

/-- 17 R454 to R463, R467, 16 R430: an answer of system software is kept with its record or its slot, or aborts the grid; HOLD
marks what is to be saved and RELEASE lets it go on; a settled group is saved to the lowest free slot and leaves its core,
and is restored from it. The model's own choices: REASON 0 for a group that yields its room (log 39), children and rings kept
beside the slot (log 40), and which units a HOLD waits for (log 41). -/
def Obligations.UnitsAreAnsweredSavedAndRestored : Prop :=
  (∀ (i : Instr) (s : State) (part key act : Nat) (r : FaultRec),
    (i = .replay part 0 key ∧ act = 0 ∨ i = .deliver part 0 key ∧ act = 1 ∨ i = .abort part 0 key ∧ act = 2) →
    (partOf s part).faults.find? (fun r => r.seq == key && r.answer.isNone) = some r → r.engine = none → r.unit < slotUnit 0 →
    ∃ t, exec i s = .next t ∧ OnlyPart s t part { partOf s part with
      faults := (partOf s part).faults.map (fun q =>
        if q.seq = key ∧ q.answer.isNone = true then { q with answer := some act } else q) }) ∧
  (∀ (i : Instr) (s : State) (part key : Nat) (sl : SaveSlot),
    (i = .replay part 1 key ∨ i = .deliver part 1 key) →
    lookup (partOf s part).slots key = some sl → sl.answered = false → sl.fatal = false →
    ∃ t, exec i s = .next t ∧ OnlyPart s t part { partOf s part with
      slots := (partOf s part).slots.map (fun e =>
        if e.2.lead = sl.lead then (e.1, { e.2 with answered := true }) else e) }) ∧
  (∀ (s : State) (part key : Nat) (sl : SaveSlot),
    lookup (partOf s part).slots key = some sl → sl.answered = false →
    exec (.abort part 1 key) s = .next (if sl.fatal = true
      then setPart s part { partOf s part with slots := remove (partOf s part).slots key }
      else abort s part sl.grid 0#57)) ∧
  (∀ (s : State) (part asid : Nat), holdBusy (partOf s part) = false → asid < 4096 →
    ∃ t, exec (.hold part asid) s = .next t ∧ asid ∈ (partOf t part).held ∧ holdBusy (partOf t part) = true ∧
      t.dram = s.dram ∧ t.root = s.root ∧
      ∀ c k, groupAt t c k = (groupAt s c k).map (fun y =>
        if y.part = part ∧ y.asid = asid ∧ exited s c k y = false then { y with saving := some (y.saving.getD 0) } else y)) ∧
  (∀ (s : State) (part asid : Nat), holdBusy (partOf s part) = false → asid < 4096 →
    ∃ t, exec (.release part asid) s = .next t ∧ OnlyPart s t part { partOf s part with
      held := (partOf s part).held.filter (· != asid) }) ∧
  (∀ (s : State) (part v : Nat), v = (partOf s part).w64 oPRESTAT → nbit v 63 = true →
    (∀ e ∈ s.cores, unacked s part (nbits v 32 12) e.1 e.2 = false) →
    ∃ t, exec (.holdCompletion part) s = .next t ∧ { t with parts := s.parts } = s ∧ holdBusy (partOf t part) = false ∧
      (partOf t part).notif = (partOf s part).notif ++
        [{ typ := 3, asid := nbits v 32 12, arg0 := v % 2 ^ 63, arg1 := 0, since := (partOf s part).clock }]) ∧
  (∀ (s : State) (core g : Nat) (y : Group),
    g < 64 → groupAt s core g = some y → y.saving = none → y.members = [] → yieldsToProducer s core g y = true →
    ∃ t, exec (.swapOut core g) s = .next t ∧ Undisturbed s t ∧ OnlyGroup s t core g { y with saving := some 0 }) ∧
  (∀ (i : Instr) (s : State) (core g r slot : Nat) (slots : List Nat) (y : Group),
    (i = .groupSave core g ∨ i = .swapOut core g ∧ r = 1) → g < 64 → groupAt s core g = some y → y.saving = some r →
    exited s core g y = false → y.members = [] → freeSlotsOf (partOf s y.part) = slot :: slots → groupSettled s core g y = true →
    (partOf s y.part).faults = [] →
    ∃ t sl, exec i s = .next t ∧ groupAt t core g = none ∧ (∀ ws w, warpAt? t core ws = some w → w.gslot ≠ some g) ∧
      lookup (partOf t y.part).slots slot = some sl ∧ sl.reason = r ∧ sl.asid = y.asid ∧ sl.grid = y.grid ∧
      sl.linear = y.linear ∧ sl.children = y.children ∧ sl.rings = y.rings ∧ sl.answered = (r != 2 && r != 3)) ∧
  (∀ (s : State) (part slot core : Nat) (sl : SaveSlot) (gr : Grid),
    lookup (partOf s part).slots slot = some sl → lookup (partOf s part).grids sl.grid = some gr →
    mayReenter (partOf s part) sl = true → slot = sl.lead → sl.linear ≠ 0xFFFFFFFF → setSlots (partOf s part) sl.lead = [slot] →
    coreFits s part core gr.rec_ (slotCounts s part slot).1 = true →
    (coreOf s core).contq.length + (slotCounts s part slot).2 ≤ contQueueSize → inTurn s part (dieOf core) sl.grid gr = true →
    ∃ t k y, exec (.groupRestore part slot core) s = .next t ∧ groupAt t core k = some y ∧ y.part = part ∧
      y.grid = sl.grid ∧ y.linear = sl.linear ∧ y.children = sl.children ∧ y.saving = none ∧
      lookup (partOf t part).slots slot = none ∧ (coreOf t core).l1 = [])

/-! ### Resources -/

/-- 18 R470 to R487: root firmware's commands move a resource from state to state, and are refused by their code otherwise; a list
commit begins its sweep and the sweep ends it; a core gives up its work, a channel's set its ranges; zeroing leaves nothing;
a lost dirty block ends the partition's grids. The codes of commands in a wrong state, the core that takes a draining core's records,
and a sweep that ends in one step are the model's own choices (logs 47, 41). -/
def Obligations.ResourcesChangeHands : Prop :=
  (∀ (s : State) (kind part index : Nat), index < resCount kind → part < 16 →
    (resState s kind index = rFREE → ∃ t, exec (.assign kind part index) s = .next t ∧ Answered t cOK ∧ t.cores = s.cores ∧
      BecameRes s t kind index rASSIGNED part) ∧
    (resState s kind index ≠ rFREE → ∃ t, exec (.assign kind part index) s = .next t ∧ Answered t cSTATE ∧
      { t with root := s.root } = s) ∧
    (resIs s kind index rASSIGNED part = true → ∃ t, exec (.cancel kind part index) s = .next t ∧ Answered t cOK ∧
      t.cores = s.cores ∧ BecameRes s t kind index rFREE part) ∧
    (kind = kCORE → resIs s kind index rASSIGNED part = true → ∃ t, exec (.enable kind part index) s = .next t ∧
      Answered t cOK ∧ t.cores = s.cores ∧ BecameRes s t kind index rOWNED part) ∧
    (kind ≠ kCORE → ∃ t, exec (.enable kind part index) s = .next t ∧ Answered t cSTATE ∧ { t with root := s.root } = s)) ∧
  (∀ (i : Instr) (s : State) (kind part index : Nat),
    (i = .assign kind part index ∨ i = .cancel kind part index ∨ i = .enable kind part index) →
    resCount kind ≤ index ∨ 16 ≤ part →
    ∃ t, exec i s = .next t ∧ Answered t cFORMAT ∧ { t with root := s.root } = s) ∧
  (∀ (s : State) (v : Nat), v / 2 ^ 60 % 16 = 0 ∨ 7 ≤ v / 2 ^ 60 % 16 ∨ v / 2 ^ 8 % 2 ^ 46 ≠ 0 →
    exec (.registerWrite true 0 12 0 v) s = .next { s with root := { s.root with rszstat := BitVec.ofNat 32 cFORMAT } }) ∧
  (∀ (s : State) (part index : Nat) (left : List Nat), index < 192 → part < 16 →
    left = (ownedCores s part).filter (· != index) → resIs s kCORE index rOWNED part = true →
    (left = [] → ∃ t, exec (.releaseCore part index) s = .next t ∧ Answered t cLAST ∧ { t with root := s.root } = s) ∧
    (left ≠ [] → quadsLeft s part left = true → ∃ t, exec (.releaseCore part index) s = .next t ∧ Answered t cOK ∧
      BecameRes s t kCORE index rDRAINING part ∧
      ∀ k, groupAt t index k = (groupAt s index k).map (fun y =>
        if y.part = part ∧ exited s index k y = false then { y with saving := some (y.saving.getD 4) } else y))) ∧
  (∀ (s : State) (part index c : Nat), index < 64 → part < 16 → setValid s part index = true → setChans s index = [c] →
    resIs s kCHAN c rOWNED part = true →
    (∃ o, o < 64 ∧ setValid s part o = true ∧ o ∉ setSlotsOf s index) →
    ∃ t, exec (.releaseChannel part index) s = .next t ∧ Answered t cOK ∧ t.cores = s.cores ∧
      BecameRes s t kCHAN c rDRAINING part) ∧
  (∀ (s : State) (slot v : Nat) (w : Word), slot < 64 → w = BitVec.ofNat 32 v &&& 0xFFFF003F#32 → chValid w = true →
    chLsz w ≠ 7 → resIs s kCHAN (chChan w) rASSIGNED (chPart w) = true →
    ∃ t, exec (.chmapWrite slot v) s = .next t ∧ chEntry t slot = w ∧ (∀ o, o ≠ slot → chEntry t o = chEntry s o) ∧
      t.dram = s.dram ∧ BecameRes s t kCHAN (chChan w) rOWNED (chPart w)) ∧
  (∀ (s : State) (part index c : Nat), index < 64 → part < 16 → setValid s part index = true → setChans s index = [c] →
    resIs s kCHAN c rDRAINING part = true → setBusy s part (setSlotsOf s index) = false →
    ∃ t, exec (.chcommit part index) s = .next t ∧ Answered t cOK ∧ t.cores = s.cores ∧
      (∀ o ∈ setSlotsOf s index, chEntry t o = 0#32) ∧ (∀ o, o ∉ setSlotsOf s index → chEntry t o = chEntry s o) ∧
      resWord t kCHAN c = BitVec.ofNat 32 (part * 16 + rZEROING)) ∧
  (∀ (s : State) (part : Nat) (l : List Nat), part < 16 → slBusy s part = false → newList s part = some l → l ≠ [] →
    ∃ t, exec (.slcommit part) s = .next t ∧ Answered t cOK ∧ t.cores = s.cores ∧ t.dram = s.dram ∧ slBusy t part = true ∧
      slBank t part = 1 - slBank s part ∧ slGen t part = (slGen s part + 1) % 256 ∧
      (∀ i ∈ l, resIs t kSLICE i rOWNED part = true) ∧
      (∀ i, i < 128 → i ∉ l → resIs s kSLICE i rOWNED part = true → resIs t kSLICE i rDRAINING part = true)) ∧
  (∀ (s : State) (part : Nat), part < 16 → slBusy s part = true → exec (.slcommit part) s =
    .next { s with root := { s.root with rszstat := BitVec.ofNat 32 cSWEEP } }) ∧
  (∀ (s : State) (part atag vb o h : Nat) (b : L2Block),
    oldHome s part vb atag = some o → homeSlice s part vb atag = some h → l2Find s o part atag vb = some b →
    ∃ t, exec (.blockMove part atag vb) s = .next t ∧ t.cores = s.cores ∧ t.root = s.root ∧
      (o = h ∨ tooBig s b = false → HoldsBlock t h { b with gen := slGen s part })) ∧
  (∀ (s : State) (part : Nat), slBusy s part = true → oldBlocks s part = [] →
    (∀ e ∈ s.reqs, e.2.part = part → getD 0 s.root.sweepId part ≤ e.1) →
    ∃ t, exec (.sweep part) s = .next t ∧ t.cores = s.cores ∧ t.l2 = s.l2 ∧ slBusy t part = false ∧
      slGen t part = slGen s part ∧
      ∀ i, i < 128 → resIs s kSLICE i rDRAINING part = true → resWord t kSLICE i = BitVec.ofNat 32 (part % 16 * 16 + rZEROING)) ∧
  (∀ (s : State) (index part : Nat), index < 192 → part = resPart s kCORE index → resState s kCORE index = rDRAINING →
    coreQuiet s index = true →
    ((coreOf s index).contq = [] → (coreOf s index).retire = [] →
      ∃ t, exec (.drainComplete 0 index) s = .next t ∧ t.cores = s.cores ∧ BecameRes s t kCORE index rZEROING part) ∧
    (∀ d, (coreOf s index).contq ≠ [] → drainTarget s part index = some d →
      ∃ t, exec (.drainComplete 0 index) s = .next t ∧ BecameRes s t kCORE index rZEROING part ∧
        (coreOf t index).contq = [] ∧ (coreOf t d).contq = (coreOf s d).contq ++
          ((coreOf s index).contq.foldr insertRank []).map (fun r => { r with since := cycOf s d, core := d }))) ∧
  (∀ (s : State) (kind index : Nat), index < resCount kind → resState s kind index = rZEROING →
    ∃ t, exec (.zeroingComplete kind index) s = .next t ∧ BecameRes s t kind index rFREE (resPart s kind index) ∧
      (kind = kCORE → coreOf t index =
        { Core.init with cyc := cycOf s index, lastQ := (coreOf s index).lastQ, spadCorr := (coreOf s index).spadCorr }) ∧
      (kind = kSLICE → t.l2 = s.l2.filter (fun e => e.1 / 3072 != index)) ∧
      (kind = kCHAN → Memory.wf s.dram.mem = true →
        ∀ a, rowKey index 0 0 0 ≤ a → a < rowKey (index + 1) 0 0 0 → bankByte t a = 0#8)) ∧
  (∀ (s : State) (part slice vb : Nat) (rest : List (Nat × Nat)), (partOf s part).fatal = (slice, vb) :: rest →
    ∃ t, exec (.partFatal part) s = .next t ∧ (∀ n, lookup (partOf t part).grids n = none) ∧
      (∀ q, q < 64 → win32 t part (oLQSTAT q) = 2 ^ 31 + 2) ∧
      (partOf t part).notif.getLast?.map (fun e => (e.typ, e.arg0, e.arg1)) = some (7, slice, vb % 2 ^ 50))

/-! ### The host, other nodes and the module -/

/-- 18 R490 to R494, 22 R507, R510, R511, R514 to R519, R521: batches of notifications go out on queue pair 0; contexts start;
messages of the host are served in their sequence at their targets and repeated ones answered again, accesses of other nodes are
served and answered on the port they came in on; reports and dumps are written; and resets, fatal errors and thermal limits do what
boot and firmware describe. The model's own choices: the layout of messages, of duplicates and of the dump's region (log 49),
the measures that boot takes (log 51), the numbers of a peer's accesses (log 50), and thermal levels and clock steps (log 52). -/
def Obligations.TheHostAndOtherNodesAreServed : Prop :=
  (∀ (i : Instr) (s : State) (part n : Nat) (p : Part), p = partOf s part →
    (i = .notificationBatch part ∧ n = nqBatch p ∧ n ≤ p.notif.length ∨
     i = .notificationInterval part ∧ n = min (nqBatch p) p.notif.length ∧ nqIval p ≠ 0 ∧
       (∃ e es, p.notif = e :: es ∧ e.since + nqIval p ≤ p.clock)) → mayBatch p n = true →
    ∃ t, exec i s = .next t ∧ { t with parts := s.parts } = s ∧ (partOf t part).notif = p.notif.drop n ∧
      win32 t part oNQTAIL = (p.w32 oNQTAIL + n) % 2 ^ 32 ∧
      (∀ k e, k < n → p.notif[k]? = some e → (partOf t part).sent[p.sent.length + k]? = some
        { addr := p.w64 oNQADDR + 32 * ((p.w32 oNQTAIL + k) % 2 ^ 32 % nqSize p), rkey := p.w64 oNQCTL / 2 ^ 32,
          data := noteBytes p ((p.w32 oNQTAIL + k) % 2 ^ 32) e, imm := none,
          psn := (((lookup p.qps 0).map QPair.sq).getD 0 + k) % 2 ^ 24 }) ∧
      (partOf t part).sent.getLast? = some
        { addr := p.w64 oNQADDR, rkey := p.w64 oNQCTL / 2 ^ 32, data := [], imm := some ((p.w32 oNQTAIL + n) % 2 ^ 32),
          psn := (((lookup p.qps 0).map QPair.sq).getD 0 + n) % 2 ^ 24 }) ∧
  (∀ (s : State) (part : Nat) (q : QPair), (partOf s part).sent ≠ [] → lookup (partOf s part).qps 0 = some q →
    q.failed = false →
    ∃ t, exec (.requesterRetry part) s = .next t ∧ { t with parts := s.parts } = s ∧
      (partOf t part).sent = (partOf s part).sent ∧ lookup (partOf t part).qps 0 = some
        (if q.tries < nbits (leAt q.ctx 0 8) 56 4 then { q with tries := q.tries + 1 } else { q with failed := true })) ∧
  (∀ (s u : State) (part i : Nat) (bs : List Byte), readContext s part i = (some bs, u) →
    (nbit (leAt bs 0 8) 63 = true → contextOk bs = true → contextRetryOk bs = true → lookup (partOf u part).qps i = none →
      ∃ t, exec (.qpContextEnable part i) s = .next t ∧ { t with parts := u.parts } = u ∧
        lookup (partOf t part).qps i = some { ctx := bs, sq := leAt bs 8 8 % 2 ^ 24, eq := leAt bs 32 8 % 2 ^ 24,
                                              failed := false, tries := 0, reply := (0, []), last := none,
                                              said := (0, []) }) ∧
    (nbit (leAt bs 0 8) 63 = false →
      ∃ t, exec (.qpContextEnable part i) s = .next t ∧ lookup (partOf t part).qps i = none)) ∧
  (∀ (s u : State) (part rkey addr i : Nat) (qp : PacketHdr) (data : List Byte) (q : QPair),
    contextFor s part qp = some (i, q) → qp.psn = q.eq →
    (rkey = 0 ∧ addr + data.length ≤ 65536 ∧
       u = (windowSteps addr data.length).foldl (fun s o => winWrite8 s part o (leAt data (o - addr) 8)) s ∨
     rkey = 1 ∧ inSharedWindow addr data.length = true ∧
       writeN s { part := part, asid := 0, path := .H, ap := false } (BitVec.ofNat 57 addr) data = (.ok (), u) ∨
     rkey = 2 ∧ localRange s addr data.length = true ∧ writeN s (devWho part) (apertureVA addr) data = (.ok (), u)) →
    (∃ t, exec (.rdmaWrite part qp rkey addr data) s = .next t ∧ { t with parts := u.parts } = u ∧
      lookup (partOf t part).qps i = some { q with
        eq := (q.eq + packets q data.length) % 2 ^ 24, reply := (0, []), last := some q.eq, said := (0, []) }) ∧
    (∀ imm, ∃ t, exec (.rdmaWriteWithImmediate part qp rkey addr data imm) s = .next t ∧ { t with parts := u.parts } = u ∧
      win32 t part (oLQTAIL (imm / 2 ^ 26 % 64)) =
        (win32 u part (oLQTAIL (imm / 2 ^ 26 % 64)) +
          (imm % 2 ^ 26 + 2 ^ 32 - win32 u part (oLQTAIL (imm / 2 ^ 26 % 64)) % 2 ^ 26) % 2 ^ 26) % 2 ^ 32)) ∧
  (∀ (s u : State) (part rkey addr i n : Nat) (qp : PacketHdr) (bs : List Byte) (q : QPair),
    contextFor s part qp = some (i, q) → qp.psn = q.eq →
    (rkey = 1 ∧ inSharedWindow addr n = true ∧
       readN s { part := part, asid := 0, path := .H, ap := false } (BitVec.ofNat 57 addr) n = (.ok bs, u) ∨
     rkey = 2 ∧ localRange s addr n = true ∧ readN s (devWho part) (apertureVA addr) n = (.ok bs, u)) →
    ∃ t, exec (.rdmaRead part qp rkey addr n) s = .next t ∧ { t with parts := u.parts } = u ∧
      lookup (partOf t part).qps i = some { q with
        eq := (q.eq + packets q n) % 2 ^ 24, reply := (0, bs), last := some q.eq, said := (0, bs) }) ∧
  (∀ (i : Instr) (s : State) (part rkey addr : Nat) (qp : PacketHdr) (data : List Byte) (k : Nat) (q : QPair),
    (i = .rdmaWrite part qp rkey addr data ∨ i = .rdmaRead part qp rkey addr data.length) →
    contextFor s part qp = some (k, q) →
    (qp.psn = q.eq → 3 ≤ rkey ∨ rkey = 2 ∧ localRange s addr data.length = false →
      ∃ t, exec i s = .next t ∧ { t with parts := s.parts } = s ∧
        (lookup (partOf t part).qps k).map (·.said) = some (1, [])) ∧
    (qp.psn ≠ q.eq → ∃ t, exec i s = .next t ∧ { t with parts := s.parts } = s ∧
      lookup (partOf t part).qps k = some { q with said := if q.last = some qp.psn then q.reply else (4, []) })) ∧
  (∀ (i : Instr) (s : State) (part rkey addr : Nat) (qp : PacketHdr) (data : List Byte),
    (i = .rdmaWrite part qp rkey addr data ∨ i = .rdmaRead part qp rkey addr data.length) →
    contextFor s part qp = none → exec i s = .next s) ∧
  (∀ (s u : State) (tag : PeerTag) (addr p : Nat) (data bs : List Byte) (who : Who),
    tag.port < 144 → (portOf s tag.port).up = true →
    (upto 16).find? (fun p => fgpOn s p && fgpGid s p == tag.gid) = some p → nodeOf addr = s.root.node →
    meetsWindow addr (max 1 data.length) = false →
    who = { part := p, asid := 0, path := .F, ap := true, port := some tag.port } →
    (readN s who (apertureVA addr) data.length = (.ok bs, u) →
      exec (.fabricAccessArrival tag 0 addr data) s = .next
        { sendOn u tag.port tag.gid (headAt addr ++ [0#8]) (peerLoad u p (apertureVA addr) bs) with peerReply := (0, bs) }) ∧
    (writeN s who (apertureVA addr) data = (.ok (), u) →
      exec (.fabricAccessArrival tag 1 addr data) s = .next
        { sendOn u tag.port tag.gid (headAt addr ++ [0#8]) .none with peerReply := (0, []) })) ∧
  (∀ (s : State) (tag : PeerTag) (kind addr : Nat) (data : List Byte),
    (144 ≤ tag.port ∨ (portOf s tag.port).up = false → exec (.fabricAccessArrival tag kind addr data) s = .next s) ∧
    (tag.port < 144 → (portOf s tag.port).up = true → (∀ p, p < 16 → (fgpOn s p && fgpGid s p == tag.gid) = false) →
      exec (.fabricAccessArrival tag kind addr data) s = .next
        { sendOn s tag.port tag.gid (headAt addr ++ [1#8]) .none with peerReply := (1, []) })) ∧
  (∀ (s : State) (part v a : Nat) (report : List Byte), (partOf s part).att = some a →
    report = reportBody s part ++ sliceBytes (Config.signature (reportBody s part)) 0 64 →
    exec (.attestationRequest part v) s = .next
      (writePA (writePA (setPart s part { partOf s part with att := none }) part a (report.take 252)).2 part (a + 252)
        (report.drop 252)).2) ∧
  (∀ (i : Instr) (s : State), i = .coldReset ∨ i = .warmReset →
    ∃ t, exec i s = .next t ∧ { t with root := Root.init, ports := [] } =
        { State.reset with agenda := s.agenda, tick := s.tick, nextId := s.nextId } ∧
      { t.root with m0 := zero32, m1 := zero32, bootStep := 0, heldInReset := false } = Root.init ∧
      t.root.m0 = sliceBytes (Config.digest (Config.image 0)) 0 32 ∧
      (Config.imageOk 0 = false ∨ 262144 < (Config.image 0).length →
        t.root.heldInReset = true ∧ t.root.bootStep = 1 ∧ t.root.m1 = zero32 ∧ t.ports = []) ∧
      (Config.imageOk 0 = true → (Config.image 0).length ≤ 262144 →
        (bootTrained s.tick = false → t.root.heldInReset = true ∧ t.root.bootStep = 2 ∧ t.root.m1 = zero32 ∧ t.ports = []) ∧
        (bootTrained s.tick = true → Config.imageOk 1 = false →
          t.root.heldInReset = true ∧ t.root.bootStep = 3 ∧ t.root.m1 = zero32 ∧ t.ports = []) ∧
        (bootTrained s.tick = true → Config.imageOk 1 = true →
          t.root.heldInReset = false ∧ t.root.bootStep = 4 ∧ t.root.m1 = sliceBytes (Config.digest (Config.image 1)) 0 32 ∧
          (∀ a b, a < 5 → b < 5 → a ≠ b → (portOf t (dieLink a b)).up = true ∧ (portOf t (dieLink a b)).packed = true) ∧
          ∀ i, i < 144 → (portOf t i).up = decide (Config.training s.tick i % 3 ≠ 0)))) ∧
  (∀ (s u : State) (reason a p : Nat) (bs : List Byte) (r : Except AccErr Unit), reason ∈ [1, 2, 3, 5] →
    a = s.root.dumpbase.toNat → p = chPart (chEntry s (nbits a 34 6)) →
    bs = dumpBytes s reason (Config.freeValue s.tick 0 % 2 ^ 64) → writePA s p (a + 64) (bs.drop 64) = (r, u) →
    exec (.moduleFatalError reason) s = .next { (writePA u p a (bs.take 64)).2 with
      root := { (writePA u p a (bs.take 64)).2.root with dump := bs } } ∧
    leAt bs 0 4 = 0x58445655 ∧ leAt bs 4 2 = 1 ∧ leAt bs 6 2 = 6 ∧ leAt bs 8 8 = reason) ∧
  (∀ (s : State),
    exec (.thermalLimit 0) s = .next { s with root := { s.root with coreClock := 14, cameoSlow := false } } ∧
    exec (.thermalLimit 1) s = .next { s with root := { s.root with coreClock := max 1 (s.root.coreClock - 1) } } ∧
    exec (.thermalLimit 2) s = .next { s with root := { s.root with cameoSlow := true } } ∧
    ∃ t, exec (.thermalLimit 3) s = .next t ∧ t.root.heldInReset = true ∧ leAt t.root.dump 8 8 = 4)

/-! ### Heads and line cores -/

/-- 13 R361 to R363, 14 R365 to R371, R374, R378, R381, R385 to R392: heads are enabled and disabled, take up configurations, load
images and start frames; latches, bands, their abandonment and their fallback follow the scan; rows of streams and products
of the matrix engine come and go. The model's own choices: a block with LOAD alone is a bad configuration, addresses outside the
shared window, late pixels of a fallback, and which of the waiting writes of a stream is answered (log 54), with the points of the
arithmetic that are left to be read (log 31). -/
def Obligations.HeadsRunTheirFrames : Prop :=
  (∀ (s : State) (head v : Nat) (w : Word), head < 12 → w = BitVec.ofNat 32 v ||| 0x80000000#32 →
    (headOf s head).disabling = false → headOn s head = false → w &&& 0xFFFF#32 ≠ 0#32 →
    (∀ o, o < 12 → o ≠ head → headOn s o = true → hdown s o &&& w &&& 0xFFFF#32 = 0#32) →
    ∃ t, exec (.hdownEnable head v) s = .next t ∧ hdown t head = w &&& 0xF800FFFF#32 ∧ headOn t head = true ∧
      headOf t head = Head.init ∧ (∀ k, k < 16 → win32 t (fld w 27 4) (oHDCFG head + 4 * k) = 0) ∧
      ∀ c, c < 16 → lineOf t c =
        if w.getLsbD c = true then
          { LineCore.init with head := some head, snap := (lineOf s c).snap, late := (lineOf s c).late } else lineOf s c) ∧
  (∀ (s : State) (head v : Nat), head < 12 → (headOf s head).disabling = false → headOn s head = false → v < 2 ^ 31 →
    exec (.registerWrite true head 13 0 v) s = .next { s with root := { s.root with
      hdown := setD 0#32 s.root.hdown head (BitVec.ofNat 32 v &&& 0x7800FFFF#32) } }) ∧
  (∀ (s : State) (head : Nat), head < 12 → headOn s head = true → (headOf s head).disabling = false →
    ((headOf s head).configured = true → ∃ t, exec (.hdownDisable head) s = .next t ∧ t.lcs = s.lcs ∧ t.parts = s.parts ∧
      hdown t head = hdown s head ||| 0x04000000#32 ∧ headOf t head = { headOf s head with disabling := true }) ∧
    ((headOf s head).configured = false → ∃ t, exec (.hdownDisable head) s = .next t ∧ headOn t head = false ∧
      headOf t head = Head.init ∧ ∀ c, c < 16 → (hdown s head).getLsbD c = true →
        (lineOf t c).head = none ∧ ∀ e x, lookup (lineOf t c).engs e = some x → x.halted = true)) ∧
  (∀ (s : State) (head : Nat) (c : List Byte), headOn s head = true → (headOf s head).configured = false →
    c = hdcfgBytes s head →
    (cfgOk c = true → ∃ t, exec (.hdcfgPoll head) s = .next t ∧ (headOf t head).configured = true ∧
      (headOf t head).cfg = c ∧ (headOf t head).f = (headOf s head).f ∧
      (headOf t head).prescnt = ((headOf s head).prescnt + 1) % 2 ^ 32) ∧
    (cfgOk c = false → leAt c 0 64 ≠ 0 → c ≠ (headOf s head).cfgSeen → (headOf s head).events = [] → openRows s head = [] →
      ∃ t, exec (.hdcfgPoll head) s = .next t ∧
      headOf t head = { headOf s head with cfgSeen := c } ∧
      ((partOf s (headPart s head)).notif.length < 1024 → (partOf t (headPart s head)).notif =
        (partOf s (headPart s head)).notif ++ [⟨5, 0, 0, 4 * 2 ^ 56 + head * 2 ^ 52 + (headOf s head).prescnt,
          (partOf s (headPart s head)).clock⟩]))) ∧
  (∀ (s : State) (head : Nat) (h : Head), h = headOf s head → headOn s head = true → h.configured = true →
    h.line + 1 = cfgVtot h.cfg → latchDue h = false → presentedBy h (h.scanned + 1) = true →
    (h.disabling = true → ∃ t, exec (.frameStart head) s = .next t ∧ headOn t head = false ∧ headOf t head = Head.init) ∧
    (h.disabling = false → ∃ t, exec (.frameStart head) s = .next t ∧ (headOf t head).f = h.f + 1 ∧
      (headOf t head).line = 0 ∧ (headOf t head).scanned = h.scanned + 1 ∧ (headOf t head).bands = [] ∧
      (headOf t head).prescnt = (h.prescnt + 1) % 2 ^ 32 ∧
      ((headOf t head).cfg = if cfgOk (hdcfgBytes s head) = true then hdcfgBytes s head else h.cfg) ∧
      ∀ b r, lookup h.bands b = some 0 ∨ lookup h.bands b = some 4 → bandLatch h h.f b = some r →
        lookup (headOf t head).posesOld b = some r.pose)) ∧
  (∀ (s : State) (head : Nat), headOn s head = true → loadBit s head = true →
    ∃ t, exec (.loadRequest head) s = .next t ∧ OnlyHead s t head { headOf s head with loading := true }) ∧
  (∀ (s u v : State) (head : Nat) (hd body : List Byte) (cs : List (Nat × Nat)),
    headOn s head = true → (headOf s head).loading = true →
    readN s (headWho s head) (cfgProg (hdcfgBytes s head)) 256 = (.ok hd, u) → parseImage hd = some cs →
    readN u (headWho s head) (cfgProg (hdcfgBytes s head) + 256#57) (16 * (cs.map (·.1)).foldl (· + ·) 0) = (.ok body, v) →
    headPart v head = headPart s head → (headOf v head).events = [] → openRows v head = [] →
    ∃ t, exec (.loaded head) s = .next t ∧
      headOf t head = { headOf v head with loading := false, newImage := some (hd ++ body) } ∧ loadBit t head = false) ∧
  (∀ (s u : State) (head : Nat) (bs : List Byte) (h : Head), h = headOf s head → headOn s head = true →
    h.configured = true → latchDue h = true → readN s (headWho s head) (cfgLocket h.cfg) 128 = (.ok bs, u) →
    headOf u head = h →
    ∃ t r, exec (.locketLatch head) s = .next t ∧
      lookup (headOf t head).latches (h.nextLatchF * 1024 + h.nextLatchB) = some r ∧ (headOf t head).lastLatch = some r ∧
      ∀ b, (b = sliceBytes bs 0 64 ∧ bufValid (sliceBytes bs 64 64) = false ∨
            b = sliceBytes bs 64 64 ∧ bufValid (sliceBytes bs 0 64) = false) → bufValid b = true →
        r.seq = BitVec.ofNat 32 (leAt b 0 4) ∧ r.tag = BitVec.ofNat 64 (leAt b 32 8) ∧ r.pose = normalPose (poseAt b 4)) ∧
  (∀ (s : State) (lc hn b : Nat) (l : LineCore) (h : Head), l = lineOf s lc → l.head = some hn → h = headOf s hn →
    nextBand s lc = some b → headOn s hn = true → h.configured = true → l.susp = false → l.band = none → l.landings = [] →
    lookup h.bands b = none → (h.scanned : Int) < deadline h h.f b - 1 → h.haveImage = true →
    ∃ t l', exec (.bandStart lc) s = .next t ∧ OnlyLine s t lc l' ∧
      (l'.band.map (fun x => (x.head, x.f, x.b, x.pbFail))) = some (hn, h.f, b, false) ∧ l'.fifos = [] ∧ l'.streams = [] ∧
      l'.mq = [] ∧ l'.tiles = l.tiles ∧ l'.lb = l.lb ∧ (∃ sent, l'.late = l.late ++ sent ∧ ∀ r ∈ sent, r.head = hn) ∧
      getD 0#32 l'.k 7 = BitVec.ofNat 32 hn ∧ getD 0#32 l'.k 16 = BitVec.ofNat 32 b ∧
      ∀ e, e < 4 → ∃ x, lookup l'.engs e = some x ∧ x.pc = getD 0 l.entry e ∧ x.loops = [] ∧
        x.halted = decide (getD 0 l.count e = 0)) ∧
  (∀ (s : State) (lc hn : Nat) (b : Band), (lineOf s lc).head = some hn → (lineOf s lc).band = some b → b.head = hn →
    deadline (headOf s hn) b.f b.b - 1 ≤ (headOf s hn).scanned →
    ∃ t, exec (.bandAbandonment lc) s = .next t ∧ lookup (headOf t hn).bands b.b = some 1 ∧ (lineOf t lc).band = none ∧
      ∀ e x, lookup (lineOf t lc).engs e = some x → x.halted = true) ∧
  (∀ (s : State) (head b o : Nat) (late : Bool) (r : Latch), lookup (headOf s head).bands b = some o → 0 < o → o < 4 →
    bandLatch (headOf s head) (headOf s head).f b = some r →
    deadline (headOf s head) (headOf s head).f b - 1 ≤ (headOf s head).scanned →
    ∃ t, exec (.fallback head b late) s = .next t ∧ lookup (headOf t head).bands b = some 4 ∧
      (headOf t head).miss = ((headOf s head).miss + 1) % 2 ^ 32) ∧
  (∀ (s u : State) (head k f : Nat) (tab : VA), (headOf s head).relOwed.find? (fun p => p.2.1 == k) = some (tab, k, f) →
    openRows s head = [] →
    writeN s (headWho s head) (tab + BitVec.ofNat 57 (128 * k + 12)) (toBytes 4 f) = (.ok (), u) →
    ∃ t, exec (.relfWrite head k) s = .next t ∧ OnlyHead u t head
      { headOf u head with relOwed := (headOf u head).relOwed.erase (tab, k, f) }) ∧
  (∀ (s : State) (lc st hn : Nat) (x : Stream) (l : LineCore), l = lineOf s lc → lookup l.streams st = some x →
    l.head = some hn →
    (∀ bs, x.kind = 2 → x.done_ < x.nrows → x.rows.length < 4 → lbOk (x.rowAt x.done_) (2 * x.nel) = true →
      lbView s.tick l x.eng (some x.bound) (x.rowAt x.done_).toNat (2 * x.nel) = some bs →
      ∃ t, exec (.streamRowFetch lc st) s = .next t ∧ OnlyLine s t lc { l with streams := adjust l.streams st (fun t =>
        { t with rows := t.rows ++ [(none, rowOf x.nel bs)], done_ := t.done_ + 1 }) }) ∧
    (∀ u bs, x.kind = 0 → x.done_ < x.nrows → x.rows.length < 4 →
      readN s (headWho s hn) (BitVec.ofInt 57 (x.rowAt x.done_)) (2 * x.nel) = (.ok bs, u) → lineOf u lc = l →
      ∃ t, exec (.streamRowFetch lc st) s = .next t ∧ OnlyLine u t lc { l with streams := adjust l.streams st (fun t =>
        { t with rows := t.rows ++ [(none, rowOf x.nel bs)], done_ := t.done_ + 1 }) }) ∧
    (∀ row rest, st < 4 → x.kind = 3 → x.rows = row :: rest →
      lbOk (x.rowAt x.done_) (rowBytes x.nel row.2).length = true →
      ∃ t l', exec (.streamRowAnswer lc st) s = .next t ∧ OnlyLine s t lc l' ∧
        l' = { lbPut l x.eng (some (bindKey st x, x.done_)) (x.rowAt x.done_).toNat (rowBytes x.nel row.2) with
          streams := l'.streams } ∧
        ((∀ p ∈ l.lbPast, p.cyc = l.cyc → p.eng ≤ x.eng) →
          l'.lb = writeRun l.lb (x.rowAt x.done_).toNat (rowBytes x.nel row.2)) ∧
        lookup l'.streams st = some { x with rows := rest, done_ := x.done_ + 1 }) ∧
    (∀ u w, st < 4 → x.kind = 1 → x.writes[Config.freeValue s.tick st % x.writes.length]? = some w →
      (writeN s (headWho s hn) w.va w.bytes = (.ok (), u) →
        exec (.streamRowAnswer lc st) s = .next (flushEvents (modLine u lc (fun l =>
          { l with streams := adjust l.streams st (fun t => t.answered w none) })) hn)) ∧
      (∀ e, writeN s (headWho s hn) w.va w.bytes = (.error e, u) → (lineOf u lc).band.isSome = true →
        (headOf u hn).events = [] →
        ∃ t, exec (.streamRowAnswer lc st) s = .next t ∧ { t with lcs := u.lcs, heads := u.heads } = u ∧
          (∀ k, headOf t k = headOf u k) ∧ ∀ k, lineOf t k = if k = lc then { lineOf u lc with
            streams := adjust (lineOf u lc).streams st (fun t => t.answered w (some (errCode e))) } else lineOf u k))) ∧
  (∀ (x : Stream) (w : RowWrite) (ref : Option Nat), x.kind = 1 → w ∈ x.writes →
    ∃ n, (x.answered w ref).rows = x.rows.drop n ∧ (x.answered w ref).done_ = x.done_ + n ∧
      ∀ v ∈ (x.answered w ref).writes, v ∈ x.writes ∧ ¬ (v.row = w.row ∧ v.part = w.part)) ∧
  (∀ (s : State) (lc i c : Nat) (e : MEntry) (l : LineCore), l = lineOf s lc →
    l.mq.findIdx? (fun e => e.started.isSome && e.out.isNone) = some i → l.mq[i]? = some e → e.started = some c →
    c + 8 ≤ l.cyc → e.acc = false →
    ∃ t, exec (.matrixEntryCompletion lc) s = .next t ∧ OnlyLine s t lc
      { l with mq := l.mq.set i { e with out := some (entryProduct l s.tick e []) } }) ∧
  (∀ (s : State) (lc : Nat),
    (∃ t, exec (.suspension lc) s = .next t ∧ OnlyLine s t lc { lineOf s lc with susp := true }) ∧
    ∃ t, exec (.resumption lc) s = .next t ∧ OnlyLine s t lc { lineOf s lc with susp := false })

/-! ### A step -/

/-- 04 R76, 07 R165 to R168, 08 R190, 14 R372, 15 R395, R396, log 1: the bytes at a PC are the instruction that they decode to; a
quadrant's turn that goes to a path, and the second turn of a pair, are `exec` of the instruction that stands at its PC; a
line core's turn is `exec` of the instructions of its engine's bundle, slot by slot, and then their commit; an event's turn is
`exec` of the event; with nothing to act on only the tick moves. -/
def Obligations.StepRunsTheDecodedInstruction : Prop :=
  (∀ (s u : State) (core : Nat) (w : Warp) (pc : VA) (bs : List Byte) (word : DWord) (i : Instr),
    fetchC s core w.part w.asid .inst pc 8 = (.ok bs, u) → word = BitVec.ofNat 64 (ofBytes bs) →
    (wantsLiteral word = false → decodeSuric word 0#64 = .ok i →
      ∃ op f, fetchAt s core w pc = (.ok i op f word 8, u) ∧ f.k = word.extractLsb' 0 2) ∧
    (∀ ls v, wantsLiteral word = true → fetchC u core w.part w.asid .inst (pc + 8#57) 8 = (.ok ls, v) →
      decodeSuric word (BitVec.ofNat 64 (ofBytes ls)) = .ok i →
      ∃ op f, fetchAt s core w pc = (.ok i op f word 16, v) ∧ f.k = word.extractLsb' 0 2)) ∧
  (∀ (s t u : State) (rest : List Act) (core q ws op len : Nat) (p : PathAt) (i : Instr) (f : Fields) (word : DWord),
    s.agenda = .issue core q :: rest → s.root.heldInReset = false →
    TurnGoesTo { s with agenda := rest, tick := s.tick + 1 } core q ws p t → Fetched t u core ws p i op f word len →
    step s = exec i (setCur (countIssue u core ws (.ok i op f word len)) core ws p word len)) ∧
  (∀ (s u : State) (rest : List Act) (core ws op len : Nat) (mask : Word) (p : PathAt) (i : Instr) (f : Fields) (word : DWord),
    s.agenda = .pair core ws mask :: rest → s.root.heldInReset = false →
    (pathsOf (warpAt s core ws)).find? (fun p => p.mask &&& mask == mask && mask != 0#32) = some p →
    Fetched { s with agenda := rest, tick := s.tick + 1 } u core ws p i op f word len →
    step s = exec i (setCur (countIssue u core ws (.ok i op f word len)) core ws { p with mask := mask } word len)) ∧
  (∀ (s s₀ t₀ t₁ t₂ t₃ : State) (rest : List Act) (lc e : Nat) (i₀ i₁ i₂ i₃ : Instr) (w₀ w₁ w₂ w₃ : Word),
    s.agenda = .line lc :: rest → s.root.heldInReset = false → e = (lineOf s lc).nextEng →
    engineIssues (lineOf s lc) e = true → bandLives s lc = true →
    s₀ = modLine { s with agenda := rest, tick := s.tick + 1 } lc (fun l => { l with fx := [], bst := .ok, took := none }) →
    bundleAt (lineOf s lc) e = w₀ ++ w₁ ++ w₂ ++ w₃ → decodeScalar w₀ = some i₀ → decodeTile w₁ = some i₁ →
    decodeTile w₂ = some i₂ → decodeStream w₃ = some i₃ →
    exec i₀ { s₀ with cur := .slot lc e 0 } = .next t₀ → exec i₁ { t₀ with cur := .slot lc e 1 } = .next t₁ →
    exec i₂ { t₁ with cur := .slot lc e 2 } = .next t₂ → exec i₃ { t₂ with cur := .slot lc e 3 } = .next t₃ →
    (lineOf t₃ lc).bst = .ok →
    step s = .next (if 3 ≤ e then endCycle (commitBundle t₃ lc e) lc
      else modLine (commitBundle t₃ lc e) lc (fun l => { l with nextEng := e + 1 }))) ∧
  (∀ (s : State) (rest : List Act) (i : Instr),
    s.agenda = .event i :: rest → isEvent i = true → s.root.heldInReset = false ∨ i = .coldReset ∨ i = .warmReset →
    step s = exec i { s with agenda := rest, tick := s.tick + 1 }) ∧
  (∀ (s : State), s.agenda = [] → step s = .next { s with tick := s.tick + 1 })

/-! ### Encodings -/

/-- 07 R167, R178, R186, 08 R195, R202, R214, R215, 09 R228, 10 R270, R292, 11 R300, 15 R418, 17 R468, 20 R498: the words that the
spec writes out are the instructions that it says they are. Each stands in the worked example that follows one of the rules cited:
IADD_I and LD in the worked encodings that end chapter seven, LOP3, DEFER.G and NOP in chapter eight, FFMA in chapter nine, PROMOTE
and ST in chapter ten, MMA in chapter eleven, FMUL in chapter seventeen, FENCEX in chapter twenty, the slots of a bundle in chapter
fifteen. One word each is refused: a reserved hint, and an E4M3 MMA without an FP32 accumulator. -/
def Obligations.WordsOfTheSpecDecode : Prop :=
  decodeTableWord 64 0x1810281F7FF80000 =
    some (.iaddI { g := 2, d := 5, a := 3, b := 0xEF, c := 0xFF, ma := 0, mb := 0, fn := 0, t := 0, k := 0, lit := none }) ∧
  decodeTableWord 64 0x80384020308204A0 =
    some (.ld { g := 7, d := 8, a := 4, b := 6, c := 16, ma := 4, mb := 0, fn := 9, t := 4, k := 0, lit := none }) ∧
  decodeTableWord 64 0x80384020308204A3 = none ∧
  decodeTableWord 64 0x0A38081018200330 =
    some (.lop3 { g := 7, d := 1, a := 2, b := 3, c := 4, ma := 0, mb := 0, fn := 6, t := 6, k := 0, lit := none }) ∧
  decodeTableWord 64 0x353FF8000200C000 =
    some (.deferG { g := 7, d := 255, a := 0, b := 0, c := 64, ma := 1, mb := 8, fn := 0, t := 0, k := 0, lit := none }) ∧
  decodeTableWord 64 0x383FFFFFFFF80000 =
    some (.nop { g := 7, d := 255, a := 255, b := 255, c := 255, ma := 0, mb := 0, fn := 0, t := 0, k := 0, lit := none }) ∧
  decodeTableWord 64 0x52385010182009C0 =
    some (.ffma { g := 7, d := 10, a := 2, b := 3, c := 4, ma := 0, mb := 1, fn := 3, t := 8, k := 0, lit := none }) ∧
  decodeTableWord 64 0x813818A7F8150020 =
    some (.st { g := 7, d := 3, a := 20, b := 255, c := 2, ma := 10, mb := 0, fn := 0, t := 4, k := 0, lit := none }) ∧
  decodeTableWord 64 0x893E263640180100 =
    some (.promote { g := 7, d := 196, a := 198, b := 200, c := 3, ma := 0, mb := 0, fn := 2, t := 0, k := 0, lit := none }) ∧
  decodeTableWord 64 0xB038104107FCC840 =
    some (.mma { g := 7, d := 2, a := 8, b := 32, c := 255, ma := 9, mb := 9, fn := 0, t := 8, k := 0, lit := none }) ∧
  decodeTableWord 64 0xB038104107FCC800 = none ∧
  decodeTableWord 64 0x513818101FF80040 =
    some (.fmul { g := 7, d := 3, a := 2, b := 3, c := 255, ma := 0, mb := 0, fn := 0, t := 8, k := 0, lit := none }) ∧
  decodeTableWord 64 0x993FFFF808270000 =
    some (.fencex { g := 7, d := 255, a := 255, b := 1, c := 4, ma := 14, mb := 0, fn := 0, t := 0, k := 0, lit := none }) ∧
  decodeScalar 0x04638001 = some (.kaddImm 3 3 1) ∧
  decodeTile 0x04A60800 = some (.tadd 1 2 3 0 2 0 0) ∧
  decodeStream 0x24C50000 = some (.srdTile 1 1 4 5)

/-- 07 R165 to R168, R178, 15 R395 to R414: decoding the word (and literal) of a well-formed instruction gives it back with every
operand, the instruction's bytes before any others too; a slot instruction likewise in a slot of its kind. -/
def Obligations.DecodingUndoesEncoding : Prop :=
  (∀ (i : Instr) (w : DWord) (lit : Option DWord), WellFormed i = true → encode i = some (w, lit) →
    decodeSuric w (lit.getD 0#64) = .ok i ∧ lengthOf w = (if lit.isSome = true then 16 else 8) ∧
    ∀ more, decodeBytes (toBytes 8 w.toNat ++ (match lit with | some v => toBytes 8 v.toNat | none => []) ++ more) =
      some (.ok (i, more))) ∧
  (∀ (i : Instr) (w : Word), WellFormed i = true → encodeSlot i = some w →
    (i = .noOperation → decodeScalar w = some i ∧ decodeTile w = some i ∧ decodeStream w = some i) ∧
    (slotKind i = some 0 → decodeScalar w = some i) ∧ (slotKind i = some 1 → decodeTile w = some i) ∧
    (slotKind i = some 3 → decodeStream w = some i))

/-! ### Reset and the form of every state -/

/-- 02 R31, R38, R43, 04 R101, 14 R366, R371, 18 R470, R487, R490, 22 R513, R515: after module reset every resource is FREE and
every channel-map entry invalid, no head is enabled, no queue or buffer enabled, FBCTL and NQCTL have LOG2N 6 and NQCOAL COUNT 1,
caches and tables are empty, every byte of DRAM reads zero and no row is promoted; and the form of every state is kept. (The
fields that the spec gives no value are those of log 3.) -/
def Obligations.ResetLeavesEverythingFree : Prop :=
  (∀ k i, resState State.reset k i = rFREE) ∧ (∀ c, chValid (chEntry State.reset c) = false) ∧
  (∀ h, headOn State.reset h = false) ∧ (∀ p, fgpOn State.reset p = false) ∧ (∀ p, slBusy State.reset p = false) ∧
  (∀ p, win32 State.reset p oFBCTL = 6 ∧ win32 State.reset p oNQCTL = 6 ∧ win32 State.reset p oNQCOAL = 0x10000) ∧
  (∀ p off, off / 4 ≠ oFBCTL / 4 → off / 4 ≠ oNQCTL / 4 → off / 4 ≠ oNQCOAL / 4 → win32 State.reset p off = 0) ∧
  (∀ c k, groupAt State.reset c k = none ∧ warpAt? State.reset c k = none) ∧
  (∀ a, bankByte State.reset a = 0#8) ∧ (∀ a, readRun State.reset.dram.mem a 8 = List.replicate 8 0#8) ∧
  (∀ c b r, promSlot State.reset c b r = none) ∧
  State.reset.l2 = [] ∧ State.reset.tlb = [] ∧ State.reset.wcache = [] ∧ State.reset.resv = [] ∧ State.reset.reqs = [] ∧
  Kept State.reset

/-- 02 R31 (and log 1): every step, whatever acts, keeps the form of the state: memory lists its bytes in their one canonical form,
and no instruction is left half issued. -/
def Obligations.EveryStepKeepsTheForm : Prop :=
  ∀ (s t : State), Kept s → step s = .next t → Kept t
end

