-- ==== Sys2Proof/Laws/Map.lean ====
section
/-! SUPPORT. Laws/Map.lean: reading a table after it was changed, and the canonical form that every change keeps. -/

namespace Sys2Proof.Machine

variable {α : Type}

@[simp] theorem lookup_nil (k : Nat) : lookup ([] : SMap α) k = none := rfl

theorem lookup_cons (e : Nat × α) (m : SMap α) (j : Nat) :
    lookup (e :: m) j = if e.1 = j then some e.2 else lookup m j := rfl

theorem lookup_remove (m : SMap α) (k j : Nat) : lookup (remove m k) j = if j = k then none else lookup m j := by
  induction m with
  | nil => simp [remove]
  | cons e m ih =>
    unfold remove at *
    by_cases h : e.1 = k
    · simp only [List.filter_cons, h, lookup_cons]
      simp only [ne_eq, not_true_eq_false, decide_false, Bool.false_eq_true, if_false, ih]
      split <;> simp_all
      intro hk; simp_all
    · simp only [List.filter_cons, lookup_cons, ne_eq, h, not_false_eq_true, decide_true, if_true, ih]
      split <;> split <;> simp_all

theorem lookup_place (k : Nat) (v : α) (m : SMap α) (hk : lookup m k = none) (j : Nat) :
    lookup (place k v m) j = if j = k then some v else lookup m j := by
  induction m with
  | nil => simp [place, lookup_cons, eq_comm]
  | cons e m ih =>
    rw [lookup_cons] at hk
    split at hk <;> rename_i hek
    · simp at hk
    · unfold place
      split
      · simp only [lookup_cons, eq_comm]
      · simp only [lookup_cons, ih hk]
        split
        · rename_i h; subst h; simp [hek]
        · rfl

/-- A table read after an entry was put into it. -/
theorem lookup_put (m : SMap α) (k : Nat) (v : α) (j : Nat) :
    lookup (put m k v) j = if j = k then some v else lookup m j := by
  unfold put
  rw [lookup_place _ _ _ (by simp [lookup_remove]), lookup_remove]
  split <;> rfl

@[simp] theorem lookup_put_self (m : SMap α) (k : Nat) (v : α) : lookup (put m k v) k = some v := by simp [lookup_put]

theorem lookup_put_ne (m : SMap α) {k j : Nat} (v : α) (h : j ≠ k) : lookup (put m k v) j = lookup m j := by
  simp [lookup_put, h]

theorem remove_place (k : Nat) (v : α) (m : SMap α) : remove (place k v m) k = remove m k := by
  induction m with
  | nil => simp [place, remove]
  | cons e m ih =>
    unfold place
    split
    · simp [remove]
    · unfold remove at *
      simp only [List.filter_cons, ih]

/-- The last entry put under a name counts. -/
theorem put_put (m : SMap α) (k : Nat) (u v : α) : put (put m k u) k v = put m k v := by
  unfold put
  rw [remove_place]
  unfold remove
  rw [List.filter_filter]
  simp

theorem lookup_mapVal (m : SMap α) (g : Nat → α → α) (j : Nat) :
    lookup (m.map (fun e => (e.1, g e.1 e.2))) j = (lookup m j).map (g j) := by
  induction m with
  | nil => rfl
  | cons e m ih =>
    simp only [List.map_cons, lookup_cons, ih]
    split
    · rename_i h; subst h; rfl
    · rfl

/-- A table read after one of its values was changed. -/
theorem lookup_adjust (m : SMap α) (k : Nat) (f : α → α) (j : Nat) :
    lookup (adjust m k f) j = if j = k then (lookup m j).map f else lookup m j := by
  unfold adjust
  cases h : lookup m k with
  | none => by_cases hj : j = k <;> simp [hj, h]
  | some v => by_cases hj : j = k <;> simp [lookup_put, hj, h]

/-- Two changes under one name are one. -/
theorem adjust_adjust (m : SMap α) (k : Nat) (f g : α → α) : adjust (adjust m k f) k g = adjust m k (fun x => g (f x)) := by
  unfold adjust
  cases h : lookup m k with
  | none => simp [h]
  | some v => simp [put_put]

/-- Only what the listed value becomes matters. -/
theorem adjust_eq (m : SMap α) (k : Nat) (f g : α → α) (h : ∀ v, lookup m k = some v → f v = g v) :
    adjust m k f = adjust m k g := by
  unfold adjust
  cases hk : lookup m k with
  | none => rfl
  | some v => simp [h v hk]

theorem getD_put (d : α) (m : SMap α) (k : Nat) (v : α) (j : Nat) :
    getD d (put m k v) j = if j = k then v else getD d m j := by
  unfold getD; rw [lookup_put]; split <;> rfl

/-- A table with a default read after a value was set in it. -/
theorem getD_setD [DecidableEq α] (d : α) (m : SMap α) (k : Nat) (v : α) (j : Nat) :
    getD d (setD d m k v) j = if j = k then v else getD d m j := by
  unfold setD
  split
  · rename_i h; unfold getD; rw [lookup_remove]; split <;> simp [h]
  · exact getD_put d m k v j

@[simp] theorem getD_setD_self [DecidableEq α] (d : α) (m : SMap α) (k : Nat) (v : α) : getD d (setD d m k v) k = v := by
  simp [getD_setD]

theorem getD_setD_ne [DecidableEq α] (d : α) (m : SMap α) {k j : Nat} (v : α) (h : j ≠ k) :
    getD d (setD d m k v) j = getD d m j := by
  simp [getD_setD, h]

/-! ### The canonical form -/

/-- Keys strictly rising, as a relation between every two entries. -/
theorem rising_iff (m : SMap α) : rising m = true ↔ m.Pairwise (fun a b => a.1 < b.1) := by
  induction m with
  | nil => simp [rising]
  | cons e m ih =>
    cases m with
    | nil => simp [rising]
    | cons f m =>
      simp only [rising, Bool.and_eq_true, decide_eq_true_eq, ih, List.pairwise_cons]
      constructor
      · rintro ⟨h, h1, h2⟩
        refine ⟨?_, h1, h2⟩
        intro x hx
        rcases List.mem_cons.mp hx with rfl | hx
        · exact h
        · exact Nat.lt_trans h (h1 x hx)
      · rintro ⟨h, h1, h2⟩
        exact ⟨h f (by simp), h1, h2⟩

theorem rising_filter (m : SMap α) (p : Nat × α → Bool) (h : rising m = true) : rising (m.filter p) = true := by
  rw [rising_iff] at *; exact h.filter p

theorem mem_place {k : Nat} {v : α} {m : SMap α} {x : Nat × α} : x ∈ place k v m ↔ x = (k, v) ∨ x ∈ m := by
  induction m with
  | nil => simp [place]
  | cons e m ih => unfold place; split <;> simp [ih]; tauto

theorem rising_place (k : Nat) (v : α) (m : SMap α) (hk : ∀ e ∈ m, e.1 ≠ k) (h : rising m = true) :
    rising (place k v m) = true := by
  rw [rising_iff] at *
  induction m with
  | nil => simp [place]
  | cons e m ih =>
    obtain ⟨j, u⟩ := e
    rw [List.pairwise_cons] at h
    have hj : j ≠ k := hk (j, u) (by simp)
    unfold place
    split
    · rename_i hkj
      refine List.pairwise_cons.mpr ⟨?_, List.pairwise_cons.mpr h⟩
      intro x hx
      rcases List.mem_cons.mp hx with rfl | hx
      · exact hkj
      · exact Nat.lt_trans hkj (h.1 x hx)
    · refine List.pairwise_cons.mpr ⟨?_, ih (fun e he => hk e (by simp [he])) h.2⟩
      intro x hx
      rcases mem_place.mp hx with rfl | hx
      · show j < k; omega
      · exact h.1 x hx

theorem canonical_filter [DecidableEq α] (d : α) (m : SMap α) (p : Nat × α → Bool) (h : canonical d m = true) :
    canonical d (m.filter p) = true := by
  simp only [canonical, Bool.and_eq_true] at *
  refine ⟨rising_filter m p h.1, ?_⟩
  have h2 := h.2
  rw [List.all_eq_true] at h2 ⊢
  intro x hx
  exact h2 x (List.mem_filter.mp hx).1

/-- Setting a value keeps the canonical form. -/
theorem canonical_setD [DecidableEq α] (d : α) (m : SMap α) (k : Nat) (v : α) (h : canonical d m = true) :
    canonical d (setD d m k v) = true := by
  have hr : canonical d (remove m k) = true := canonical_filter d m _ h
  unfold setD
  split
  · exact hr
  · rename_i hv
    simp only [canonical, Bool.and_eq_true] at *
    constructor
    · refine rising_place k v _ ?_ hr.1
      intro e he
      simpa [remove] using (List.mem_filter.mp he).2
    · have h2 := hr.2
      rw [List.all_eq_true] at h2 ⊢
      intro x hx
      rcases mem_place.mp hx with rfl | hx
      · simpa using hv
      · exact h2 x hx

/-- Memory written byte by byte keeps its form. -/
theorem writeRun_wf (m : SMap Byte) (a : Nat) (bs : List Byte) (h : Memory.wf m = true) : Memory.wf (writeRun m a bs) = true := by
  induction bs generalizing m a with
  | nil => exact h
  | cons b bs ih => exact ih _ _ (canonical_setD _ _ _ _ h)

/-- A run of writes seen by a read of one byte. -/
theorem getD_writeRun (m : SMap Byte) (a : Nat) (bs : List Byte) (j : Nat) :
    getD 0#8 (writeRun m a bs) j = if a ≤ j ∧ j < a + bs.length then bs.getD (j - a) 0#8 else getD 0#8 m j := by
  induction bs generalizing m a with
  | nil =>
    have : ¬ (a ≤ j ∧ j < a + ([] : List Byte).length) := by simp
    rw [if_neg this]; rfl
  | cons b bs ih =>
    rw [writeRun, ih, getD_setD]
    by_cases h1 : j = a
    · subst h1
      have : ¬ (j + 1 ≤ j ∧ j < j + 1 + bs.length) := by omega
      rw [if_neg this]; simp
    · by_cases h2 : a + 1 ≤ j ∧ j < a + 1 + bs.length
      · have h3 : a ≤ j ∧ j < a + (b :: bs).length := by simp; omega
        rw [if_pos h2, if_pos h3]
        have : j - a = (j - (a + 1)) + 1 := by omega
        rw [this]; rfl
      · have h3 : ¬ (a ≤ j ∧ j < a + (b :: bs).length) := by simp; omega
        rw [if_neg h2, if_neg h3, if_neg h1]

/-- What was written is read back. -/
theorem readRun_writeRun (m : SMap Byte) (a : Nat) (bs : List Byte) : readRun (writeRun m a bs) a bs.length = bs := by
  have key : ∀ (n : Nat) (b : Nat), readRun (writeRun m a bs) (a + b) n =
      (List.range n).map (fun i => getD 0#8 (writeRun m a bs) (a + b + i)) := by
    intro n
    induction n with
    | zero => intro b; rfl
    | succ n ih =>
      intro b
      rw [readRun, List.range_succ_eq_map, List.map_cons, Nat.add_assoc a b 1, ih (b + 1)]
      simp only [List.map_map, Nat.add_zero, Nat.add_assoc, List.cons.injEq, true_and]
      refine List.map_congr_left fun i _ => ?_
      simp only [Function.comp, Nat.succ_eq_add_one]
      congr 2; omega
  have h0 := key bs.length 0
  rw [Nat.add_zero] at h0
  rw [h0]
  refine List.ext_getElem (by simp) fun i h1 h2 => ?_
  simp only [List.getElem_map, List.getElem_range, getD_writeRun]
  have : a ≤ a + i ∧ a + i < a + bs.length := by simp at h1; omega
  rw [if_pos this]
  simp [List.getD_eq_getElem?_getD, h2]

end Sys2Proof.Machine
end

