-- ==== Sys2Proof/Laws/State.lean ====
section
/-! SUPPORT. Laws/State.lean: each named update of the state leaves every other field as it was, and reads back what it wrote. -/

namespace Sys2Proof.Machine

@[simp] theorem setCore_root (s : State) (c : Nat) (x : Core) : (setCore s c x).root = s.root := rfl
@[simp] theorem setCore_dram (s : State) (c : Nat) (x : Core) : (setCore s c x).dram = s.dram := rfl
@[simp] theorem setCore_l2 (s : State) (c : Nat) (x : Core) : (setCore s c x).l2 = s.l2 := rfl
@[simp] theorem setCore_tlb (s : State) (c : Nat) (x : Core) : (setCore s c x).tlb = s.tlb := rfl
@[simp] theorem setCore_wcache (s : State) (c : Nat) (x : Core) : (setCore s c x).wcache = s.wcache := rfl
@[simp] theorem setCore_resv (s : State) (c : Nat) (x : Core) : (setCore s c x).resv = s.resv := rfl
@[simp] theorem setCore_reqs (s : State) (c : Nat) (x : Core) : (setCore s c x).reqs = s.reqs := rfl
@[simp] theorem setCore_parts (s : State) (c : Nat) (x : Core) : (setCore s c x).parts = s.parts := rfl
@[simp] theorem setCore_heads (s : State) (c : Nat) (x : Core) : (setCore s c x).heads = s.heads := rfl
@[simp] theorem setCore_lcs (s : State) (c : Nat) (x : Core) : (setCore s c x).lcs = s.lcs := rfl
@[simp] theorem setCore_ports (s : State) (c : Nat) (x : Core) : (setCore s c x).ports = s.ports := rfl
@[simp] theorem setCore_peerReply (s : State) (c : Nat) (x : Core) : (setCore s c x).peerReply = s.peerReply := rfl
@[simp] theorem setCore_agenda (s : State) (c : Nat) (x : Core) : (setCore s c x).agenda = s.agenda := rfl
@[simp] theorem setCore_cur (s : State) (c : Nat) (x : Core) : (setCore s c x).cur = s.cur := rfl
@[simp] theorem setCore_tick (s : State) (c : Nat) (x : Core) : (setCore s c x).tick = s.tick := rfl
@[simp] theorem setCore_nextId (s : State) (c : Nat) (x : Core) : (setCore s c x).nextId = s.nextId := rfl

@[simp] theorem modCore_root (s : State) (c : Nat) (f : Core → Core) : (modCore s c f).root = s.root := rfl
@[simp] theorem modCore_dram (s : State) (c : Nat) (f : Core → Core) : (modCore s c f).dram = s.dram := rfl
@[simp] theorem modCore_l2 (s : State) (c : Nat) (f : Core → Core) : (modCore s c f).l2 = s.l2 := rfl
@[simp] theorem modCore_tlb (s : State) (c : Nat) (f : Core → Core) : (modCore s c f).tlb = s.tlb := rfl
@[simp] theorem modCore_wcache (s : State) (c : Nat) (f : Core → Core) : (modCore s c f).wcache = s.wcache := rfl
@[simp] theorem modCore_resv (s : State) (c : Nat) (f : Core → Core) : (modCore s c f).resv = s.resv := rfl
@[simp] theorem modCore_reqs (s : State) (c : Nat) (f : Core → Core) : (modCore s c f).reqs = s.reqs := rfl
@[simp] theorem modCore_parts (s : State) (c : Nat) (f : Core → Core) : (modCore s c f).parts = s.parts := rfl
@[simp] theorem modCore_heads (s : State) (c : Nat) (f : Core → Core) : (modCore s c f).heads = s.heads := rfl
@[simp] theorem modCore_lcs (s : State) (c : Nat) (f : Core → Core) : (modCore s c f).lcs = s.lcs := rfl
@[simp] theorem modCore_ports (s : State) (c : Nat) (f : Core → Core) : (modCore s c f).ports = s.ports := rfl
@[simp] theorem modCore_peerReply (s : State) (c : Nat) (f : Core → Core) : (modCore s c f).peerReply = s.peerReply := rfl
@[simp] theorem modCore_agenda (s : State) (c : Nat) (f : Core → Core) : (modCore s c f).agenda = s.agenda := rfl
@[simp] theorem modCore_cur (s : State) (c : Nat) (f : Core → Core) : (modCore s c f).cur = s.cur := rfl
@[simp] theorem modCore_tick (s : State) (c : Nat) (f : Core → Core) : (modCore s c f).tick = s.tick := rfl
@[simp] theorem modCore_nextId (s : State) (c : Nat) (f : Core → Core) : (modCore s c f).nextId = s.nextId := rfl

@[simp] theorem modGroup_root (s : State) (c g : Nat) (f : Group → Group) : (modGroup s c g f).root = s.root := rfl
@[simp] theorem modGroup_dram (s : State) (c g : Nat) (f : Group → Group) : (modGroup s c g f).dram = s.dram := rfl
@[simp] theorem modGroup_l2 (s : State) (c g : Nat) (f : Group → Group) : (modGroup s c g f).l2 = s.l2 := rfl
@[simp] theorem modGroup_tlb (s : State) (c g : Nat) (f : Group → Group) : (modGroup s c g f).tlb = s.tlb := rfl
@[simp] theorem modGroup_wcache (s : State) (c g : Nat) (f : Group → Group) : (modGroup s c g f).wcache = s.wcache := rfl
@[simp] theorem modGroup_resv (s : State) (c g : Nat) (f : Group → Group) : (modGroup s c g f).resv = s.resv := rfl
@[simp] theorem modGroup_reqs (s : State) (c g : Nat) (f : Group → Group) : (modGroup s c g f).reqs = s.reqs := rfl
@[simp] theorem modGroup_parts (s : State) (c g : Nat) (f : Group → Group) : (modGroup s c g f).parts = s.parts := rfl
@[simp] theorem modGroup_heads (s : State) (c g : Nat) (f : Group → Group) : (modGroup s c g f).heads = s.heads := rfl
@[simp] theorem modGroup_lcs (s : State) (c g : Nat) (f : Group → Group) : (modGroup s c g f).lcs = s.lcs := rfl
@[simp] theorem modGroup_ports (s : State) (c g : Nat) (f : Group → Group) : (modGroup s c g f).ports = s.ports := rfl
@[simp] theorem modGroup_peerReply (s : State) (c g : Nat) (f : Group → Group) : (modGroup s c g f).peerReply = s.peerReply := rfl
@[simp] theorem modGroup_agenda (s : State) (c g : Nat) (f : Group → Group) : (modGroup s c g f).agenda = s.agenda := rfl
@[simp] theorem modGroup_cur (s : State) (c g : Nat) (f : Group → Group) : (modGroup s c g f).cur = s.cur := rfl
@[simp] theorem modGroup_tick (s : State) (c g : Nat) (f : Group → Group) : (modGroup s c g f).tick = s.tick := rfl
@[simp] theorem modGroup_nextId (s : State) (c g : Nat) (f : Group → Group) : (modGroup s c g f).nextId = s.nextId := rfl

@[simp] theorem modWarp_root (s : State) (c w : Nat) (f : Warp → Warp) : (modWarp s c w f).root = s.root := rfl
@[simp] theorem modWarp_dram (s : State) (c w : Nat) (f : Warp → Warp) : (modWarp s c w f).dram = s.dram := rfl
@[simp] theorem modWarp_l2 (s : State) (c w : Nat) (f : Warp → Warp) : (modWarp s c w f).l2 = s.l2 := rfl
@[simp] theorem modWarp_tlb (s : State) (c w : Nat) (f : Warp → Warp) : (modWarp s c w f).tlb = s.tlb := rfl
@[simp] theorem modWarp_wcache (s : State) (c w : Nat) (f : Warp → Warp) : (modWarp s c w f).wcache = s.wcache := rfl
@[simp] theorem modWarp_resv (s : State) (c w : Nat) (f : Warp → Warp) : (modWarp s c w f).resv = s.resv := rfl
@[simp] theorem modWarp_reqs (s : State) (c w : Nat) (f : Warp → Warp) : (modWarp s c w f).reqs = s.reqs := rfl
@[simp] theorem modWarp_parts (s : State) (c w : Nat) (f : Warp → Warp) : (modWarp s c w f).parts = s.parts := rfl
@[simp] theorem modWarp_heads (s : State) (c w : Nat) (f : Warp → Warp) : (modWarp s c w f).heads = s.heads := rfl
@[simp] theorem modWarp_lcs (s : State) (c w : Nat) (f : Warp → Warp) : (modWarp s c w f).lcs = s.lcs := rfl
@[simp] theorem modWarp_ports (s : State) (c w : Nat) (f : Warp → Warp) : (modWarp s c w f).ports = s.ports := rfl
@[simp] theorem modWarp_peerReply (s : State) (c w : Nat) (f : Warp → Warp) : (modWarp s c w f).peerReply = s.peerReply := rfl
@[simp] theorem modWarp_agenda (s : State) (c w : Nat) (f : Warp → Warp) : (modWarp s c w f).agenda = s.agenda := rfl
@[simp] theorem modWarp_cur (s : State) (c w : Nat) (f : Warp → Warp) : (modWarp s c w f).cur = s.cur := rfl
@[simp] theorem modWarp_tick (s : State) (c w : Nat) (f : Warp → Warp) : (modWarp s c w f).tick = s.tick := rfl
@[simp] theorem modWarp_nextId (s : State) (c w : Nat) (f : Warp → Warp) : (modWarp s c w f).nextId = s.nextId := rfl

@[simp] theorem Iss.mod_root (x : Iss) (s : State) (f : Warp → Warp) : (x.mod s f).root = s.root := rfl
@[simp] theorem Iss.mod_dram (x : Iss) (s : State) (f : Warp → Warp) : (x.mod s f).dram = s.dram := rfl
@[simp] theorem Iss.mod_l2 (x : Iss) (s : State) (f : Warp → Warp) : (x.mod s f).l2 = s.l2 := rfl
@[simp] theorem Iss.mod_tlb (x : Iss) (s : State) (f : Warp → Warp) : (x.mod s f).tlb = s.tlb := rfl
@[simp] theorem Iss.mod_wcache (x : Iss) (s : State) (f : Warp → Warp) : (x.mod s f).wcache = s.wcache := rfl
@[simp] theorem Iss.mod_resv (x : Iss) (s : State) (f : Warp → Warp) : (x.mod s f).resv = s.resv := rfl
@[simp] theorem Iss.mod_reqs (x : Iss) (s : State) (f : Warp → Warp) : (x.mod s f).reqs = s.reqs := rfl
@[simp] theorem Iss.mod_parts (x : Iss) (s : State) (f : Warp → Warp) : (x.mod s f).parts = s.parts := rfl
@[simp] theorem Iss.mod_heads (x : Iss) (s : State) (f : Warp → Warp) : (x.mod s f).heads = s.heads := rfl
@[simp] theorem Iss.mod_lcs (x : Iss) (s : State) (f : Warp → Warp) : (x.mod s f).lcs = s.lcs := rfl
@[simp] theorem Iss.mod_ports (x : Iss) (s : State) (f : Warp → Warp) : (x.mod s f).ports = s.ports := rfl
@[simp] theorem Iss.mod_peerReply (x : Iss) (s : State) (f : Warp → Warp) : (x.mod s f).peerReply = s.peerReply := rfl
@[simp] theorem Iss.mod_agenda (x : Iss) (s : State) (f : Warp → Warp) : (x.mod s f).agenda = s.agenda := rfl
@[simp] theorem Iss.mod_cur (x : Iss) (s : State) (f : Warp → Warp) : (x.mod s f).cur = s.cur := rfl
@[simp] theorem Iss.mod_tick (x : Iss) (s : State) (f : Warp → Warp) : (x.mod s f).tick = s.tick := rfl
@[simp] theorem Iss.mod_nextId (x : Iss) (s : State) (f : Warp → Warp) : (x.mod s f).nextId = s.nextId := rfl

@[simp] theorem Iss.next_root (x : Iss) (s : State) : (x.next s).root = s.root := rfl
@[simp] theorem Iss.next_dram (x : Iss) (s : State) : (x.next s).dram = s.dram := rfl
@[simp] theorem Iss.next_l2 (x : Iss) (s : State) : (x.next s).l2 = s.l2 := rfl
@[simp] theorem Iss.next_tlb (x : Iss) (s : State) : (x.next s).tlb = s.tlb := rfl
@[simp] theorem Iss.next_wcache (x : Iss) (s : State) : (x.next s).wcache = s.wcache := rfl
@[simp] theorem Iss.next_resv (x : Iss) (s : State) : (x.next s).resv = s.resv := rfl
@[simp] theorem Iss.next_reqs (x : Iss) (s : State) : (x.next s).reqs = s.reqs := rfl
@[simp] theorem Iss.next_parts (x : Iss) (s : State) : (x.next s).parts = s.parts := rfl
@[simp] theorem Iss.next_heads (x : Iss) (s : State) : (x.next s).heads = s.heads := rfl
@[simp] theorem Iss.next_lcs (x : Iss) (s : State) : (x.next s).lcs = s.lcs := rfl
@[simp] theorem Iss.next_ports (x : Iss) (s : State) : (x.next s).ports = s.ports := rfl
@[simp] theorem Iss.next_peerReply (x : Iss) (s : State) : (x.next s).peerReply = s.peerReply := rfl
@[simp] theorem Iss.next_agenda (x : Iss) (s : State) : (x.next s).agenda = s.agenda := rfl
@[simp] theorem Iss.next_cur (x : Iss) (s : State) : (x.next s).cur = s.cur := rfl
@[simp] theorem Iss.next_tick (x : Iss) (s : State) : (x.next s).tick = s.tick := rfl
@[simp] theorem Iss.next_nextId (x : Iss) (s : State) : (x.next s).nextId = s.nextId := rfl

@[simp] theorem setPart_root (s : State) (p : Nat) (x : Part) : (setPart s p x).root = s.root := rfl
@[simp] theorem setPart_dram (s : State) (p : Nat) (x : Part) : (setPart s p x).dram = s.dram := rfl
@[simp] theorem setPart_l2 (s : State) (p : Nat) (x : Part) : (setPart s p x).l2 = s.l2 := rfl
@[simp] theorem setPart_tlb (s : State) (p : Nat) (x : Part) : (setPart s p x).tlb = s.tlb := rfl
@[simp] theorem setPart_wcache (s : State) (p : Nat) (x : Part) : (setPart s p x).wcache = s.wcache := rfl
@[simp] theorem setPart_resv (s : State) (p : Nat) (x : Part) : (setPart s p x).resv = s.resv := rfl
@[simp] theorem setPart_reqs (s : State) (p : Nat) (x : Part) : (setPart s p x).reqs = s.reqs := rfl
@[simp] theorem setPart_cores (s : State) (p : Nat) (x : Part) : (setPart s p x).cores = s.cores := rfl
@[simp] theorem setPart_heads (s : State) (p : Nat) (x : Part) : (setPart s p x).heads = s.heads := rfl
@[simp] theorem setPart_lcs (s : State) (p : Nat) (x : Part) : (setPart s p x).lcs = s.lcs := rfl
@[simp] theorem setPart_ports (s : State) (p : Nat) (x : Part) : (setPart s p x).ports = s.ports := rfl
@[simp] theorem setPart_peerReply (s : State) (p : Nat) (x : Part) : (setPart s p x).peerReply = s.peerReply := rfl
@[simp] theorem setPart_agenda (s : State) (p : Nat) (x : Part) : (setPart s p x).agenda = s.agenda := rfl
@[simp] theorem setPart_cur (s : State) (p : Nat) (x : Part) : (setPart s p x).cur = s.cur := rfl
@[simp] theorem setPart_tick (s : State) (p : Nat) (x : Part) : (setPart s p x).tick = s.tick := rfl
@[simp] theorem setPart_nextId (s : State) (p : Nat) (x : Part) : (setPart s p x).nextId = s.nextId := rfl

@[simp] theorem modPart_root (s : State) (p : Nat) (f : Part → Part) : (modPart s p f).root = s.root := rfl
@[simp] theorem modPart_dram (s : State) (p : Nat) (f : Part → Part) : (modPart s p f).dram = s.dram := rfl
@[simp] theorem modPart_l2 (s : State) (p : Nat) (f : Part → Part) : (modPart s p f).l2 = s.l2 := rfl
@[simp] theorem modPart_tlb (s : State) (p : Nat) (f : Part → Part) : (modPart s p f).tlb = s.tlb := rfl
@[simp] theorem modPart_wcache (s : State) (p : Nat) (f : Part → Part) : (modPart s p f).wcache = s.wcache := rfl
@[simp] theorem modPart_resv (s : State) (p : Nat) (f : Part → Part) : (modPart s p f).resv = s.resv := rfl
@[simp] theorem modPart_reqs (s : State) (p : Nat) (f : Part → Part) : (modPart s p f).reqs = s.reqs := rfl
@[simp] theorem modPart_cores (s : State) (p : Nat) (f : Part → Part) : (modPart s p f).cores = s.cores := rfl
@[simp] theorem modPart_heads (s : State) (p : Nat) (f : Part → Part) : (modPart s p f).heads = s.heads := rfl
@[simp] theorem modPart_lcs (s : State) (p : Nat) (f : Part → Part) : (modPart s p f).lcs = s.lcs := rfl
@[simp] theorem modPart_ports (s : State) (p : Nat) (f : Part → Part) : (modPart s p f).ports = s.ports := rfl
@[simp] theorem modPart_peerReply (s : State) (p : Nat) (f : Part → Part) : (modPart s p f).peerReply = s.peerReply := rfl
@[simp] theorem modPart_agenda (s : State) (p : Nat) (f : Part → Part) : (modPart s p f).agenda = s.agenda := rfl
@[simp] theorem modPart_cur (s : State) (p : Nat) (f : Part → Part) : (modPart s p f).cur = s.cur := rfl
@[simp] theorem modPart_tick (s : State) (p : Nat) (f : Part → Part) : (modPart s p f).tick = s.tick := rfl
@[simp] theorem modPart_nextId (s : State) (p : Nat) (f : Part → Part) : (modPart s p f).nextId = s.nextId := rfl

@[simp] theorem setHead_root (s : State) (h : Nat) (x : Head) : (setHead s h x).root = s.root := rfl
@[simp] theorem setHead_dram (s : State) (h : Nat) (x : Head) : (setHead s h x).dram = s.dram := rfl
@[simp] theorem setHead_l2 (s : State) (h : Nat) (x : Head) : (setHead s h x).l2 = s.l2 := rfl
@[simp] theorem setHead_tlb (s : State) (h : Nat) (x : Head) : (setHead s h x).tlb = s.tlb := rfl
@[simp] theorem setHead_wcache (s : State) (h : Nat) (x : Head) : (setHead s h x).wcache = s.wcache := rfl
@[simp] theorem setHead_resv (s : State) (h : Nat) (x : Head) : (setHead s h x).resv = s.resv := rfl
@[simp] theorem setHead_reqs (s : State) (h : Nat) (x : Head) : (setHead s h x).reqs = s.reqs := rfl
@[simp] theorem setHead_parts (s : State) (h : Nat) (x : Head) : (setHead s h x).parts = s.parts := rfl
@[simp] theorem setHead_cores (s : State) (h : Nat) (x : Head) : (setHead s h x).cores = s.cores := rfl
@[simp] theorem setHead_lcs (s : State) (h : Nat) (x : Head) : (setHead s h x).lcs = s.lcs := rfl
@[simp] theorem setHead_ports (s : State) (h : Nat) (x : Head) : (setHead s h x).ports = s.ports := rfl
@[simp] theorem setHead_peerReply (s : State) (h : Nat) (x : Head) : (setHead s h x).peerReply = s.peerReply := rfl
@[simp] theorem setHead_agenda (s : State) (h : Nat) (x : Head) : (setHead s h x).agenda = s.agenda := rfl
@[simp] theorem setHead_cur (s : State) (h : Nat) (x : Head) : (setHead s h x).cur = s.cur := rfl
@[simp] theorem setHead_tick (s : State) (h : Nat) (x : Head) : (setHead s h x).tick = s.tick := rfl
@[simp] theorem setHead_nextId (s : State) (h : Nat) (x : Head) : (setHead s h x).nextId = s.nextId := rfl

@[simp] theorem modHead_root (s : State) (h : Nat) (f : Head → Head) : (modHead s h f).root = s.root := rfl
@[simp] theorem modHead_dram (s : State) (h : Nat) (f : Head → Head) : (modHead s h f).dram = s.dram := rfl
@[simp] theorem modHead_l2 (s : State) (h : Nat) (f : Head → Head) : (modHead s h f).l2 = s.l2 := rfl
@[simp] theorem modHead_tlb (s : State) (h : Nat) (f : Head → Head) : (modHead s h f).tlb = s.tlb := rfl
@[simp] theorem modHead_wcache (s : State) (h : Nat) (f : Head → Head) : (modHead s h f).wcache = s.wcache := rfl
@[simp] theorem modHead_resv (s : State) (h : Nat) (f : Head → Head) : (modHead s h f).resv = s.resv := rfl
@[simp] theorem modHead_reqs (s : State) (h : Nat) (f : Head → Head) : (modHead s h f).reqs = s.reqs := rfl
@[simp] theorem modHead_parts (s : State) (h : Nat) (f : Head → Head) : (modHead s h f).parts = s.parts := rfl
@[simp] theorem modHead_cores (s : State) (h : Nat) (f : Head → Head) : (modHead s h f).cores = s.cores := rfl
@[simp] theorem modHead_lcs (s : State) (h : Nat) (f : Head → Head) : (modHead s h f).lcs = s.lcs := rfl
@[simp] theorem modHead_ports (s : State) (h : Nat) (f : Head → Head) : (modHead s h f).ports = s.ports := rfl
@[simp] theorem modHead_peerReply (s : State) (h : Nat) (f : Head → Head) : (modHead s h f).peerReply = s.peerReply := rfl
@[simp] theorem modHead_agenda (s : State) (h : Nat) (f : Head → Head) : (modHead s h f).agenda = s.agenda := rfl
@[simp] theorem modHead_cur (s : State) (h : Nat) (f : Head → Head) : (modHead s h f).cur = s.cur := rfl
@[simp] theorem modHead_tick (s : State) (h : Nat) (f : Head → Head) : (modHead s h f).tick = s.tick := rfl
@[simp] theorem modHead_nextId (s : State) (h : Nat) (f : Head → Head) : (modHead s h f).nextId = s.nextId := rfl

@[simp] theorem setLine_root (s : State) (l : Nat) (x : LineCore) : (setLine s l x).root = s.root := rfl
@[simp] theorem setLine_dram (s : State) (l : Nat) (x : LineCore) : (setLine s l x).dram = s.dram := rfl
@[simp] theorem setLine_l2 (s : State) (l : Nat) (x : LineCore) : (setLine s l x).l2 = s.l2 := rfl
@[simp] theorem setLine_tlb (s : State) (l : Nat) (x : LineCore) : (setLine s l x).tlb = s.tlb := rfl
@[simp] theorem setLine_wcache (s : State) (l : Nat) (x : LineCore) : (setLine s l x).wcache = s.wcache := rfl
@[simp] theorem setLine_resv (s : State) (l : Nat) (x : LineCore) : (setLine s l x).resv = s.resv := rfl
@[simp] theorem setLine_reqs (s : State) (l : Nat) (x : LineCore) : (setLine s l x).reqs = s.reqs := rfl
@[simp] theorem setLine_parts (s : State) (l : Nat) (x : LineCore) : (setLine s l x).parts = s.parts := rfl
@[simp] theorem setLine_cores (s : State) (l : Nat) (x : LineCore) : (setLine s l x).cores = s.cores := rfl
@[simp] theorem setLine_heads (s : State) (l : Nat) (x : LineCore) : (setLine s l x).heads = s.heads := rfl
@[simp] theorem setLine_ports (s : State) (l : Nat) (x : LineCore) : (setLine s l x).ports = s.ports := rfl
@[simp] theorem setLine_peerReply (s : State) (l : Nat) (x : LineCore) : (setLine s l x).peerReply = s.peerReply := rfl
@[simp] theorem setLine_agenda (s : State) (l : Nat) (x : LineCore) : (setLine s l x).agenda = s.agenda := rfl
@[simp] theorem setLine_cur (s : State) (l : Nat) (x : LineCore) : (setLine s l x).cur = s.cur := rfl
@[simp] theorem setLine_tick (s : State) (l : Nat) (x : LineCore) : (setLine s l x).tick = s.tick := rfl
@[simp] theorem setLine_nextId (s : State) (l : Nat) (x : LineCore) : (setLine s l x).nextId = s.nextId := rfl

@[simp] theorem modLine_root (s : State) (l : Nat) (f : LineCore → LineCore) : (modLine s l f).root = s.root := rfl
@[simp] theorem modLine_dram (s : State) (l : Nat) (f : LineCore → LineCore) : (modLine s l f).dram = s.dram := rfl
@[simp] theorem modLine_l2 (s : State) (l : Nat) (f : LineCore → LineCore) : (modLine s l f).l2 = s.l2 := rfl
@[simp] theorem modLine_tlb (s : State) (l : Nat) (f : LineCore → LineCore) : (modLine s l f).tlb = s.tlb := rfl
@[simp] theorem modLine_wcache (s : State) (l : Nat) (f : LineCore → LineCore) : (modLine s l f).wcache = s.wcache := rfl
@[simp] theorem modLine_resv (s : State) (l : Nat) (f : LineCore → LineCore) : (modLine s l f).resv = s.resv := rfl
@[simp] theorem modLine_reqs (s : State) (l : Nat) (f : LineCore → LineCore) : (modLine s l f).reqs = s.reqs := rfl
@[simp] theorem modLine_parts (s : State) (l : Nat) (f : LineCore → LineCore) : (modLine s l f).parts = s.parts := rfl
@[simp] theorem modLine_cores (s : State) (l : Nat) (f : LineCore → LineCore) : (modLine s l f).cores = s.cores := rfl
@[simp] theorem modLine_heads (s : State) (l : Nat) (f : LineCore → LineCore) : (modLine s l f).heads = s.heads := rfl
@[simp] theorem modLine_ports (s : State) (l : Nat) (f : LineCore → LineCore) : (modLine s l f).ports = s.ports := rfl
@[simp] theorem modLine_peerReply (s : State) (l : Nat) (f : LineCore → LineCore) : (modLine s l f).peerReply = s.peerReply := rfl
@[simp] theorem modLine_agenda (s : State) (l : Nat) (f : LineCore → LineCore) : (modLine s l f).agenda = s.agenda := rfl
@[simp] theorem modLine_cur (s : State) (l : Nat) (f : LineCore → LineCore) : (modLine s l f).cur = s.cur := rfl
@[simp] theorem modLine_tick (s : State) (l : Nat) (f : LineCore → LineCore) : (modLine s l f).tick = s.tick := rfl
@[simp] theorem modLine_nextId (s : State) (l : Nat) (f : LineCore → LineCore) : (modLine s l f).nextId = s.nextId := rfl

@[simp] theorem modReq_root (s : State) (r : Nat) (f : Req → Req) : (modReq s r f).root = s.root := rfl
@[simp] theorem modReq_dram (s : State) (r : Nat) (f : Req → Req) : (modReq s r f).dram = s.dram := rfl
@[simp] theorem modReq_l2 (s : State) (r : Nat) (f : Req → Req) : (modReq s r f).l2 = s.l2 := rfl
@[simp] theorem modReq_tlb (s : State) (r : Nat) (f : Req → Req) : (modReq s r f).tlb = s.tlb := rfl
@[simp] theorem modReq_wcache (s : State) (r : Nat) (f : Req → Req) : (modReq s r f).wcache = s.wcache := rfl
@[simp] theorem modReq_resv (s : State) (r : Nat) (f : Req → Req) : (modReq s r f).resv = s.resv := rfl
@[simp] theorem modReq_parts (s : State) (r : Nat) (f : Req → Req) : (modReq s r f).parts = s.parts := rfl
@[simp] theorem modReq_cores (s : State) (r : Nat) (f : Req → Req) : (modReq s r f).cores = s.cores := rfl
@[simp] theorem modReq_heads (s : State) (r : Nat) (f : Req → Req) : (modReq s r f).heads = s.heads := rfl
@[simp] theorem modReq_lcs (s : State) (r : Nat) (f : Req → Req) : (modReq s r f).lcs = s.lcs := rfl
@[simp] theorem modReq_ports (s : State) (r : Nat) (f : Req → Req) : (modReq s r f).ports = s.ports := rfl
@[simp] theorem modReq_peerReply (s : State) (r : Nat) (f : Req → Req) : (modReq s r f).peerReply = s.peerReply := rfl
@[simp] theorem modReq_agenda (s : State) (r : Nat) (f : Req → Req) : (modReq s r f).agenda = s.agenda := rfl
@[simp] theorem modReq_cur (s : State) (r : Nat) (f : Req → Req) : (modReq s r f).cur = s.cur := rfl
@[simp] theorem modReq_tick (s : State) (r : Nat) (f : Req → Req) : (modReq s r f).tick = s.tick := rfl
@[simp] theorem modReq_nextId (s : State) (r : Nat) (f : Req → Req) : (modReq s r f).nextId = s.nextId := rfl

@[simp] theorem dropReq_root (s : State) (r : Nat) : (dropReq s r).root = s.root := rfl
@[simp] theorem dropReq_dram (s : State) (r : Nat) : (dropReq s r).dram = s.dram := rfl
@[simp] theorem dropReq_l2 (s : State) (r : Nat) : (dropReq s r).l2 = s.l2 := rfl
@[simp] theorem dropReq_tlb (s : State) (r : Nat) : (dropReq s r).tlb = s.tlb := rfl
@[simp] theorem dropReq_wcache (s : State) (r : Nat) : (dropReq s r).wcache = s.wcache := rfl
@[simp] theorem dropReq_resv (s : State) (r : Nat) : (dropReq s r).resv = s.resv := rfl
@[simp] theorem dropReq_parts (s : State) (r : Nat) : (dropReq s r).parts = s.parts := rfl
@[simp] theorem dropReq_cores (s : State) (r : Nat) : (dropReq s r).cores = s.cores := rfl
@[simp] theorem dropReq_heads (s : State) (r : Nat) : (dropReq s r).heads = s.heads := rfl
@[simp] theorem dropReq_lcs (s : State) (r : Nat) : (dropReq s r).lcs = s.lcs := rfl
@[simp] theorem dropReq_ports (s : State) (r : Nat) : (dropReq s r).ports = s.ports := rfl
@[simp] theorem dropReq_peerReply (s : State) (r : Nat) : (dropReq s r).peerReply = s.peerReply := rfl
@[simp] theorem dropReq_agenda (s : State) (r : Nat) : (dropReq s r).agenda = s.agenda := rfl
@[simp] theorem dropReq_cur (s : State) (r : Nat) : (dropReq s r).cur = s.cur := rfl
@[simp] theorem dropReq_tick (s : State) (r : Nat) : (dropReq s r).tick = s.tick := rfl
@[simp] theorem dropReq_nextId (s : State) (r : Nat) : (dropReq s r).nextId = s.nextId := rfl

@[simp] theorem setCur_root (s : State) (c w : Nat) (p : PathAt) (i : DWord) (n : Nat) : (setCur s c w p i n).root = s.root := rfl
@[simp] theorem setCur_dram (s : State) (c w : Nat) (p : PathAt) (i : DWord) (n : Nat) : (setCur s c w p i n).dram = s.dram := rfl
@[simp] theorem setCur_l2 (s : State) (c w : Nat) (p : PathAt) (i : DWord) (n : Nat) : (setCur s c w p i n).l2 = s.l2 := rfl
@[simp] theorem setCur_tlb (s : State) (c w : Nat) (p : PathAt) (i : DWord) (n : Nat) : (setCur s c w p i n).tlb = s.tlb := rfl
@[simp] theorem setCur_wcache (s : State) (c w : Nat) (p : PathAt) (i : DWord) (n : Nat) : (setCur s c w p i n).wcache = s.wcache := rfl
@[simp] theorem setCur_resv (s : State) (c w : Nat) (p : PathAt) (i : DWord) (n : Nat) : (setCur s c w p i n).resv = s.resv := rfl
@[simp] theorem setCur_reqs (s : State) (c w : Nat) (p : PathAt) (i : DWord) (n : Nat) : (setCur s c w p i n).reqs = s.reqs := rfl
@[simp] theorem setCur_parts (s : State) (c w : Nat) (p : PathAt) (i : DWord) (n : Nat) : (setCur s c w p i n).parts = s.parts := rfl
@[simp] theorem setCur_cores (s : State) (c w : Nat) (p : PathAt) (i : DWord) (n : Nat) : (setCur s c w p i n).cores = s.cores := rfl
@[simp] theorem setCur_heads (s : State) (c w : Nat) (p : PathAt) (i : DWord) (n : Nat) : (setCur s c w p i n).heads = s.heads := rfl
@[simp] theorem setCur_lcs (s : State) (c w : Nat) (p : PathAt) (i : DWord) (n : Nat) : (setCur s c w p i n).lcs = s.lcs := rfl
@[simp] theorem setCur_ports (s : State) (c w : Nat) (p : PathAt) (i : DWord) (n : Nat) : (setCur s c w p i n).ports = s.ports := rfl
@[simp] theorem setCur_peerReply (s : State) (c w : Nat) (p : PathAt) (i : DWord) (n : Nat) : (setCur s c w p i n).peerReply = s.peerReply := rfl
@[simp] theorem setCur_agenda (s : State) (c w : Nat) (p : PathAt) (i : DWord) (n : Nat) : (setCur s c w p i n).agenda = s.agenda := rfl
@[simp] theorem setCur_tick (s : State) (c w : Nat) (p : PathAt) (i : DWord) (n : Nat) : (setCur s c w p i n).tick = s.tick := rfl
@[simp] theorem setCur_nextId (s : State) (c w : Nat) (p : PathAt) (i : DWord) (n : Nat) : (setCur s c w p i n).nextId = s.nextId := rfl

@[simp] theorem modPort_root (s : State) (i : Nat) (f : Port → Port) : (modPort s i f).root = s.root := rfl
@[simp] theorem modPort_dram (s : State) (i : Nat) (f : Port → Port) : (modPort s i f).dram = s.dram := rfl
@[simp] theorem modPort_l2 (s : State) (i : Nat) (f : Port → Port) : (modPort s i f).l2 = s.l2 := rfl
@[simp] theorem modPort_tlb (s : State) (i : Nat) (f : Port → Port) : (modPort s i f).tlb = s.tlb := rfl
@[simp] theorem modPort_wcache (s : State) (i : Nat) (f : Port → Port) : (modPort s i f).wcache = s.wcache := rfl
@[simp] theorem modPort_resv (s : State) (i : Nat) (f : Port → Port) : (modPort s i f).resv = s.resv := rfl
@[simp] theorem modPort_reqs (s : State) (i : Nat) (f : Port → Port) : (modPort s i f).reqs = s.reqs := rfl
@[simp] theorem modPort_parts (s : State) (i : Nat) (f : Port → Port) : (modPort s i f).parts = s.parts := rfl
@[simp] theorem modPort_cores (s : State) (i : Nat) (f : Port → Port) : (modPort s i f).cores = s.cores := rfl
@[simp] theorem modPort_heads (s : State) (i : Nat) (f : Port → Port) : (modPort s i f).heads = s.heads := rfl
@[simp] theorem modPort_lcs (s : State) (i : Nat) (f : Port → Port) : (modPort s i f).lcs = s.lcs := rfl
@[simp] theorem modPort_peerReply (s : State) (i : Nat) (f : Port → Port) : (modPort s i f).peerReply = s.peerReply := rfl
@[simp] theorem modPort_agenda (s : State) (i : Nat) (f : Port → Port) : (modPort s i f).agenda = s.agenda := rfl
@[simp] theorem modPort_cur (s : State) (i : Nat) (f : Port → Port) : (modPort s i f).cur = s.cur := rfl
@[simp] theorem modPort_tick (s : State) (i : Nat) (f : Port → Port) : (modPort s i f).tick = s.tick := rfl
@[simp] theorem modPort_nextId (s : State) (i : Nat) (f : Port → Port) : (modPort s i f).nextId = s.nextId := rfl

/-! The output of the stage, kept in the buffer of a slice, changes that core alone. -/

theorem keepStage_cores (s : State) (c q : Nat) (e : QEntry) (st : List (List Nat) × Flags) :
    { keepStage s c q e st with cores := s.cores } = s := by
  unfold keepStage; split <;> rfl

@[simp] theorem keepStage_root (s : State) (c q : Nat) (e : QEntry) (st : List (List Nat) × Flags) : (keepStage s c q e st).root = s.root := by
  unfold keepStage; split <;> rfl
@[simp] theorem keepStage_dram (s : State) (c q : Nat) (e : QEntry) (st : List (List Nat) × Flags) : (keepStage s c q e st).dram = s.dram := by
  unfold keepStage; split <;> rfl
@[simp] theorem keepStage_l2 (s : State) (c q : Nat) (e : QEntry) (st : List (List Nat) × Flags) : (keepStage s c q e st).l2 = s.l2 := by
  unfold keepStage; split <;> rfl
@[simp] theorem keepStage_tlb (s : State) (c q : Nat) (e : QEntry) (st : List (List Nat) × Flags) : (keepStage s c q e st).tlb = s.tlb := by
  unfold keepStage; split <;> rfl
@[simp] theorem keepStage_wcache (s : State) (c q : Nat) (e : QEntry) (st : List (List Nat) × Flags) : (keepStage s c q e st).wcache = s.wcache := by
  unfold keepStage; split <;> rfl
@[simp] theorem keepStage_resv (s : State) (c q : Nat) (e : QEntry) (st : List (List Nat) × Flags) : (keepStage s c q e st).resv = s.resv := by
  unfold keepStage; split <;> rfl
@[simp] theorem keepStage_reqs (s : State) (c q : Nat) (e : QEntry) (st : List (List Nat) × Flags) : (keepStage s c q e st).reqs = s.reqs := by
  unfold keepStage; split <;> rfl
@[simp] theorem keepStage_parts (s : State) (c q : Nat) (e : QEntry) (st : List (List Nat) × Flags) : (keepStage s c q e st).parts = s.parts := by
  unfold keepStage; split <;> rfl
@[simp] theorem keepStage_heads (s : State) (c q : Nat) (e : QEntry) (st : List (List Nat) × Flags) : (keepStage s c q e st).heads = s.heads := by
  unfold keepStage; split <;> rfl
@[simp] theorem keepStage_lcs (s : State) (c q : Nat) (e : QEntry) (st : List (List Nat) × Flags) : (keepStage s c q e st).lcs = s.lcs := by
  unfold keepStage; split <;> rfl
@[simp] theorem keepStage_ports (s : State) (c q : Nat) (e : QEntry) (st : List (List Nat) × Flags) : (keepStage s c q e st).ports = s.ports := by
  unfold keepStage; split <;> rfl
@[simp] theorem keepStage_peerReply (s : State) (c q : Nat) (e : QEntry) (st : List (List Nat) × Flags) : (keepStage s c q e st).peerReply = s.peerReply := by
  unfold keepStage; split <;> rfl
@[simp] theorem keepStage_agenda (s : State) (c q : Nat) (e : QEntry) (st : List (List Nat) × Flags) : (keepStage s c q e st).agenda = s.agenda := by
  unfold keepStage; split <;> rfl
@[simp] theorem keepStage_cur (s : State) (c q : Nat) (e : QEntry) (st : List (List Nat) × Flags) : (keepStage s c q e st).cur = s.cur := by
  unfold keepStage; split <;> rfl
@[simp] theorem keepStage_tick (s : State) (c q : Nat) (e : QEntry) (st : List (List Nat) × Flags) : (keepStage s c q e st).tick = s.tick := by
  unfold keepStage; split <;> rfl
@[simp] theorem keepStage_nextId (s : State) (c q : Nat) (e : QEntry) (st : List (List Nat) × Flags) : (keepStage s c q e st).nextId = s.nextId := by
  unfold keepStage; split <;> rfl

/-! ### What an update reads back as -/

theorem coreOf_setCore (s : State) (c d : Nat) (x : Core) : coreOf (setCore s c x) d = if d = c then x else coreOf s d := by
  simp [coreOf, setCore, getD_put]

@[simp] theorem coreOf_setCore_self (s : State) (c : Nat) (x : Core) : coreOf (setCore s c x) c = x := by
  simp [coreOf_setCore]

theorem coreOf_modCore (s : State) (c d : Nat) (f : Core → Core) :
    coreOf (modCore s c f) d = if d = c then f (coreOf s d) else coreOf s d := by
  unfold modCore; rw [coreOf_setCore]; split <;> simp_all

theorem coreOf_keepStage (s : State) (c q d : Nat) (e : QEntry) (st : List (List Nat) × Flags) :
    coreOf (keepStage s c q e st) d = if d = c ∧ (e.kind = qEXP ∨ e.kind = qABS)
      then { coreOf s d with xform := put (coreOf s d).xform q (e.buffered st) } else coreOf s d := by
  unfold keepStage
  by_cases h : e.kind = qEXP ∨ e.kind = qABS <;> simp only [h, if_true, if_false, and_true, and_false, coreOf_modCore]

/-- The buffer of a slice after an entry has run (11 R305). -/
theorem bufferOf_keepStage (s : State) (c q d p : Nat) (e : QEntry) (st : List (List Nat) × Flags) :
    bufferOf (keepStage s c q e st) d p = if d = c ∧ p = q ∧ (e.kind = qEXP ∨ e.kind = qABS) then some (e.buffered st)
      else bufferOf s d p := by
  unfold bufferOf
  rw [coreOf_keepStage]
  by_cases hd : d = c <;> by_cases h : e.kind = qEXP ∨ e.kind = qABS <;> simp [hd, h, lookup_put]

@[simp] theorem coreOf_modCore_self (s : State) (c : Nat) (f : Core → Core) : coreOf (modCore s c f) c = f (coreOf s c) := by
  simp [coreOf_modCore]

theorem partOf_setPart (s : State) (p q : Nat) (x : Part) : partOf (setPart s p x) q = if q = p then x else partOf s q := by
  simp [partOf, setPart, getD_put]

theorem partOf_modPart (s : State) (p q : Nat) (f : Part → Part) :
    partOf (modPart s p f) q = if q = p then f (partOf s q) else partOf s q := by
  unfold modPart; rw [partOf_setPart]; split <;> simp_all

@[simp] theorem partOf_modPart_self (s : State) (p : Nat) (f : Part → Part) : partOf (modPart s p f) p = f (partOf s p) := by
  simp [partOf_modPart]

theorem lineOf_setLine (s : State) (l k : Nat) (x : LineCore) : lineOf (setLine s l x) k = if k = l then x else lineOf s k := by
  simp [lineOf, setLine, getD_put]

theorem lineOf_modLine (s : State) (l k : Nat) (f : LineCore → LineCore) :
    lineOf (modLine s l f) k = if k = l then f (lineOf s k) else lineOf s k := by
  unfold modLine; rw [lineOf_setLine]; split <;> simp_all

@[simp] theorem lineOf_modLine_self (s : State) (l : Nat) (f : LineCore → LineCore) : lineOf (modLine s l f) l = f (lineOf s l) := by
  simp [lineOf_modLine]

theorem headOf_setHead (s : State) (h k : Nat) (x : Head) : headOf (setHead s h x) k = if k = h then x else headOf s k := by
  simp [headOf, setHead, getD_put]

theorem headOf_modHead (s : State) (h k : Nat) (f : Head → Head) :
    headOf (modHead s h f) k = if k = h then f (headOf s k) else headOf s k := by
  unfold modHead; rw [headOf_setHead]; split <;> simp_all

@[simp] theorem headOf_modHead_self (s : State) (h : Nat) (f : Head → Head) : headOf (modHead s h f) h = f (headOf s h) := by
  simp [headOf_modHead]

theorem portOf_modPort (s : State) (i j : Nat) (f : Port → Port) :
    portOf (modPort s i f) j = if j = i then f (portOf s i) else portOf s j := by
  unfold modPort portOf; simp only [getD_put]

@[simp] theorem portOf_modPort_self (s : State) (i : Nat) (f : Port → Port) : portOf (modPort s i f) i = f (portOf s i) := by
  simp [portOf_modPort]

/-- A warp slot read after one was changed. -/
theorem warpAt?_modWarp (s : State) (c w d v : Nat) (f : Warp → Warp) :
    warpAt? (modWarp s c w f) d v = if d = c ∧ v = w then (warpAt? s d v).map f else warpAt? s d v := by
  unfold warpAt? modWarp
  rw [coreOf_modCore]
  by_cases hd : d = c
  · simp only [hd, if_true, true_and, lookup_adjust]
  · simp [hd]

@[simp] theorem warpAt?_modWarp_self (s : State) (c w : Nat) (f : Warp → Warp) :
    warpAt? (modWarp s c w f) c w = (warpAt? s c w).map f := by
  simp [warpAt?_modWarp]

/-- The warp of a slot that holds one, after it was changed. -/
theorem warpAt_modWarp (s : State) (c w : Nat) (f : Warp → Warp) (h : (warpAt? s c w).isSome) :
    warpAt (modWarp s c w f) c w = f (warpAt s c w) := by
  unfold warpAt; rw [warpAt?_modWarp_self]
  cases hw : warpAt? s c w with
  | none => simp [hw] at h
  | some x => rfl

/-- A slot that holds a warp still does after it was changed. -/
@[simp] theorem isSome_warpAt?_modWarp (s : State) (c w : Nat) (f : Warp → Warp) :
    (warpAt? (modWarp s c w f) c w).isSome = (warpAt? s c w).isSome := by
  simp

/-- Two changes of one warp are one. -/
theorem modWarp_modWarp (s : State) (c w : Nat) (f g : Warp → Warp) :
    modWarp (modWarp s c w f) c w g = modWarp s c w (fun x => g (f x)) := by
  unfold modWarp modCore setCore
  simp only [coreOf, getD_put, if_true]
  rw [put_put, adjust_adjust]

/-- What a change makes of the warp in the slot is all that counts. -/
theorem modWarp_eq (s : State) (c w : Nat) (f : Warp → Warp) : modWarp s c w f = modWarp s c w (fun _ => f (warpAt s c w)) := by
  unfold modWarp modCore
  congr 1
  dsimp only
  rw [adjust_eq _ _ f (fun _ => f (warpAt s c w))]
  intro v hv
  simp [warpAt, warpAt?, hv]

/-- A change of a warp that changes nothing else of the state when done by equal results. -/
theorem modWarp_congr (s : State) (c w : Nat) (f g : Warp → Warp) (h : ∀ x, f x = g x) : modWarp s c w f = modWarp s c w g := by
  have : f = g := funext h
  rw [this]

theorem groupAt_modWarp (s : State) (c w d g : Nat) (f : Warp → Warp) : groupAt (modWarp s c w f) d g = groupAt s d g := by
  unfold groupAt modWarp; rw [coreOf_modCore]; split <;> rfl

theorem groupAt_modGroup (s : State) (c g d k : Nat) (f : Group → Group) :
    groupAt (modGroup s c g f) d k = if d = c ∧ k = g then (groupAt s d k).map f else groupAt s d k := by
  unfold groupAt modGroup
  rw [coreOf_modCore]
  by_cases hd : d = c
  · simp only [hd, if_true, true_and, lookup_adjust]
  · simp [hd]

theorem warpAt?_modGroup (s : State) (c g d w : Nat) (f : Group → Group) : warpAt? (modGroup s c g f) d w = warpAt? s d w := by
  unfold warpAt? modGroup; rw [coreOf_modCore]; split <;> rfl

end Sys2Proof.Machine
end

