-- ==== Sys2Proof/Laws/Warp.lean ====
section
/-! SUPPORT. Laws/Warp.lean: what a write to a warp's registers and predicates reads back as, and what stepping past an
instruction changes. -/

namespace Sys2Proof.Machine

variable {w : Warp}

/-! ### Lists of names -/

theorem lookup_append {α : Type} (a b : SMap α) (k : Nat) :
    lookup (a ++ b) k = (lookup a k).or (lookup b k) := by
  induction a with
  | nil => rfl
  | cons e a ih =>
    simp only [List.cons_append, lookup_cons, ih]
    split <;> rfl

theorem lookup_eq_none {α : Type} (m : SMap α) (k : Nat) (h : ∀ e ∈ m, e.1 ≠ k) : lookup m k = none := by
  induction m with
  | nil => rfl
  | cons e m ih =>
    rw [lookup_cons, if_neg (h e (by simp))]
    exact ih fun e he => h e (by simp [he])

/-! ### One register -/

@[simp] theorem rwrite_lanes (l r v : Nat) : (rwrite w l r v).lanes = w.lanes := by
  unfold rwrite vset sset; split_ifs <;> rfl

@[simp] theorem rwrite_qb (l r v : Nat) : (rwrite w l r v).qb = w.qb := by
  unfold rwrite vset sset; split_ifs <;> rfl

@[simp] theorem rwrite_hmode (l r v : Nat) : (rwrite w l r v).hmode = w.hmode := by
  unfold rwrite vset sset; split_ifs <;> rfl

@[simp] theorem rwrite_hpc (l r v : Nat) : (rwrite w l r v).hpc = w.hpc := by
  unfold rwrite vset sset; split_ifs <;> rfl

theorem rwrite_same (l r v : Nat) : SameButRegs w (rwrite w l r v) := by
  unfold SameButRegs rwrite vset sset; split_ifs <;> rfl

theorem hasLane_rwrite (l r v k : Nat) : (rwrite w l r v).hasLane k = w.hasLane k := by simp [Warp.hasLane]

theorem vget_rwrite (l r v k q : Nat) (hq : q < 192) : vget (rwrite w l r v) k q =
    if k = l ∧ q = r ∧ w.hasLane l = true then BitVec.ofNat 32 v else vget w k q := by
  unfold rwrite Warp.hasLane
  by_cases hr : r < 192
  · rw [if_pos hr]
    by_cases hl : (lookup w.lanes l).isSome = true
    · rw [if_pos hl]
      unfold vget vset
      simp only [getD_setD, hl, and_true]
      by_cases h : k = l ∧ q = r
      · simp [h]
      · rw [if_neg h, if_neg]
        intro h'; exact h (by omega)
    · rw [if_neg hl]; simp [hl]
  · rw [if_neg hr]
    have : ¬ (k = l ∧ q = r ∧ (lookup w.lanes l).isSome = true) := by omega
    rw [if_neg this]
    split <;> rfl

theorem sget_rwrite (l r v n : Nat) (hn : n < 63) : sget (rwrite w l r v) n =
    if r = 192 + n then BitVec.ofNat 32 v else sget w n := by
  unfold rwrite
  by_cases hr : r < 192
  · have hne : ¬ r = 192 + n := by omega
    rw [if_pos hr, if_neg hne]; split <;> rfl
  · rw [if_neg hr]
    by_cases h5 : r < 255
    · rw [if_pos h5]; unfold sget sset; simp only [getD_setD]
      by_cases h : r = 192 + n
      · rw [if_pos (by omega), if_pos h]
      · rw [if_neg (by omega), if_neg h]
    · rw [if_neg h5, if_neg (by omega)]

/-! ### One predicate -/

theorem wbit_eq (x : Byte) (k : Nat) : wbit x k = x.getLsbD k := by
  unfold wbit nbit nbits
  rw [BitVec.getLsbD, Nat.testBit_eq_decide_div_mod_eq, Nat.shiftRight_eq_div_pow]
  rw [pow_one, Bool.beq_eq_decide_eq]

theorem wbit_setBit8 (x : Byte) (i k : Nat) (b : Bool) (hk : k < 8) :
    wbit (setBit8 x i b) k = if k = i then b else wbit x k := by
  simp only [wbit_eq, setBit8]
  by_cases h : k = i
  · subst h; cases b <;> simp [hk]
  · have h' : ¬ i = k := fun e => h e.symm
    cases b <;> simp [h, hk]

@[simp] theorem vget_predWrite (l sel k q : Nat) (b : Bool) : vget (predWrite w l sel b) k q = vget w k q := by
  unfold predWrite; split_ifs <;> rfl

@[simp] theorem sget_predWrite (l sel n : Nat) (b : Bool) : sget (predWrite w l sel b) n = sget w n := by
  unfold predWrite; split_ifs <;> rfl

theorem predWrite_same (l sel : Nat) (b : Bool) : SameButRegs w (predWrite w l sel b) := by
  unfold SameButRegs predWrite; split_ifs <;> rfl

@[simp] theorem predWrite_hmode (l sel : Nat) (b : Bool) : (predWrite w l sel b).hmode = w.hmode := by
  unfold predWrite; split_ifs <;> rfl

@[simp] theorem predWrite_hpc (l sel : Nat) (b : Bool) : (predWrite w l sel b).hpc = w.hpc := by
  unfold predWrite; split_ifs <;> rfl

theorem lookup_predWrite (l sel k : Nat) (b : Bool) :
    (lookup (predWrite w l sel b).lanes k).map (fun t => { t with pb := 0 }) =
      (lookup w.lanes k).map (fun t => { t with pb := 0 }) := by
  unfold predWrite
  split_ifs
  · rfl
  · rfl
  · simp only [lookup_adjust]
    split
    · cases lookup w.lanes k <;> rfl
    · rfl

@[simp] theorem hasLane_predWrite (l sel k : Nat) (b : Bool) : (predWrite w l sel b).hasLane k = w.hasLane k := by
  have h := congrArg Option.isSome (lookup_predWrite (w := w) l sel k b)
  simpa [Warp.hasLane] using h

theorem pbyte_predWrite (l sel k j : Nat) (b : Bool) (hj : j < 8) (hs : sel < 16) (hk : w.hasLane k = true) :
    wbit (pbyte (predWrite w l sel b) k) j =
      if k = l ∧ j = sel ∧ sel % 8 ≠ 7 then b else wbit (pbyte w k) j := by
  unfold predWrite
  by_cases h7 : sel % 8 = 7
  · simp [h7]
  rw [if_neg h7]
  by_cases h3 : nbit sel 3 = true
  · rw [if_pos h3]
    have : ¬ (k = l ∧ j = sel ∧ sel % 8 ≠ 7) := by
      rintro ⟨-, rfl, -⟩
      have : nbit j 3 = false := by unfold nbit nbits; rw [Nat.shiftRight_eq_div_pow]; simp; omega
      simp [this] at h3
    rw [if_neg this]; rfl
  · rw [if_neg h3]
    have hs8 : sel < 8 := by
      by_contra hge
      apply h3
      unfold nbit nbits; rw [Nat.shiftRight_eq_div_pow]; simp; omega
    unfold pbyte
    simp only [lookup_adjust]
    unfold Warp.hasLane at hk
    by_cases hkl : k = l
    · subst hkl
      obtain ⟨t, ht⟩ := Option.isSome_iff_exists.mp hk
      simp only [ht, if_true, Option.map_some, true_and]
      rw [wbit_setBit8 _ _ _ _ hj]
      have : sel % 8 = sel := Nat.mod_eq_of_lt hs8
      rw [this] at h7 ⊢
      simp [h7]
    · simp [hkl]

theorem qb_predWrite (l sel j : Nat) (b : Bool) (hj : j < 8) (hs : sel < 16) :
    wbit (predWrite w l sel b).qb j = if sel = 8 + j ∧ sel % 8 ≠ 7 then b else wbit w.qb j := by
  unfold predWrite
  by_cases h7 : sel % 8 = 7
  · simp [h7]
  rw [if_neg h7]
  by_cases h3 : nbit sel 3 = true
  · rw [if_pos h3]
    have hs8 : 8 ≤ sel := by
      by_contra hge
      have : nbit sel 3 = false := by unfold nbit nbits; rw [Nat.shiftRight_eq_div_pow]; simp; omega
      simp [this] at h3
    show wbit (setBit8 w.qb (sel % 8) b) j = _
    rw [wbit_setBit8 _ _ _ _ hj]
    have : (j = sel % 8) ↔ (sel = 8 + j) := by omega
    simp [this, h7]
  · rw [if_neg h3]
    have hs8 : sel < 8 := by
      by_contra hge
      apply h3
      unfold nbit nbits; rw [Nat.shiftRight_eq_div_pow]; simp; omega
    rw [if_neg (by omega)]

/-- A p predicate leaves the q byte alone, and the other way round. -/
theorem qb_predWrite_p (l sel : Nat) (b : Bool) (hs : sel < 8) : (predWrite w l sel b).qb = w.qb := by
  unfold predWrite
  have : nbit sel 3 = false := by unfold nbit nbits; rw [Nat.shiftRight_eq_div_pow]; simp; omega
  simp only [this]
  split_ifs <;> first | rfl | simp_all

theorem lanes_predWrite_q (l sel : Nat) (b : Bool) (hs : 8 ≤ sel) (hs' : sel < 16) : (predWrite w l sel b).lanes = w.lanes := by
  unfold predWrite
  have : nbit sel 3 = true := by unfold nbit nbits; rw [Nat.shiftRight_eq_div_pow]; simp; omega
  simp only [this, if_true]; split_ifs <;> rfl

theorem SameButRegs.trans {a b c : Warp} (h : SameButRegs a b) (h' : SameButRegs b c) : SameButRegs a c := by
  have h1 := congrArg (fun z : Warp => { z with vr := a.vr, sr := a.sr, qb := a.qb, lanes := a.lanes, hpc := a.hpc }) h'
  exact h1.trans h

theorem SameButRegs.refl (a : Warp) : SameButRegs a a := rfl

end Sys2Proof.Machine
end

