-- ==== Sys2Proof/Laws/Issue.lean ====
section
/-! SUPPORT. Laws/Issue.lean: what a result written to a lane reads back as, and all that an instruction of one lane at a time,
or of one uniform execution, leaves. -/

namespace Sys2Proof.Machine

variable {w : Warp}

/-! ### Results put into a lane -/

/-- What two warps share when only registers and predicates were written between them. -/
structure OnlyRegs (w w' : Warp) : Prop where
  same : SameButRegs w w'
  hmode : w'.hmode = w.hmode
  hpc : w'.hpc = w.hpc
  lanes : ∀ k, (lookup w'.lanes k).map (fun t => { t with pb := 0 }) = (lookup w.lanes k).map (fun t => { t with pb := 0 })

theorem OnlyRegs.refl (w : Warp) : OnlyRegs w w := ⟨rfl, rfl, rfl, fun _ => rfl⟩

theorem OnlyRegs.trans {a b c : Warp} (h : OnlyRegs a b) (h' : OnlyRegs b c) : OnlyRegs a c :=
  ⟨h.same.trans h'.same, h'.hmode.trans h.hmode, h'.hpc.trans h.hpc, fun k => (h'.lanes k).trans (h.lanes k)⟩

theorem OnlyRegs.hasLane {a b : Warp} (h : OnlyRegs a b) (k : Nat) : b.hasLane k = a.hasLane k := by
  have := congrArg Option.isSome (h.lanes k)
  simpa [Warp.hasLane] using this

theorem onlyRegs_rwrite (l r v : Nat) : OnlyRegs w (rwrite w l r v) := ⟨rwrite_same l r v, by simp, by simp, by simp⟩

theorem onlyRegs_predWrite (l sel : Nat) (b : Bool) : OnlyRegs w (predWrite w l sel b) :=
  ⟨predWrite_same l sel b, by simp, by simp, fun k => lookup_predWrite l sel k b⟩

/-- Registers written one after another. -/
def writeRegs (w : Warp) (l : Nat) (rs : List (Nat × Nat)) : Warp := rs.foldl (fun w e => rwrite w l e.1 e.2) w
def writePreds (w : Warp) (l : Nat) (ps : List (Nat × Bool)) : Warp := ps.foldl (fun w e => predWrite w l e.1 e.2) w

theorem put_eq (r : LaneRes) (w : Warp) (l : Nat) : r.put w l = writePreds (writeRegs w l r.regs) l r.preds := rfl

theorem onlyRegs_writeRegs (l : Nat) (rs : List (Nat × Nat)) (w : Warp) : OnlyRegs w (writeRegs w l rs) := by
  induction rs generalizing w with
  | nil => exact .refl w
  | cons e rs ih => exact (onlyRegs_rwrite l e.1 e.2).trans (ih _)

theorem onlyRegs_writePreds (l : Nat) (ps : List (Nat × Bool)) (w : Warp) : OnlyRegs w (writePreds w l ps) := by
  induction ps generalizing w with
  | nil => exact .refl w
  | cons e ps ih => exact (onlyRegs_predWrite l e.1 e.2).trans (ih _)

theorem onlyRegs_put (r : LaneRes) (l : Nat) (w : Warp) : OnlyRegs w (r.put w l) :=
  (onlyRegs_writeRegs l _ w).trans (onlyRegs_writePreds l _ _)

theorem vget_writeRegs (l : Nat) (rs : List (Nat × Nat)) (w : Warp) (k q : Nat) (hq : q < 192) :
    vget (writeRegs w l rs) k q =
      if k = l ∧ w.hasLane l = true then ((lookup rs.reverse q).map (BitVec.ofNat 32)).getD (vget w k q) else vget w k q := by
  induction rs generalizing w with
  | nil => simp [writeRegs]
  | cons e rs ih =>
    show vget (writeRegs (rwrite w l e.1 e.2) l rs) k q = _
    rw [ih, hasLane_rwrite, vget_rwrite _ _ _ _ _ hq, List.reverse_cons, lookup_append]
    by_cases h : k = l ∧ w.hasLane l = true
    · rw [if_pos h, if_pos h]
      cases lookup rs.reverse q with
      | some v => rfl
      | none =>
        simp only [Option.map_none, Option.getD_none, Option.none_or, lookup_cons, lookup_nil]
        by_cases he : q = e.1
        · rw [if_pos ⟨h.1, he, h.2⟩, if_pos he.symm]; rfl
        · rw [if_neg (fun h' => he h'.2.1), if_neg (fun h' => he h'.symm)]; rfl
    · rw [if_neg h, if_neg h, if_neg]; rintro ⟨h1, -, h3⟩; exact h ⟨h1, h3⟩

theorem sget_writeRegs (l : Nat) (rs : List (Nat × Nat)) (w : Warp) (n : Nat) (hn : n < 63) :
    sget (writeRegs w l rs) n = ((lookup rs.reverse (192 + n)).map (BitVec.ofNat 32)).getD (sget w n) := by
  induction rs generalizing w with
  | nil => simp [writeRegs]
  | cons e rs ih =>
    show sget (writeRegs (rwrite w l e.1 e.2) l rs) n = _
    rw [ih, sget_rwrite _ _ _ _ hn, List.reverse_cons, lookup_append]
    cases lookup rs.reverse (192 + n) with
    | some v => rfl
    | none =>
      simp only [Option.map_none, Option.getD_none, Option.none_or, lookup_cons, lookup_nil]
      by_cases he : e.1 = 192 + n <;> simp [he]

@[simp] theorem vget_writePreds (l : Nat) (ps : List (Nat × Bool)) (w : Warp) (k q : Nat) :
    vget (writePreds w l ps) k q = vget w k q := by
  induction ps generalizing w with
  | nil => rfl
  | cons e ps ih => exact (ih _).trans (vget_predWrite _ _ _ _ _)

@[simp] theorem sget_writePreds (l : Nat) (ps : List (Nat × Bool)) (w : Warp) (n : Nat) :
    sget (writePreds w l ps) n = sget w n := by
  induction ps generalizing w with
  | nil => rfl
  | cons e ps ih => exact (ih _).trans (sget_predWrite _ _ _ _)

@[simp] theorem pbyte_writeRegs (l : Nat) (rs : List (Nat × Nat)) (w : Warp) (k : Nat) :
    pbyte (writeRegs w l rs) k = pbyte w k := by
  induction rs generalizing w with
  | nil => rfl
  | cons e rs ih => exact (ih _).trans (by simp [pbyte])

@[simp] theorem qb_writeRegs (l : Nat) (rs : List (Nat × Nat)) (w : Warp) : (writeRegs w l rs).qb = w.qb := by
  induction rs generalizing w with
  | nil => rfl
  | cons e rs ih => exact (ih _).trans (by simp)

theorem pbyte_writePreds (l : Nat) (ps : List (Nat × Bool)) (hp : ∀ e ∈ ps, e.1 < 16) (w : Warp) (k j : Nat) (hj : j < 8)
    (hk : w.hasLane k = true) : wbit (pbyte (writePreds w l ps) k) j =
      if k = l then (lookup (ps.filter (fun e => e.1 % 8 != 7)).reverse j).getD (wbit (pbyte w k) j)
      else wbit (pbyte w k) j := by
  induction ps generalizing w with
  | nil => simp [writePreds]
  | cons e ps ih =>
    show wbit (pbyte (writePreds (predWrite w l e.1 e.2) l ps) k) j = _
    rw [ih (fun e he => hp e (by simp [he])) _ (by simpa using hk), pbyte_predWrite _ _ _ _ _ hj (hp e (by simp)) hk]
    by_cases h : k = l
    · rw [if_pos h, if_pos h, List.filter_cons]
      by_cases h7 : e.1 % 8 = 7
      · simp [h7]
      · have : (e.1 % 8 != 7) = true := by simp [h7]
        rw [if_pos this, List.reverse_cons, lookup_append]
        cases lookup (ps.filter (fun e => e.1 % 8 != 7)).reverse j with
        | some v => rfl
        | none =>
          simp only [Option.getD_none, Option.none_or, lookup_cons, lookup_nil]
          by_cases he : j = e.1
          · rw [if_pos ⟨h, he, h7⟩, if_pos he.symm]; rfl
          · rw [if_neg (fun h' => he h'.2.1), if_neg (fun h' => he h'.symm)]; rfl
    · rw [if_neg h, if_neg h, if_neg (fun h' => h h'.1)]

theorem qb_writePreds (l : Nat) (ps : List (Nat × Bool)) (hp : ∀ e ∈ ps, e.1 < 16) (w : Warp) (j : Nat) (hj : j < 8) :
    wbit (writePreds w l ps).qb j = (lookup (ps.filter (fun e => e.1 % 8 != 7)).reverse (8 + j)).getD (wbit w.qb j) := by
  induction ps generalizing w with
  | nil => simp [writePreds]
  | cons e ps ih =>
    show wbit (writePreds (predWrite w l e.1 e.2) l ps).qb j = _
    rw [ih (fun e he => hp e (by simp [he])), qb_predWrite _ _ _ _ hj (hp e (by simp)), List.filter_cons]
    by_cases h7 : e.1 % 8 = 7
    · simp [h7]
    · have : (e.1 % 8 != 7) = true := by simp [h7]
      rw [if_pos this, List.reverse_cons, lookup_append]
      cases lookup (ps.filter (fun e => e.1 % 8 != 7)).reverse (8 + j) with
      | some v => rfl
      | none =>
        simp only [Option.getD_none, Option.none_or, lookup_cons, lookup_nil]
        by_cases he : e.1 = 8 + j
        · rw [if_pos ⟨he, h7⟩, if_pos he]; rfl
        · rw [if_neg (fun h' => he h'.1), if_neg he]; rfl

/-- A result of one thread's registers and predicates, put into its lane. -/
theorem put_perThread (r : LaneRes) (hr : r.perThread) (l : Nat) (w : Warp) : SameUniform w (r.put w l) := by
  constructor
  · intro n hn
    rw [put_eq, sget_writePreds, sget_writeRegs _ _ _ _ hn, lookup_eq_none]; · rfl
    intro e he
    have := hr.1 e (List.mem_reverse.mp he)
    omega
  · rw [put_eq]
    have : ∀ (ps : List (Nat × Bool)), (∀ e ∈ ps, e.1 < 8) → ∀ w : Warp, (writePreds w l ps).qb = w.qb := by
      intro ps
      induction ps with
      | nil => intro _ w; rfl
      | cons e ps ih =>
        intro h w
        exact (ih (fun e he => h e (by simp [he])) _).trans (qb_predWrite_p _ _ _ (h e (by simp)))
    rw [this _ hr.2, qb_writeRegs]

theorem vget_put (r : LaneRes) (l : Nat) (w : Warp) (k q : Nat) (hq : q < 192) : vget (r.put w l) k q =
    if k = l ∧ w.hasLane l = true then (r.word q).getD (vget w k q) else vget w k q := by
  rw [put_eq, vget_writePreds, vget_writeRegs _ _ _ _ _ hq]; rfl

theorem pbyte_put (r : LaneRes) (hp : ∀ e ∈ r.preds, e.1 < 16) (l : Nat) (w : Warp) (k j : Nat) (hj : j < 8)
    (hk : w.hasLane k = true) : wbit (pbyte (r.put w l) k) j =
      if k = l then (r.bit j).getD (wbit (pbyte w k) j) else wbit (pbyte w k) j := by
  rw [put_eq, pbyte_writePreds _ _ hp _ _ _ hj (by rw [(onlyRegs_writeRegs l r.regs w).hasLane]; exact hk), pbyte_writeRegs]; rfl

/-- A result of uniform registers and q predicates, put once. -/
theorem put_uniform (r : LaneRes) (hr : r.uniform) (hp : ∀ e ∈ r.preds, e.1 < 16) (l : Nat) (w : Warp) :
    SameLanes w (r.put w l) ∧ WroteUniform w (r.put w l) r := by
  refine ⟨⟨?_, ?_⟩, ⟨?_, ?_⟩⟩
  · intro k q hq
    rw [vget_put _ _ _ _ _ hq]
    split
    · rw [LaneRes.word, lookup_eq_none]; · rfl
      intro e he
      have := hr.1 e (List.mem_reverse.mp he)
      omega
    · rfl
  · intro k
    have : ∀ (ps : List (Nat × Bool)), (∀ e ∈ ps, 8 ≤ e.1 ∧ e.1 < 16) → ∀ w : Warp, (writePreds w l ps).lanes = w.lanes := by
      intro ps
      induction ps with
      | nil => intro _ w; rfl
      | cons e ps ih =>
        intro h w
        exact (ih (fun e he => h e (by simp [he])) _).trans (lanes_predWrite_q _ _ _ (h e (by simp)).1 (h e (by simp)).2)
    rw [put_eq]
    unfold pbyte
    rw [this _ (fun e he => ⟨hr.2 e he, hp e he⟩)]
    have h2 := pbyte_writeRegs l r.regs w k
    unfold pbyte at h2
    exact h2
  · intro n hn
    rw [put_eq, sget_writePreds, sget_writeRegs _ _ _ _ hn]; rfl
  · intro j hj
    rw [put_eq, qb_writePreds _ _ hp _ _ hj, qb_writeRegs]; rfl

/-! ### Results of many lanes -/

/-- Results of distinct lanes, each put into its own. -/
theorem wroteLanes_foldl (ls : List Nat) (hn : ls.Nodup) (res : Nat → LaneRes) (hr : ∀ l ∈ ls, (res l).perThread) (w : Warp) :
    OnlyRegs w ((ls.map (fun l => (l, res l))).foldl (fun w e => e.2.put w e.1) w) ∧
    SameUniform w ((ls.map (fun l => (l, res l))).foldl (fun w e => e.2.put w e.1) w) ∧
    WroteLanes w ((ls.map (fun l => (l, res l))).foldl (fun w e => e.2.put w e.1) w) ls res := by
  induction ls generalizing w with
  | nil => exact ⟨.refl w, ⟨fun _ _ => rfl, rfl⟩, ⟨fun _ _ _ => by simp, fun _ _ _ _ => by simp⟩⟩
  | cons l ls ih =>
    rw [List.nodup_cons] at hn
    obtain ⟨h1, h2, h3⟩ := ih hn.2 (fun k hk => hr k (by simp [hk])) ((res l).put w l)
    have hl := hr l (by simp)
    have ho := onlyRegs_put (res l) l w
    simp only [List.map_cons, List.foldl_cons]
    refine ⟨ho.trans h1, ?_, ?_, ?_⟩
    · have h4 := put_perThread (res l) hl l w
      exact ⟨fun n hn => (h2.1 n hn).trans (h4.1 n hn), h2.2.trans h4.2⟩
    · intro k r hq
      rw [h3.regs k r hq, vget_put _ _ _ _ _ hq, ho.hasLane]
      by_cases hk : k = l
      · subst hk
        have h0 : ¬ (k ∈ ls ∧ w.hasLane k = true) := fun h => hn.1 h.1
        rw [if_neg h0]
        simp
      · simp [hk]
    · intro k j hj hk
      rw [h3.preds k j hj (by rw [ho.hasLane]; exact hk),
        pbyte_put _ (fun e he => Nat.lt_trans (hl.2 e he) (by omega)) _ _ _ _ hj hk]
      by_cases hkl : k = l
      · subst hkl; rw [if_neg hn.1]; simp
      · simp [hkl]

theorem maskLanes_nodup (m : Word) : (maskLanes m).Nodup := List.Nodup.filter _ (by decide)

theorem guarded_nodup (w : Warp) (m : Word) (g : BitVec 5) : (guarded w m g).Nodup := List.Nodup.filter _ (maskLanes_nodup m)

/-! ### Stepping past an instruction -/

theorem lookup_modLanes (w : Warp) (m : Word) (f : Nat → Lane → Lane) (l : Nat) :
    lookup (modLanes w m f).lanes l = (lookup w.lanes l).map (fun t => if m.getLsbD l && decide (l < 32) then f l t else t) := by
  unfold modLanes
  have : (fun e : Nat × Lane => if m.getLsbD e.1 && decide (e.1 < 32) then (e.1, f e.1 e.2) else e) =
      fun e => (e.1, (fun i t => if m.getLsbD i && decide (i < 32) then f i t else t) e.1 e.2) := by
    funext e; dsimp only; split <;> rfl
  simp only [this]
  exact lookup_mapVal w.lanes (fun i t => if m.getLsbD i && decide (i < 32) then f i t else t) l

theorem advance_same (w : Warp) (m : Word) (n : Nat) : { advance w m n with lanes := w.lanes, hpc := w.hpc } = w := by
  unfold advance modLanes; split <;> rfl

theorem pbyte_advance (w : Warp) (m : Word) (n l : Nat) : pbyte (advance w m n) l = pbyte w l := by
  unfold advance
  split
  · rfl
  · unfold pbyte
    rw [lookup_modLanes]
    cases lookup w.lanes l with
    | none => rfl
    | some t => simp only [Option.map_some]; split <;> rfl

theorem stepped_advance (a w : Warp) (h : OnlyRegs a w) (m : Word) (n : Nat) : Stepped a (advance w m n) m n := by
  constructor
  · unfold advance
    rw [h.hmode]
    split
    · rw [h.hpc]
    · exact h.hpc
  · intro l
    have hl : (lookup w.lanes l).map (fun t => { t.unseen with pb := 0 }) =
        (lookup a.lanes l).map (fun t => { t.unseen with pb := 0 }) := by
      have e : ∀ o : Option Lane, o.map (fun t => { t.unseen with pb := 0 }) =
          (o.map (fun t => { t with pb := 0 })).map Lane.unseen := by intro o; cases o <;> rfl
      rw [e, e, h.lanes l]
    unfold advance
    rw [h.hmode]
    split
    · rename_i hm
      simp only [hm, Bool.true_eq_false, false_and, if_false]
      exact hl
    · rename_i hm
      rw [lookup_modLanes]
      have hm' : a.hmode = false := by simpa using hm
      cases h1 : lookup w.lanes l with
      | none =>
        rw [h1] at hl
        cases h2 : lookup a.lanes l with
        | none => rfl
        | some t => rw [h2] at hl; simp at hl
      | some u =>
        cases h2 : lookup a.lanes l with
        | none => rw [h1, h2] at hl; simp at hl
        | some t =>
          rw [h1, h2] at hl
          simp only [Option.map_some, Option.some.injEq, Lane.unseen] at hl ⊢
          have e1 : u.pc = t.pc := (Lane.mk.injEq .. ▸ hl).2.1
          by_cases hc : l < 32 ∧ m.getLsbD l = true
          · have : (m.getLsbD l && decide (l < 32)) = true := by simp [hc]
            rw [if_pos this, if_pos ⟨hm', hc⟩]
            simp only [Lane.past, e1]
            exact congrArg (fun z : Lane => { z with pc := t.pc + BitVec.ofNat 57 n, wait := .none }) hl
          · have : (m.getLsbD l && decide (l < 32)) = false := by
              simp only [Bool.and_eq_false_iff, decide_eq_false_iff_not]
              by_cases h3 : l < 32
              · left; simpa using fun h4 => hc ⟨h3, h4⟩
              · right; exact h3
            have h5 : ¬ (a.hmode = false ∧ l < 32 ∧ m.getLsbD l = true) := fun h4 => hc h4.2
            rw [if_neg h5]
            simp only [this, Bool.false_eq_true, if_false]
            exact hl

/-- What the registers and predicates of two warps share passes through the step. -/
theorem sameButRegs_advance (a w : Warp) (h : OnlyRegs a w) (m : Word) (n : Nat) : SameButRegs a (advance w m n) := by
  have h1 := congrArg (fun z : Warp => { z with vr := a.vr, sr := a.sr, qb := a.qb, lanes := a.lanes, hpc := a.hpc })
    (advance_same w m n)
  exact h1.trans h.same

theorem vget_advance (w : Warp) (m : Word) (n l q : Nat) : vget (advance w m n) l q = vget w l q := by
  unfold advance modLanes; split <;> rfl

theorem sget_advance (w : Warp) (m : Word) (n q : Nat) : sget (advance w m n) q = sget w q := by
  unfold advance modLanes; split <;> rfl

theorem qb_advance (w : Warp) (m : Word) (n : Nat) : (advance w m n).qb = w.qb := by
  unfold advance modLanes; split <;> rfl

/-! ### Issue -/

/-- An admitted instruction performs its body. -/
theorem issue_eq {op : Nat} {f : Fields} {x : Iss} {s : State} (h : Issues s x op f) (body : Iss → State → State) :
    issue op f body s = .next { body x s with cur := .idle } := by
  unfold issue
  rw [h.cur]
  simp only
  unfold admitted
  have h1 : ((x.warp s).hmode && !handlerAllows op f) = false := by
    rcases h.mode with hm | hm <;> simp [hm]
  simp only [h1, h.operands, Bool.false_eq_true, if_false, Bool.not_true]

theorem warp_mod (x : Iss) (s : State) (h : (warpAt? s x.core x.wslot).isSome = true) (f : Warp → Warp) :
    x.warp (x.mod s f) = f (x.warp s) := warpAt_modWarp s x.core x.wslot f h

/-- A change of the issuing warp and the end of the issue. -/
theorem mod_leaves (x : Iss) (s : State) (f : Warp → Warp) : { x.mod s f with cur := .idle } = x.leaves s (f (x.warp s)) := by
  unfold Iss.leaves Iss.mod
  rw [modWarp_eq]; rfl

theorem next_mod (x : Iss) (s : State) (f : Warp → Warp) : x.next (x.mod s f) = x.mod s (fun w => advance (f w) x.mask x.len) :=
  modWarp_modWarp s x.core x.wslot f _

@[simp] theorem addFlags_zero (s : State) (core ws : Nat) (pc : VA) : addFlags s core ws pc 0#5 = s := by
  unfold addFlags; simp

/-- An instruction that only stepped past. -/
theorem next_leaves (x : Iss) (s : State) : { x.next s with cur := .idle } = x.leaves s (advance (x.warp s) x.mask x.len) :=
  mod_leaves x s _

theorem orFlags_eq_zero (fl : List Flags) : orFlags fl = 0#5 ↔ ∀ e ∈ fl, e = 0#5 := by
  unfold orFlags
  have h : ∀ (fl : List Flags) (a : Flags), fl.foldl (· ||| ·) a = 0#5 ↔ a = 0#5 ∧ ∀ e ∈ fl, e = 0#5 := by
    intro fl
    induction fl with
    | nil => intro a; simp
    | cons b fl ih =>
      intro a
      simp only [List.foldl_cons, ih, List.mem_cons, forall_eq_or_imp]
      rw [BitVec.or_eq_zero_iff, and_assoc]
  simpa using h fl 0#5

/-- Results of lanes that raise no flag, delivered. -/
theorem deliver_quiet (x : Iss) (s : State) (rs : List (Nat × LaneRes)) (h : ∀ e ∈ rs, e.2.all = 0#5) :
    deliver x s rs = x.mod s (fun w => advance (rs.foldl (fun w e => e.2.put w e.1) w) x.mask x.len) := by
  unfold deliver
  have hg : rs.filter (fun e => e.2.all &&& enabledFlags (x.warp s) == 0#5) = rs := by
    apply List.filter_eq_self.mpr
    intro e he; simp [h e he]
  have hb : rs.filter (fun e => e.2.all &&& enabledFlags (x.warp s) != 0#5) = [] := by
    apply List.filter_eq_nil_iff.mpr
    intro e he; simp [h e he]
  have hf : orFlags (rs.map (fun e => e.2.all)) = 0#5 := by
    rw [orFlags_eq_zero]
    intro e he
    obtain ⟨a, ha, rfl⟩ := List.mem_map.mp he
    exact h a ha
  simp only [hg, hb, hf, List.isEmpty_nil, if_true, BitVec.zero_and, addFlags_zero]
  exact next_mod x s _

/-- One instruction that each lane performs on its own operands: everything it leaves when no lane raises a flag. -/
theorem perLane_quiet (op : Nat) (f : Fields) (c : Warp → Nat → LaneRes) (x : Iss) (s : State)
    (hv : uniformForm op f = false) (hq : ∀ l ∈ guarded (x.warp s) x.mask f.g, (c (x.warp s) l).all = 0#5)
    (hr : ∀ l ∈ guarded (x.warp s) x.mask f.g, (c (x.warp s) l).perThread) :
    ∃ w', { perLane op f c x s with cur := .idle } = x.leaves s w' ∧ SameButRegs (x.warp s) w' ∧
      Stepped (x.warp s) w' x.mask x.len ∧ SameUniform (x.warp s) w' ∧
      WroteLanes (x.warp s) w' (guarded (x.warp s) x.mask f.g) (c (x.warp s)) := by
  obtain ⟨h1, h2, h3⟩ := wroteLanes_foldl _ (guarded_nodup (x.warp s) x.mask f.g) (c (x.warp s)) hr (x.warp s)
  refine ⟨_, ?_, sameButRegs_advance _ _ h1 x.mask x.len, stepped_advance _ _ h1 x.mask x.len, ?_, ?_⟩
  · unfold perLane
    simp only [hv, Bool.false_eq_true, if_false]
    rw [deliver_quiet _ _ _ (by
      intro e he
      obtain ⟨l, hl, rfl⟩ := List.mem_map.mp he
      exact hq l hl)]
    exact mod_leaves x s _
  · exact ⟨fun n hn => (sget_advance _ _ _ _).trans (h2.1 n hn), (qb_advance _ _ _).trans h2.2⟩
  · exact ⟨fun l r hr => (vget_advance _ _ _ _ _).trans (h3.regs l r hr),
      fun l k hk hl => (congrArg (wbit · k) (pbyte_advance _ _ _ _)).trans (h3.preds l k hk hl)⟩

/-- One uniform execution that raises no flag. -/
theorem perLane_uniform_quiet (op : Nat) (f : Fields) (c : Warp → Nat → LaneRes) (x : Iss) (s : State)
    (hv : uniformForm op f = true) (hg : guardUni (x.warp s) f.g = true) (hq : (c (x.warp s) x.lane0).all = 0#5)
    (hr : (c (x.warp s) x.lane0).uniform) (hp : ∀ e ∈ (c (x.warp s) x.lane0).preds, e.1 < 16) :
    ∃ w', { perLane op f c x s with cur := .idle } = x.leaves s w' ∧ SameButRegs (x.warp s) w' ∧
      Stepped (x.warp s) w' x.mask x.len ∧ SameLanes (x.warp s) w' ∧
      WroteUniform (x.warp s) w' (c (x.warp s) x.lane0) := by
  have h1 := onlyRegs_put (c (x.warp s) x.lane0) 0 (x.warp s)
  obtain ⟨h2, h3⟩ := put_uniform _ hr hp 0 (x.warp s)
  refine ⟨_, ?_, sameButRegs_advance _ _ h1 x.mask x.len, stepped_advance _ _ h1 x.mask x.len, ?_, ?_⟩
  · unfold perLane
    simp only [hv, if_true, hg]
    unfold deliverUni
    simp only [hq, BitVec.zero_and, addFlags_zero, if_true]
    rw [next_mod]
    exact mod_leaves x s _
  · exact ⟨fun l r hr => (vget_advance _ _ _ _ _).trans (h2.1 l r hr), fun l => (pbyte_advance _ _ _ _).trans (h2.2 l)⟩
  · exact ⟨fun n hn => (sget_advance _ _ _ _).trans (h3.regs n hn),
      fun k hk => (congrArg (wbit · k) (qb_advance _ _ _)).trans (h3.preds k hk)⟩

end Sys2Proof.Machine
end

