-- ==== Sys2Proof/Laws/Forms.lean ====
section
/-! SUPPORT. Laws/Forms.lean: operand rules decide whether an instruction's results are those of threads or of the uniform pipe
(06 R140), for every instruction that its lanes perform on their own operands. -/

namespace Sys2Proof.Machine

/-- An instruction whose one destination is a register or pair. -/
structure RegShape (op : Nat) (f : Fields) (n : Nat) : Prop where
  uses : ∃ src, (shape op f).uses = reg .dst f.d n :: src ∧ ∀ u ∈ src, u.role.isDst = false
  pdst : (shape op f).pdst = []
  own : (shape op f).ownUni = false
  plain : noDstMem op f = false ∧ op ≠ 36 ∧ op ≠ 67 ∧ op ≠ 49 ∧ op ≠ 51

/-- An instruction whose one destination is a predicate. -/
structure PredShape (op : Nat) (f : Fields) : Prop where
  uses : ∀ u ∈ (shape op f).uses, u.role.isDst = false
  pdst : (shape op f).pdst = [f.d.toNat]
  own : (shape op f).ownUni = false
  plain : noDstMem op f = false ∧ op ≠ 36 ∧ op ≠ 67 ∧ op ≠ 49 ∧ op ≠ 51

theorem uniformForm_plain {op : Nat} {f : Fields} (h : noDstMem op f = false ∧ op ≠ 36 ∧ op ≠ 67 ∧ op ≠ 49 ∧ op ≠ 51) :
    uniformForm op f = (!guardP f.g && (shape op f).uniSrc && (shape op f).uniDst) := by
  obtain ⟨h1, h2, h3, h4, h5⟩ := h
  unfold uniformForm
  have e2 : (op == 36) = false := by simpa using h2
  have e3 : (op == 67) = false := by simpa using h3
  have e4 : (op == 49) = false := by simpa using h4
  have e5 : (op == 51) = false := by simpa using h5
  simp [h1, e2, e3, e4, e5]

theorem uniDst_of_not_uniform {w : Warp} {op : Nat} {f : Fields} (hop : noDstMem op f = false ∧ op ≠ 36 ∧ op ≠ 67 ∧ op ≠ 49 ∧ op ≠ 51)
    (own : (shape op f).ownUni = false) (ok : operandsOk w op f = true) (hv : uniformForm op f = false) :
    (shape op f).uniDst = false := by
  rw [uniformForm_plain hop] at hv
  unfold operandsOk at ok
  simp only [own, Bool.or_false, Bool.and_eq_true] at ok
  have h := ok.1.2
  cases hd : (shape op f).uniDst with
  | false => rfl
  | true =>
    rw [hd] at h hv
    simp only [Bool.not_true, Bool.false_or, Bool.and_eq_true, Bool.not_eq_true'] at h
    simp [h.1, h.2] at hv

theorem useOk {w : Warp} {op : Nat} {f : Fields} (ok : operandsOk w op f = true) {u : Use} (hu : u ∈ (shape op f).uses) :
    u.ok w.rec_.regs = true := by
  unfold operandsOk at ok
  simp only [Bool.and_eq_true, List.all_eq_true] at ok
  exact ok.1.1.1.2 u hu

theorem RegShape.vector {w : Warp} {op : Nat} {f : Fields} {n : Nat} (h : RegShape op f n) (ok : operandsOk w op f = true)
    (hv : uniformForm op f = false) : (f.d.toNat < 192 ∨ f.d.toNat = 255) ∧ (f.d.toNat ≠ 255 → f.d.toNat % n = 0) := by
  have hd := uniDst_of_not_uniform h.plain h.own ok hv
  obtain ⟨src, hs, -⟩ := h.uses
  have hu := useOk ok (u := reg .dst f.d n) (by rw [hs]; simp)
  unfold Shape.uniDst at hd
  rw [hs, h.pdst] at hd
  simp only [List.any_cons, List.any_nil, Bool.or_false, Bool.or_eq_false_iff] at hd
  have h1 : (true && decide (192 ≤ f.d.toNat) && decide (f.d.toNat < 255)) = false := hd.1
  simp only [Bool.true_and, Bool.and_eq_false_iff, decide_eq_false_iff_not] at h1
  have := f.d.isLt
  refine ⟨by omega, fun h255 => ?_⟩
  have hu' : (if f.d.toNat = 255 then (!false && decide (n ≤ 2) && Role.dst != .vsrc)
      else if f.d.toNat < 192 then
        decide (f.d.toNat % n = 0) && decide (f.d.toNat + n ≤ w.rec_.regs) && Role.dst != .usrc && Role.dst != .udst
      else decide (f.d.toNat % n = 0) && decide (f.d.toNat + n ≤ 255) && Role.dst != .vsrc && Role.dst != .vdst) = true := hu
  rw [if_neg h255] at hu'
  split_ifs at hu' <;> simp only [Bool.and_eq_true, decide_eq_true_eq] at hu' <;> exact hu'.1.1.1

theorem RegShape.uniform {op : Nat} {f : Fields} {n : Nat} (h : RegShape op f n) (hv : uniformForm op f = true) :
    192 ≤ f.d.toNat ∧ f.d.toNat < 255 := by
  rw [uniformForm_plain h.plain] at hv
  simp only [Bool.and_eq_true] at hv
  have hd := hv.2
  obtain ⟨src, hs, hsrc⟩ := h.uses
  unfold Shape.uniDst at hd
  rw [hs, h.pdst] at hd
  simp only [List.any_cons, List.any_nil, Bool.or_false, Bool.or_eq_true] at hd
  rcases hd with hd | hd
  · have hd' : (true && decide (192 ≤ f.d.toNat) && decide (f.d.toNat < 255)) = true := hd
    simpa using hd'
  · obtain ⟨u, hu, hu'⟩ := List.any_eq_true.mp hd
    simp [Use.uniDst, hsrc u hu] at hu'

theorem PredShape.vector {w : Warp} {op : Nat} {f : Fields} (h : PredShape op f) (ok : operandsOk w op f = true)
    (hv : uniformForm op f = false) : nbit f.d.toNat 3 = false := by
  have hd := uniDst_of_not_uniform h.plain h.own ok hv
  unfold Shape.uniDst at hd
  rw [h.pdst] at hd
  simp only [List.any_cons, List.any_nil, Bool.or_false, Bool.or_eq_false_iff] at hd
  exact hd.2

theorem PredShape.uniform {op : Nat} {f : Fields} (h : PredShape op f) (hv : uniformForm op f = true) :
    nbit f.d.toNat 3 = true := by
  rw [uniformForm_plain h.plain] at hv
  simp only [Bool.and_eq_true] at hv
  have hd := hv.2
  unfold Shape.uniDst at hd
  rw [h.pdst] at hd
  simp only [List.any_cons, List.any_nil, Bool.or_false, Bool.or_eq_true] at hd
  rcases hd with hd | hd
  · obtain ⟨u, hu, hu'⟩ := List.any_eq_true.mp hd
    simp [Use.uniDst, h.uses u hu] at hu'
  · exact hd

theorem nbit3_lt {d : Nat} (h : d < 16) : nbit d 3 = decide (8 ≤ d) := by
  unfold nbit nbits; rw [Nat.shiftRight_eq_div_pow]
  by_cases h8 : 8 ≤ d
  · simp [h8]; omega
  · simp [h8]; omega

/-- What is known of an instruction's results where operands are legal: those of a thread, or of the uniform pipe. -/
structure Classed (w : Warp) (op : Nat) (f : Fields) (res : LaneRes) : Prop where
  vector : uniformForm op f = false → res.perThread
  uniform : uniformForm op f = true → res.uniform ∧ ∀ e ∈ res.preds, e.1 < 16

theorem classed_dst {w : Warp} {op : Nat} {f : Fields} {t n : Nat} (h : RegShape op f n) (hn : t ≥ 14 → n = 2)
    (ok : operandsOk w op f = true) (v : Nat) (fl : List Flags) : Classed w op f ⟨dstWords f.d.toNat t v, [], fl⟩ := by
  constructor
  · intro hv
    obtain ⟨h1, h2⟩ := h.vector ok hv
    refine ⟨?_, by simp⟩
    unfold dstWords
    by_cases ht : t ≥ 14
    · have := hn ht; subst this
      by_cases h255 : f.d.toNat = 255
      · simp [ht, h255]
      · have := h2 h255
        simp only [ht, if_true, h255, if_false, List.mem_cons, List.not_mem_nil, or_false]
        rintro e (rfl | rfl)
        · simp; omega
        · simp; omega
    · simp only [ht, if_false, List.mem_cons, List.not_mem_nil, or_false]
      rintro e rfl; exact h1
  · intro hv
    have h1 := h.uniform hv
    refine ⟨⟨?_, by simp⟩, by simp⟩
    unfold dstWords
    split_ifs
    · simp
    · simp only [List.mem_cons, List.not_mem_nil, or_false]
      rintro e (rfl | rfl) <;> simp <;> omega
    · simp only [List.mem_cons, List.not_mem_nil, or_false]
      rintro e rfl; simp; omega

theorem classed_one {w : Warp} {op : Nat} {f : Fields} {n : Nat} (h : RegShape op f n)
    (ok : operandsOk w op f = true) (v : Nat) (fl : List Flags) : Classed w op f ⟨[(f.d.toNat, v)], [], fl⟩ := by
  constructor
  · intro hv
    obtain ⟨h1, -⟩ := h.vector ok hv
    refine ⟨?_, by simp⟩
    simp only [List.mem_cons, List.not_mem_nil, or_false]
    rintro e rfl; exact h1
  · intro hv
    have h1 := h.uniform hv
    refine ⟨⟨?_, by simp⟩, by simp⟩
    simp only [List.mem_cons, List.not_mem_nil, or_false]
    rintro e rfl; exact h1.1

theorem classed_pred {w : Warp} {op : Nat} {f : Fields} (h : PredShape op f) (hd : f.d.toNat < 16)
    (ok : operandsOk w op f = true) (b : Bool) (fl : List Flags) : Classed w op f (.ofPred f.d b fl) := by
  constructor
  · intro hv
    have h1 := h.vector ok hv
    rw [nbit3_lt hd] at h1
    refine ⟨by simp [LaneRes.ofPred], ?_⟩
    simp only [LaneRes.ofPred, List.mem_cons, List.not_mem_nil, or_false]
    rintro e rfl
    simp at h1; exact h1
  · intro hv
    have h1 := h.uniform hv
    rw [nbit3_lt hd] at h1
    refine ⟨⟨by simp [LaneRes.ofPred], ?_⟩, ?_⟩
    · simp only [LaneRes.ofPred, List.mem_cons, List.not_mem_nil, or_false]
      rintro e rfl
      simp at h1; exact h1
    · simp only [LaneRes.ofPred, List.mem_cons, List.not_mem_nil, or_false]
      rintro e rfl; exact hd

/-- The instruction of every such form leaves exactly its effect. -/
theorem perLane_effect (s : State) (x : Iss) (q : LaneForm)
    (hc : ∀ l, Classed (x.warp s) q.op q.f (q.res (x.warp s) l))
    (hq : raised (performers q.op q.f x (x.warp s)) (q.res (x.warp s)) = 0#5) :
    ∃ w', { perLane q.op q.f q.res x s with cur := .idle } = x.leaves s w' ∧ LaneEffect (x.warp s) x q w' := by
  unfold raised at hq
  rw [orFlags_eq_zero] at hq
  have hq' : ∀ l ∈ performers q.op q.f x (x.warp s), (q.res (x.warp s) l).all = 0#5 :=
    fun l hl => hq _ (List.mem_map.mpr ⟨l, hl, rfl⟩)
  cases hv : uniformForm q.op q.f with
  | false =>
    simp only [performers, hv, Bool.false_eq_true, if_false] at hq'
    obtain ⟨w', h1, h2, h3, h4, h5⟩ := perLane_quiet q.op q.f q.res x s hv hq' (fun l _ => (hc l).vector hv)
    exact ⟨w', h1, h2, h3, fun _ => ⟨h4, h5⟩, fun h => by simp [hv] at h⟩
  | true =>
    cases hg : guardUni (x.warp s) q.f.g with
    | true =>
      simp only [performers, hv, hg, if_true, List.mem_singleton, forall_eq] at hq'
      obtain ⟨w', h1, h2, h3, h4, h5⟩ := perLane_uniform_quiet q.op q.f q.res x s hv hg hq'
        ((hc x.lane0).uniform hv).1 ((hc x.lane0).uniform hv).2
      exact ⟨w', h1, h2, h3, fun h => by simp [hv] at h, fun _ => ⟨h4, by simp [hg, h5]⟩⟩
    | false =>
      refine ⟨advance (x.warp s) x.mask x.len, ?_, sameButRegs_advance _ _ (.refl _) _ _, stepped_advance _ _ (.refl _) _ _,
        fun h => by simp [hv] at h, fun _ => ⟨⟨fun l r hr => vget_advance _ _ _ _ _, fun l => pbyte_advance _ _ _ _⟩, ?_⟩⟩
      · unfold perLane
        simp only [hv, hg, if_true, Bool.false_eq_true, if_false]
        exact next_leaves x s
      · simp only [hg, Bool.false_eq_true, if_false]
        exact ⟨fun n hn => sget_advance _ _ _ _, qb_advance _ _ _⟩

end Sys2Proof.Machine
end

