-- ==== Sys2Proof/Laws/LaneForms.lean ====
section
/-! SUPPORT. Laws/LaneForms.lean: every instruction of one lane at a time performs its form, and its results are classed. -/

namespace Sys2Proof.Machine

theorem regB_src (f : Fields) (n : Nat) : ∀ u ∈ regB .src f n, u.role.isDst = false := by
  unfold regB; split
  · simp
  · simp [reg, Role.isDst]

theorem predDst_lt {x : BitVec 8} (h : predDstOk x = true) : x.toNat < 16 := by
  unfold predDstOk nbits at h
  rw [Nat.shiftRight_eq_div_pow] at h
  have := x.isLt
  simp at h; omega

theorem tRegs_of_ge {t : Nat} (h : t ≥ 14) : tRegs t = 2 := by simp [tRegs, h]

/-- A well-formed instruction's fields keep its field rules. -/
theorem fieldsOk_of_wf {i : Instr} {op : Nat} {c : Cls} {f : Fields} (hw : WellFormed i = true) (hs : suricOf i = some (op, c, f)) :
    fieldsOk op f = true := by
  unfold WellFormed at hw
  rw [hs] at hw
  simp only [legalWord, Bool.and_eq_true] at hw
  exact hw.1.1.2

theorem regShape_cons {op : Nat} {f : Fields} {n : Nat} (src : List Use) (h1 : (shape op f).uses = reg .dst f.d n :: src)
    (h2 : (shape op f).pdst = []) (h3 : (shape op f).ownUni = false) (h4 : ∀ u ∈ src, u.role.isDst = false)
    (h5 : noDstMem op f = false ∧ op ≠ 36 ∧ op ≠ 67 ∧ op ≠ 49 ∧ op ≠ 51) : RegShape op f n :=
  ⟨⟨src, h1, h4⟩, h2, h3, h5⟩

/-- Sources of the arithmetic shapes. -/
theorem src_a (f : Fields) (n m : Nat) : ∀ u ∈ [reg .src f.a n] ++ regB .src f m, u.role.isDst = false := by
  intro u hu
  rcases List.mem_append.mp hu with h | h
  · simp at h; subst h; rfl
  · exact regB_src f m u h

theorem src_ac (f : Fields) (n k m : Nat) : ∀ u ∈ [reg .src f.a n, reg .src f.c k] ++ regB .src f m, u.role.isDst = false := by
  intro u hu
  rcases List.mem_append.mp hu with h | h
  · simp at h; rcases h with rfl | rfl <;> rfl
  · exact regB_src f m u h

theorem src_one (f : Fields) (n : Nat) : ∀ u ∈ [reg .src f.a n], u.role.isDst = false := by
  intro u hu; simp at hu; subst hu; rfl

/-- Integer, bit, comparison, move and predicate instructions perform their form. -/
theorem intForm_exec {i : Instr} {s : State} {x : Iss} {q : LaneForm} (h : intForm x s i = some q) (hx : Issues s x q.op q.f) :
    exec i s = .next { perLane q.op q.f q.res x s with cur := .idle } := by
  cases i <;> simp only [intForm, Option.some.injEq, reduceCtorEq] at h
  all_goals
    subst h
    exact issue_eq hx _

/-- Float, conversion and special-function instructions perform their form. -/
theorem fltForm_exec {i : Instr} {s : State} {x : Iss} {q : LaneForm} (h : fltForm x i = some q) (hx : Issues s x q.op q.f) :
    exec i s = .next { perLane q.op q.f q.res x s with cur := .idle } := by
  cases i <;> simp only [fltForm, Option.some.injEq, reduceCtorEq] at h
  case rcp f => subst h; exact issue_eq hx (specialBody 104 .rcp f)
  case rsq f => subst h; exact issue_eq hx (specialBody 105 .rsq f)
  case sqrt f => subst h; exact issue_eq hx (specialBody 106 .sqrt f)
  case ex2 f => subst h; exact issue_eq hx (specialBody 107 .ex2 f)
  case lg2 f => subst h; exact issue_eq hx (specialBody 108 .lg2 f)
  case tanh f => subst h; exact issue_eq hx (specialBody 110 .tanh f)
  case sincos f => subst h; exact issue_eq hx (sincosBody f)
  all_goals
    subst h
    exact issue_eq hx _

theorem shape_ab (op : Nat) (f : Fields) (n m : Nat) (h1 : (shape op f).uses = reg .dst f.d n :: ([reg .src f.a n] ++ regB .src f m))
    (h2 : (shape op f).pdst = []) (h3 : (shape op f).ownUni = false)
    (h5 : noDstMem op f = false ∧ op ≠ 36 ∧ op ≠ 67 ∧ op ≠ 49 ∧ op ≠ 51) : RegShape op f n :=
  regShape_cons _ h1 h2 h3 (src_a f n m) h5

/-- The results of an integer, bit, comparison, move or predicate instruction are classed. -/
theorem intForm_classed {i : Instr} {s : State} {x : Iss} {q : LaneForm} (hw : WellFormed i = true) (h : intForm x s i = some q)
    {w : Warp} (ok : operandsOk w q.op q.f = true) (l : Nat) : Classed w q.op q.f (q.res w l) := by
  cases i <;> simp only [intForm, Option.some.injEq, reduceCtorEq] at h
  case iadd f | isub f | imul f | imulh f | imin f | imax f | iabsd f =>
    subst h
    exact classed_dst (shape_ab _ f _ _ rfl rfl rfl (by simp [noDstMem])) tRegs_of_ge ok _ _
  case imad f =>
    subst h
    exact classed_dst (regShape_cons _ rfl rfl rfl (src_ac f _ _ _) (by simp [noDstMem])) tRegs_of_ge ok _ _
  case imadw f =>
    subst h
    exact classed_dst (t := 15) (n := 2) (regShape_cons _ rfl rfl rfl (src_ac f _ _ _) (by simp [noDstMem])) (by simp) ok _ _
  case lop3 f | shf f | bfx f | bfi f | prmt f =>
    subst h
    exact classed_one (n := 1) (regShape_cons _ rfl rfl rfl (src_ac f _ _ _) (by simp [noDstMem])) ok _ _
  case shl f | shr f | shra f =>
    subst h
    exact classed_dst (regShape_cons _ rfl rfl rfl (src_a f _ _) (by simp [noDstMem])) tRegs_of_ge ok _ _
  case popc f | clz f =>
    subst h
    exact classed_one (n := 1) (regShape_cons _ rfl rfl rfl (src_one f _) (by simp [noDstMem])) ok _ _
  case brev f | iaddI f | imulI f | shlI f | shrI f | shraI f | mov f =>
    subst h
    exact classed_dst (regShape_cons _ rfl rfl rfl (src_one f _) (by simp [noDstMem])) tRegs_of_ge ok _ _
  case movl f =>
    subst h
    exact classed_dst (regShape_cons [] rfl rfl rfl (by simp) (by simp [noDstMem])) tRegs_of_ge ok _ _
  case bfxI f =>
    subst h
    exact classed_one (n := 1) (regShape_cons [reg .src f.a 1, reg .src f.c 1] rfl rfl rfl
      (by simp [reg, Role.isDst]) (by simp [noDstMem])) ok _ _
  case isel f =>
    subst h
    exact classed_dst (shape_ab _ f _ _ rfl rfl rfl (by simp [noDstMem])) tRegs_of_ge ok _ _
  case lea f =>
    subst h
    exact classed_dst (t := 15) (n := 2) (regShape_cons _ rfl rfl rfl (src_a f 2 _) (by simp [noDstMem])) (by simp) ok _ _
  case iset f =>
    subst h
    have hf := fieldsOk_of_wf hw (f := f) (op := 21) rfl
    simp only [fieldsOk, Bool.and_eq_true] at hf
    exact classed_pred (PredShape.mk (op := 21) (f := f) (src_a f (tRegs f.t.toNat) (tRegs f.t.toNat)) rfl rfl (by simp [noDstMem])) (predDst_lt hf.1.1.1.1.1.1.1) ok _ _
  case isetI f =>
    subst h
    have hf := fieldsOk_of_wf hw (f := f) (op := 30) rfl
    simp only [fieldsOk, Bool.and_eq_true] at hf
    exact classed_pred (PredShape.mk (op := 30) (f := f) (src_one f (tRegs f.t.toNat)) rfl rfl (by simp [noDstMem])) (predDst_lt hf.1.1.1.1.1.1) ok _ _
  case plop f =>
    subst h
    have hf := fieldsOk_of_wf hw (f := f) (op := 37) rfl
    simp only [fieldsOk, Bool.and_eq_true] at hf
    exact classed_pred ⟨by simp [shape, shapeInt, shapeOf, Shape.preds], rfl, rfl, by simp [noDstMem]⟩ (predDst_lt hf.1.1.1.1.1.1) ok _ _
  case rdsr f =>
    obtain rfl := h
    refine classed_dst (n := if f.b = 0x18 then 2 else 1) (regShape_cons [] rfl rfl rfl (by simp) (by simp [noDstMem])) ?_ ok _ _
    intro h14
    by_cases hb : f.b.toNat = 0x18
    · have : f.b = 0x18 := BitVec.eq_of_toNat_eq hb
      simp [this]
    · simp [hb] at h14
  case p2v f =>
    subst h
    exact classed_one (n := 1) (regShape_cons [] rfl rfl rfl (by simp) (by simp [noDstMem])) ok _ _
  case v2p f =>
    subst h
    have hf := fieldsOk_of_wf hw (f := f) (op := 36) rfl
    simp only [fieldsOk, Bool.and_eq_true, decide_eq_true_eq] at hf
    have hfn : f.fn.toNat ≤ 1 := hf.1.1.1.1.1.2
    have h01 : f.fn = 0 ∨ f.fn = 1 := by
      rcases Nat.le_one_iff_eq_zero_or_eq_one.mp hfn with h | h
      · left; exact BitVec.eq_of_toNat_eq h
      · right; exact BitVec.eq_of_toNat_eq h
    have hk : ∀ e ∈ (v2pLane f w l).preds, e.1 < (if f.fn = 0 then 0 else 8) + 7 ∧ (if f.fn = 0 then 0 else 8) ≤ e.1 := by
      intro e he
      simp only [v2pLane, List.mem_map, List.mem_filter, upto, List.mem_range] at he
      obtain ⟨k, ⟨hk, -⟩, rfl⟩ := he
      simp; omega
    constructor
    · intro hv
      have h0 : f.fn = 0 := by
        rcases h01 with h | h
        · exact h
        · exfalso
          have hs : shape 36 f = (shapeOf (reg .usrc f.a 1 :: regB .usrc f 1)).noP := by
            show (if f.fn = 0 then _ else _) = _
            rw [if_neg (by rw [h]; decide)]
          have h1 := ok
          unfold operandsOk at h1
          simp only [Bool.and_eq_true] at h1
          have hall := h1.1.1.1.2
          rw [hs] at hall h1
          have hq := h1.2
          simp only [Shape.noP, shapeOf, Bool.not_true, Bool.false_or, Bool.not_eq_true'] at hq
          unfold uniformForm at hv
          rw [hs] at hv
          have hu : ((shapeOf (reg .usrc f.a 1 :: regB .usrc f 1)).noP).uniSrc = true := by
            simp only [Shape.uniSrc, Shape.noP, shapeOf, List.all_nil, Bool.and_true, List.all_eq_true]
            intro u hu
            have := List.all_eq_true.mp hall u hu
            have hr : u.role = .usrc := by
              simp only [List.mem_cons] at hu
              rcases hu with rfl | hu
              · rfl
              · unfold regB at hu; split at hu
                · simp at hu
                · simp at hu; subst hu; rfl
            unfold Use.ok at this
            unfold isUni
            simp only [hr, Bool.or_eq_true, decide_eq_true_eq]
            by_cases h255 : u.reg = 255
            · right; omega
            · rw [if_neg h255] at this
              by_cases h192 : u.reg < 192
              · rw [if_pos h192] at this; simp [hr] at this
              · right; omega
          simp [hq, hu, h] at hv
      refine ⟨by simp [v2pLane], fun e he => ?_⟩
      have := hk e he
      simp [h0] at this; omega
    · intro hv
      have h1 : f.fn = 1 := by
        rcases h01 with h | h
        · exfalso
          have hs : shape 36 f = shapeOf (reg .src f.a 1 :: regB .src f 1) := by
            show (if f.fn = 0 then _ else _) = _
            rw [if_pos h]
          unfold uniformForm at hv
          rw [hs] at hv
          have hd : (shapeOf (reg .src f.a 1 :: regB .src f 1)).uniDst = false := by
            simp only [Shape.uniDst, shapeOf, List.any_nil, Bool.or_false]
            rw [List.any_eq_false]
            intro u hu
            simp only [List.mem_cons] at hu
            rcases hu with rfl | hu
            · simp [Use.uniDst, reg, Role.isDst]
            · simp [Use.uniDst, regB_src f 1 u hu]
          simp [hd, noDstMem, h] at hv
        · exact h
      refine ⟨⟨by simp [v2pLane], fun e he => ?_⟩, fun e he => ?_⟩
      · have := hk e he
        simp [h1] at this; omega
      · have := hk e he
        simp [h1] at this; omega

/-- The source list of a conversion: A, and C where rounding is stochastic. -/
theorem src_conv (f : Fields) (n : Nat) :
    ∀ u ∈ [reg .src f.a n] ++ (if wbit f.fn 2 then [reg .src f.c 1] else []), u.role.isDst = false := by
  intro u hu
  rcases List.mem_append.mp hu with h | h
  · simp at h; subst h; rfl
  · split at h
    · simp at h; subst h; rfl
    · simp at h

/-- A float type that is not FP64 takes one register. -/
theorem fltT_lt {f : Fields} (h : fltT f true false = true) : f.t.toNat < 14 := by
  unfold fltT at h
  simp only [Bool.true_and, Bool.false_and, Bool.or_false, Bool.or_eq_true, beq_iff_eq] at h
  rcases h with (h | h) | h <;> rw [h] <;> decide

/-- The registers of an unpacked group, each its own. -/
theorem classed_group {w : Warp} {op : Nat} {f : Fields} {n : Nat}
    (hs : ∃ src, (shape op f).uses = grp .dst f.d n n :: src ∧ ∀ u ∈ src, u.role.isDst = false)
    (h2 : (shape op f).pdst = []) (h3 : (shape op f).ownUni = false)
    (h5 : noDstMem op f = false ∧ op ≠ 36 ∧ op ≠ 67 ∧ op ≠ 49 ∧ op ≠ 51) (hn : n ∣ 64)
    (ok : operandsOk w op f = true) (g : Nat → Nat) (fl : List Flags) :
    Classed w op f ⟨(upto n).map (fun k => (f.d.toNat + k, g k)), [], fl⟩ := by
  obtain ⟨src, hs, hsrc⟩ := hs
  have hu := useOk ok (u := grp .dst f.d n n) (by rw [hs]; simp)
  have hu' : (if f.d.toNat = 255 then (!true && decide (n ≤ 2) && Role.dst != .vsrc)
      else if f.d.toNat < 192 then
        decide (f.d.toNat % n = 0) && decide (f.d.toNat + n ≤ w.rec_.regs) && Role.dst != .usrc && Role.dst != .udst
      else decide (f.d.toNat % n = 0) && decide (f.d.toNat + n ≤ 255) && Role.dst != .vsrc && Role.dst != .vdst) = true := hu
  have h255 : f.d.toNat ≠ 255 := by intro h; simp [h] at hu'
  rw [if_neg h255] at hu'
  have hmod : f.d.toNat % n = 0 := by
    split_ifs at hu' <;> simp only [Bool.and_eq_true, decide_eq_true_eq] at hu' <;> exact hu'.1.1.1
  have hd : ∀ b, (shape op f).uniDst = b → (decide (192 ≤ f.d.toNat) && decide (f.d.toNat < 255)) = b := by
    intro b hb
    unfold Shape.uniDst at hb
    rw [hs, h2] at hb
    have hz : src.any Use.uniDst = false := by
      rw [List.any_eq_false]
      intro u hu
      simp [Use.uniDst, hsrc u hu]
    simp only [List.any_cons, List.any_nil, Bool.or_false, hz] at hb
    have hb' : (true && decide (192 ≤ f.d.toNat) && decide (f.d.toNat < 255)) = b := hb
    simpa using hb'
  have := f.d.isLt
  constructor
  · intro hv
    have h1 := hd _ (uniDst_of_not_uniform h5 h3 ok hv)
    simp only [Bool.and_eq_false_iff, decide_eq_false_iff_not] at h1
    refine ⟨fun e he => ?_, by simp⟩
    obtain ⟨k, hk, rfl⟩ := List.mem_map.mp he
    have hk : k < n := by simpa [upto] using hk
    left
    show f.d.toNat + k < 192
    obtain ⟨m, hm⟩ := hn
    have hdiv : n ∣ f.d.toNat := Nat.dvd_of_mod_eq_zero hmod
    obtain ⟨j, hj⟩ := hdiv
    have h192 : f.d.toNat < n * (3 * m) := by
      have : n * (3 * m) = 192 := by rw [Nat.mul_left_comm, ← hm]
      omega
    have : j < 3 * m := Nat.lt_of_mul_lt_mul_left (a := n) (by rw [← hj]; exact h192)
    have h2 : n * (j + 1) ≤ n * (3 * m) := Nat.mul_le_mul_left n this
    have h3 : n * (3 * m) = 192 := by rw [Nat.mul_left_comm, ← hm]
    rw [Nat.mul_add, Nat.mul_one, ← hj, h3] at h2
    omega
  · intro hv
    rw [uniformForm_plain h5] at hv
    simp only [Bool.and_eq_true] at hv
    have h1 := hd _ hv.2
    simp only [Bool.and_eq_true, decide_eq_true_eq] at h1
    refine ⟨⟨fun e he => ?_, by simp⟩, by simp⟩
    obtain ⟨k, -, rfl⟩ := List.mem_map.mp he
    show 192 ≤ f.d.toNat + k
    omega

theorem packM_dvd (b : Nat) : packM b ∣ 64 := by
  unfold packM; split_ifs <;> decide

/-- The results of a float, conversion or special-function instruction are classed. -/
theorem fltForm_classed {i : Instr} {x : Iss} {q : LaneForm} (hw : WellFormed i = true) (h : fltForm x i = some q)
    {w : Warp} (ok : operandsOk w q.op q.f = true) (l : Nat) : Classed w q.op q.f (q.res w l) := by
  cases i <;> simp only [fltForm, Option.some.injEq, reduceCtorEq] at h
  case fadd f | fmul f | fmin f | fmax f | fscale f | dadd f | dmul f =>
    subst h
    exact classed_dst (regShape_cons _ rfl rfl rfl (src_a f _ _) (by simp [noDstMem])) tRegs_of_ge ok _ _
  case ffma f | dfma f =>
    subst h
    exact classed_dst (regShape_cons _ rfl rfl rfl (src_ac f _ _ _) (by simp [noDstMem])) tRegs_of_ge ok _ _
  case frnd f =>
    subst h
    exact classed_dst (regShape_cons _ rfl rfl rfl (src_one f _) (by simp [noDstMem])) tRegs_of_ge ok _ _
  case fset f =>
    subst h
    have hf := fieldsOk_of_wf hw (f := f) (op := 85) rfl
    simp only [fieldsOk, Bool.and_eq_true] at hf
    exact classed_pred (PredShape.mk (op := 85) (f := f) (src_a f (tRegs f.t.toNat) (tRegs f.t.toNat)) rfl rfl (by simp [noDstMem]))
      (predDst_lt hf.1.2) ok _ _
  case dset f =>
    subst h
    have hf := fieldsOk_of_wf hw (f := f) (op := 92) rfl
    simp only [fieldsOk, Bool.and_eq_true] at hf
    exact classed_pred (PredShape.mk (op := 92) (f := f) (src_a f (tRegs f.t.toNat) (tRegs f.t.toNat)) rfl rfl (by simp [noDstMem]))
      (predDst_lt hf.1.2) ok _ _
  case fclass f =>
    subst h
    have hf := fieldsOk_of_wf hw (f := f) (op := 87) rfl
    simp only [fieldsOk, Bool.and_eq_true] at hf
    exact classed_pred (PredShape.mk (op := 87) (f := f) (src_a f (tRegs f.t.toNat) 1) rfl rfl (by simp [noDstMem]))
      (predDst_lt hf.1.1.1.1.1.2) ok _ _
  case f2f f | f2i f | i2f f =>
    subst h
    exact classed_dst (regShape_cons _ rfl rfl rfl (src_conv f _) (by simp [noDstMem])) tRegs_of_ge ok _ _
  case fpack f =>
    subst h
    refine classed_one (n := 1) (regShape_cons (grp .src f.a (packM f.b.toNat) (packM f.b.toNat) ::
      (if wbit f.fn 2 then [reg .src f.c 1] else [])) rfl rfl rfl ?_ (by simp [noDstMem])) ok _ _
    intro u hu
    rcases List.mem_cons.mp hu with rfl | hu
    · rfl
    · split at hu
      · simp at hu; subst hu; rfl
      · simp at hu
  case funpk f =>
    subst h
    exact classed_group (n := packM f.b.toNat) ⟨[reg .src f.a 1], rfl, src_one f 1⟩ rfl rfl (by simp [noDstMem])
      (packM_dvd _) ok _ _
  case rcp f | rsq f | sqrt f | ex2 f | lg2 f | tanh f =>
    subst h
    have hf : f.t.toNat < 14 := by
      have hf := fieldsOk_of_wf hw (f := f) rfl
      simp only [fieldsOk, Bool.and_eq_true] at hf
      exact fltT_lt (by first | exact hf.1.1.1 | exact hf.1.1.1.1)
    exact classed_dst (regShape_cons _ rfl rfl rfl (src_one f _) (by simp [noDstMem])) (fun h => absurd hf (by omega)) ok _ _
  case sincos f =>
    subst h
    exact classed_dst (t := 15) (n := 2) (regShape_cons _ rfl rfl rfl (src_one f _) (by simp [noDstMem])) (by simp) ok _ _

end Sys2Proof.Machine
end

