-- ==== Sys2Proof/Laws/MemPath.lean ====
section
/-! SUPPORT. Laws/MemPath.lean: all that an access of memory may change, for every operation of the memory path. -/

namespace Sys2Proof.Machine

theorem Quiet.refl (s : State) : Quiet s s := ⟨rfl, rfl, rfl, rfl, fun _ => rfl, rfl, rfl, rfl, rfl, rfl, fun _ => rfl, id⟩

theorem Quiet.trans {a b c : State} (h : Quiet a b) (g : Quiet b c) : Quiet a c :=
  ⟨g.root.trans h.root, g.cores.trans h.cores, g.heads.trans h.heads, g.lcs.trans h.lcs,
   fun i => (congrArg (fun x : Port => { x with replay := (portOf a i).replay, nextSeq := (portOf a i).nextSeq }) (g.ports i)).trans
     (h.ports i),
   g.peer.trans h.peer, g.agenda.trans h.agenda, g.cur.trans h.cur, g.tick.trans h.tick, g.nextId.trans h.nextId,
   fun p => (congrArg (fun x : Part => { x with fatal := (partOf a p).fatal }) (g.parts p)).trans (h.parts p),
   fun m => g.mem (h.mem m)⟩

/-- The state with memory, its caches and requests in flight taken from another. -/
def withMem (t s : State) : State :=
  { t with dram := s.dram, l2 := s.l2, tlb := s.tlb, wcache := s.wcache, resv := s.resv, reqs := s.reqs }

/-- A change of memory and its caches alone. -/
theorem Quiet.of {s t : State} (h : withMem t s = s) (m : Memory.wf s.dram.mem = true → Memory.wf t.dram.mem = true) :
    Quiet s t := by
  have f : ∀ {α : Type} (g : State → α), g (withMem t s) = g s := fun g => congrArg g h
  have hp : t.parts = s.parts := f State.parts
  have hq : t.ports = s.ports := f State.ports
  exact ⟨f State.root, f State.cores, f State.heads, f State.lcs, fun i => by simp only [portOf, hq],
    f State.peerReply, f State.agenda, f State.cur, f State.tick, f State.nextId, fun p => by simp only [partOf, hp], m⟩

theorem Quiet.step {a b c : State} (h : Quiet a b) (g : Quiet b c) : Quiet a c := h.trans g

/-! ### Links -/

/-- A port whose buffer and numbering alone changed. -/
theorem modPort_quiet (s : State) (i : Nat) (f : Port → Port)
    (hf : ∀ p : Port, { f p with replay := p.replay, nextSeq := p.nextSeq } = p) : Quiet s (modPort s i f) := by
  refine ⟨rfl, rfl, rfl, rfl, fun j => ?_, rfl, rfl, rfl, rfl, rfl, fun _ => rfl, id⟩
  rw [portOf_modPort]
  split
  · rename_i h; subst h; exact hf _
  · rfl

theorem cross_quiet (s : State) (a b : Nat) (h : List Byte) (l : Load) : Quiet s (cross s a b h l) := by
  unfold cross
  split
  · exact .refl s
  · exact modPort_quiet _ _ _ fun _ => rfl

theorem sendOn_quiet (s : State) (i g : Nat) (h : List Byte) (l : Load) : Quiet s (sendOn s i g h l) :=
  modPort_quiet _ _ _ fun _ => rfl

theorem sendFabric_quiet (s : State) (d p n v : Nat) (h : List Byte) (l : Load) : Quiet s (sendFabric s d p n v h l) := by
  unfold sendFabric
  split
  · exact .refl s
  · exact (cross_quiet ..).trans (sendOn_quiet ..)

theorem crossings_quiet (s : State) (w : Who) (k : Nat) (va : VA) (o b : Load) : Quiet s (crossings s w k va o b) := by
  unfold crossings
  split
  · exact .refl s
  · exact (cross_quiet ..).trans (cross_quiet ..)

theorem toAndFro_quiet (s : State) (w : Who) (va : VA) (o b : Load) : Quiet s (toAndFro s w va o b) := by
  unfold toAndFro
  split
  · exact crossings_quiet ..
  · exact .refl s

theorem farAccess_quiet {α : Type} (s : State) (w : Who) (va : VA) (n pa : Nat) (o b : Load) (v : α) :
    Quiet s (farAccess s w va n pa o b v).2 := by
  unfold farAccess
  split
  · exact toAndFro_quiet ..
  · dsimp only
    split <;> exact (toAndFro_quiet ..).trans (sendFabric_quiet ..)

/-! ### DRAM -/

theorem countCorr_quiet (s : State) (c b : Nat) : Quiet s (countCorr s c b) := .of rfl id

theorem readUnit_quiet (s : State) (c b r k n : Nat) : Quiet s (readUnit s c b r k n).2 := by
  unfold readUnit; grind [countCorr_quiet, Quiet.refl]

theorem markDirty_quiet (s : State) (c b r : Nat) : Quiet s (markDirty s c b r) := by
  unfold markDirty; split
  · exact .of rfl id
  · exact .refl s

theorem readyRow_quiet (s : State) (c b r : Nat) : Quiet s (readyRow s c b r) := by
  unfold readyRow
  dsimp only
  split
  · exact .refl s
  · exact .of rfl fun m => writeRun_wf _ _ _ m
  · exact .of rfl fun m => writeRun_wf _ _ _ m

theorem writeUnit_quiet (s : State) (c b r k : Nat) (bs : List Byte) : Quiet s (writeUnit s c b r k bs) := by
  unfold writeUnit
  have h : Quiet s (if r ≥ 1024 then markDirty s c b r else s) := by
    split
    · exact markDirty_quiet ..
    · exact .refl s
  exact (h.trans (readyRow_quiet ..)).trans (.of rfl fun m => writeRun_wf _ _ _ m)

theorem metaPut_quiet (s : State) (c : Nat) (ln : MetaLine) : Quiet s (metaPut s c ln) := by
  have h : ∀ t : State, ∀ q, Quiet t { t with dram := { t.dram with mcache := q } } := fun t q => .of rfl id
  unfold metaPut; grind [writeUnit_quiet, Quiet.step, Quiet.refl]

theorem metaFail_quiet (s : State) (c n : Nat) : Quiet s (metaFail s c n) := .of rfl id

theorem metaLine_quiet (s : State) (c n : Nat) : Quiet s (metaLine s c n).2 := by
  unfold metaLine; grind [readUnit_quiet, metaPut_quiet, metaFail_quiet, Quiet.step]

theorem readTag_quiet (s : State) (l : Loc) : Quiet s (readTag s l).2 := by
  unfold readTag; grind [metaLine_quiet]

theorem writeTag_quiet (s : State) (l : Loc) (tag : Nat) : Quiet s (writeTag s l tag).2 := by
  unfold writeTag; grind [metaLine_quiet, metaPut_quiet, Quiet.step]

theorem dramRead_quiet (s : State) (l : Loc) : Quiet s (dramRead s l).2 := by
  unfold dramRead; grind [readUnit_quiet, readTag_quiet, Quiet.refl, Quiet.step]

theorem dramWrite_quiet (s : State) (l : Loc) (b : PBlock) : Quiet s (dramWrite s l b).2 := by
  unfold dramWrite; grind [writeTag_quiet, writeUnit_quiet, Quiet.step]

/-! ### L2 -/

theorem setL2_quiet (s : State) (k : Nat) (bs : List L2Block) : Quiet s (setL2 s k bs) := .of rfl id

theorem fatal_quiet (s : State) (p : Nat) (e : Nat × Nat) : Quiet s (modPart s p (fun x => { x with fatal := x.fatal ++ [e] })) := by
  refine ⟨rfl, rfl, rfl, rfl, fun _ => rfl, rfl, rfl, rfl, rfl, rfl, fun q => ?_, id⟩
  rw [partOf_modPart]; split <;> rfl

theorem writeBack_quiet (s : State) (k : Nat) (b : L2Block) : Quiet s (writeBack s k b) := by
  unfold writeBack
  split
  · exact .refl s
  · split
    · exact .refl s
    · rename_i l _
      have h := (cross_quiet s (dieOfSlice k) (dieOfChan l.chan) (headAt (b.pa * 128)) (.block b.blk)).trans
        (dramWrite_quiet _ l (if packEn (cross s (dieOfSlice k) (dieOfChan l.chan) (headAt (b.pa * 128)) (.block b.blk)) l.chan
          then b.blk else ⟨15, (decodeBlock b.blk).getD zeroBlock⟩))
      dsimp only
      split <;> rename_i hd <;> rw [hd] at h
      · exact h
      · exact h.trans (fatal_quiet ..)

/-! ### Accesses performed at a block -/

theorem modReq_quiet (s : State) (r : Nat) (f : Req → Req) : Quiet s (modReq s r f) := .of rfl id
theorem dropReq_quiet (s : State) (r : Nat) : Quiet s (dropReq s r) := .of rfl id
theorem setStage_quiet (s : State) (r : Nat) (g : Stage) : Quiet s (setStage s r g) := .of rfl id
theorem setResv_quiet (s : State) (r : Req) : Quiet s (setResv s r) := .of rfl id
theorem takeResv_quiet (s : State) (r : Req) : Quiet s (takeResv s r).2 := .of rfl id
theorem clearResv_quiet (s : State) (p a va n : Nat) (o : List Nat) : Quiet s (clearResv s p a va n o) := .of rfl id

theorem finished_quiet (s : State) (i : Nat) (r : Req) (bs : List Byte) (vs : List Nat) : Quiet s (finished s i r bs vs) := by
  unfold finished
  split
  · split
    · exact setStage_quiet ..
    · exact dropReq_quiet ..
  · exact modReq_quiet ..

theorem performOn_quiet (s : State) (i : Nat) (r : Req) (b : L2Block) : Quiet s (performOn s i r b).1 := by
  have h : ∀ t : State, Quiet s t → Quiet s (match r.op with
      | .stc _ _ => takeResv t r
      | .ldr => (false, setResv t r)
      | _ => (false, t)).2 := by
    intro t ht
    split
    · exact ht.trans (takeResv_quiet ..)
    · exact ht.trans (setResv_quiet ..)
    · exact ht
  unfold performOn
  split
  · exact .refl s
  · dsimp only
    split
    · exact (h s (.refl s)).trans (finished_quiet ..)
    · exact ((h s (.refl s)).trans (clearResv_quiet ..)).trans (finished_quiet ..)

theorem foldl_quiet {α : Type} (l : List α) (f : State → α → State) (h : ∀ s a, Quiet s (f s a)) (s : State) :
    Quiet s (l.foldl f s) := by
  induction l generalizing s with
  | nil => exact .refl s
  | cons a l ih => exact (h s a).trans (ih _)

theorem performAll_quiet (s : State) (b : L2Block) (p : Req → Bool) : Quiet s (performAll s b p).1 := by
  unfold performAll
  generalize s.reqs.filter (fun e => e.2.pendingAt b && p e.2) = l
  induction l generalizing s b with
  | nil => exact .refl s
  | cons e l ih => exact (performOn_quiet s e.1 e.2 b).trans (ih _ _)

theorem serveOnce_quiet (s : State) (k : Nat) (b : L2Block) : Quiet s (serveOnce s k b).1 := by
  unfold serveOnce
  have h := performAll_quiet s b (fun _ => true)
  generalize performAll s b (fun _ => true) = r at h ⊢
  exact h.trans (writeBack_quiet ..)

theorem retireBlock_quiet (s : State) (k : Nat) (b : L2Block) : Quiet s (retireBlock s k b) := serveOnce_quiet ..

/-! ### Room -/

theorem evictMisplaced_quiet (s : State) (k : Nat) (bs : List L2Block) : Quiet s (evictMisplaced s k bs).1 :=
  foldl_quiet _ _ (fun t b => retireBlock_quiet t k b) s

theorem makeRoom_quiet (s : State) (k : Nat) (w : Bool) (c n j : Nat) (bs : List L2Block) :
    Quiet s (makeRoom s k w c n j bs).1 := by
  induction j generalizing s bs with
  | zero => exact .refl s
  | succ j ih =>
    unfold makeRoom
    dsimp only
    split
    · exact .refl s
    · split
      · exact .refl s
      · exact (retireBlock_quiet s k _).trans (ih _ _)

theorem l2Install_quiet (s : State) (k : Nat) (b : L2Block) (a : Bool) : Quiet s (l2Install s k b a) := by
  unfold l2Install
  dsimp only
  split
  · exact ((evictMisplaced_quiet ..).trans (setL2_quiet ..)).trans (retireBlock_quiet ..)
  · exact ((evictMisplaced_quiet ..).trans (makeRoom_quiet ..)).trans (setL2_quiet ..)

theorem settleBlock_quiet (s : State) (k : Nat) (b : L2Block) : Quiet s (settleBlock s k b).1 := by
  unfold settleBlock
  dsimp only
  split
  · exact performAll_quiet ..
  · exact (performAll_quiet ..).trans (l2Install_quiet ..)

theorem cancelFetch_quiet (s : State) (p a v : Nat) : Quiet s (cancelFetch s p a v) := .of rfl id

theorem l2Place_quiet (s : State) (k : Nat) (b : L2Block) (a : Bool) : Quiet s (l2Place s k b a).1 := by
  unfold l2Place
  split
  · exact serveOnce_quiet ..
  · exact l2Install_quiet ..

theorem installBlock_quiet (s : State) (k p a v pa : Nat) (lf : Leaf) (b : PBlock) (lru : Bool) :
    Quiet s (installBlock s k p a v pa lf b lru).2 := by
  have h1 : ∀ t : State, ∀ q, Quiet t { t with dram := { t.dram with autoq := q } } := fun t q => .of rfl id
  unfold installBlock; grind [l2Place_quiet, cancelFetch_quiet, Quiet.step, Quiet.refl]

theorem fetchBlock_quiet (s : State) (k : Nat) (l : Loc) (pa : Nat) : Quiet s (fetchBlock s k l pa).2 := by
  unfold fetchBlock; grind [cross_quiet, dramRead_quiet, Quiet.step]

theorem fillFrom_quiet (s : State) (k p a v pa : Nat) (lf : Leaf) : Quiet s (fillFrom s k p a v pa lf).2 := by
  unfold fillFrom; grind [fetchBlock_quiet, installBlock_quiet, Quiet.step, Quiet.refl]

theorem l2Drop_quiet (s : State) (k p a v : Nat) : Quiet s (l2Drop s k p a v) := setL2_quiet ..

theorem moveBlock_quiet (s : State) (p a v : Nat) : Quiet s (moveBlock s p a v).2 := by
  unfold moveBlock; grind [setL2_quiet, l2Drop_quiet, l2Install_quiet, cross_quiet, Quiet.step, Quiet.refl]

theorem homeHit_quiet (s : State) (p a v : Nat) : Quiet s (homeHit s p a v).2 := by
  unfold homeHit; grind [moveBlock_quiet, Quiet.refl]

theorem apertureBlock_quiet (s : State) (p : Nat) (va : VA) : Quiet s (apertureBlock s p va).2 := by
  unfold apertureBlock; grind [homeHit_quiet, fillFrom_quiet, Quiet.step, Quiet.refl]

/-! ### Translation -/

theorem read8_quiet (s : State) (d p pa : Nat) : Quiet s (read8 s d p pa).2 := by
  unfold read8; grind [apertureBlock_quiet, settleBlock_quiet, cross_quiet, Quiet.step, Quiet.refl]

theorem cacheTable_quiet (s : State) (u : Nat) (e : WalkEntry) : Quiet s (cacheTable s u e) := .of rfl id

theorem walkFrom_quiet (s : State) (u p a va n lv t : Nat) : Quiet s (walkFrom s u p a va n lv t).2 := by
  induction n generalizing s lv t with
  | zero => exact .refl s
  | succ n ih => unfold walkFrom; grind [read8_quiet, cacheTable_quiet, Quiet.step, Quiet.refl]

theorem walk_quiet (s : State) (u p a va : Nat) : Quiet s (walk s u p a va).2 := by
  unfold walk; grind [read8_quiet, walkFrom_quiet, Quiet.step, Quiet.refl]

theorem tlbAdd_quiet (s : State) (u p a : Nat) (lf : Leaf) : Quiet s (tlbAdd s u p a lf) := .of rfl id

theorem translate_quiet (s : State) (k p a va : Nat) : Quiet s (translate s k p a va).2 := by
  unfold translate; grind [walk_quiet, tlbAdd_quiet, Quiet.step, Quiet.refl]

theorem homeTarget_quiet (s : State) (w : Who) (va : VA) : Quiet s (homeTarget s w va).2 := by
  unfold homeTarget; grind [apertureBlock_quiet, homeHit_quiet, translate_quiet, fillFrom_quiet, Quiet.step, Quiet.refl]

theorem replaceSite_quiet (s : State) (w : Who) (va : VA) : Quiet s (replaceSite s w va).2 := by
  have h : ∀ p k a, Quiet s (if regionOf va = .aperture then ((.ok (apertureLeaf s va) : Except AccErr Leaf), s)
      else translate s k p a va.toNat).2 := by
    intro p k a; split; exacts [.refl s, translate_quiet ..]
  unfold replaceSite; grind [readTag_quiet, Quiet.step, Quiet.refl]

theorem writeTarget_quiet (s : State) (w : Who) (va : VA) (f : Bool) : Quiet s (writeTarget s w va f).2 := by
  unfold writeTarget; grind [homeTarget_quiet, replaceSite_quiet, installBlock_quiet, Quiet.step, Quiet.refl]

/-! ### Accesses -/

theorem touch_quiet (s : State) (k : Nat) (b : L2Block) : Quiet s (touch s k b) := by
  unfold touch; grind [setL2_quiet, Quiet.refl]

theorem l2Replace_quiet (s : State) (k : Nat) (b : L2Block) (bs : List Byte) : Quiet s (l2Replace s k b bs) := by
  unfold l2Replace; exact l2Install_quiet ..

/-- A read at a home slice changes nothing but memory's own state. -/
theorem homeRead_quiet (s : State) (w : Who) (nd : Need) (va : VA) (n : Nat) : Quiet s (homeRead s w nd va n).2 := by
  unfold homeRead; grind [homeTarget_quiet, touch_quiet, crossings_quiet, toAndFro_quiet, farAccess_quiet, Quiet.step, Quiet.refl]

/-- A read-modify-write at a home slice likewise. -/
theorem homeRmw_quiet {α : Type} (s : State) (w : Who) (nd : Need) (va : VA) (n : Nat) (o : List Nat)
    (f : List Byte → List Byte × α) : Quiet s (homeRmw s w nd va n o f).2 := by
  unfold homeRmw
  grind [writeTarget_quiet, l2Replace_quiet, clearResv_quiet, crossings_quiet, toAndFro_quiet, farAccess_quiet, Quiet.step,
    Quiet.refl]

theorem homeWrite_quiet (s : State) (w : Who) (va : VA) (bs : List Byte) : Quiet s (homeWrite s w va bs).2 := homeRmw_quiet ..

theorem readSpan_quiet (s : State) (w : Who) (nd : Need) (va : VA) (n k : Nat) : Quiet s (readSpan s w nd va n k).2 := by
  induction k generalizing s va n with
  | zero => exact .refl s
  | succ k ih => unfold readSpan; grind [homeRead_quiet, Quiet.step, Quiet.refl]

theorem writeSpan_quiet (s : State) (w : Who) (va : VA) (bs : List Byte) (k : Nat) : Quiet s (writeSpan s w va bs k).2 := by
  induction k generalizing s va bs with
  | zero => exact .refl s
  | succ k ih => unfold writeSpan; grind [homeWrite_quiet, Quiet.step, Quiet.refl]

theorem readN_quiet (s : State) (w : Who) (va : VA) (n : Nat) : Quiet s (readN s w va n).2 := readSpan_quiet ..
theorem writeN_quiet (s : State) (w : Who) (va : VA) (bs : List Byte) : Quiet s (writeN s w va bs).2 := writeSpan_quiet ..

theorem devFar_quiet {α : Type} (s : State) (p pa : Nat) (o : Load) (v : α) : Quiet s (devFar s p pa o v).2 := by
  unfold devFar; grind [sendFabric_quiet, Quiet.refl]

theorem readPA_quiet (s : State) (p pa n : Nat) : Quiet s (readPA s p pa n).2 := by
  unfold readPA; grind [readN_quiet, devFar_quiet]

theorem writePA_quiet (s : State) (p pa : Nat) (bs : List Byte) : Quiet s (writePA s p pa bs).2 := by
  unfold writePA; grind [writeN_quiet, devFar_quiet]

/-! ### What stays in sight of an issue -/

theorem Quiet.coreOf {s t : State} (h : Quiet s t) (c : Nat) : coreOf t c = coreOf s c := by
  unfold Machine.coreOf; rw [h.cores]

theorem Quiet.warpAt? {s t : State} (h : Quiet s t) (c w : Nat) : warpAt? t c w = warpAt? s c w := by
  unfold Machine.warpAt?; rw [h.coreOf]

theorem Quiet.warp {s t : State} (h : Quiet s t) (x : Iss) : x.warp t = x.warp s := by
  unfold Iss.warp warpAt; rw [h.warpAt?]

theorem Quiet.groupAt {s t : State} (h : Quiet s t) (c g : Nat) : groupAt t c g = groupAt s c g := by
  unfold Machine.groupAt; rw [h.coreOf]

end Sys2Proof.Machine
end

