-- ==== Sys2Proof/Laws/PerInstr.lean ====
section
/-! SUPPORT. Laws/PerInstr.lean: the statements made once for every constructor of Instr. -/

set_option Elab.async false

namespace Sys2Proof.Laws

open Sys2Proof.Machine

/-- Every instruction has exactly one of the three forms: a Suric word, a slot word, or no word (an event). -/
def Encoding.Statement (i : Instr) : Prop :=
  ((encode i).isSome, (encodeSlot i).isSome, isEvent i) ∈ [(true, false, false), (false, true, false), (false, false, true)]

theorem Encoding.iadd : ∀ x0, Encoding.Statement (.iadd x0) := fun _ => .head _
theorem Encoding.iaddI : ∀ x0, Encoding.Statement (.iaddI x0) := fun _ => .head _
theorem Encoding.isub : ∀ x0, Encoding.Statement (.isub x0) := fun _ => .head _
theorem Encoding.imul : ∀ x0, Encoding.Statement (.imul x0) := fun _ => .head _
theorem Encoding.imulI : ∀ x0, Encoding.Statement (.imulI x0) := fun _ => .head _
theorem Encoding.imulh : ∀ x0, Encoding.Statement (.imulh x0) := fun _ => .head _
theorem Encoding.imad : ∀ x0, Encoding.Statement (.imad x0) := fun _ => .head _
theorem Encoding.imadw : ∀ x0, Encoding.Statement (.imadw x0) := fun _ => .head _
theorem Encoding.imin : ∀ x0, Encoding.Statement (.imin x0) := fun _ => .head _
theorem Encoding.imax : ∀ x0, Encoding.Statement (.imax x0) := fun _ => .head _
theorem Encoding.iabsd : ∀ x0, Encoding.Statement (.iabsd x0) := fun _ => .head _
theorem Encoding.lop3 : ∀ x0, Encoding.Statement (.lop3 x0) := fun _ => .head _
theorem Encoding.shl : ∀ x0, Encoding.Statement (.shl x0) := fun _ => .head _
theorem Encoding.shlI : ∀ x0, Encoding.Statement (.shlI x0) := fun _ => .head _
theorem Encoding.shr : ∀ x0, Encoding.Statement (.shr x0) := fun _ => .head _
theorem Encoding.shrI : ∀ x0, Encoding.Statement (.shrI x0) := fun _ => .head _
theorem Encoding.shra : ∀ x0, Encoding.Statement (.shra x0) := fun _ => .head _
theorem Encoding.shraI : ∀ x0, Encoding.Statement (.shraI x0) := fun _ => .head _
theorem Encoding.shf : ∀ x0, Encoding.Statement (.shf x0) := fun _ => .head _
theorem Encoding.bfx : ∀ x0, Encoding.Statement (.bfx x0) := fun _ => .head _
theorem Encoding.bfxI : ∀ x0, Encoding.Statement (.bfxI x0) := fun _ => .head _
theorem Encoding.bfi : ∀ x0, Encoding.Statement (.bfi x0) := fun _ => .head _
theorem Encoding.popc : ∀ x0, Encoding.Statement (.popc x0) := fun _ => .head _
theorem Encoding.clz : ∀ x0, Encoding.Statement (.clz x0) := fun _ => .head _
theorem Encoding.brev : ∀ x0, Encoding.Statement (.brev x0) := fun _ => .head _
theorem Encoding.prmt : ∀ x0, Encoding.Statement (.prmt x0) := fun _ => .head _
theorem Encoding.iset : ∀ x0, Encoding.Statement (.iset x0) := fun _ => .head _
theorem Encoding.isetI : ∀ x0, Encoding.Statement (.isetI x0) := fun _ => .head _
theorem Encoding.isel : ∀ x0, Encoding.Statement (.isel x0) := fun _ => .head _
theorem Encoding.lea : ∀ x0, Encoding.Statement (.lea x0) := fun _ => .head _
theorem Encoding.mov : ∀ x0, Encoding.Statement (.mov x0) := fun _ => .head _
theorem Encoding.movl : ∀ x0, Encoding.Statement (.movl x0) := fun _ => .head _
theorem Encoding.rdsr : ∀ x0, Encoding.Statement (.rdsr x0) := fun _ => .head _
theorem Encoding.p2v : ∀ x0, Encoding.Statement (.p2v x0) := fun _ => .head _
theorem Encoding.v2p : ∀ x0, Encoding.Statement (.v2p x0) := fun _ => .head _
theorem Encoding.plop : ∀ x0, Encoding.Statement (.plop x0) := fun _ => .head _
theorem Encoding.bra : ∀ x0, Encoding.Statement (.bra x0) := fun _ => .head _
theorem Encoding.brx : ∀ x0, Encoding.Statement (.brx x0) := fun _ => .head _
theorem Encoding.call : ∀ x0, Encoding.Statement (.call x0) := fun _ => .head _
theorem Encoding.ret : ∀ x0, Encoding.Statement (.ret x0) := fun _ => .head _
theorem Encoding.exit : ∀ x0, Encoding.Statement (.exit x0) := fun _ => .head _
theorem Encoding.deferG : ∀ x0, Encoding.Statement (.deferG x0) := fun _ => .head _
theorem Encoding.deferF : ∀ x0, Encoding.Statement (.deferF x0) := fun _ => .head _
theorem Encoding.clasp : ∀ x0, Encoding.Statement (.clasp x0) := fun _ => .head _
theorem Encoding.unclasp : ∀ x0, Encoding.Statement (.unclasp x0) := fun _ => .head _
theorem Encoding.nop : ∀ x0, Encoding.Statement (.nop x0) := fun _ => .head _
theorem Encoding.yield : ∀ x0, Encoding.Statement (.yield x0) := fun _ => .head _
theorem Encoding.launch : ∀ x0, Encoding.Statement (.launch x0) := fun _ => .head _
theorem Encoding.launchi : ∀ x0, Encoding.Statement (.launchi x0) := fun _ => .head _
theorem Encoding.cwait : ∀ x0, Encoding.Statement (.cwait x0) := fun _ => .head _
theorem Encoding.trap : ∀ x0, Encoding.Statement (.trap x0) := fun _ => .head _
theorem Encoding.tret : ∀ x0, Encoding.Statement (.tret x0) := fun _ => .head _
theorem Encoding.trd : ∀ x0, Encoding.Statement (.trd x0) := fun _ => .head _
theorem Encoding.twr : ∀ x0, Encoding.Statement (.twr x0) := fun _ => .head _
theorem Encoding.bpt : ∀ x0, Encoding.Statement (.bpt x0) := fun _ => .head _
theorem Encoding.fadd : ∀ x0, Encoding.Statement (.fadd x0) := fun _ => .head _
theorem Encoding.fmul : ∀ x0, Encoding.Statement (.fmul x0) := fun _ => .head _
theorem Encoding.ffma : ∀ x0, Encoding.Statement (.ffma x0) := fun _ => .head _
theorem Encoding.fmin : ∀ x0, Encoding.Statement (.fmin x0) := fun _ => .head _
theorem Encoding.fmax : ∀ x0, Encoding.Statement (.fmax x0) := fun _ => .head _
theorem Encoding.fset : ∀ x0, Encoding.Statement (.fset x0) := fun _ => .head _
theorem Encoding.frnd : ∀ x0, Encoding.Statement (.frnd x0) := fun _ => .head _
theorem Encoding.fclass : ∀ x0, Encoding.Statement (.fclass x0) := fun _ => .head _
theorem Encoding.fscale : ∀ x0, Encoding.Statement (.fscale x0) := fun _ => .head _
theorem Encoding.dadd : ∀ x0, Encoding.Statement (.dadd x0) := fun _ => .head _
theorem Encoding.dmul : ∀ x0, Encoding.Statement (.dmul x0) := fun _ => .head _
theorem Encoding.dfma : ∀ x0, Encoding.Statement (.dfma x0) := fun _ => .head _
theorem Encoding.dset : ∀ x0, Encoding.Statement (.dset x0) := fun _ => .head _
theorem Encoding.f2f : ∀ x0, Encoding.Statement (.f2f x0) := fun _ => .head _
theorem Encoding.f2i : ∀ x0, Encoding.Statement (.f2i x0) := fun _ => .head _
theorem Encoding.i2f : ∀ x0, Encoding.Statement (.i2f x0) := fun _ => .head _
theorem Encoding.fpack : ∀ x0, Encoding.Statement (.fpack x0) := fun _ => .head _
theorem Encoding.funpk : ∀ x0, Encoding.Statement (.funpk x0) := fun _ => .head _
theorem Encoding.mxexp : ∀ x0, Encoding.Statement (.mxexp x0) := fun _ => .head _
theorem Encoding.rcp : ∀ x0, Encoding.Statement (.rcp x0) := fun _ => .head _
theorem Encoding.rsq : ∀ x0, Encoding.Statement (.rsq x0) := fun _ => .head _
theorem Encoding.sqrt : ∀ x0, Encoding.Statement (.sqrt x0) := fun _ => .head _
theorem Encoding.ex2 : ∀ x0, Encoding.Statement (.ex2 x0) := fun _ => .head _
theorem Encoding.lg2 : ∀ x0, Encoding.Statement (.lg2 x0) := fun _ => .head _
theorem Encoding.sincos : ∀ x0, Encoding.Statement (.sincos x0) := fun _ => .head _
theorem Encoding.tanh : ∀ x0, Encoding.Statement (.tanh x0) := fun _ => .head _
theorem Encoding.fil : ∀ x0, Encoding.Statement (.fil x0) := fun _ => .head _
theorem Encoding.filt : ∀ x0, Encoding.Statement (.filt x0) := fun _ => .head _
theorem Encoding.shfl : ∀ x0, Encoding.Statement (.shfl x0) := fun _ => .head _
theorem Encoding.vote : ∀ x0, Encoding.Statement (.vote x0) := fun _ => .head _
theorem Encoding.redux : ∀ x0, Encoding.Statement (.redux x0) := fun _ => .head _
theorem Encoding.scanx : ∀ x0, Encoding.Statement (.scanx x0) := fun _ => .head _
theorem Encoding.matchLanes : ∀ x0, Encoding.Statement (.matchLanes x0) := fun _ => .head _
theorem Encoding.lrd : ∀ x0, Encoding.Statement (.lrd x0) := fun _ => .head _
theorem Encoding.lwr : ∀ x0, Encoding.Statement (.lwr x0) := fun _ => .head _
theorem Encoding.ld : ∀ x0, Encoding.Statement (.ld x0) := fun _ => .head _
theorem Encoding.st : ∀ x0, Encoding.Statement (.st x0) := fun _ => .head _
theorem Encoding.ldc : ∀ x0, Encoding.Statement (.ldc x0) := fun _ => .head _
theorem Encoding.ldsp : ∀ x0, Encoding.Statement (.ldsp x0) := fun _ => .head _
theorem Encoding.stsp : ∀ x0, Encoding.Statement (.stsp x0) := fun _ => .head _
theorem Encoding.ldq : ∀ x0, Encoding.Statement (.ldq x0) := fun _ => .head _
theorem Encoding.stq : ∀ x0, Encoding.Statement (.stq x0) := fun _ => .head _
theorem Encoding.pref : ∀ x0, Encoding.Statement (.pref x0) := fun _ => .head _
theorem Encoding.cctl : ∀ x0, Encoding.Statement (.cctl x0) := fun _ => .head _
theorem Encoding.promote : ∀ x0, Encoding.Statement (.promote x0) := fun _ => .head _
theorem Encoding.demote : ∀ x0, Encoding.Statement (.demote x0) := fun _ => .head _
theorem Encoding.atom : ∀ x0, Encoding.Statement (.atom x0) := fun _ => .head _
theorem Encoding.atomc : ∀ x0, Encoding.Statement (.atomc x0) := fun _ => .head _
theorem Encoding.red : ∀ x0, Encoding.Statement (.red x0) := fun _ => .head _
theorem Encoding.atomsp : ∀ x0, Encoding.Statement (.atomsp x0) := fun _ => .head _
theorem Encoding.ldr : ∀ x0, Encoding.Statement (.ldr x0) := fun _ => .head _
theorem Encoding.stc : ∀ x0, Encoding.Statement (.stc x0) := fun _ => .head _
theorem Encoding.fence : ∀ x0, Encoding.Statement (.fence x0) := fun _ => .head _
theorem Encoding.fencex : ∀ x0, Encoding.Statement (.fencex x0) := fun _ => .head _
theorem Encoding.barGrp : ∀ x0, Encoding.Statement (.barGrp x0) := fun _ => .head _
theorem Encoding.barMeet : ∀ x0, Encoding.Statement (.barMeet x0) := fun _ => .head _
theorem Encoding.barPost : ∀ x0, Encoding.Statement (.barPost x0) := fun _ => .head _
theorem Encoding.barAwait : ∀ x0, Encoding.Statement (.barAwait x0) := fun _ => .head _
theorem Encoding.barxMeet : ∀ x0, Encoding.Statement (.barxMeet x0) := fun _ => .head _
theorem Encoding.barxPost : ∀ x0, Encoding.Statement (.barxPost x0) := fun _ => .head _
theorem Encoding.qbarMeet : ∀ x0, Encoding.Statement (.qbarMeet x0) := fun _ => .head _
theorem Encoding.qbarPost : ∀ x0, Encoding.Statement (.qbarPost x0) := fun _ => .head _
theorem Encoding.semadd : ∀ x0, Encoding.Statement (.semadd x0) := fun _ => .head _
theorem Encoding.semwait : ∀ x0, Encoding.Statement (.semwait x0) := fun _ => .head _
theorem Encoding.semrd : ∀ x0, Encoding.Statement (.semrd x0) := fun _ => .head _
theorem Encoding.enq : ∀ x0, Encoding.Statement (.enq x0) := fun _ => .head _
theorem Encoding.tex : ∀ x0, Encoding.Statement (.tex x0) := fun _ => .head _
theorem Encoding.texC : ∀ x0, Encoding.Statement (.texC x0) := fun _ => .head _
theorem Encoding.trace : ∀ x0, Encoding.Statement (.trace x0) := fun _ => .head _
theorem Encoding.doneBit : ∀ x0, Encoding.Statement (.doneBit x0) := fun _ => .head _
theorem Encoding.tilewait : ∀ x0, Encoding.Statement (.tilewait x0) := fun _ => .head _
theorem Encoding.mma : ∀ x0, Encoding.Statement (.mma x0) := fun _ => .head _
theorem Encoding.mmaExp : ∀ x0, Encoding.Statement (.mmaExp x0) := fun _ => .head _
theorem Encoding.mmaAbs : ∀ x0, Encoding.Statement (.mmaAbs x0) := fun _ => .head _
theorem Encoding.accz : ∀ x0, Encoding.Statement (.accz x0) := fun _ => .head _
theorem Encoding.accrd : ∀ x0, Encoding.Statement (.accrd x0) := fun _ => .head _
theorem Encoding.accwr : ∀ x0, Encoding.Statement (.accwr x0) := fun _ => .head _
theorem Encoding.accst : ∀ x0, Encoding.Statement (.accst x0) := fun _ => .head _
theorem Encoding.mwait : ∀ x0, Encoding.Statement (.mwait x0) := fun _ => .head _
theorem Encoding.pload : ∀ x0, Encoding.Statement (.pload x0) := fun _ => .head _
theorem Encoding.edge : ∀ x0, Encoding.Statement (.edge x0) := fun _ => .head _
theorem Encoding.mstat : ∀ x0, Encoding.Statement (.mstat x0) := fun _ => .head _
theorem Encoding.noOperation : Encoding.Statement .noOperation := .tail _ (.head _)
theorem Encoding.kaddReg : ∀ x0 x1 x2, Encoding.Statement (.kaddReg x0 x1 x2) := fun _ _ _ => .tail _ (.head _)
theorem Encoding.kaddImm : ∀ x0 x1 x2, Encoding.Statement (.kaddImm x0 x1 x2) := fun _ _ _ => .tail _ (.head _)
theorem Encoding.ksubReg : ∀ x0 x1 x2, Encoding.Statement (.ksubReg x0 x1 x2) := fun _ _ _ => .tail _ (.head _)
theorem Encoding.ksubImm : ∀ x0 x1 x2, Encoding.Statement (.ksubImm x0 x1 x2) := fun _ _ _ => .tail _ (.head _)
theorem Encoding.kmulReg : ∀ x0 x1 x2, Encoding.Statement (.kmulReg x0 x1 x2) := fun _ _ _ => .tail _ (.head _)
theorem Encoding.kmulImm : ∀ x0 x1 x2, Encoding.Statement (.kmulImm x0 x1 x2) := fun _ _ _ => .tail _ (.head _)
theorem Encoding.kmov : ∀ x0 x1, Encoding.Statement (.kmov x0 x1) := fun _ _ => .tail _ (.head _)
theorem Encoding.kldi : ∀ x0 x1, Encoding.Statement (.kldi x0 x1) := fun _ _ => .tail _ (.head _)
theorem Encoding.kldiHi : ∀ x0 x1, Encoding.Statement (.kldiHi x0 x1) := fun _ _ => .tail _ (.head _)
theorem Encoding.kld : ∀ x0 x1 x2, Encoding.Statement (.kld x0 x1 x2) := fun _ _ _ => .tail _ (.head _)
theorem Encoding.kst : ∀ x0 x1 x2, Encoding.Statement (.kst x0 x1 x2) := fun _ _ _ => .tail _ (.head _)
theorem Encoding.kcmpReg : ∀ x0 x1 x2 x3, Encoding.Statement (.kcmpReg x0 x1 x2 x3) := fun _ _ _ _ => .tail _ (.head _)
theorem Encoding.kcmpImm : ∀ x0 x1 x2 x3, Encoding.Statement (.kcmpImm x0 x1 x2 x3) := fun _ _ _ _ => .tail _ (.head _)
theorem Encoding.br : ∀ x0, Encoding.Statement (.br x0) := fun _ => .tail _ (.head _)
theorem Encoding.brc : ∀ x0 x1 x2, Encoding.Statement (.brc x0 x1 x2) := fun _ _ _ => .tail _ (.head _)
theorem Encoding.loopReg : ∀ x0 x1, Encoding.Statement (.loopReg x0 x1) := fun _ _ => .tail _ (.head _)
theorem Encoding.loopImm : ∀ x0 x1, Encoding.Statement (.loopImm x0 x1) := fun _ _ => .tail _ (.head _)
theorem Encoding.halt : Encoding.Statement .halt := .tail _ (.head _)
theorem Encoding.toksendReg : ∀ x0 x1, Encoding.Statement (.toksendReg x0 x1) := fun _ _ => .tail _ (.head _)
theorem Encoding.toksendImm : ∀ x0 x1, Encoding.Statement (.toksendImm x0 x1) := fun _ _ => .tail _ (.head _)
theorem Encoding.tokrecv : ∀ x0 x1, Encoding.Statement (.tokrecv x0 x1) := fun _ _ => .tail _ (.head _)
theorem Encoding.bandchk : ∀ x0, Encoding.Statement (.bandchk x0) := fun _ => .tail _ (.head _)
theorem Encoding.lktrd : ∀ x0 x1, Encoding.Statement (.lktrd x0 x1) := fun _ _ => .tail _ (.head _)
theorem Encoding.evt : ∀ x0, Encoding.Statement (.evt x0) := fun _ => .tail _ (.head _)
theorem Encoding.tadd : ∀ x0 x1 x2 x3 x4 x5 x6, Encoding.Statement (.tadd x0 x1 x2 x3 x4 x5 x6) := fun _ _ _ _ _ _ _ => .tail _ (.head _)
theorem Encoding.tsub : ∀ x0 x1 x2 x3 x4 x5 x6, Encoding.Statement (.tsub x0 x1 x2 x3 x4 x5 x6) := fun _ _ _ _ _ _ _ => .tail _ (.head _)
theorem Encoding.tmul : ∀ x0 x1 x2 x3 x4 x5 x6, Encoding.Statement (.tmul x0 x1 x2 x3 x4 x5 x6) := fun _ _ _ _ _ _ _ => .tail _ (.head _)
theorem Encoding.tmac : ∀ x0 x1 x2 x3 x4 x5 x6, Encoding.Statement (.tmac x0 x1 x2 x3 x4 x5 x6) := fun _ _ _ _ _ _ _ => .tail _ (.head _)
theorem Encoding.tmin : ∀ x0 x1 x2 x3 x4 x5, Encoding.Statement (.tmin x0 x1 x2 x3 x4 x5) := fun _ _ _ _ _ _ => .tail _ (.head _)
theorem Encoding.tmax : ∀ x0 x1 x2 x3 x4 x5, Encoding.Statement (.tmax x0 x1 x2 x3 x4 x5) := fun _ _ _ _ _ _ => .tail _ (.head _)
theorem Encoding.tabsd : ∀ x0 x1 x2 x3 x4 x5, Encoding.Statement (.tabsd x0 x1 x2 x3 x4 x5) := fun _ _ _ _ _ _ => .tail _ (.head _)
theorem Encoding.tcmp : ∀ x0 x1 x2 x3 x4 x5 x6, Encoding.Statement (.tcmp x0 x1 x2 x3 x4 x5 x6) := fun _ _ _ _ _ _ _ => .tail _ (.head _)
theorem Encoding.tsel : ∀ x0 x1 x2 x3, Encoding.Statement (.tsel x0 x1 x2 x3) := fun _ _ _ _ => .tail _ (.head _)
theorem Encoding.tcvt : ∀ x0 x1 x2 x3 x4 x5 x6, Encoding.Statement (.tcvt x0 x1 x2 x3 x4 x5 x6) := fun _ _ _ _ _ _ _ => .tail _ (.head _)
theorem Encoding.tshift : ∀ x0 x1 x2 x3 x4, Encoding.Statement (.tshift x0 x1 x2 x3 x4) := fun _ _ _ _ _ => .tail _ (.head _)
theorem Encoding.tand : ∀ x0 x1 x2 x3 x4, Encoding.Statement (.tand x0 x1 x2 x3 x4) := fun _ _ _ _ _ => .tail _ (.head _)
theorem Encoding.tor : ∀ x0 x1 x2 x3 x4, Encoding.Statement (.tor x0 x1 x2 x3 x4) := fun _ _ _ _ _ => .tail _ (.head _)
theorem Encoding.tlut : ∀ x0 x1 x2, Encoding.Statement (.tlut x0 x1 x2) := fun _ _ _ => .tail _ (.head _)
theorem Encoding.rrot : ∀ x0 x1 x2 x3 x4, Encoding.Statement (.rrot x0 x1 x2 x3 x4) := fun _ _ _ _ _ => .tail _ (.head _)
theorem Encoding.rbc : ∀ x0 x1 x2 x3 x4, Encoding.Statement (.rbc x0 x1 x2 x3 x4) := fun _ _ _ _ _ => .tail _ (.head _)
theorem Encoding.rred : ∀ x0 x1 x2 x3 x4, Encoding.Statement (.rred x0 x1 x2 x3 x4) := fun _ _ _ _ _ => .tail _ (.head _)
theorem Encoding.crot : ∀ x0 x1 x2 x3 x4, Encoding.Statement (.crot x0 x1 x2 x3 x4) := fun _ _ _ _ _ => .tail _ (.head _)
theorem Encoding.cbc : ∀ x0 x1 x2 x3 x4, Encoding.Statement (.cbc x0 x1 x2 x3 x4) := fun _ _ _ _ _ => .tail _ (.head _)
theorem Encoding.cred : ∀ x0 x1 x2 x3 x4, Encoding.Statement (.cred x0 x1 x2 x3 x4) := fun _ _ _ _ _ => .tail _ (.head _)
theorem Encoding.txmv : ∀ x0 x1, Encoding.Statement (.txmv x0 x1) := fun _ _ => .tail _ (.head _)
theorem Encoding.tgath : ∀ x0 x1 x2 x3 x4, Encoding.Statement (.tgath x0 x1 x2 x3 x4) := fun _ _ _ _ _ => .tail _ (.head _)
theorem Encoding.tmatq : ∀ x0 x1 x2, Encoding.Statement (.tmatq x0 x1 x2) := fun _ _ _ => .tail _ (.head _)
theorem Encoding.tmatr : ∀ x0, Encoding.Statement (.tmatr x0) := fun _ => .tail _ (.head _)
theorem Encoding.sbind : ∀ x0 x1, Encoding.Statement (.sbind x0 x1) := fun _ _ => .tail _ (.head _)
theorem Encoding.srdTile : ∀ x0 x1 x2 x3, Encoding.Statement (.srdTile x0 x1 x2 x3) := fun _ _ _ _ => .tail _ (.head _)
theorem Encoding.srdWeight : ∀ x0 x1 x2, Encoding.Statement (.srdWeight x0 x1 x2) := fun _ _ _ => .tail _ (.head _)
theorem Encoding.swrTile : ∀ x0 x1 x2 x3, Encoding.Statement (.swrTile x0 x1 x2 x3) := fun _ _ _ _ => .tail _ (.head _)
theorem Encoding.swrStream : ∀ x0 x1, Encoding.Statement (.swrStream x0 x1) := fun _ _ => .tail _ (.head _)
theorem Encoding.sflush : ∀ x0, Encoding.Statement (.sflush x0) := fun _ => .tail _ (.head _)
theorem Encoding.loadDataReturn : ∀ x0, Encoding.Statement (.loadDataReturn x0) := fun _ => .tail _ (.tail _ (.head _))
theorem Encoding.storeAcceptance : ∀ x0, Encoding.Statement (.storeAcceptance x0) := fun _ => .tail _ (.tail _ (.head _))
theorem Encoding.atomicReply : ∀ x0, Encoding.Statement (.atomicReply x0) := fun _ => .tail _ (.tail _ (.head _))
theorem Encoding.texSampleReturn : ∀ x0 x1, Encoding.Statement (.texSampleReturn x0 x1) := fun _ _ => .tail _ (.tail _ (.head _))
theorem Encoding.traceResult : ∀ x0 x1, Encoding.Statement (.traceResult x0 x1) := fun _ _ => .tail _ (.tail _ (.head _))
theorem Encoding.promoteCompletion : ∀ x0 x1, Encoding.Statement (.promoteCompletion x0 x1) := fun _ _ => .tail _ (.tail _ (.head _))
theorem Encoding.ploadCompletion : ∀ x0 x1, Encoding.Statement (.ploadCompletion x0 x1) := fun _ _ => .tail _ (.tail _ (.head _))
theorem Encoding.queueEntryStart : ∀ x0 x1, Encoding.Statement (.queueEntryStart x0 x1) := fun _ _ => .tail _ (.tail _ (.head _))
theorem Encoding.queueEntryCompletion : ∀ x0 x1 x2, Encoding.Statement (.queueEntryCompletion x0 x1 x2) := fun _ _ _ => .tail _ (.tail _ (.head _))
theorem Encoding.accstRowAnswer : ∀ x0 x1 x2, Encoding.Statement (.accstRowAnswer x0 x1 x2) := fun _ _ _ => .tail _ (.tail _ (.head _))
theorem Encoding.memoryAccess : ∀ x0, Encoding.Statement (.memoryAccess x0) := fun _ => .tail _ (.tail _ (.head _))
theorem Encoding.rowPromotion : ∀ x0 x1 x2 x3, Encoding.Statement (.rowPromotion x0 x1 x2 x3) := fun _ _ _ _ => .tail _ (.tail _ (.head _))
theorem Encoding.rowDemotion : ∀ x0 x1 x2, Encoding.Statement (.rowDemotion x0 x1 x2) := fun _ _ _ => .tail _ (.tail _ (.head _))
theorem Encoding.automaticPromotion : ∀ x0, Encoding.Statement (.automaticPromotion x0) := fun _ => .tail _ (.tail _ (.head _))
theorem Encoding.seqRenumbering : ∀ x0 x1, Encoding.Statement (.seqRenumbering x0 x1) := fun _ _ => .tail _ (.tail _ (.head _))
theorem Encoding.refresh : ∀ x0, Encoding.Statement (.refresh x0) := fun _ => .tail _ (.tail _ (.head _))
theorem Encoding.patrolScrub : ∀ x0 x1 x2, Encoding.Statement (.patrolScrub x0 x1 x2) := fun _ _ _ => .tail _ (.tail _ (.head _))
theorem Encoding.channelReset : ∀ x0, Encoding.Statement (.channelReset x0) := fun _ => .tail _ (.tail _ (.head _))
theorem Encoding.channelResetComplete : ∀ x0, Encoding.Statement (.channelResetComplete x0) := fun _ => .tail _ (.tail _ (.head _))
theorem Encoding.bandwidthWindow : ∀ x0, Encoding.Statement (.bandwidthWindow x0) := fun _ => .tail _ (.tail _ (.head _))
theorem Encoding.homeSliceAccess : ∀ x0, Encoding.Statement (.homeSliceAccess x0) := fun _ => .tail _ (.tail _ (.head _))
theorem Encoding.l2Fill : ∀ x0, Encoding.Statement (.l2Fill x0) := fun _ => .tail _ (.tail _ (.head _))
theorem Encoding.pageWalk : ∀ x0, Encoding.Statement (.pageWalk x0) := fun _ => .tail _ (.tail _ (.head _))
theorem Encoding.linkTraining : ∀ x0 x1, Encoding.Statement (.linkTraining x0 x1) := fun _ _ => .tail _ (.tail _ (.head _))
theorem Encoding.flitReplay : ∀ x0 x1, Encoding.Statement (.flitReplay x0 x1) := fun _ _ => .tail _ (.tail _ (.head _))
theorem Encoding.portRetrain : ∀ x0 x1, Encoding.Statement (.portRetrain x0 x1) := fun _ _ => .tail _ (.tail _ (.head _))
theorem Encoding.maintenanceNop : ∀ x0, Encoding.Statement (.maintenanceNop x0) := fun _ => .tail _ (.tail _ (.head _))
theorem Encoding.invRange : ∀ x0, Encoding.Statement (.invRange x0) := fun _ => .tail _ (.tail _ (.head _))
theorem Encoding.invAsid : ∀ x0, Encoding.Statement (.invAsid x0) := fun _ => .tail _ (.tail _ (.head _))
theorem Encoding.invPart : ∀ x0, Encoding.Statement (.invPart x0) := fun _ => .tail _ (.tail _ (.head _))
theorem Encoding.mqtailWrite : ∀ x0 x1, Encoding.Statement (.mqtailWrite x0 x1) := fun _ _ => .tail _ (.tail _ (.head _))
theorem Encoding.mqctlWrite : ∀ x0 x1, Encoding.Statement (.mqctlWrite x0 x1) := fun _ _ => .tail _ (.tail _ (.head _))
theorem Encoding.faultReservationRetry : ∀ x0 x1, Encoding.Statement (.faultReservationRetry x0 x1) := fun _ _ => .tail _ (.tail _ (.head _))
theorem Encoding.copy : ∀ x0 x1 x2, Encoding.Statement (.copy x0 x1 x2) := fun _ _ _ => .tail _ (.tail _ (.head _))
theorem Encoding.affine : ∀ x0 x1 x2, Encoding.Statement (.affine x0 x1 x2) := fun _ _ _ => .tail _ (.tail _ (.head _))
theorem Encoding.gather : ∀ x0 x1 x2, Encoding.Statement (.gather x0 x1 x2) := fun _ _ _ => .tail _ (.tail _ (.head _))
theorem Encoding.scatter : ∀ x0 x1 x2, Encoding.Statement (.scatter x0 x1 x2) := fun _ _ _ => .tail _ (.tail _ (.head _))
theorem Encoding.ragged : ∀ x0 x1 x2, Encoding.Statement (.ragged x0 x1 x2) := fun _ _ _ => .tail _ (.tail _ (.head _))
theorem Encoding.fill : ∀ x0 x1 x2, Encoding.Statement (.fill x0 x1 x2) := fun _ _ _ => .tail _ (.tail _ (.head _))
theorem Encoding.iuload : ∀ x0 x1 x2, Encoding.Statement (.iuload x0 x1 x2) := fun _ _ _ => .tail _ (.tail _ (.head _))
theorem Encoding.scadd : ∀ x0 x1 x2, Encoding.Statement (.scadd x0 x1 x2) := fun _ _ _ => .tail _ (.tail _ (.head _))
theorem Encoding.bin : ∀ x0 x1 x2, Encoding.Statement (.bin x0 x1 x2) := fun _ _ _ => .tail _ (.tail _ (.head _))
theorem Encoding.hist : ∀ x0 x1 x2, Encoding.Statement (.hist x0 x1 x2) := fun _ _ _ => .tail _ (.tail _ (.head _))
theorem Encoding.chunkCompletion : ∀ x0 x1 x2, Encoding.Statement (.chunkCompletion x0 x1 x2) := fun _ _ _ => .tail _ (.tail _ (.head _))
theorem Encoding.commandCompletion : ∀ x0 x1 x2, Encoding.Statement (.commandCompletion x0 x1 x2) := fun _ _ _ => .tail _ (.tail _ (.head _))
theorem Encoding.ringResume : ∀ x0 x1 x2, Encoding.Statement (.ringResume x0 x1 x2) := fun _ _ _ => .tail _ (.tail _ (.head _))
theorem Encoding.gridDispatch : ∀ x0, Encoding.Statement (.gridDispatch x0) := fun _ => .tail _ (.tail _ (.head _))
theorem Encoding.lqtailWrite : ∀ x0 x1 x2, Encoding.Statement (.lqtailWrite x0 x1 x2) := fun _ _ _ => .tail _ (.tail _ (.head _))
theorem Encoding.lqstatWrite : ∀ x0 x1 x2, Encoding.Statement (.lqstatWrite x0 x1 x2) := fun _ _ _ => .tail _ (.tail _ (.head _))
theorem Encoding.groupPlacement : ∀ x0 x1 x2 x3, Encoding.Statement (.groupPlacement x0 x1 x2 x3) := fun _ _ _ _ => .tail _ (.tail _ (.head _))
theorem Encoding.placementTimeout : ∀ x0 x1, Encoding.Statement (.placementTimeout x0 x1) := fun _ _ => .tail _ (.tail _ (.head _))
theorem Encoding.groupRetire : ∀ x0 x1, Encoding.Statement (.groupRetire x0 x1) := fun _ _ => .tail _ (.tail _ (.head _))
theorem Encoding.gridCompletion : ∀ x0 x1, Encoding.Statement (.gridCompletion x0 x1) := fun _ _ => .tail _ (.tail _ (.head _))
theorem Encoding.continuationWarpFormation : ∀ x0 x1 x2, Encoding.Statement (.continuationWarpFormation x0 x1 x2) := fun _ _ _ => .tail _ (.tail _ (.head _))
theorem Encoding.spillReturn : ∀ x0, Encoding.Statement (.spillReturn x0) := fun _ => .tail _ (.tail _ (.head _))
theorem Encoding.handlerEntry : ∀ x0 x1, Encoding.Statement (.handlerEntry x0 x1) := fun _ _ => .tail _ (.tail _ (.head _))
theorem Encoding.fatalHalt : ∀ x0 x1, Encoding.Statement (.fatalHalt x0 x1) := fun _ _ => .tail _ (.tail _ (.head _))
theorem Encoding.debugRequest : ∀ x0 x1, Encoding.Statement (.debugRequest x0 x1) := fun _ _ => .tail _ (.tail _ (.head _))
theorem Encoding.gridAbort : ∀ x0 x1, Encoding.Statement (.gridAbort x0 x1) := fun _ _ => .tail _ (.tail _ (.head _))
theorem Encoding.engineFaultTrap : ∀ x0 x1, Encoding.Statement (.engineFaultTrap x0 x1) := fun _ _ => .tail _ (.tail _ (.head _))
theorem Encoding.impreciseRecordWrite : ∀ x0 x1, Encoding.Statement (.impreciseRecordWrite x0 x1) := fun _ _ => .tail _ (.tail _ (.head _))
theorem Encoding.swapOut : ∀ x0 x1, Encoding.Statement (.swapOut x0 x1) := fun _ _ => .tail _ (.tail _ (.head _))
theorem Encoding.groupSave : ∀ x0 x1, Encoding.Statement (.groupSave x0 x1) := fun _ _ => .tail _ (.tail _ (.head _))
theorem Encoding.groupRestore : ∀ x0 x1 x2, Encoding.Statement (.groupRestore x0 x1 x2) := fun _ _ _ => .tail _ (.tail _ (.head _))
theorem Encoding.replay : ∀ x0 x1 x2, Encoding.Statement (.replay x0 x1 x2) := fun _ _ _ => .tail _ (.tail _ (.head _))
theorem Encoding.deliver : ∀ x0 x1 x2, Encoding.Statement (.deliver x0 x1 x2) := fun _ _ _ => .tail _ (.tail _ (.head _))
theorem Encoding.abort : ∀ x0 x1 x2, Encoding.Statement (.abort x0 x1 x2) := fun _ _ _ => .tail _ (.tail _ (.head _))
theorem Encoding.hold : ∀ x0 x1, Encoding.Statement (.hold x0 x1) := fun _ _ => .tail _ (.tail _ (.head _))
theorem Encoding.release : ∀ x0 x1, Encoding.Statement (.release x0 x1) := fun _ _ => .tail _ (.tail _ (.head _))
theorem Encoding.holdCompletion : ∀ x0, Encoding.Statement (.holdCompletion x0) := fun _ => .tail _ (.tail _ (.head _))
theorem Encoding.assign : ∀ x0 x1 x2, Encoding.Statement (.assign x0 x1 x2) := fun _ _ _ => .tail _ (.tail _ (.head _))
theorem Encoding.cancel : ∀ x0 x1 x2, Encoding.Statement (.cancel x0 x1 x2) := fun _ _ _ => .tail _ (.tail _ (.head _))
theorem Encoding.enable : ∀ x0 x1 x2, Encoding.Statement (.enable x0 x1 x2) := fun _ _ _ => .tail _ (.tail _ (.head _))
theorem Encoding.releaseCore : ∀ x0 x1, Encoding.Statement (.releaseCore x0 x1) := fun _ _ => .tail _ (.tail _ (.head _))
theorem Encoding.releaseChannel : ∀ x0 x1, Encoding.Statement (.releaseChannel x0 x1) := fun _ _ => .tail _ (.tail _ (.head _))
theorem Encoding.slcommit : ∀ x0, Encoding.Statement (.slcommit x0) := fun _ => .tail _ (.tail _ (.head _))
theorem Encoding.chcommit : ∀ x0 x1, Encoding.Statement (.chcommit x0 x1) := fun _ _ => .tail _ (.tail _ (.head _))
theorem Encoding.blockMove : ∀ x0 x1 x2, Encoding.Statement (.blockMove x0 x1 x2) := fun _ _ _ => .tail _ (.tail _ (.head _))
theorem Encoding.sweep : ∀ x0, Encoding.Statement (.sweep x0) := fun _ => .tail _ (.tail _ (.head _))
theorem Encoding.drainComplete : ∀ x0 x1, Encoding.Statement (.drainComplete x0 x1) := fun _ _ => .tail _ (.tail _ (.head _))
theorem Encoding.zeroingComplete : ∀ x0 x1, Encoding.Statement (.zeroingComplete x0 x1) := fun _ _ => .tail _ (.tail _ (.head _))
theorem Encoding.partFatal : ∀ x0, Encoding.Statement (.partFatal x0) := fun _ => .tail _ (.tail _ (.head _))
theorem Encoding.chmapWrite : ∀ x0 x1, Encoding.Statement (.chmapWrite x0 x1) := fun _ _ => .tail _ (.tail _ (.head _))
theorem Encoding.hdownEnable : ∀ x0 x1, Encoding.Statement (.hdownEnable x0 x1) := fun _ _ => .tail _ (.tail _ (.head _))
theorem Encoding.hdownDisable : ∀ x0, Encoding.Statement (.hdownDisable x0) := fun _ => .tail _ (.tail _ (.head _))
theorem Encoding.registerWrite : ∀ x0 x1 x2 x3 x4, Encoding.Statement (.registerWrite x0 x1 x2 x3 x4) := fun _ _ _ _ _ => .tail _ (.tail _ (.head _))
theorem Encoding.notificationBatch : ∀ x0, Encoding.Statement (.notificationBatch x0) := fun _ => .tail _ (.tail _ (.head _))
theorem Encoding.notificationInterval : ∀ x0, Encoding.Statement (.notificationInterval x0) := fun _ => .tail _ (.tail _ (.head _))
theorem Encoding.rdmaWrite : ∀ x0 x1 x2 x3 x4, Encoding.Statement (.rdmaWrite x0 x1 x2 x3 x4) := fun _ _ _ _ _ => .tail _ (.tail _ (.head _))
theorem Encoding.rdmaWriteWithImmediate : ∀ x0 x1 x2 x3 x4 x5, Encoding.Statement (.rdmaWriteWithImmediate x0 x1 x2 x3 x4 x5) := fun _ _ _ _ _ _ => .tail _ (.tail _ (.head _))
theorem Encoding.rdmaRead : ∀ x0 x1 x2 x3 x4, Encoding.Statement (.rdmaRead x0 x1 x2 x3 x4) := fun _ _ _ _ _ => .tail _ (.tail _ (.head _))
theorem Encoding.qpContextEnable : ∀ x0 x1, Encoding.Statement (.qpContextEnable x0 x1) := fun _ _ => .tail _ (.tail _ (.head _))
theorem Encoding.fabricAccessArrival : ∀ x0 x1 x2 x3, Encoding.Statement (.fabricAccessArrival x0 x1 x2 x3) := fun _ _ _ _ => .tail _ (.tail _ (.head _))
theorem Encoding.attestationRequest : ∀ x0 x1, Encoding.Statement (.attestationRequest x0 x1) := fun _ _ => .tail _ (.tail _ (.head _))
theorem Encoding.coldReset : Encoding.Statement .coldReset := .tail _ (.tail _ (.head _))
theorem Encoding.warmReset : Encoding.Statement .warmReset := .tail _ (.tail _ (.head _))
theorem Encoding.moduleFatalError : ∀ x0, Encoding.Statement (.moduleFatalError x0) := fun _ => .tail _ (.tail _ (.head _))
theorem Encoding.thermalLimit : ∀ x0, Encoding.Statement (.thermalLimit x0) := fun _ => .tail _ (.tail _ (.head _))
theorem Encoding.frameStart : ∀ x0, Encoding.Statement (.frameStart x0) := fun _ => .tail _ (.tail _ (.head _))
theorem Encoding.hdcfgPoll : ∀ x0, Encoding.Statement (.hdcfgPoll x0) := fun _ => .tail _ (.tail _ (.head _))
theorem Encoding.loadRequest : ∀ x0, Encoding.Statement (.loadRequest x0) := fun _ => .tail _ (.tail _ (.head _))
theorem Encoding.loaded : ∀ x0, Encoding.Statement (.loaded x0) := fun _ => .tail _ (.tail _ (.head _))
theorem Encoding.locketLatch : ∀ x0, Encoding.Statement (.locketLatch x0) := fun _ => .tail _ (.tail _ (.head _))
theorem Encoding.bandStart : ∀ x0, Encoding.Statement (.bandStart x0) := fun _ => .tail _ (.tail _ (.head _))
theorem Encoding.bandAbandonment : ∀ x0, Encoding.Statement (.bandAbandonment x0) := fun _ => .tail _ (.tail _ (.head _))
theorem Encoding.fallback : ∀ x0 x1 x2, Encoding.Statement (.fallback x0 x1 x2) := fun _ _ _ => .tail _ (.tail _ (.head _))
theorem Encoding.relfWrite : ∀ x0 x1, Encoding.Statement (.relfWrite x0 x1) := fun _ _ => .tail _ (.tail _ (.head _))
theorem Encoding.streamRowFetch : ∀ x0 x1, Encoding.Statement (.streamRowFetch x0 x1) := fun _ _ => .tail _ (.tail _ (.head _))
theorem Encoding.streamRowAnswer : ∀ x0 x1, Encoding.Statement (.streamRowAnswer x0 x1) := fun _ _ => .tail _ (.tail _ (.head _))
theorem Encoding.matrixEntryCompletion : ∀ x0, Encoding.Statement (.matrixEntryCompletion x0) := fun _ => .tail _ (.tail _ (.head _))
theorem Encoding.suspension : ∀ x0, Encoding.Statement (.suspension x0) := fun _ => .tail _ (.tail _ (.head _))
theorem Encoding.resumption : ∀ x0, Encoding.Statement (.resumption x0) := fun _ => .tail _ (.tail _ (.head _))
theorem Encoding.unreachableNodeFault : ∀ x0, Encoding.Statement (.unreachableNodeFault x0) := fun _ => .tail _ (.tail _ (.head _))
theorem Encoding.requesterRetry : ∀ x0, Encoding.Statement (.requesterRetry x0) := fun _ => .tail _ (.tail _ (.head _))

end Sys2Proof.Laws
end

