-- ==== Sys2Proof/Laws/Slots.lean ====
section
/-! SUPPORT. Laws/Slots.lean: what a slot of a bundle does, said once for every slot instruction (15 R396, R397). -/

namespace Sys2Proof.Machine

/-- A slot that fits performs its body on the line core as it stands before the bundle, and nothing else changes. -/
theorem slotIssue_fits {s : State} {x : SIss} {i : Instr} (h : SlotIssues s x i) (body : State → SIss → LineCore → LineCore) :
    slotIssue i body s = .next (x.leaves s (body { s with cur := .idle } x (lineOf s x.lc))) := by
  obtain ⟨hc, hf⟩ := h
  simp only [slotIssue, hc, hf, if_true]
  rfl

/-- A slot that does not fit is the illegal bundle. -/
theorem slotIssue_misfit {s : State} {lc e k : Nat} {i : Instr} (hc : s.cur = .slot lc e k) (hf : slotFits e k i = false)
    (body : State → SIss → LineCore → LineCore) :
    slotIssue i body s = .next { setLine s lc ((lineOf s lc).trap 0) with cur := .idle } := by
  simp only [slotIssue, hc, hf]
  rfl

/-- A result that lands is one effect more. -/
theorem lands_adds (l : LineCore) (x : SIss) (lat : Nat) (d : LandTo) : l.lands x lat d = l.adds [x.lands l lat d] := rfl
theorem setK_adds (d : BitVec 5) (v : Word) (x : SIss) (l : LineCore) : setK d v x l = l.adds [x.lands l 1 (.k d.toNat v)] := rfl
theorem will_adds (l : LineCore) (f : Fx) : l.will f = l.adds [f] := rfl
theorem adds_nil (l : LineCore) : l.adds [] = l := by simp [LineCore.adds]
theorem adds_adds (l : LineCore) (a b : List Fx) : (l.adds a).adds b = l.adds (a ++ b) := by simp [LineCore.adds]

/-- A tile result whose sources can be read lands. -/
theorem tileOut_lands {x : SIss} {lat : Nat} {d : BitVec 3} {srcs : List (Nat × Nat)} {l : LineCore}
    (h : ∀ t ∈ srcs, tileBad l t.1 t.2 = false) (vals : List Half) :
    tileOut x lat d srcs vals l = l.adds [x.lands l lat (.tile (x.cluster * 8 + d.toNat) vals)] := by
  have : srcs.any (fun t => tileBad l t.1 t.2) = false := by simpa using h
  simp [tileOut, this, lands_adds]

end Sys2Proof.Machine
end

