-- ==== Sys2Proof/Tests/Slice0.lean ====
section
/-! SUPPORT. Tests/Slice0.lean: tests on fixed values, each with its place in the spec, and for every statement with hypotheses
a witness that meets them. -/

set_option Elab.async false

namespace Sys2Proof.Tests

open Sys2Proof.Machine

/-- A word's fields, in the order of 07 R165: guard, D, A, B, C, MA, MB, F, T, K and the literal. -/
def fl (g : BitVec 5) (d a b c : BitVec 8) (ma mb fn t : BitVec 4) (k : BitVec 2) (lit : Option (BitVec 64)) : Fields :=
  { g := g, d := d, a := a, b := b, c := c, ma := ma, mb := mb, fn := fn, t := t, k := k, lit := lit }


/-! ### Every Suric instruction from a word packed by hand from 07 R165 and R178 -/

theorem test_decode_integer :
    decodeTableWord 64 0x013808101FF80080 = some (.iadd (fl 7 1 2 3 255 0 0 1 0 0 none)) ∧
    decodeTableWord 64 0x1810281F7FF80000 = some (.iaddI (fl 2 5 3 239 255 0 0 0 0 0 none)) ∧
    decodeTableWord 64 0x0238202837F89010 = some (.isub (fl 7 4 5 6 255 1 2 0 2 0 none)) ∧
    decodeTableWord 64 0x0338202837F80020 = some (.imul (fl 7 4 5 6 255 0 0 0 4 0 none)) ∧
    decodeTableWord 64 0x1938202C07FF0008 = some (.imulI (fl 7 4 5 128 255 14 0 0 1 0 none)) ∧
    decodeTableWord 64 0x043838404FF80008 = some (.imulh (fl 7 7 8 9 255 0 0 0 1 0 none)) ∧
    decodeTableWord 64 0x0538384048500000 = some (.imad (fl 7 7 8 9 10 0 0 0 0 0 none)) ∧
    decodeTableWord 64 0x0638604048700008 = some (.imadw (fl 7 12 8 9 14 0 0 0 1 0 none)) ∧
    decodeTableWord 64 0x073808101FF80028 = some (.imin (fl 7 1 2 3 255 0 0 0 5 0 none)) ∧
    decodeTableWord 64 0x083808101FF80030 = some (.imax (fl 7 1 2 3 255 0 0 0 6 0 none)) ∧
    decodeTableWord 64 0x093808101FFF8038 = some (.iabsd (fl 7 1 2 3 255 15 0 0 7 0 none)) := by
  decide

theorem test_decode_logic_and_shifts :
    decodeTableWord 64 0x0A38081018200330 = some (.lop3 (fl 7 1 2 3 4 0 0 6 6 0 none)) ∧
    decodeTableWord 64 0x0B3808101FF80008 = some (.shl (fl 7 1 2 3 255 0 0 0 1 0 none)) ∧
    decodeTableWord 64 0x1A380810FFF80008 = some (.shlI (fl 7 1 2 31 255 0 0 0 1 0 none)) ∧
    decodeTableWord 64 0x0C3808101FF80000 = some (.shr (fl 7 1 2 3 255 0 0 0 0 0 none)) ∧
    decodeTableWord 64 0x1B38081647F80000 = some (.shrI (fl 7 1 2 200 255 0 0 0 0 0 none)) ∧
    decodeTableWord 64 0x0D3808101FF80018 = some (.shra (fl 7 1 2 3 255 0 0 0 3 0 none)) ∧
    decodeTableWord 64 0x1C38081027F80010 = some (.shraI (fl 7 1 2 4 255 0 0 0 2 0 none)) ∧
    decodeTableWord 64 0x0E38081018200188 = some (.shf (fl 7 1 2 3 4 0 0 3 1 0 none)) ∧
    decodeTableWord 64 0x0F38081018200000 = some (.bfx (fl 7 1 2 3 4 0 0 0 0 0 none)) ∧
    decodeTableWord 64 0x1D38081038200008 = some (.bfxI (fl 7 1 2 7 4 0 0 0 1 0 none)) ∧
    decodeTableWord 64 0x1038081018200008 = some (.bfi (fl 7 1 2 3 4 0 0 0 1 0 none)) ∧
    decodeTableWord 64 0x11380817FFF80008 = some (.popc (fl 7 1 2 255 255 0 0 0 1 0 none)) ∧
    decodeTableWord 64 0x12380817FFF80008 = some (.clz (fl 7 1 2 255 255 0 0 0 1 0 none)) ∧
    decodeTableWord 64 0x13380817FFF80008 = some (.brev (fl 7 1 2 255 255 0 0 0 1 0 none)) ∧
    decodeTableWord 64 0x1438081018200008 = some (.prmt (fl 7 1 2 3 4 0 0 0 1 0 none)) := by
  decide

theorem test_decode_compares_and_moves :
    decodeTableWord 64 0x153858101FF80100 = some (.iset (fl 7 11 2 3 255 0 0 2 0 0 none)) ∧
    decodeTableWord 64 0x1E38181787F80680 = some (.isetI (fl 7 3 2 240 255 0 0 13 0 0 none)) ∧
    decodeTableWord 64 0x1638081018280008 = some (.isel (fl 7 1 2 3 5 0 0 0 1 0 none)) ∧
    decodeTableWord 64 0x1738203047F80280 = some (.lea (fl 7 4 6 8 255 0 0 5 0 0 none)) ∧
    decodeTableWord 64 0x20380817FFF98000 = some (.mov (fl 7 1 2 255 255 3 0 0 0 0 none)) ∧
    decodeTableWord 128 0x000000003F80000021380FFFFFF8000C = some (.movl (fl 7 1 255 255 255 0 0 0 1 0 (some 0x3F800000))) ∧
    decodeTableWord 64 0x22380FF84FF80000 = some (.rdsr (fl 7 1 255 9 255 0 0 0 0 0 none)) ∧
    decodeTableWord 64 0x23380FFFFFF80080 = some (.p2v (fl 7 1 255 255 255 0 0 1 0 0 none)) ∧
    decodeTableWord 64 0x243FF8101FF80000 = some (.v2p (fl 7 255 2 3 255 0 0 0 0 0 none)) ∧
    decodeTableWord 64 0x25381098600804B0 = some (.plop (fl 7 2 19 12 1 0 0 9 6 0 none)) := by
  decide

theorem test_decode_control :
    decodeTableWord 64 0x303FFFFFFFF00000 = some (.bra (fl 7 255 255 255 254 0 0 0 0 0 none)) ∧
    decodeTableWord 64 0x313FF827FFF80000 = some (.brx (fl 7 255 4 255 255 0 0 0 0 0 none)) ∧
    decodeTableWord 64 0x3238300008100000 = some (.call (fl 7 6 0 1 2 0 0 0 0 0 none)) ∧
    decodeTableWord 64 0x333FF837FFF80000 = some (.ret (fl 7 255 6 255 255 0 0 0 0 0 none)) ∧
    decodeTableWord 64 0x343FFFFFFFF80000 = some (.exit (fl 7 255 255 255 255 0 0 0 0 0 none)) ∧
    decodeTableWord 64 0x353FF8000200C000 = some (.deferG (fl 7 255 0 0 64 1 8 0 0 0 none)) ∧
    decodeTableWord 64 0x353FF80810192080 = some (.deferF (fl 7 255 1 2 3 2 4 1 0 0 none)) ∧
    decodeTableWord 64 0x363FFFFFFFF80000 = some (.clasp (fl 7 255 255 255 255 0 0 0 0 0 none)) ∧
    decodeTableWord 64 0x373FFFFFFFF80000 = some (.unclasp (fl 7 255 255 255 255 0 0 0 0 0 none)) ∧
    decodeTableWord 64 0x383FFFFFFFF80001 = some (.nop (fl 7 255 255 255 255 0 0 0 0 1 none)) ∧
    decodeTableWord 64 0x393FFFFFFFF80002 = some (.yield (fl 7 255 255 255 255 0 0 0 0 2 none)) ∧
    decodeTableWord 64 0x3A380817FFF80000 = some (.launch (fl 7 1 2 255 255 0 0 0 0 0 none)) ∧
    decodeTableWord 64 0x3B38081027F80000 = some (.launchi (fl 7 1 2 4 255 0 0 0 0 0 none)) ∧
    decodeTableWord 64 0x3C3FFFFFFFF80000 = some (.cwait (fl 7 255 255 255 255 0 0 0 0 0 none)) := by
  decide

theorem test_decode_system :
    decodeTableWord 64 0x403FFFF957F80000 = some (.trap (fl 7 255 255 42 255 0 0 0 0 0 none)) ∧
    decodeTableWord 64 0x413FFFFFFFF80000 = some (.tret (fl 7 255 255 255 255 0 0 0 0 0 none)) ∧
    decodeTableWord 64 0x423E0FF81FF80000 = some (.trd (fl 7 193 255 3 255 0 0 0 0 0 none)) ∧
    decodeTableWord 64 0x433FFE1027F80000 = some (.twr (fl 7 255 194 4 255 0 0 0 0 0 none)) ∧
    decodeTableWord 64 0x443FFFFE47F80000 = some (.bpt (fl 7 255 255 200 255 0 0 0 0 0 none)) := by
  decide

theorem test_decode_float :
    decodeTableWord 64 0x503808101FF89040 = some (.fadd (fl 7 1 2 3 255 1 2 0 8 0 none)) ∧
    decodeTableWord 64 0x513808101FFA8048 = some (.fmul (fl 7 1 2 3 255 5 0 0 9 0 none)) ∧
    decodeTableWord 64 0x52385010182009C0 = some (.ffma (fl 7 10 2 3 4 0 1 3 8 0 none)) ∧
    decodeTableWord 64 0x533808101FF800D0 = some (.fmin (fl 7 1 2 3 255 0 0 1 10 0 none)) ∧
    decodeTableWord 64 0x5438102037F80070 = some (.fmax (fl 7 2 4 6 255 0 0 0 14 0 none)) ∧
    decodeTableWord 64 0x553850101FF806C0 = some (.fset (fl 7 10 2 3 255 0 0 13 8 0 none)) ∧
    decodeTableWord 64 0x56380817FFF801C0 = some (.frnd (fl 7 1 2 255 255 0 0 3 8 0 none)) ∧
    decodeTableWord 64 0x573810101FF80440 = some (.fclass (fl 7 2 2 3 255 0 0 8 8 0 none)) ∧
    decodeTableWord 64 0x583808101FF80040 = some (.fscale (fl 7 1 2 3 255 0 0 0 8 0 none)) ∧
    decodeTableWord 64 0x5938102037F800F0 = some (.dadd (fl 7 2 4 6 255 0 0 1 14 0 none)) ∧
    decodeTableWord 64 0x5A38102037F80170 = some (.dmul (fl 7 2 4 6 255 0 0 2 14 0 none)) ∧
    decodeTableWord 64 0x5B38102030418070 = some (.dfma (fl 7 2 4 6 8 3 0 0 14 0 none)) ∧
    decodeTableWord 64 0x5C38082037F801F0 = some (.dset (fl 7 1 4 6 255 0 0 3 14 0 none)) := by
  decide

theorem test_decode_conversions_and_special_functions :
    decodeTableWord 64 0x6038102077F80140 = some (.f2f (fl 7 2 4 14 255 0 0 2 8 0 none)) ∧
    decodeTableWord 64 0x6138081047F80180 = some (.f2i (fl 7 1 2 8 255 0 0 3 0 0 none)) ∧
    decodeTableWord 64 0x623808100FF80040 = some (.i2f (fl 7 1 2 1 255 0 0 0 8 0 none)) ∧
    decodeTableWord 64 0x633808205FF80040 = some (.fpack (fl 7 1 4 11 255 0 0 0 8 0 none)) ∧
    decodeTableWord 64 0x643820084FF80040 = some (.funpk (fl 7 4 1 9 255 0 0 0 8 0 none)) ∧
    decodeTableWord 64 0x653808106FF80040 = some (.mxexp (fl 7 1 2 13 255 0 0 0 8 0 none)) ∧
    decodeTableWord 64 0x68380817FFF80440 = some (.rcp (fl 7 1 2 255 255 0 0 8 8 0 none)) ∧
    decodeTableWord 64 0x69380817FFF80240 = some (.rsq (fl 7 1 2 255 255 0 0 4 8 0 none)) ∧
    decodeTableWord 64 0x6A380817FFF800C8 = some (.sqrt (fl 7 1 2 255 255 0 0 1 9 0 none)) ∧
    decodeTableWord 64 0x6B380817FFF80050 = some (.ex2 (fl 7 1 2 255 255 0 0 0 10 0 none)) ∧
    decodeTableWord 64 0x6C380817FFF80040 = some (.lg2 (fl 7 1 2 255 255 0 0 0 8 0 none)) ∧
    decodeTableWord 64 0x6D381027FFF80040 = some (.sincos (fl 7 2 4 255 255 0 0 0 8 0 none)) ∧
    decodeTableWord 64 0x6E380817FFF88040 = some (.tanh (fl 7 1 2 255 255 1 0 0 8 0 none)) := by
  decide

theorem test_decode_cross_lane :
    decodeTableWord 64 0x703808101FF80280 = some (.fil (fl 7 1 2 3 255 0 0 5 0 0 none)) ∧
    decodeTableWord 64 0x713FFE27FFF80100 = some (.filt (fl 7 255 196 255 255 0 0 2 0 0 none)) ∧
    decodeTableWord 64 0x723808101FF80190 = some (.shfl (fl 7 1 2 3 255 0 0 3 2 0 none)) ∧
    decodeTableWord 64 0x733E081FFFF80100 = some (.vote (fl 7 193 3 255 255 0 0 2 0 0 none)) ∧
    decodeTableWord 64 0x743E0817FFF80240 = some (.redux (fl 7 193 2 255 255 0 0 4 8 0 none)) ∧
    decodeTableWord 64 0x75380817FFF80500 = some (.scanx (fl 7 1 2 255 255 0 0 10 0 0 none)) ∧
    decodeTableWord 64 0x76380817FFF80088 = some (.matchLanes (fl 7 1 2 255 255 0 0 1 1 0 none)) ∧
    decodeTableWord 64 0x773E08101FF80000 = some (.lrd (fl 7 193 2 3 255 0 0 0 0 0 none)) ∧
    decodeTableWord 128 0x000000000000001F7838160FFFF80004 = some (.lwr (fl 7 2 193 255 255 0 0 0 0 0 (some 0x1F))) := by
  decide

theorem test_decode_memory :
    decodeTableWord 64 0x80384020308204A0 = some (.ld (fl 7 8 4 6 16 4 0 9 4 0 none)) ∧
    decodeTableWord 64 0x813818A7F8150020 = some (.st (fl 7 3 20 255 2 10 0 0 4 0 none)) ∧
    decodeTableWord 64 0x82382647FFF80030 = some (.ldc (fl 7 4 200 255 255 0 0 0 6 0 none)) ∧
    decodeTableWord 64 0x8338264038000128 = some (.ldsp (fl 7 4 200 7 0 0 0 2 5 0 none)) ∧
    decodeTableWord 64 0x8438264040180390 = some (.stsp (fl 7 4 200 8 3 0 0 7 2 0 none)) ∧
    decodeTableWord 64 0x85382037F8018020 = some (.ldq (fl 7 4 6 255 0 3 0 0 4 0 none)) ∧
    decodeTableWord 64 0x86382037F8040000 = some (.stq (fl 7 4 6 255 0 8 0 0 0 0 none)) ∧
    decodeTableWord 64 0x873FF827F8080000 = some (.pref (fl 7 255 4 255 1 0 0 0 0 0 none)) ∧
    decodeTableWord 64 0x883FF827F8080010 = some (.cctl (fl 7 255 4 255 1 0 0 0 2 0 none)) ∧
    decodeTableWord 64 0x893E263640180100 = some (.promote (fl 7 196 198 200 3 0 0 2 0 0 none)) ∧
    decodeTableWord 64 0x8A3E263640180000 = some (.demote (fl 7 196 198 200 3 0 0 0 0 0 none)) := by
  decide

theorem test_decode_atomics :
    decodeTableWord 64 0x9038082037FD8B40 = some (.atom (fl 7 1 4 6 255 11 1 6 8 0 none)) ∧
    decodeTableWord 64 0x9138082030380008 = some (.atomc (fl 7 1 4 6 7 0 0 0 1 0 none)) ∧
    decodeTableWord 128 0xFFFFFFFFFFFFFFF0923FF82037FC0184 = some (.red (fl 7 255 4 6 255 8 0 3 0 0 (some 0xFFFFFFFFFFFFFFF0))) ∧
    decodeTableWord 64 0x93380E4030380488 = some (.atomsp (fl 7 1 200 6 7 0 0 9 1 0 none)) ∧
    decodeTableWord 64 0x94384027F8028028 = some (.ldr (fl 7 8 4 255 0 5 0 0 5 0 none)) ∧
    decodeTableWord 64 0x9538082037FB0078 = some (.stc (fl 7 1 4 6 255 6 0 0 15 0 none)) := by
  decide

theorem test_decode_synchronisation :
    decodeTableWord 64 0x983FFFF800070000 = some (.fence (fl 7 255 255 0 0 14 0 0 0 0 none)) ∧
    decodeTableWord 64 0x993FFFF808270000 = some (.fencex (fl 7 255 255 1 4 14 0 0 0 0 none)) ∧
    decodeTableWord 64 0x9A3FFFFFF8000000 = some (.barGrp (fl 7 255 255 255 0 0 0 0 0 0 none)) ∧
    decodeTableWord 64 0x9A3FF817F8000080 = some (.barMeet (fl 7 255 2 255 0 0 0 1 0 0 none)) ∧
    decodeTableWord 64 0x9A3E0817F8000100 = some (.barPost (fl 7 193 2 255 0 0 0 2 0 0 none)) ∧
    decodeTableWord 64 0x9A3FF81018000180 = some (.barAwait (fl 7 255 2 3 0 0 0 3 0 0 none)) ∧
    decodeTableWord 64 0x9B3FF81018000000 = some (.barxMeet (fl 7 255 2 3 0 0 0 0 0 0 none)) ∧
    decodeTableWord 64 0x9B3E081018000080 = some (.barxPost (fl 7 193 2 3 0 0 0 1 0 0 none)) ∧
    decodeTableWord 64 0x9C3FF82018000000 = some (.qbarMeet (fl 7 255 4 3 0 0 0 0 0 0 none)) ∧
    decodeTableWord 64 0x9C3E082018000080 = some (.qbarPost (fl 7 193 4 3 0 0 0 1 0 0 none)) ∧
    decodeTableWord 64 0xA03808101FF80008 = some (.semadd (fl 7 1 2 3 255 0 0 0 1 0 none)) ∧
    decodeTableWord 64 0xA13808101FF80000 = some (.semwait (fl 7 1 2 3 255 0 0 0 0 0 none)) ∧
    decodeTableWord 64 0xA2380817FFF80000 = some (.semrd (fl 7 1 2 255 255 0 0 0 0 0 none)) ∧
    decodeTableWord 64 0xA33FF817FFF80180 = some (.enq (fl 7 255 2 255 255 0 0 3 0 0 none)) := by
  decide

theorem test_decode_rendering :
    decodeTableWord 64 0xA438204067F800C0 = some (.tex (fl 7 4 8 12 255 0 0 1 8 0 none)) ∧
    decodeTableWord 128 0x0000000123456789A4382047F860044C = some (.texC (fl 7 4 8 255 12 0 0 8 9 0 (some 0x123456789))) ∧
    decodeTableWord 128 0x0000000000001000A5382047F8600184 = some (.trace (fl 7 4 8 255 12 0 0 3 0 0 (some 0x1000))) ∧
    decodeTableWord 64 0xA63FF817FFF80000 = some (.doneBit (fl 7 255 2 255 255 0 0 0 0 0 none)) ∧
    decodeTableWord 64 0xA73FF8101FF80000 = some (.tilewait (fl 7 255 2 3 255 0 0 0 0 0 none)) := by
  decide

theorem test_decode_matrix :
    decodeTableWord 64 0xB038104107FCD040 = some (.mma (fl 7 2 8 32 255 9 10 0 8 0 none)) ∧
    decodeTableWord 64 0xB038104100233A40 = some (.mmaExp (fl 7 2 8 32 4 6 7 4 8 0 none)) ∧
    decodeTableWord 64 0xB03838410024B540 = some (.mmaAbs (fl 7 7 8 32 4 9 6 10 8 0 none)) ∧
    decodeTableWord 64 0xB1381FFFFFF80000 = some (.accz (fl 7 3 255 255 255 0 0 0 0 0 none)) ∧
    decodeTableWord 64 0xB238401FFFF80140 = some (.accrd (fl 7 8 3 255 255 0 0 2 8 0 none)) ∧
    decodeTableWord 64 0xB3381847FFF80080 = some (.accwr (fl 7 3 8 255 255 0 0 1 0 0 none)) ∧
    decodeTableWord 64 0xB43FF82640480140 = some (.accst (fl 7 255 4 200 9 0 0 2 8 0 none)) ∧
    decodeTableWord 64 0xB53FFFFFFFF80000 = some (.mwait (fl 7 255 255 255 255 0 0 0 0 0 none)) ∧
    decodeTableWord 64 0xB63FF82028300000 = some (.pload (fl 7 255 4 5 6 0 0 0 0 0 none)) ∧
    decodeTableWord 64 0xB7384080A7F80000 = some (.edge (fl 7 8 16 20 255 0 0 0 0 0 none)) ∧
    decodeTableWord 64 0xB83E0FFFFFF80080 = some (.mstat (fl 7 193 255 255 255 0 0 1 0 0 none)) := by
  decide

/-! ### Every slot instruction from a word packed by hand from the tables of 15 -/

theorem test_decode_scalar_slots :
    decodeScalar 0x00000000 = some .noOperation ∧
    decodeScalar 0x04220180 = some (.kaddReg 1 2 3) ∧
    decodeScalar 0x04638001 = some (.kaddImm 3 3 1) ∧
    decodeScalar 0x08850300 = some (.ksubReg 4 5 6) ∧
    decodeScalar 0x08858FFF = some (.ksubImm 4 5 0xFFF) ∧
    decodeScalar 0x0CE80480 = some (.kmulReg 7 8 9) ∧
    decodeScalar 0x0CE88123 = some (.kmulImm 7 8 0x123) ∧
    decodeScalar 0x12320000 = some (.kmov 17 18) ∧
    decodeScalar 0x1520BEEF = some (.kldi 9 0xBEEF) ∧
    decodeScalar 0x15301234 = some (.kldiHi 9 0x1234) ∧
    decodeScalar 0x184387FC = some (.kld 2 3 0x7FC) ∧
    decodeScalar 0x1C438804 = some (.kst 2 3 0x804) ∧
    decodeScalar 0x20225180 = some (.kcmpReg 1 2 5 3) ∧
    decodeScalar 0x2022A800 = some (.kcmpImm 1 2 2 0x800) ∧
    decodeScalar 0x240003FF = some (.br 1023) ∧
    decodeScalar 0x28061005 = some (.brc 6 1 5) ∧
    decodeScalar 0x2C040009 = some (.loopReg 4 9) ∧
    decodeScalar 0x2FE88200 = some (.loopImm 1000 512) ∧
    decodeScalar 0x30000000 = some .halt ∧
    decodeScalar 0x34003700 = some (.toksendReg 3 14) ∧
    decodeScalar 0x340087FF = some (.toksendImm 0 0x7FF) ∧
    decodeScalar 0x38602000 = some (.tokrecv 3 2) ∧
    decodeScalar 0x3DE00000 = some (.bandchk 15) ∧
    decodeScalar 0x4040800A = some (.lktrd 2 10) ∧
    decodeScalar 0x440C0000 = some (.evt 12) := by
  decide

theorem test_decode_tile_slots :
    decodeTile 0x00000000 = some .noOperation ∧
    decodeTile 0x04A60800 = some (.tadd 1 2 3 0 2 0 0) ∧
    decodeTile 0x08A04300 = some (.tsub 1 2 0 4 0 1 1) ∧
    decodeTile 0x0FEA0E00 = some (.tmul 7 6 5 0 3 1 0) ∧
    decodeTile 0x10A60400 = some (.tmac 1 2 3 0 1 0 0) ∧
    decodeTile 0x14A60400 = some (.tmin 1 2 3 0 1 0) ∧
    decodeTile 0x18A0FD00 = some (.tmax 1 2 0 15 3 1) ∧
    decodeTile 0x1CA60000 = some (.tabsd 1 2 3 0 0 0) ∧
    decodeTile 0x20A60805 = some (.tcmp 1 2 3 0 2 0 5) ∧
    decodeTile 0x24A64000 = some (.tsel 1 2 3 4) ∧
    decodeTile 0x28A006FE = some (.tcvt 1 2 1 1 15 3 2) ∧
    decodeTile 0x2CA00490 = some (.tshift 1 2 1 1 16) ∧
    decodeTile 0x30A60000 = some (.tand 1 2 3 0 0) ∧
    decodeTile 0x34A07100 = some (.tor 1 2 0 7 1) ∧
    decodeTile 0x38A60000 = some (.tlut 1 2 3) ∧
    decodeTile 0x40A0003F = some (.rrot 1 2 0 0 63) ∧
    decodeTile 0x44A09100 = some (.rbc 1 2 9 1 0) ∧
    decodeTile 0x48A00C80 = some (.rred 1 2 3 0 2) ∧
    decodeTile 0x50A0000F = some (.crot 1 2 0 0 15) ∧
    decodeTile 0x54A03100 = some (.cbc 1 2 3 1 0) ∧
    decodeTile 0x58A00200 = some (.cred 1 2 0 1 0) ∧
    decodeTile 0x61C00000 = some (.txmv 3 4) ∧
    decodeTile 0x64A65014 = some (.tgath 1 2 3 5 20) ∧
    decodeTile 0x68600007 = some (.tmatq 6 1 3) ∧
    decodeTile 0x6F800000 = some (.tmatr 7) := by
  decide

theorem test_decode_stream_slots :
    decodeStream 0x00000000 = some .noOperation ∧
    decodeStream 0x1A800000 = some (.sbind 2 20) ∧
    decodeStream 0x24C50000 = some (.srdTile 1 1 4 5) ∧
    decodeStream 0x2DBF0000 = some (.srdWeight 3 2 63) ∧
    decodeStream 0x307F0000 = some (.swrTile 0 0 7 15) ∧
    decodeStream 0x35C00000 = some (.swrStream 1 3) ∧
    decodeStream 0x4C000000 = some (.sflush 3) := by
  decide

/-! ### For each Suric instruction and each slot rule an ill-formed term, which the check refuses -/

theorem test_ill_formed_integer :
    [.iadd (fl 7 1 2 3 255 0 0 2 0 0 none),
      .iaddI (fl 2 5 3 239 255 0 1 0 0 0 none),
      .isub (fl 7 4 5 6 0 1 2 0 2 0 none),
      .imul (fl 7 4 5 6 255 0 0 0 8 0 none),
      .imulI (fl 7 4 5 128 0 14 0 0 1 0 none),
      .imulh (fl 7 7 8 9 255 0 0 0 6 0 none),
      .imad (fl 7 7 8 9 10 0 0 0 9 0 none),
      .imadw (fl 7 12 8 9 14 0 0 0 2 0 none),
      .imin (fl 7 1 2 3 0 0 0 0 5 0 none),
      .imax (fl 7 1 2 3 0 0 0 0 6 0 none),
      .iabsd (fl 7 1 2 3 0 15 0 0 7 0 none)].all (fun i => !WellFormed i) = true := by
  decide

theorem test_ill_formed_logic_and_shifts :
    [.lop3 (fl 7 1 2 3 4 1 0 6 6 0 none),
      .shl (fl 7 1 2 3 255 0 0 0 6 0 none),
      .shlI (fl 7 1 2 31 0 0 0 0 1 0 none),
      .shr (fl 7 1 2 3 0 0 0 0 0 0 none),
      .shrI (fl 7 1 2 200 0 0 0 0 0 0 none),
      .shra (fl 7 1 2 3 0 0 0 0 3 0 none),
      .shraI (fl 7 1 2 4 0 0 0 0 2 0 none),
      .shf (fl 7 1 2 3 4 0 0 3 0 0 none),
      .bfx (fl 7 1 2 3 4 0 0 0 2 0 none),
      .bfxI (fl 7 1 2 7 4 0 1 0 1 0 none),
      .bfi (fl 7 1 2 3 4 0 0 1 1 0 none),
      .popc (fl 7 1 2 255 0 0 0 0 1 0 none),
      .clz (fl 7 1 2 255 0 0 0 0 1 0 none),
      .brev (fl 7 1 2 255 0 0 0 0 1 0 none),
      .prmt (fl 7 1 2 3 4 0 0 0 0 0 none)].all (fun i => !WellFormed i) = true := by
  decide

theorem test_ill_formed_compares_and_moves :
    [.iset (fl 7 16 2 3 255 0 0 2 0 0 none),
      .isetI (fl 7 3 2 240 255 0 0 6 0 0 none),
      .isel (fl 7 1 2 3 32 0 0 0 1 0 none),
      .lea (fl 7 4 6 8 0 0 0 5 0 0 none),
      .mov (fl 7 1 2 255 0 3 0 0 0 0 none),
      .movl (fl 7 1 255 255 255 0 0 0 1 0 (some 0x100000000)),
      .rdsr (fl 7 1 255 9 255 0 0 0 1 0 none),
      .p2v (fl 7 1 255 255 0 0 0 1 0 0 none),
      .v2p (fl 7 255 2 3 255 0 0 2 0 0 none),
      .plop (fl 7 16 19 12 1 0 0 9 6 0 none)].all (fun i => !WellFormed i) = true := by
  decide

theorem test_ill_formed_control :
    [.bra (fl 7 0 255 255 254 0 0 0 0 0 none),
      .brx (fl 7 255 4 255 0 0 0 0 0 0 none),
      .call (fl 7 6 0 1 2 0 0 1 0 0 none),
      .ret (fl 7 255 6 255 0 0 0 0 0 0 none),
      .exit (fl 7 255 255 255 0 0 0 0 0 0 none),
      .deferG (fl 7 255 0 0 64 8 4 0 0 0 none),
      .deferF (fl 7 255 1 2 3 2 5 1 0 0 none),
      .clasp (fl 23 255 255 255 255 0 0 0 0 0 none),
      .unclasp (fl 31 255 255 255 255 0 0 0 0 0 none),
      .nop (fl 7 255 255 255 255 0 0 0 0 3 none),
      .yield (fl 15 255 255 255 255 0 0 0 0 2 none),
      .launch (fl 7 1 2 255 255 0 0 1 0 0 none),
      .launchi (fl 7 1 2 4 0 0 0 0 0 0 none),
      .cwait (fl 7 255 255 255 0 0 0 0 0 0 none)].all (fun i => !WellFormed i) = true := by
  decide

theorem test_ill_formed_system :
    [.trap (fl 7 255 255 42 0 0 0 0 0 0 none),
      .tret (fl 7 255 255 255 0 0 0 0 0 0 none),
      .trd (fl 7 193 255 3 0 0 0 0 0 0 none),
      .twr (fl 7 255 194 4 0 0 0 0 0 0 none),
      .bpt (fl 7 255 255 200 0 0 0 0 0 0 none)].all (fun i => !WellFormed i) = true := by
  decide

theorem test_ill_formed_float :
    [.fadd (fl 7 1 2 3 0 1 2 0 8 0 none),
      .fmul (fl 7 1 2 3 0 5 0 0 9 0 none),
      .ffma (fl 7 10 2 3 4 0 1 3 11 0 none),
      .fmin (fl 7 1 2 3 255 0 0 2 10 0 none),
      .fmax (fl 7 2 4 6 255 0 0 0 4 0 none),
      .fset (fl 7 26 2 3 255 0 0 13 8 0 none),
      .frnd (fl 7 1 2 255 0 0 0 3 8 0 none),
      .fclass (fl 7 2 2 3 255 0 0 1 8 0 none),
      .fscale (fl 7 1 2 3 0 0 0 0 8 0 none),
      .dadd (fl 7 2 4 6 255 0 0 8 14 0 none),
      .dmul (fl 7 2 4 6 0 0 0 2 14 0 none),
      .dfma (fl 7 2 4 6 8 3 0 0 8 0 none),
      .dset (fl 7 1 4 6 0 0 0 3 14 0 none)].all (fun i => !WellFormed i) = true := by
  decide

theorem test_ill_formed_conversions_and_special_functions :
    [.f2f (fl 7 2 4 9 255 0 0 2 8 0 none),
      .f2i (fl 7 1 2 8 255 0 0 4 0 0 none),
      .i2f (fl 7 1 2 4 255 0 0 0 8 0 none),
      .fpack (fl 7 1 4 8 255 0 0 0 8 0 none),
      .funpk (fl 7 4 1 9 255 0 0 1 8 0 none),
      .mxexp (fl 7 1 2 13 0 0 0 0 8 0 none),
      .rcp (fl 7 1 2 255 255 0 0 1 8 0 none),
      .rsq (fl 7 1 2 255 0 0 0 4 8 0 none),
      .sqrt (fl 7 1 2 255 255 0 0 8 9 0 none),
      .ex2 (fl 7 1 2 255 0 0 0 0 10 0 none),
      .lg2 (fl 7 1 2 255 0 0 0 0 8 0 none),
      .sincos (fl 7 2 4 255 0 0 0 0 8 0 none),
      .tanh (fl 7 1 2 255 255 1 0 1 8 0 none)].all (fun i => !WellFormed i) = true := by
  decide

theorem test_ill_formed_cross_lane :
    [.fil (fl 7 1 2 3 255 0 0 8 0 0 none),
      .filt (fl 7 255 196 255 0 0 0 2 0 0 none),
      .shfl (fl 7 1 2 3 0 0 0 3 2 0 none),
      .vote (fl 7 193 32 255 255 0 0 2 0 0 none),
      .redux (fl 7 193 2 255 255 0 0 1 8 0 none),
      .scanx (fl 7 1 2 255 255 0 0 6 0 0 none),
      .matchLanes (fl 7 1 2 255 255 0 0 3 1 0 none),
      .lrd (fl 7 193 2 3 0 0 0 0 0 0 none),
      .lwr (fl 7 2 193 255 0 0 0 0 0 0 (some 0x1F))].all (fun i => !WellFormed i) = true := by
  decide

theorem test_ill_formed_memory :
    [.ld (fl 7 8 4 6 16 6 0 9 4 0 none),
      .st (fl 7 3 20 255 2 10 0 0 1 0 none),
      .ldc (fl 7 4 200 255 255 1 0 0 6 0 none),
      .ldsp (fl 7 4 200 7 0 0 0 2 7 0 none),
      .stsp (fl 7 4 200 8 3 0 0 7 3 0 none),
      .ldq (fl 7 4 6 255 0 4 0 0 4 0 none),
      .stq (fl 7 4 6 255 0 3 0 0 0 0 none),
      .pref (fl 7 255 4 255 1 0 0 0 1 0 none),
      .cctl (fl 7 255 4 255 1 0 0 0 3 0 none),
      .promote (fl 7 196 198 200 3 0 0 4 0 0 none),
      .demote (fl 7 196 198 200 3 0 0 1 0 0 none)].all (fun i => !WellFormed i) = true := by
  decide

theorem test_ill_formed_atomics :
    [.atom (fl 7 1 4 6 255 11 1 3 8 0 none),
      .atomc (fl 7 1 4 6 7 0 0 0 0 0 none),
      .red (fl 7 255 4 6 255 8 0 6 0 0 (some 0xFFFFFFFFFFFFFFF0)),
      .atomsp (fl 7 1 200 6 7 0 0 9 8 0 none),
      .ldr (fl 7 8 4 255 0 5 0 0 6 0 none),
      .stc (fl 7 1 4 6 255 1 0 0 15 0 none)].all (fun i => !WellFormed i) = true := by
  decide

theorem test_ill_formed_synchronisation :
    [.fence (fl 7 255 255 0 0 0 0 0 0 0 none),
      .fencex (fl 7 255 255 1 4 12 0 0 0 0 none),
      .barGrp (fl 7 255 255 0 0 0 0 0 0 0 none),
      .barMeet (fl 7 255 2 0 0 0 0 1 0 0 none),
      .barPost (fl 7 193 2 255 1 0 0 2 0 0 none),
      .barAwait (fl 7 1 2 3 0 0 0 3 0 0 none),
      .barxMeet (fl 7 0 2 3 0 0 0 0 0 0 none),
      .barxPost (fl 7 193 2 3 0 1 0 1 0 0 none),
      .qbarMeet (fl 7 0 4 3 0 0 0 0 0 0 none),
      .qbarPost (fl 7 193 4 3 0 0 0 2 0 0 none),
      .semadd (fl 7 1 2 3 255 0 0 0 2 0 none),
      .semwait (fl 7 1 2 3 0 0 0 0 0 0 none),
      .semrd (fl 7 1 2 255 0 0 0 0 0 0 none),
      .enq (fl 7 255 2 255 255 0 0 4 0 0 none)].all (fun i => !WellFormed i) = true := by
  decide

theorem test_ill_formed_rendering :
    [.tex (fl 7 4 8 12 255 0 0 3 8 0 none),
      .texC (fl 7 4 8 255 12 0 0 8 9 0 none),
      .trace (fl 7 4 8 0 12 0 0 3 0 0 (some 0x1000)),
      .doneBit (fl 7 255 2 255 0 0 0 0 0 0 none),
      .tilewait (fl 7 255 2 3 0 0 0 0 0 0 none)].all (fun i => !WellFormed i) = true := by
  decide

theorem test_ill_formed_matrix :
    [.mma (fl 7 8 8 32 255 9 10 0 8 0 none),
      .mmaExp (fl 7 2 8 32 4 6 7 5 8 0 none),
      .mmaAbs (fl 7 7 8 32 4 9 6 10 0 0 none),
      .accz (fl 7 3 255 255 255 0 0 0 1 0 none),
      .accrd (fl 7 8 8 255 255 0 0 2 8 0 none),
      .accwr (fl 7 8 8 255 255 0 0 1 0 0 none),
      .accst (fl 7 255 4 200 9 0 0 3 8 0 none),
      .mwait (fl 7 255 255 255 0 0 0 0 0 0 none),
      .pload (fl 7 255 4 5 6 0 0 0 1 0 none),
      .edge (fl 7 8 16 20 0 0 0 0 0 0 none),
      .mstat (fl 7 193 255 255 255 0 0 2 0 0 none)].all (fun i => !WellFormed i) = true := by
  decide

theorem test_ill_formed_slots :
    [.kcmpReg 1 2 6 3,
      .kcmpImm 1 2 7 0,
      .brc 1 2 0,
      .lktrd 1 11,
      .lktrd 1 0xFFF,
      .tadd 1 2 3 1 0 0 0,
      .tsub 1 2 3 1 0 0 1,
      .tmul 1 2 0 16 0 0 1,
      .tmac 1 2 3 4 0 0 0,
      .tmin 1 2 3 1 0 0,
      .tmax 1 2 3 1 0 0,
      .tabsd 1 2 1 0 0 1,
      .tcmp 1 2 3 0 0 0 6,
      .tcvt 1 2 0 0 1 0 1,
      .tcvt 1 2 0 0 0 1 1,
      .tcvt 1 2 2 1 0 0 0,
      .tcvt 1 2 2 0 1 0 3,
      .tshift 1 2 2 0 0,
      .tshift 1 2 0 0 17,
      .tand 1 2 3 1 0,
      .tor 1 2 3 1 1,
      .rrot 1 2 1 0 5,
      .rbc 1 2 1 1 5,
      .crot 1 2 16 1 0,
      .cbc 1 2 1 0 0,
      .rred 1 2 0 0 3,
      .rred 1 2 0 1 1,
      .cred 1 2 0 1 2,
      .tgath 1 2 3 0 21,
      .tgath 1 2 3 16 0].all (fun i => !WellFormed i) = true := by
  decide

/-! ### Small states -/

/-- A live thread at address 64. -/
def thread (l : Nat) : Lane := { probeLane with pc := 64, tx := l }

/-- Two threads of a group, with a handler at 0x1000; some vector and uniform registers. -/
def warp2 : Warp := { probeWarp with
  lanes := [(0, thread 0), (1, thread 1)], tba := 0x1000
  vr := [(1, 7), (2, 0x3F800000), (3, 5), (257, 8), (258, 0x40000000), (259, 6)], sr := [(1, 3), (2, 4)] }

/-- Core 0 with one warp and its group; the lanes of `mask` issue an instruction of `len` bytes at address 64. -/
def issuing (w : Warp) (g : Group) (mask : Word) (len : Nat) : State :=
  { setCore State.reset 0 { Core.init with warps := [(0, w)], groups := [(0, g)] } with cur := .warp 0 0 mask 64 0 len }

/-- That issue. -/
def iss (mask : Word) (len : Nat) : Iss := { core := 0, wslot := 0, mask := mask, pc := 64, word := 0, len := len }

theorem issues {s : State} {x : Iss} {op : Nat} {f : Fields}
    (h : issOf s = some x ∧ (warpAt? s x.core x.wslot).isSome = true ∧
      ((x.warp s).hmode = false ∨ handlerAllows op f = true) ∧ operandsOk (x.warp s) op f = true) : Issues s x op f :=
  ⟨h.1, h.2.1, h.2.2.1, h.2.2.2⟩

/-- An access gave this value. -/
def gave {α : Type} [DecidableEq α] (r : Except AccErr α) (v : α) : Bool :=
  match r with
  | .ok u => decide (u = v)
  | .error _ => false

theorem of_gave {α : Type} [DecidableEq α] {r : Except AccErr α} {v : α} (h : gave r v = true) : r = .ok v := by
  cases r with
  | ok u => simpa [gave] using h
  | error e => cases h

/-- It left some state. -/
theorem accessed {α : Type} [DecidableEq α] {r : Except AccErr α × State} {v : α} (h : gave r.1 v = true) :
    ∃ t, r = (.ok v, t) := ⟨r.2, Prod.ext (of_gave h) rfl⟩

theorem accessedWith {α : Type} [DecidableEq α] {r : Except AccErr α × State} {v : α} {P : State → Prop}
    (h : gave r.1 v = true) (k : P r.2) : ∃ t, r = (.ok v, t) ∧ P t := ⟨r.2, Prod.ext (of_gave h) rfl, k⟩

theorem accessed_twice {α β : Type} [DecidableEq α] [DecidableEq β] {r : Except AccErr α × State} {v : α}
    {g : State → Except AccErr β × State} {u : β} (h : gave r.1 v = true) (k : gave (g r.2).1 u = true) :
    ∃ t w, r = (.ok v, t) ∧ g t = (.ok u, w) := ⟨r.2, (g r.2).2, Prod.ext (of_gave h) rfl, Prod.ext (of_gave k) rfl⟩

theorem accessed_twiceWith {α β : Type} [DecidableEq α] [DecidableEq β] {r : Except AccErr α × State} {v : α}
    {g : State → Except AccErr β × State} {u : β} {P : State → Prop} (h : gave r.1 v = true) (k : gave (g r.2).1 u = true)
    (p : P (g r.2).2) : ∃ t w, r = (.ok v, t) ∧ g t = (.ok u, w) ∧ P w :=
  ⟨r.2, (g r.2).2, Prod.ext (of_gave h) rfl, Prod.ext (of_gave k) rfl, p⟩

/-- Both threads, an instruction of 8 bytes. -/
def s8 : State := issuing warp2 probeGroup 3 8
def x8 : Iss := iss 3 8

/-- `s` with block `vb` of partition 0, stored raw, at its home slice 0: readable, writable, executable. -/
def withBlock (s : State) (vb : Nat) (bytes : List Byte) : State :=
  { s with
    root := { s.root with slctl := [(0, 1)] }
    l2 := put s.l2 (l2Key 0 vb) [{
      pid := 0, atag := 0, vb := vb, pa := vb, blk := ⟨15, bytes⟩, sp := [], lv := 3, dirty := false, rd := true, wr := true,
      ex := true, comp := false, pol := 0, gen := 0, win := false }] }

/-- 128 bytes that begin with these. -/
def blockOf (bs : List Byte) : List Byte := bs ++ List.replicate (128 - bs.length) 0

/-- A line of a core-side cache of partition 0, ASID 0. -/
def lineOfBlock (vb : Nat) (bytes : List Byte) : CLine :=
  { pid := 0, atag := 0, line := vb, sv := 3, rd := true, wr := true, ex := true, bytes := bytes }

/-! ### Witnesses: instructions of one lane at a time, collectives, control flow -/

/-- IADD v1, v2, v3, and s1, s2, s3 as a uniform form. -/
def fAdd : Fields := fl 7 1 2 3 255 0 0 0 0 0 none
def fAddS : Fields := fl 7 193 194 195 255 0 0 0 0 0 none

theorem witness_integer :
    (WellFormed (.iadd fAdd) = true ∧ intForm x8 s8 (.iadd fAdd) = some ⟨1, fAdd, arithLane opAdd false fAdd⟩ ∧
      Issues s8 x8 1 fAdd ∧ uniformForm 1 fAdd = false) ∧
    (WellFormed (.iadd fAddS) = true ∧ intForm x8 s8 (.iadd fAddS) = some ⟨1, fAddS, arithLane opAdd false fAddS⟩ ∧
      Issues s8 x8 1 fAddS ∧ uniformForm 1 fAddS = true) :=
  ⟨⟨by decide, rfl, issues (by decide), by decide⟩, by decide, rfl, issues (by decide), by decide⟩

/-- FADD.f32 v1, v2, v2: 1 + 1 and 2 + 2. -/
def fFadd : Fields := fl 7 1 2 2 255 0 0 0 8 0 none

theorem witness_float :
    WellFormed (.fadd fFadd) = true ∧ fltForm x8 (.fadd fFadd) = some ⟨80, fFadd, fltArithLane .add fFadd⟩ ∧
      Issues s8 x8 80 fFadd ∧ raised (performers 80 fFadd x8 (x8.warp s8)) (fltArithLane .add fFadd (x8.warp s8)) = 0#5 :=
  ⟨by decide, rfl, issues (by decide), by decide⟩

/-- RCP v1, v4 of v4 = 0 raises DZ. -/
def fRcp : Fields := fl 7 1 4 255 255 0 0 0 8 0 none
def fRcpS : Fields := fl 7 193 196 255 255 0 0 0 8 0 none
/-- The same with DZ enabled in tr.tem. -/
def sDz : State := issuing { warp2 with tem := 31 } probeGroup 3 8

theorem witness_flags_logged :
    WellFormed (.rcp fRcp) = true ∧
      fltForm x8 (.rcp fRcp) = some ⟨104, fRcp, fun w l => fltResult fRcp.d fRcp.t.toNat (specialElems .rcp 0 fRcp x8 w l)⟩ ∧
      Issues s8 x8 104 fRcp ∧
      raised (performers 104 fRcp x8 (x8.warp s8)) (fun l => fltResult fRcp.d fRcp.t.toNat (specialElems .rcp 0 fRcp x8 (x8.warp s8) l)) ≠ 0#5 ∧
      enabledFlags (x8.warp s8) = 0#5 ∧ (x8.warp s8).imp = none :=
  ⟨by decide, rfl, issues (by decide), by decide, by decide, rfl⟩

theorem witness_flags_trap :
    Issues sDz x8 104 fRcp ∧ uniformForm 104 fRcp = false ∧ HandlerReady (x8.warp sDz) ∧
      (guarded (x8.warp sDz) x8.mask fRcp.g).filter (fun l =>
        (fltResult fRcp.d fRcp.t.toNat (specialElems .rcp 0 fRcp x8 (x8.warp sDz) l)).all &&& enabledFlags (x8.warp sDz) != 0#5) ≠ [] ∧
      raised (guarded (x8.warp sDz) x8.mask fRcp.g) (fun l => fltResult fRcp.d fRcp.t.toNat (specialElems .rcp 0 fRcp x8 (x8.warp sDz) l)) &&&
        ~~~enabledFlags (x8.warp sDz) = 0#5 :=
  ⟨issues (by decide), by decide, by unfold HandlerReady; decide, by decide, by decide⟩

theorem witness_flags_trap_uniform :
    Issues sDz x8 104 fRcpS ∧ uniformForm 104 fRcpS = true ∧ HandlerReady (x8.warp sDz) ∧ guardUni (x8.warp sDz) fRcpS.g = true ∧
      (fltResult fRcpS.d fRcpS.t.toNat (specialElems .rcp 0 fRcpS x8 (x8.warp sDz) x8.lane0)).all &&& enabledFlags (x8.warp sDz) ≠ 0#5 ∧
      (fltResult fRcpS.d fRcpS.t.toNat (specialElems .rcp 0 fRcpS x8 (x8.warp sDz) x8.lane0)).all &&& ~~~enabledFlags (x8.warp sDz) = 0#5 :=
  ⟨issues (by decide), by decide, by unfold HandlerReady; decide, by decide, by decide, by decide⟩

/-- VOTE.ballot of p7 to s1; REDUX.add of v1 to s1. -/
def fVote : Fields := fl 7 193 0x07 255 255 0 0 2 0 0 none

theorem witness_collectives :
    WellFormed (.vote fVote) = true ∧ Issues s8 x8 115 fVote ∧ (collForm (.vote fVote)).isSome = true ∧
      collSets (x8.warp s8) x8 fVote = some ([0, 1], [0, 1]) :=
  ⟨by decide, issues (by decide), rfl, by decide⟩

/-- LRD s1, v2, lane s1 = 3, and LWR v2, s1 to lane 31, which holds no thread. -/
def fLrd : Fields := fl 7 193 2 193 255 0 0 0 0 0 none
def fLwr : Fields := fl 7 2 193 255 255 0 0 0 0 0 (some 31)

theorem witness_single_lane :
    (WellFormed (.lrd fLrd) = true ∧ Issues s8 x8 119 fLrd ∧ guardUni (x8.warp s8) fLrd.g = true) ∧
    (WellFormed (.lwr fLwr) = true ∧ Issues (issuing warp2 probeGroup 3 16) (iss 3 16) 120 fLwr ∧
      guardUni ((iss 3 16).warp (issuing warp2 probeGroup 3 16)) fLwr.g = true ∧
      clasped ((iss 3 16).warp (issuing warp2 probeGroup 3 16)) = false) :=
  ⟨⟨by decide, issues (by decide), by decide⟩, by decide, issues (by decide), by decide, by decide⟩

/-- BRA to itself, BRX by v4, CALL with link pair v6, RET. -/
def fBra : Fields := fl 7 255 0 0 0 0 0 0 0 0 none
def fBrx : Fields := fl 7 255 4 255 255 0 0 0 0 0 none
def fBrxS : Fields := fl 7 255 196 255 255 0 0 0 0 0 none
def fCall : Fields := fl 7 6 0 0 2 0 0 0 0 0 none
/-- A warp in its handler. -/
def sHm : State := issuing { warp2 with hmode := true, hpc := 64 } probeGroup 0 8

theorem witness_branches :
    (Issues s8 x8 48 fBra ∧ Issues s8 x8 49 fBrx ∧ Issues s8 x8 51 fBrx ∧ (x8.warp s8).hmode = false ∧ clasped (x8.warp s8) = false) ∧
    (Issues sHm (iss 0 8) 48 fBra ∧ Issues sHm (iss 0 8) 49 fBrxS ∧ Issues sHm (iss 0 8) 51 fBrxS ∧ ((iss 0 8).warp sHm).hmode = true) ∧
    (Issues s8 x8 50 fCall ∧ x8.len = 8) :=
  ⟨⟨issues (by decide), issues (by decide), issues (by decide), by decide, by decide⟩,
   ⟨issues (by decide), issues (by decide), issues (by decide), by decide⟩, issues (by decide), rfl⟩

/-- A clasp region with lane 0 as its writer mask. -/
def sClasp : State := issuing { warp2 with clOpen := true, cmask := 1, rec_ := { probeRec with cont := 2 } } probeGroup 3 8
/-- Bare fields; with a false guard, !p7; DEFER of two words; of one more than there are. -/
def fBare : Fields := fl 7 255 255 255 255 0 0 0 0 0 none
def fNever : Fields := fl 8 255 255 255 255 0 0 0 0 0 none
def fDefer : Fields := fl 7 255 0 0 0 0 8 0 0 0 none

theorem witness_clasp_traps :
    (∀ op f, (op, f) ∈ [(48, fBra), (50, fCall), (49, fBrx), (51, fBrx), (52, fBare), (53, fDefer)] → Issues sClasp x8 op f ∧
      guarded (x8.warp sClasp) x8.mask f.g ≠ []) ∧ clasped (x8.warp sClasp) = true ∧ HandlerReady (x8.warp sClasp) ∧
    branchTarget x8.pc fBra ≠ x8.pc + BitVec.ofNat 57 x8.len ∧ branchTarget x8.pc fCall ≠ x8.pc + 8#57 ∧
    pairTarget (rread2 (x8.warp sClasp) 0 fBrx.a.toNat) ≠ x8.pc + BitVec.ofNat 57 x8.len ∧
    (x8.warp sClasp).gslot.isSome = true ∧ deferWords fDefer ≤ (x8.warp sClasp).rec_.cont ∧
    deferWords fDefer ≤ (x8.warp sClasp).rec_.regs := by
  refine ⟨?_, by decide, by unfold HandlerReady; decide, by decide, by decide, by decide, by decide, by decide, by decide⟩
  intro op f h
  simp only [List.mem_cons, Prod.mk.injEq, List.not_mem_nil, or_false] at h
  rcases h with ⟨rfl, rfl⟩ | ⟨rfl, rfl⟩ | ⟨rfl, rfl⟩ | ⟨rfl, rfl⟩ | ⟨rfl, rfl⟩ | ⟨rfl, rfl⟩ <;>
    exact ⟨issues (by decide), by decide⟩

theorem witness_clasp_steps :
    (Issues s8 x8 54 fBare ∧ guardUni (x8.warp s8) fBare.g = true ∧ (x8.warp s8).clOpen = false) ∧
    (Issues sClasp x8 55 fBare ∧ guardUni (x8.warp sClasp) fBare.g = true ∧ (x8.warp sClasp).clOpen = true) ∧
    (guardUni (x8.warp s8) fNever.g = false ∧ Issues s8 x8 54 fNever ∧ Issues s8 x8 55 fNever ∧ Issues s8 x8 56 fBare) ∧
    Issues s8 x8 57 fBare :=
  ⟨⟨issues (by decide), by decide, by decide⟩, ⟨issues (by decide), by decide, by decide⟩,
   ⟨by decide, issues (by decide), issues (by decide), issues (by decide)⟩, issues (by decide)⟩

/-- Lane 0 alone, and both lanes, end. -/
def s1 : State := issuing warp2 probeGroup 1 8
def x1 : Iss := iss 1 8

theorem witness_exit :
    (Issues s1 x1 52 fBare ∧ clasped (x1.warp s1) = false ∧
      laneMask (fun l => (guarded (x1.warp s1) x1.mask fBare.g).contains l) = 1#32 ∧ NoWarpEnds s1 x1 1 ∧ NoBarrierWaits s1 x1) ∧
    (Issues s8 x8 52 fBare ∧ clasped (x8.warp s8) = false ∧
      laneMask (fun l => (guarded (x8.warp s8) x8.mask fBare.g).contains l) = 3#32 ∧ liveMask (x8.warp s8) &&& ~~~3#32 = 0#32 ∧
      warpQuiet (coreOf s8 x8.core) x8.wslot (x8.warp s8) = true ∧ (x8.warp s8).saving = none ∧ NoBarrierWaits s8 x8 ∧
      (x8.warp s8).gslot = some 0 ∧ groupAt s8 0 0 = some probeGroup ∧ (∀ k ∈ groupWarps (coreOf s8 0) 0, k = x8.wslot)) ∧
    (let s := issuing { warp2 with gslot := none } probeGroup 3 8
     Issues s x8 52 fBare ∧ (x8.warp s).gslot = none ∧ warpQuiet (coreOf s x8.core) x8.wslot (x8.warp s) = true ∧
       NoBarrierWaits s x8) := by
  refine ⟨⟨issues (by decide), by decide, by decide, by unfold NoWarpEnds; decide, ?_⟩,
    ⟨issues (by decide), by decide, by decide, by decide, by decide, by decide, ?_, rfl, rfl, by decide⟩,
    issues (by decide), rfl, by decide, ?_⟩ <;> intro g y hg hy
  · cases hg; cases hy; rfl
  · cases hg; cases hy; rfl
  · cases hg

/-- A thread may leave up to two words. -/
def sDefer : State := issuing { warp2 with rec_ := { probeRec with cont := 2 } } probeGroup 1 8

theorem witness_defer :
    Issues sDefer x1 53 fDefer ∧ clasped (x1.warp sDefer) = false ∧ deferWords fDefer = (x1.warp sDefer).rec_.cont ∧
      deferWords fDefer ≤ (x1.warp sDefer).rec_.regs ∧ NoWarpEnds sDefer x1 1 ∧ NoBarrierWaits sDefer x1 ∧
      (x1.warp sDefer).gslot.isSome = true ∧
      laneMask (fun l => (guarded (x1.warp sDefer) x1.mask fDefer.g).contains l) = 1#32 ∧
      (coreOf sDefer x1.core).contq.length + (guarded (x1.warp sDefer) x1.mask fDefer.g).length ≤ contQueueSize := by
  refine ⟨issues (by decide), by decide, by decide, by decide, by unfold NoWarpEnds; decide, ?_, by decide, by decide, by decide⟩
  intro g y hg hy; cases hg; cases hy; rfl
/-! ### Witnesses: child grids, traps, handlers -/

/-- A launch record of one group of one thread with 8 registers. -/
def recBytes : List Byte := blockOf (toBytes 8 0x1000 ++ toBytes 8 (2 ^ 32 + 1) ++ toBytes 8 (2 ^ 32) ++ toBytes 8 (8 * 2 ^ 56 + 2 ^ 33))
/-- Lane 0 launches from the record at 0x400; the counts of LAUNCHI at 0x480. -/
def wLaunch : Warp := { warp2 with vr := [(2, 0x480), (4, 0x400), (258, 0x480), (260, 0x404)] }
def sLaunch : State := withBlock (withBlock (issuing wLaunch probeGroup 1 8) 8 recBytes) 9 (blockOf [1])
def fLaunch : Fields := fl 7 1 4 255 255 0 0 0 0 0 none
def fLaunchi : Fields := fl 7 1 4 2 255 0 0 0 0 0 none

theorem witness_launch :
    Issues sLaunch x1 58 fLaunch ∧ actors 58 fLaunch x1 (x1.warp sLaunch) = [0] ∧ Leads (x1.warp sLaunch) 0 ∧
      (x1.warp sLaunch).gslot = some 0 ∧ groupAt sLaunch 0 0 = some probeGroup ∧ (x1.warp sLaunch).sysDepth ≠ 10 ∧
      rread2 (x1.warp sLaunch) 0 fLaunch.a.toNat % 128 = 0 ∧ releaseReady sLaunch 0 0 (laneMask (· == 0)) 3 = true ∧
      (∃ t, readN sLaunch (warpWho x1.core (x1.warp sLaunch)) (BitVec.ofNat 57 (rread2 (x1.warp sLaunch) 0 fLaunch.a.toNat)) 128 =
        (.ok recBytes, t)) ∧
      recordOk recBytes true = true ∧ countsOk (parseRecord recBytes) = true ∧
      (partOf sLaunch (x1.warp sLaunch).part).childq.length < 4096 :=
  ⟨issues (by decide), by decide, ⟨thread 0, rfl, rfl, rfl, rfl⟩, rfl, rfl, by decide, by decide, by decide,
   accessed (by decide +kernel), by decide, by decide, by decide⟩

/-- A read that succeeds, then counts that no fault stands before. -/
theorem readThenCounts {α β : Type} [DecidableEq α] {r : Except AccErr α × State} {v : α} {g : State → Option β × State}
    (h : gave r.1 v = true) (k : (g r.2).1.isNone = true) : ∃ t u, r = (.ok v, t) ∧ g t = (none, u) :=
  ⟨r.2, (g r.2).2, Prod.ext (of_gave h) rfl, Prod.ext (Option.isNone_iff_eq_none.mp k) rfl⟩

theorem witness_launchi :
    Issues sLaunch x1 59 fLaunchi ∧ actors 59 fLaunchi x1 (x1.warp sLaunch) = [0] ∧ rawB (x1.warp sLaunch) 0 fLaunchi 2 % 4 = 0 ∧
      ∃ t u, readN sLaunch (warpWho x1.core (x1.warp sLaunch)) (BitVec.ofNat 57 (rread2 (x1.warp sLaunch) 0 fLaunchi.a.toNat)) 128 =
        (.ok recBytes, t) ∧
      countFault (warpWho x1.core (x1.warp sLaunch)) (BitVec.ofNat 57 (rawB (x1.warp sLaunch) 0 fLaunchi 2)) 3 t = (none, u) :=
  ⟨issues (by decide), by decide, by decide,
   readThenCounts (g := countFault (warpWho x1.core (x1.warp sLaunch)) (BitVec.ofNat 57 (rawB (x1.warp sLaunch) 0 fLaunchi 2)) 3)
     (by decide +kernel) (by decide +kernel)⟩

/-- Statuses 1 (a thread that does not lead), 2 (depth 10), 3 (an address that is no multiple of 128; a record of zeros). -/
theorem witness_launch_refused :
    (let s := issuing wLaunch probeGroup 2 8
     Issues s (iss 2 8) 58 fLaunch ∧ actors 58 fLaunch (iss 2 8) ((iss 2 8).warp s) = [1] ∧ ¬ Leads ((iss 2 8).warp s) 1) ∧
    (let s := issuing { wLaunch with sysDepth := 10 } probeGroup 1 8
     Issues s x1 59 fLaunchi ∧ actors 59 fLaunchi x1 (x1.warp s) = [0] ∧ Leads (x1.warp s) 0 ∧ (x1.warp s).sysDepth = 10) ∧
    (let s := issuing { wLaunch with vr := [(2, 2), (4, 64)] } probeGroup 1 8
     Issues s x1 58 fLaunch ∧ Leads (x1.warp s) 0 ∧ rread2 (x1.warp s) 0 fLaunch.a.toNat % 128 ≠ 0 ∧
       Issues s x1 59 fLaunchi ∧ rawB (x1.warp s) 0 fLaunchi 2 % 4 ≠ 0) ∧
    (let s := withBlock (issuing wLaunch probeGroup 1 8) 8 zeroBlock
     Issues s x1 58 fLaunch ∧ releaseReady s 0 0 (laneMask (· == 0)) 3 = true ∧ recordOk zeroBlock true = false ∧
       ∃ t, readN s (warpWho x1.core (x1.warp s)) (BitVec.ofNat 57 (rread2 (x1.warp s) 0 fLaunch.a.toNat)) 128 = (.ok zeroBlock, t)) := by
  refine ⟨⟨issues (by decide), by decide, ?_⟩, ⟨issues (by decide), by decide, ⟨thread 0, rfl, rfl, rfl, rfl⟩, rfl⟩,
    ⟨issues (by decide), ⟨thread 0, rfl, rfl, rfl, rfl⟩, by decide, issues (by decide), by decide⟩,
    issues (by decide), by decide, by decide, accessed (by decide +kernel)⟩
  rintro ⟨t, ht, h, -⟩; cases ht; cases h

/-- No child, and a child launched before. -/
theorem witness_cwait :
    (Issues s8 x8 60 fBare ∧ guarded (x8.warp s8) x8.mask fBare.g ≠ [] ∧ groupChildren s8 0 (x8.warp s8) = []) ∧
    (let s := { issuing warp2 { probeGroup with children := [4] } 3 8 with nextId := 5 }
     Issues s x8 60 fBare ∧ ∀ l ∈ guarded (x8.warp s) x8.mask fBare.g, ∃ k ∈ groupChildren s 0 (x8.warp s), k < cwaitBound s (x8.warp s) l) :=
  ⟨⟨issues (by decide), by decide, by decide⟩, issues (by decide), by decide⟩

def fTrap : Fields := fl 7 255 255 42 255 0 0 0 0 0 none
def fTrd : Fields := fl 7 192 255 8 255 0 0 0 0 0 none
def fTwr : Fields := fl 7 255 194 8 255 0 0 0 0 0 none

theorem witness_trap : Issues s8 x8 64 fTrap ∧ guarded (x8.warp s8) x8.mask fTrap.g ≠ [] ∧ HandlerReady (x8.warp s8) :=
  ⟨issues (by decide), by decide, by unfold HandlerReady; decide⟩

theorem witness_tret :
    Issues sHm (iss 0 8) 65 fBare ∧ ((iss 0 8).warp sHm).hmode = true ∧ handlerGuard ((iss 0 8).warp sHm) fBare.g = true :=
  ⟨issues (by decide), rfl, by decide⟩

theorem witness_trap_registers :
    (Issues sHm (iss 0 8) 66 fTrd ∧ fTrd.b.toNat < 9 ∧ guardUni ((iss 0 8).warp sHm) fTrd.g = true) ∧
    (Issues sHm (iss 0 8) 67 fTwr ∧ fTwr.b.toNat < 9 ∧ guardUni ((iss 0 8).warp sHm) fTwr.g = true) :=
  ⟨⟨issues (by decide), by decide, by decide⟩, issues (by decide), by decide, by decide⟩

theorem witness_bpt :
    (Issues s8 x8 68 fTrap ∧ (x8.warp s8).hmode = false ∧ guarded (x8.warp s8) x8.mask fTrap.g ≠ []) ∧
    (Issues sHm (iss 0 8) 68 fTrap ∧ ((iss 0 8).warp sHm).hmode = true ∧ handlerGuard ((iss 0 8).warp sHm) fTrap.g = true) :=
  ⟨⟨issues (by decide), rfl, by decide⟩, issues (by decide), rfl, by decide⟩

/-- EXIT in a handler. -/
theorem witness_handlers :
    suricOf (.exit fBare) = some (52, .r, fBare) ∧ issOf sHm = some (iss 0 8) ∧ (warpAt? sHm 0 0).isSome = true ∧
      ((iss 0 8).warp sHm).hmode = true ∧ handlerAllows 52 fBare = false :=
  ⟨rfl, by decide, by decide, rfl, by decide⟩

/-- DADD of an odd register number, with a handler, without one, and in one (uniform operands). -/
def fOdd : Fields := fl 7 2 4 7 255 0 0 0 14 0 none
def fOddS : Fields := fl 7 194 196 199 255 0 0 0 14 0 none

theorem witness_illegal_operands :
    suricOf (.dadd fOdd) = some (89, .r, fOdd) ∧
    (issOf s8 = some x8 ∧ (warpAt? s8 0 0).isSome = true ∧ operandsOk (x8.warp s8) 89 fOdd = false ∧ HandlerReady (x8.warp s8)) ∧
    (let s := issuing { warp2 with tba := 0 } probeGroup 3 8
     issOf s = some x8 ∧ operandsOk (x8.warp s) 89 fOdd = false ∧ (x8.warp s).tba = 0#64) ∧
    (handlerAllows 89 fOddS = true ∧ operandsOk ((iss 0 8).warp sHm) 89 fOddS = false ∧ ((iss 0 8).warp sHm).hmode = true) :=
  ⟨rfl, ⟨by decide, by decide, by decide, by unfold HandlerReady; decide⟩, ⟨by decide, by decide, rfl⟩,
   by decide, by decide, rfl⟩
/-! ### Witnesses: global memory -/

/-- LD.b128 v8, [v4], LDR.b32, with v4 = 0x400 in both lanes; ST.b32 of v1, with a release, beside a writable L1 line. -/
def wMem : Warp := { warp2 with vr := [(1, 7), (4, 0x400), (257, 8), (260, 0x400)] }
def sMem : State := issuing wMem probeGroup 3 8
def fLd : Fields := fl 7 8 4 255 0 0 0 0 6 0 none
def fLdr : Fields := fl 7 8 4 255 0 0 0 0 4 0 none
def fSt : Fields := fl 7 1 4 255 0 0 0 0 4 0 none
def fStRel : Fields := fl 7 1 4 255 0 9 0 0 4 0 none

theorem witness_loads :
    Issues sMem x8 128 fLd ∧ actors 128 fLd x8 (x8.warp sMem) = [0, 1] ∧ Issues sMem x8 148 fLdr ∧
      actors 148 fLdr x8 (x8.warp sMem) = [0, 1] ∧
      (∀ l ∈ [0, 1], (eaM (x8.warp sMem) l fLd (Machine.sizeOf fLd.t.toNat)).toNat % Machine.sizeOf fLd.t.toNat = 0) ∧
      accessParts (x8.warp sMem) fLd [0, 1] = [(0x400, 8, 0, [0, 1]), (0x408, 8, 2, [0, 1])] ∧
      (∀ p ∈ accessParts (x8.warp sMem) fLd [0, 1], l1Line sMem 0 (x8.warp sMem).part (x8.warp sMem).asid p.1 = none) :=
  ⟨issues (by decide), by decide, issues (by decide), by decide, by decide, by decide, by decide⟩

/-- An earlier load of lane 0 that has not been answered. -/
def reqA : Req := { warpReq x1 wMem 1 1 0x400 4 .load 8 4 0 false false false false false with stage := .replied [5] }
def sBusy : State := { sMem with reqs := [(2, reqA)], nextId := 3 }

theorem witness_stores :
    (let s := modCore sMem 0 (fun c => { c with l1 := [lineOfBlock 16 (List.replicate 64 0)] })
     Issues s x8 129 fStRel ∧ actors 129 fStRel x8 (x8.warp s) = [0, 1] ∧
      (∀ l ∈ [0, 1], (eaM (x8.warp s) l fStRel (Machine.sizeOf fStRel.t.toNat)).toNat % Machine.sizeOf fStRel.t.toNat = 0) ∧
      holdsRelease x8 s (releasers 129 fStRel x8 [0, 1]) fStRel.ma.toNat = false ∧
      ∀ p ∈ accessParts (x8.warp s) fStRel [0, 1], ∀ c,
        l1Line s 0 (x8.warp s).part (x8.warp s).asid p.1 = some c → c.wr = true) ∧
    (Issues sBusy x8 129 fStRel ∧ actors 129 fStRel x8 (x8.warp sBusy) = [0, 1] ∧
      (∀ l ∈ [0, 1], (eaM (x8.warp sBusy) l fStRel (Machine.sizeOf fStRel.t.toNat)).toNat % Machine.sizeOf fStRel.t.toNat = 0) ∧
      holdsRelease x8 sBusy (releasers 129 fStRel x8 [0, 1]) fStRel.ma.toNat = true) := by
  refine ⟨⟨issues (by decide), by decide, by decide, by decide, ?_⟩, issues (by decide), by decide, by decide, by decide⟩
  intro p hp c hc
  have h : p ∈ [((0x400 : VA), 4, 0, [0, 1])] := hp
  simp only [List.mem_singleton] at h
  subst h
  have : some c = some (lineOfBlock 16 (List.replicate 64 0)) := hc.symm.trans (by decide +kernel)
  cases this; rfl

def fAtom : Fields := fl 7 8 4 1 255 0 0 0 1 0 none
def fAtomc : Fields := fl 7 8 4 1 1 0 0 0 1 0 none
def fRed : Fields := fl 7 255 4 1 255 0 0 0 1 0 none

theorem witness_atomics :
    Issues sMem x8 144 fAtom ∧ Issues sMem x8 145 fAtomc ∧ Issues sMem x8 146 fRed ∧ Issues sMem x8 149 fAtom ∧
      actors 144 fAtom x8 (x8.warp sMem) = [0, 1] ∧ actors 149 fAtom x8 (x8.warp sMem) = [0, 1] ∧
      (∀ l ∈ [0, 1], (eaA (x8.warp sMem) l fAtom).toNat % atomBytes fAtom.t.toNat = 0) ∧
      holdsRelease x8 sMem (releasers 144 fAtom x8 [0, 1]) fAtom.ma.toNat = false :=
  ⟨issues (by decide), issues (by decide), issues (by decide), issues (by decide), by decide, by decide, by decide, by decide⟩

/-- LDC.b64 of lane 0, and of both lanes, from a block at its home. -/
def fLdc : Fields := fl 7 8 4 255 0 0 0 0 5 0 none

theorem witness_constant_loads :
    (let s := withBlock (issuing wMem probeGroup 1 8) 8 (blockOf [1, 2, 3, 4, 5, 6, 7, 8])
     Issues s x1 130 fLdc ∧ actors 130 fLdc x1 (x1.warp s) = [0] ∧
      (eaM (x1.warp s) 0 fLdc (Machine.sizeOf fLdc.t.toNat)).toNat % Machine.sizeOf fLdc.t.toNat = 0 ∧
      ∃ t, fetchC s 0 (x1.warp s).part (x1.warp s).asid .const (eaM (x1.warp s) 0 fLdc (Machine.sizeOf fLdc.t.toNat))
        (Machine.sizeOf fLdc.t.toNat) = (.ok [1, 2, 3, 4, 5, 6, 7, 8], t)) ∧
    (let s := withBlock (issuing wMem probeGroup 3 8) 8 (blockOf [1, 2, 3, 4, 5, 6, 7, 8])
     Issues s x8 130 fLdc ∧ uniformForm 130 fLdc = false ∧ guarded (x8.warp s) x8.mask fLdc.g = [0, 1] ∧
      (∀ l ∈ [0, 1], (eaM (x8.warp s) l fLdc (Machine.sizeOf fLdc.t.toNat)).toNat % Machine.sizeOf fLdc.t.toNat = 0) ∧
      ∃ t, ldcLanes x8 (x8.warp s) fLdc (Machine.sizeOf fLdc.t.toNat)
        ([0, 1].map (fun l => (l, eaM (x8.warp s) l fLdc (Machine.sizeOf fLdc.t.toNat)))) s =
        (([(0, 0x0807060504030201), (1, 0x0807060504030201)], []), t)) :=
  ⟨⟨issues (by decide), by decide, by decide, accessed (by decide +kernel)⟩,
   issues (by decide), by decide, by decide, by decide, _, Prod.ext (by decide +kernel) rfl⟩

theorem witness_filt :
    let s := withBlock (issuing { warp2 with sr := [(4, 0x400)] } probeGroup 3 8) 8 zeroBlock
    let f := fl 7 255 196 255 255 0 0 7 0 0 none
    Issues s x8 113 f ∧ guardUni (x8.warp s) f.g = true ∧ rread2 (x8.warp s) 0 f.a.toNat % 2 ^ 57 % 128 = 0 ∧
      ∃ t, fetchSpan s 0 (x8.warp s).part (x8.warp s).asid .const (BitVec.ofNat 57 (rread2 (x8.warp s) 0 f.a.toNat % 2 ^ 57)) 128 2 =
        (.ok zeroBlock, t) :=
  ⟨issues (by decide), by decide, by decide, accessed (by decide +kernel)⟩

def fPref : Fields := fl 7 255 4 255 0 0 0 0 0 0 none
/-- CCTL of the L1: a line, and the whole. -/
def fCctlAll : Fields := fl 7 255 255 255 0 0 0 0 4 0 none

theorem witness_pref_cctl :
    (Issues sMem x8 135 fPref ∧ actors 135 fPref x8 (x8.warp sMem) = [0, 1]) ∧
    (Issues sMem x8 136 fPref ∧ wbit fPref.t 2 = false) ∧
    (Issues sMem x8 136 fCctlAll ∧ wbit fCctlAll.t 2 = true ∧ guardP fCctlAll.g = false ∧ guardUni (x8.warp sMem) fCctlAll.g = true) :=
  ⟨⟨issues (by decide), by decide⟩, ⟨issues (by decide), by decide⟩, issues (by decide), by decide, by decide, by decide⟩

/-- v4 = 0x401 in lane 1 alone: every size but a byte is misaligned there. -/
def sOdd : State := issuing { wMem with vr := [(4, 0x400), (260, 0x401)] } probeGroup 3 8

theorem witness_misaligned :
    (∀ op ∈ [128, 129, 130, 131, 132, 133, 134, 148], Issues sOdd x8 op fSt ∧ (actors op fSt x8 (x8.warp sOdd)).filter (fun l =>
      (eaM (x8.warp sOdd) l fSt (Machine.sizeOf fSt.t.toNat)).toNat % Machine.sizeOf fSt.t.toNat != 0) = [1]) ∧
    (∀ op ∈ [144, 145, 146, 147, 149], Issues sOdd x8 op fRed ∧ (actors op fRed x8 (x8.warp sOdd)).filter (fun l =>
      (eaA (x8.warp sOdd) l fRed).toNat % atomBytes fRed.t.toNat != 0) = [1]) ∧
    fSt.ma ≠ 3#4 ∧ holdsRelease x8 sOdd (releasers 134 fSt x8 (actors 134 fSt x8 (x8.warp sOdd))) fSt.ma.toNat = false ∧
    HandlerReady (x8.warp sOdd) := by
  refine ⟨?_, ?_, by decide, by decide, by unfold HandlerReady; decide⟩ <;> intro op h <;>
    simp only [List.mem_cons, List.not_mem_nil, or_false] at h
  · rcases h with rfl | rfl | rfl | rfl | rfl | rfl | rfl | rfl <;> exact ⟨issues (by decide), by decide⟩
  · rcases h with rfl | rfl | rfl | rfl | rfl <;> exact ⟨issues (by decide), by decide⟩
/-! ### Witnesses: fences, scratchpads, barriers, semaphores, rings -/

def fFence : Fields := fl 7 255 255 0 0 14 0 0 0 0 none
def fFencex : Fields := fl 7 255 255 1 1 14 0 0 0 0 none

theorem witness_fences :
    (Issues s8 x8 152 fFence ∧ fenceLanes x8 (x8.warp s8) fFence.g = [0, 1] ∧ (holdsRelease x8 s8 [0, 1] fFence.ma.toNat ||
      maAcquires fFence.ma.toNat && !valuesBack s8 0 0 (laneMask (fun l => [0, 1].contains l))) = false) ∧
    (Issues sBusy x8 153 fFencex ∧ fenceLanes x8 (x8.warp sBusy) fFencex.g = [0, 1] ∧
      (wbit fFencex.b 0 && holdsRelease x8 sBusy [0, 1] fFencex.ma.toNat ||
        !valuesBack sBusy 0 0 (laneMask (fun l => [0, 1].contains l))) = true) :=
  ⟨⟨issues (by decide), by decide, by decide⟩, issues (by decide), by decide, by decide⟩

/-- Offsets 248 and 252 of a region of 256 bytes: its last two words. -/
def wSpad : Warp := { warp2 with vr := [(1, 7), (4, 248), (257, 8), (260, 252)], sr := [(1, 3), (2, 4), (3, 240)] }
def gSpad : Group := { probeGroup with spad := [(248, 1), (252, 2)] }
def sSpad : State := issuing wSpad gSpad 3 8
/-- LDSP and STSP address by one register, LDQ and STQ too: member 0 is the group itself. -/
def fSpad : Fields := fl 7 1 4 255 0 0 0 0 4 0 none
def fLdq : Fields := fl 7 1 4 255 0 3 0 0 4 0 none

theorem witness_spad_loads :
    Issues sSpad x8 131 fSpad ∧ Issues sSpad x8 133 fLdq ∧ actors 131 fSpad x8 (x8.warp sSpad) = [0, 1] ∧
      (∀ l ∈ [0, 1], ∀ quad ∈ [false, true],
        (eaM (x8.warp sSpad) l fSpad (Machine.sizeOf fSpad.t.toNat)).toNat % Machine.sizeOf fSpad.t.toNat = 0 ∧
        spadTarget x8 sSpad quad (eaM (x8.warp sSpad) l fSpad (Machine.sizeOf fSpad.t.toNat)).toNat (Machine.sizeOf fSpad.t.toNat) =
          some (0, 0, 248 + 4 * l)) ∧
      groupAt sSpad 0 0 = some gSpad ∧ spadBad gSpad 252 4 = false :=
  ⟨issues (by decide), issues (by decide), by decide, by decide, rfl, by decide⟩

theorem witness_spad_stores :
    Issues sSpad x8 132 fSpad ∧ Issues sSpad x8 134 fSpad ∧ holdsRelease x8 sSpad (releasers 134 fSpad x8 [0, 1]) fSpad.ma.toNat = false ∧
      actors 132 fSpad x8 (x8.warp sSpad) = [0, 1] ∧ storedByte fSpad x8 sSpad false [0, 1] 0 0 252 = some 8#8 :=
  ⟨issues (by decide), issues (by decide), by decide, by decide, by decide⟩

def fAtomsp : Fields := fl 7 1 4 1 255 0 0 0 1 0 none

theorem witness_spad_atomics :
    Issues sSpad x8 147 fAtomsp ∧ actors 147 fAtomsp x8 (x8.warp sSpad) = [0, 1] ∧ (x8.warp sSpad).gslot = some 0 ∧
      groupAt sSpad 0 0 = some gSpad ∧
      ∀ l ∈ [0, 1], (eaA (x8.warp sSpad) l fAtomsp).toNat % 4 = 0 ∧ (eaA (x8.warp sSpad) l fAtomsp).toNat + 4 ≤ 256 * gSpad.rec_.spad ∧
        spadBad gSpad (eaA (x8.warp sSpad) l fAtomsp).toNat 4 = false :=
  ⟨issues (by decide), by decide, rfl, rfl, by decide⟩

/-- Lane 1 arrives alone; then lane 0 with lane 1 waiting. -/
theorem witness_group_barrier :
    let f := fl 7 255 255 255 0 0 0 0 0 0 none
    (let s := issuing warp2 probeGroup 2 8
     let x := iss 2 8
     Issues s x 154 f ∧ hasPassed (x.warp s) x.mask = false ∧ groupAt s 0 0 = some probeGroup ∧ guarded (x.warp s) x.mask f.g = [1] ∧
       releaseReady s 0 0 (laneMask (fun l => [1].contains l)) 1 = true ∧ ∃ k ∈ groupThreads (coreOf s 0) 0, k ∉ [1]) ∧
    (let s := issuing { warp2 with lanes := [(0, thread 0), (1, { thread 1 with wait := .barGrp })] } { probeGroup with gbar := [1] } 1 8
     Issues s x1 154 f ∧ hasPassed (x1.warp s) x1.mask = false ∧ guarded (x1.warp s) x1.mask f.g = [0] ∧
       ∀ k ∈ groupThreads (coreOf s 0) 0, k ∈ [1, 0]) :=
  ⟨⟨issues (by decide), by decide, rfl, by decide, by decide, by decide⟩, issues (by decide), by decide, by decide, by decide⟩

/-- A barrier object at offset 240 (s3) of which one arrival is still to come. -/
def objBytes : SMap Byte := [(240, 1), (242, 1)]
def sObj : State := issuing wSpad { probeGroup with spad := objBytes } 3 8
def fMeet (fn : BitVec 4) : Fields := fl 7 255 195 255 0 0 0 fn 0 0 none
def fPost (fn : BitVec 4) : Fields := fl 7 193 195 255 0 0 0 fn 0 0 none
def fBarxMeet : Fields := fl 7 255 195 194 0 0 0 0 0 0 none
def fBarxPost : Fields := fl 7 193 195 194 0 0 0 1 0 0 none

theorem witness_barrier_objects :
    (WellFormed (.barMeet (fMeet 1)) = true ∧ WellFormed (.barPost (fPost 2)) = true ∧ WellFormed (.barxMeet fBarxMeet) = true ∧
      WellFormed (.barxPost fBarxPost) = true ∧ WellFormed (.qbarMeet fBarxMeet) = true ∧ WellFormed (.qbarPost fBarxPost) = true) ∧
    (Issues sObj x8 154 (fMeet 1) ∧ Issues sObj x8 154 (fPost 2) ∧ Issues sObj x8 155 fBarxMeet ∧ Issues sObj x8 155 fBarxPost ∧
      Issues sObj x8 156 fBarxMeet ∧ Issues sObj x8 156 fBarxPost) ∧
    guardUni (x8.warp sObj) (fMeet 1).g = true ∧
    (∀ l u, x8.mask.getLsbD l = true → lookup (x8.warp sObj).lanes l = some u → u.wait = .none) ∧
    (match findObj x8 sObj false (rread (x8.warp sObj) 0 195), findObj x8 sObj true (rread (x8.warp sObj) 0 195) with
      | .ok a, .ok b => decide (a = ((0, 0, 240), ofBytes [1, 0, 1, 0])) && decide (b = a)
      | _, _ => false) = true ∧
    releaseReady sObj 0 0 3 2 = true ∧ (x8.warp sObj).gslot.isSome = true ∧ Issues sObj x8 154 (fl 7 255 195 193 0 0 0 3 0 0 none) ∧
    hasPassed (x8.warp sObj) x8.mask = false := by
  refine ⟨by decide, ⟨issues (by decide), issues (by decide), issues (by decide), issues (by decide), issues (by decide),
    issues (by decide)⟩, by decide, ?_, by decide +kernel, by decide, rfl, issues (by decide), by decide⟩
  intro l u _ h
  change lookup [(0, thread 0), (1, thread 1)] l = some u at h
  simp only [lookup] at h
  split at h
  · cases h; rfl
  · split at h
    · cases h; rfl
    · cases h

/-- Semaphore 3, the last of three: at 65535, and at 0 with a threshold of 1. -/
def wSem : Warp := { warp2 with sr := [(1, 3), (2, 1)], rec_ := { probeRec with sems := 3 } }
def gSem (v : Nat) : Group := { probeGroup with rec_ := { probeRec with sems := 3 }, sem := [(3, v)] }
def fSemadd : Fields := fl 7 195 193 194 255 0 0 0 1 0 none
def fSemwait : Fields := fl 7 195 193 194 255 0 0 0 0 0 none
def fSemrd : Fields := fl 7 195 193 255 255 0 0 0 0 0 none

theorem witness_semaphores :
    (let s := issuing wSem (gSem 0) 3 8
     Issues s x8 161 fSemwait ∧ guardUni (x8.warp s) fSemwait.g = true ∧ rread (x8.warp s) 0 fSemwait.a.toNat = 3 ∧
       getD 0 (gSem 0).sem 3 < nbits (rawB (x8.warp s) 0 fSemwait 1) 0 16) ∧
    (let s := issuing wSem (gSem 65535) 3 8
     WellFormed (.semadd fSemadd) = true ∧ WellFormed (.semrd fSemrd) = true ∧ WellFormed (.semwait fSemwait) = true ∧
       Issues s x8 160 fSemadd ∧ Issues s x8 162 fSemrd ∧ Issues s x8 161 fSemwait ∧ groupAt s 0 0 = some (gSem 65535) ∧
       rread (x8.warp s) 0 fSemadd.a.toNat ≤ (gSem 65535).rec_.sems ∧
       nbits (rawB (x8.warp s) 0 fSemwait 1) 0 16 ≤ 65535) :=
  ⟨⟨issues (by decide), by decide, by decide, by decide⟩, by decide, by decide, by decide, issues (by decide), issues (by decide),
   issues (by decide), rfl, by decide, by decide⟩

/-- A ring of 16 words at 128, HEAD 0 and TAIL `tail`; a command of two words at 64 (s1). -/
def gRing (tail : Byte) : Group := { probeGroup with
  spad := [(0, 1), (3, 0x40), (4, 16), (8, tail), (64, 9), (68, 1)] }
def fEnq : Fields := fl 7 255 193 255 255 0 0 0 0 0 none
def wEnq : Warp := { warp2 with sr := [(1, 64)] }

theorem witness_enq : ∀ tail : Byte, tail = 14 ∨ tail = 15 →
    let s := issuing wEnq (gRing tail) 3 8
    (issOf s = some x8 ∧ (warpAt? s 0 0).isSome = true ∧ (x8.warp s).hmode = false ∧ operandsOk (x8.warp s) 163 fEnq = true) ∧
      guardUni (x8.warp s) fEnq.g = true ∧ fEnq.fn.toNat % 4 ≠ 3 ∧ rread (x8.warp s) 0 fEnq.a.toNat = 64 ∧
      nbits (ofBytes (spadRead (gRing tail) 64 8)) 32 8 + 1 = 2 ∧ 64 + 8 * 2 ≤ 256 * (gRing tail).rec_.spad ∧
      entryOk (gRing tail) (ringEntry (gRing tail) 0) = true ∧ 2 ≤ 2 ^ (ringEntry (gRing tail) 0).log2w ∧
      (2 ^ (ringEntry (gRing tail) 0).log2w < sub32 (ringEntry (gRing tail) 0).tail (ringEntry (gRing tail) 0).head + 2 ↔ tail = 15) := by
  rintro tail (rfl | rfl) <;> decide +kernel
/-! ### Witnesses: completion bitmaps, promotion, texture, rays -/

/-- Bits 9 and 8, of a bitmap of ten bits at 0x400, of which bit 9 is 1. -/
def wBits : Warp := { warp2 with
  rec_ := { probeRec with bm := true, bmaddr := 0x400, bmlen := 10 }, vr := [(1, 9), (2, 0x400), (257, 8), (258, 0x400)] }
def sBits : State := withBlock (issuing wBits probeGroup 3 8) 8 (blockOf [0, 2])
def fDone : Fields := fl 7 255 1 255 255 0 0 0 0 0 none
def fTilewait : Fields := fl 7 255 1 2 255 0 0 0 0 0 none
def ixBits (l : Nat) : Nat := rread (x8.warp sBits) l 1
def vaDone (l : Nat) : VA := (x8.warp sBits).rec_.bmaddr + BitVec.ofNat 57 (ixBits l / 8)
def vaWait (l : Nat) : VA := BitVec.ofNat 57 (rawB (x8.warp sBits) l fTilewait 2) + BitVec.ofNat 57 (ixBits l / 8)
def setBit (l : Nat) (s : State) : Except AccErr (List Byte) × State :=
  homeRmw s (warpWho 0 (x8.warp sBits)) .rw (vaDone l) 1 [threadKey 0 0 l] (fun bs =>
    (toBytes 1 (ofBytes bs ||| 2 ^ (ixBits l % 8)), toBytes 1 (ofBytes bs ||| 2 ^ (ixBits l % 8))))
/-- The bytes that the lanes leave, and the states that they pass through. -/
def doneByte (k : Nat) : List Byte := if k = 0 then [2#8] else [3#8]
def doneState : Nat → State
  | 0 => sBits
  | k + 1 => l1Patch (markNoFill (setBit k (doneState k)).2 0 0 (atagOf 0 (vaDone k)) ((vaDone k).toNat / 64)) 0 0
      (atagOf 0 (vaDone k)) (vaDone k) (doneByte k)
def waitState : Nat → State
  | 0 => sBits
  | k + 1 => (homeRead (waitState k) (warpWho 0 (x8.warp sBits)) .rd (vaWait k) 1).2

theorem witness_completion_bits :
    (Issues sBits x8 166 fDone ∧ guarded (x8.warp sBits) x8.mask fDone.g = [0, 1] ∧
      (∀ l ∈ [0, 1], ixBits l < (x8.warp sBits).rec_.bmlen) ∧ releaseReady sBits 0 0 (laneMask ([0, 1].contains ·)) 3 = true ∧
      doneState 0 = sBits ∧
      ∀ k l, [0, 1][k]? = some l → ∃ u, setBit l (doneState k) = (.ok (doneByte k), u) ∧
        doneState (k + 1) = l1Patch (markNoFill u 0 0 (atagOf 0 (vaDone l)) ((vaDone l).toNat / 64)) 0 0 (atagOf 0 (vaDone l))
          (vaDone l) (doneByte k)) ∧
    (Issues sBits x8 167 fTilewait ∧ guarded (x8.warp sBits) x8.mask fTilewait.g = [0, 1] ∧ (x8.warp sBits).hmode = false ∧
      waitState 0 = sBits ∧
      (∀ k l, [0, 1][k]? = some l → blockBusy (waitState k) 0 0 (atagOf 0 (vaWait l)) ((vaWait l).toNat / 128) = false ∧
        homeRead (waitState k) (warpWho 0 (x8.warp sBits)) .rd (vaWait l) 1 = (.ok [2#8], waitState (k + 1))) ∧
      [0, 1].filter (fun l => !(2#8).getLsbD (ixBits l % 8)) = [1]) ∧
    (let s := { sBits with reqs := [(7, warpReq x8 wBits 1 1 0x400 4 .load 8 4 0 false false false false false)] }
     blockBusy s 0 0 (atagOf 0 (vaWait 0)) ((vaWait 0).toNat / 128) = true ∧
       (Issues s x8 167 fTilewait ∧ guarded (x8.warp s) x8.mask fTilewait.g = [0, 1])) := by
  refine ⟨⟨issues (by decide), by decide, by decide, by decide, rfl, ?_⟩,
    ⟨issues (by decide), by decide, by decide, rfl, ?_, by decide⟩, by decide, issues (by decide), by decide⟩
  · rintro (_ | _ | k) l h <;> simp at h <;> subst h
    · exact ⟨_, Prod.ext (of_gave (by decide +kernel)) rfl, rfl⟩
    · exact ⟨_, Prod.ext (of_gave (by decide +kernel)) rfl, rfl⟩
  · rintro (_ | _ | k) l h <;> simp at h <;> subst h
    · exact ⟨by decide +kernel, Prod.ext (of_gave (by decide +kernel)) rfl⟩
    · exact ⟨by decide +kernel, Prod.ext (of_gave (by decide +kernel)) rfl⟩

/-- 64 MiB from 0x400, semaphore 1. -/
def wProm : Warp := { warp2 with sr := [(4, 1), (6, 0x400), (8, 67108864)], rec_ := { probeRec with sems := 1 } }
def gProm : Group := { probeGroup with rec_ := { probeRec with sems := 1 } }
def fProm : Fields := fl 7 196 198 200 1 0 0 2 0 0 none
def fDem : Fields := fl 7 196 198 200 1 0 0 0 0 0 none
def jobProm (n : Nat) : UnitJob := { part := 0, asid := 0, gslot := some 0, grid := 0, op := .promote 0 196 0x400 n 2 1 true }

theorem witness_promotions :
    (let s := issuing wProm gProm 3 8
     Issues s x8 137 fProm ∧ Issues s x8 138 fDem ∧ guardUni (x8.warp s) fProm.g = true ∧ 0 < rawB (x8.warp s) 0 fProm 1 ∧
       rawB (x8.warp s) 0 fProm 1 = 67108864 ∧ groupAt s 0 0 = some gProm ∧ fProm.c.toNat ≤ gProm.rec_.sems) ∧
    (let s := modCore (issuing wProm gProm 3 8) 0 (fun c => { c with units := [(5, jobProm 1)] })
     lookup (coreOf s 0).units 5 = some (jobProm 1) ∧ groupAt s 0 0 = some gProm ∧ warpAt? s 0 0 = some wProm ∧ AllLive s 0 ∧
       ∃ rows u oc n v, rowsOf 0 0 ((0x400 + 1 - 1) / 128 - 0x400 / 128 + 1) (0x400 / 128) s [] = (rows, u) ∧
         promoteRows true 2 rows u 15 0 = ((oc, n), v)) :=
  ⟨⟨issues (by decide), issues (by decide), by decide, by decide, by decide, rfl, by decide⟩, by decide, rfl, rfl,
   by unfold AllLive; decide, _, _, _, _, _, rfl, rfl⟩

/-- Units that refuse nothing. -/
theorem unrefused {α β : Type} {p : (α × List β) × State} {P : α → Prop} (h : p.1.2.isEmpty = true) (k : P p.1.1) :
    ∃ good u, p = ((good, []), u) ∧ P good := by
  obtain ⟨⟨a, bs⟩, s⟩ := p
  cases bs with
  | nil => exact ⟨a, s, rfl, k⟩
  | cons b bs => cases h

/-- A texture of one R8 texel at 0x500, its descriptor at 0x400; a scene root of no node. -/
def wTex : Warp := { warp2 with rec_ := { probeRec with cont := 32, depth := 1 }, vr := [(8, 0x3E800000), (9, 0x3E800000)], sr := [(8, 0x400)] }
def sTex : State := withBlock (withBlock (issuing wTex probeGroup 1 8) 8 (blockOf (toBytes 8 0x500))) 10 (blockOf [0xFF])
def fTex : Fields := fl 7 4 8 200 255 0 0 0 8 0 none
def fTexC : Fields := fl 7 28 8 255 200 0 0 8 8 0 (some 64)
def fTrace : Fields := fl 7 28 8 255 202 0 0 0 0 0 (some 64)

theorem witness_samples :
    (Issues sTex x1 164 fTex ∧ actors 164 fTex x1 (x1.warp sTex) = [0] ∧
      ∃ good u, texLanes 0 (x1.warp sTex) fTex (fun l => BitVec.ofNat 57 (rawB (x1.warp sTex) l fTex 2)) (texSet x1 (x1.warp sTex) [0])
        [0] sTex = ((good, []), u) ∧ ∀ e ∈ good, e.2 ≠ []) ∧
    (let s := issuing { wTex with lanes := [(0, thread 0), (1, thread 1)] } probeGroup 1 16
     let x := iss 1 16
     (Issues sTex x1 164 fTexC ∧ guarded (x1.warp sTex) x1.mask fTexC.g = [0] ∧ clasped (x1.warp sTex) = false ∧
       fTexC.d.toNat + 4 = (x1.warp sTex).rec_.cont ∧ fTexC.d.toNat + 4 ≤ (x1.warp sTex).rec_.regs ∧ NoWarpEnds sTex x1 1 ∧
       NoBarrierWaits sTex x1 ∧ (coreOf sTex 0).contq.length + 1 ≤ contQueueSize ∧
       ∃ good u, texLanes 0 (x1.warp sTex) fTexC (fun l => pairVA (x1.warp sTex) l fTexC.c.toNat) (texSet x1 (x1.warp sTex) [0]) [0] sTex =
         ((good, []), u) ∧ ∀ e ∈ good, e.2 ≠ []) ∧
     Issues s x 165 fTrace ∧ guarded (x.warp s) x.mask fTrace.g = [0] ∧ NoWarpEnds s x 1 ∧ NoBarrierWaits s x ∧
       (∀ l ∈ [0], laneLevel (x.warp s) l < (x.warp s).rec_.depth) ∧
       ∃ good u, traceLanes x (x.warp s) fTrace [0] s = ((good, []), u) ∧ True) := by
  refine ⟨⟨issues (by decide), by decide, unrefused (by decide +kernel) (by decide +kernel)⟩,
    ⟨issues (by decide), by decide, by decide, by decide, by decide, by unfold NoWarpEnds; decide, ?_, by decide,
      unrefused (by decide +kernel) (by decide +kernel)⟩,
    issues (by decide), by decide, by unfold NoWarpEnds; decide, ?_, by decide, unrefused (by decide +kernel) trivial⟩ <;>
    intro g y hg hy <;> cases hg <;> cases hy <;> rfl

theorem refusedWith {ε α : Type} {p : Except ε α × State} {P : State → Prop}
    (h : (match p.1 with | .ok _ => true | .error _ => false) = false) (k : P p.2) : ∃ e u, p = (.error e, u) ∧ P u := by
  obtain ⟨r, s⟩ := p
  cases r with
  | ok v => cases h
  | error e => exact ⟨e, s, rfl, k⟩

/-- Units that answer: registers of a lane, and a record that waits. -/
def recWait : ContRec := {
  tpc := 0x80, kind := 2, free := false, apart := false, level := 0, npay := 1, nres := 2, rdy := false, group := 0, grid := 0,
  part := 0, gslot := 0, tx := 0, ty := 0, tz := 0, windex := 0, pay := [7, 0, 0], since := 0, rank := 3, uid := 3, core := 0, saw := [] }
/-- A traversal that has nothing pending, ended or not. -/
def rayOf (res : Option (List Nat)) : RayJob :=
  { src := none, old := none, ray := { ws := [], first := false, cull := false }, pending := [], best := 0, hit := none, leaf := none, half := none, res := res }
/-- One that has read the first half of a node at 0x1000000, which the looked-at scene ended without a hit; its warp has gone. -/
def rayLost : RayJob := { rayOf none with src := some ⟨9, 0, 0, 64, 0, 8⟩, old := some [0, 0, 0, 0], half := some (0x1000000, []) }
def jobTex (op : UnitOp) : UnitJob := { part := 0, asid := 0, gslot := some 0, grid := 0, op := op }
def sUnits : State := modCore s8 0 (fun c => { c with
  contq := [recWait], units := [(5, jobTex (.tex 0 1 4 [8, 9])), (6, jobTex (.texC 3 [8, 9])), (7, jobTex (.ray 3 (rayOf (some [0, 0, 0, 0])))),
    (8, jobTex (.ray 3 (rayOf none))), (9, jobTex (.ray 3 rayLost))] })

theorem witness_unit_answers :
    lookup (coreOf sUnits 0).units 5 = some (jobTex (.tex 0 1 4 [8, 9])) ∧ AllLive sUnits 0 ∧ warpAt? sUnits 0 0 = some warp2 ∧
      lookup (coreOf sUnits 0).units 6 = some (jobTex (.texC 3 [8, 9])) ∧
      lookup (coreOf sUnits 0).units 7 = some (jobTex (.ray 3 (rayOf (some [0, 0, 0, 0])))) ∧
      lookup (coreOf sUnits 0).units 8 = some (jobTex (.ray 3 (rayOf none))) ∧
      ∃ j u, rayStep { part := 0, asid := 0, path := .X, ap := false, core := some 0 }
        (kindsOf sUnits 0 { part := 0, asid := 0, path := .X, ap := false, core := some 0 } 0) (rayOf none) sUnits = (.ok j, u) ∧
      lookup (coreOf sUnits 0).units 9 = some (jobTex (.ray 3 rayLost)) ∧ rayLost.res = none ∧ rayLost.old = some [0, 0, 0, 0] ∧
      ∃ e v, rayStep { part := 0, asid := 0, path := .X, ap := false, core := some 0 }
        (kindsOf sUnits 0 { part := 0, asid := 0, path := .X, ap := false, core := some 0 } 0) rayLost sUnits = (.error e, v) ∧
        ∀ src, rayLost.src = some src → chargeable v 0 3 src = false :=
  ⟨by decide, by unfold AllLive; decide, rfl, by decide, by decide, by decide, _, _, rfl, by decide, rfl, rfl,
   refusedWith (by decide +kernel) (by rintro src ⟨⟩; decide +kernel)⟩
/-! ### Witnesses: the matrix engine -/

/-- Eight tiles, 48 registers. -/
def wMat : Warp := { warp2 with
  rec_ := { probeRec with acc := 8, regs := 192 }, sr := [(4, 0x400), (6, 64)],
  vr := [(0, 1), (3, 0x40000000), (8, 1)] }
def sMat : State := issuing wMat probeGroup 3 8
def fMma : Fields := fl 7 7 0 24 255 0 0 0 0 0 none
def fMmaExp : Fields := fl 7 7 0 24 23 9 9 4 8 0 none
def fMmaAbs : Fields := fl 7 7 0 24 23 9 9 8 8 0 none
def fAccz : Fields := fl 7 7 255 255 255 0 0 0 8 0 none
def fAccwr : Fields := fl 7 7 184 255 255 0 0 3 8 0 none
def fAccst : Fields := fl 7 255 196 198 7 0 0 1 8 0 none
def fEdge : Fields := fl 7 184 0 8 255 0 0 0 0 0 none

/-- An entry of a quadrant's queue, and eight of them. -/
def entry (kind : Nat) : QEntry := { blankEntry x8 kind 7 with num := 1 }
def sFull : State := modCore sMat 0 (fun c => { c with slices := [(0, List.replicate 8 (entry 3))] })

theorem witness_matrix_queue :
    ((matrixEntry x8 sMat (.mma fMma)).isSome = true ∧ (matrixEntry x8 sMat (.mmaExp fMmaExp)).isSome = true ∧
      (matrixEntry x8 sMat (.mmaAbs fMmaAbs)).isSome = true ∧ (matrixEntry x8 sMat (.accz fAccz)).isSome = true ∧
      (matrixEntry x8 sMat (.accwr fAccwr)).isSome = true ∧ (matrixEntry x8 sMat (.accst fAccst)).isSome = true ∧
      (matrixEntry x8 sMat (.edge fEdge)).isSome = true) ∧
    (Issues sMat x8 176 fMma ∧ Issues sMat x8 176 fMmaExp ∧ Issues sMat x8 176 fMmaAbs ∧ Issues sMat x8 177 fAccz ∧
      Issues sMat x8 179 fAccwr ∧ Issues sMat x8 180 fAccst ∧ Issues sMat x8 183 fEdge) ∧
    (sliceQ sMat 0 0).length < 8 ∧
    (matrixEntry x8 sFull (.accz fAccz)).isSome = true ∧ Issues sFull x8 177 fAccz ∧ 8 ≤ (sliceQ sFull 0 0).length :=
  ⟨⟨by decide +kernel, by decide +kernel, by decide +kernel, by decide, by decide +kernel, by decide, by decide +kernel⟩,
   ⟨issues (by decide), issues (by decide), issues (by decide), issues (by decide), issues (by decide), issues (by decide),
    issues (by decide)⟩, by decide, by decide, issues (by decide), by decide⟩

def fAccrd : Fields := fl 7 184 7 255 255 0 0 3 8 0 none
def fMstat : Fields := fl 7 193 255 255 255 0 0 1 0 0 none
def fPload : Fields := fl 7 255 196 32 0 0 0 0 0 0 none

theorem witness_matrix_state :
    (WellFormed (.accrd fAccrd) = true ∧ Issues sMat x8 178 fAccrd ∧ collSets (x8.warp sMat) x8 fAccrd = some ([0, 1], [0, 1]) ∧
      (warpEntries sMat 0 0).any (fun e => e.names fAccrd.a.toNat) = false ∧
      (x8.warp sMat).errorOf fAccrd.a.toNat = none) ∧
    (Issues sFull x8 178 fAccrd ∧ collSets (x8.warp sFull) x8 fAccrd = some ([0, 1], [0, 1]) ∧
      (warpEntries sFull 0 0).any (fun e => e.names fAccrd.a.toNat) = true) ∧
    (Issues sMat x8 181 fBare ∧ guardUni (x8.warp sMat) fBare.g = true ∧ warpEntries sMat 0 0 = [] ∧ (x8.warp sMat).rows = [] ∧
      Issues sFull x8 181 fBare ∧ (x8.warp sFull).err = false ∧ warpEntries sFull 0 0 ≠ []) ∧
    (WellFormed (.mstat fMstat) = true ∧ Issues sFull x8 184 fMstat ∧ guardUni (x8.warp sFull) fMstat.g = true) ∧
    (Issues sMat x8 182 fPload ∧ guardUni (x8.warp sMat) fPload.g = true ∧ rread2 (x8.warp sMat) 0 fPload.a.toNat % 128 = 0 ∧
      0 < fPload.b.toNat ∧ fPload.b.toNat = 32 ∧ fPload.c.toNat + fPload.b.toNat = 4 * (x8.warp sMat).rec_.acc) :=
  ⟨⟨by decide, issues (by decide), by decide, by decide, rfl⟩, ⟨issues (by decide), by decide, by decide⟩,
   ⟨issues (by decide), by decide, by decide, rfl, issues (by decide), rfl, by decide⟩,
   ⟨by decide, issues (by decide), by decide⟩, issues (by decide), by decide, by decide, by decide, by decide, by decide⟩

theorem checked {α : Type} {p : Option α × State} {g : State → Except AccErr Unit × State} (h : p.1.isNone = true)
    (k : gave (g p.2).1 () = true) : ∃ u v, p = (none, u) ∧ g u = (.ok (), v) :=
  ⟨p.2, (g p.2).2, Prod.ext (Option.isNone_iff_eq_none.mp h) rfl, Prod.ext (of_gave k) rfl⟩

theorem unrefusedRead {ε α : Type} {p : Except ε α × State} (h : (match p.1 with | .ok _ => true | .error _ => false) = true) :
    ∃ bs u, p = (.ok bs, u) := by
  obtain ⟨r, s⟩ := p
  cases r with
  | ok bs => exact ⟨bs, s, rfl⟩
  | error e => cases h

/-- A row on its way to 0x400, and the wait of a PLOAD of one block from there. -/
def rowA : HeldRow := { num := 1, pc := 64, inst := 0, pathMask := 3, tile := 7, va := 0x400, bytes := List.replicate 64 1#8, sent := true, gate := false }
def waitA : Infl := { iid := 4, pc := 64, len := 8, inst := 0, lanes := 3, pathMask := 3, open_ := [5], faults := [], derr := [] }
def sPload : State :=
  modCore ((List.range 16).foldl (fun s i => withBlock s (8 + i) zeroBlock) (issuing { wMat with infl := [waitA] } probeGroup 3 8)) 0
    (fun c => { c with units := [(5, jobTex (.pload 0 4 0x400 31 1))] })

theorem witness_matrix_entries :
    (sliceQ sFull 0 0 = [] ++ entry 3 :: List.replicate 7 (entry 3) ∧ (entry 3).started = false ∧ afterPload sFull 0 (entry 3) = false) ∧
    (∀ kind ∈ [0, 1, 2, 3, 4, 6],
      (mmaTile wMat (stageOf none { entry kind with started := true }) { entry kind with started := true }).2 = 0#5) ∧
    (let e := { entry 1 with tile := 6, started := true }
     let s := modCore sFull 0 (fun c => { c with xform := [(0, (entry 1).buffered (stageRun (entry 1)))] })
     ((entry 1).buffered (stageRun (entry 1))).serves e = true ∧ (bufferOf s 0 0).isSome = true ∧
       (mmaTile wMat (stageOf (bufferOf s 0 0) e) e).2 = 0#5) ∧
    (accstRows wMat { entry 5 with started := true }).2 = 0#5 ∧ warpAt? sMat 0 0 = some wMat ∧ wMat.err = false ∧ AllLive sMat 0 ∧
    (let s := withBlock (issuing { wMat with rows := [rowA] } probeGroup 3 8) 8 zeroBlock
     warpAt? s 0 0 = some { wMat with rows := [rowA] } ∧ AllLive s 0 ∧ rowReady s 0 0 { wMat with rows := [rowA] } 0 rowA = true ∧
      ∃ u v, storeCheck s (warpWho 0 { wMat with rows := [rowA] }) rowA.va rowA.bytes.length 3 = (none, u) ∧
        writeN u (warpWho 0 { wMat with rows := [rowA] }) rowA.va rowA.bytes = (.ok (), v)) ∧
    (lookup (coreOf sPload 0).units 5 = some (jobTex (.pload 0 4 0x400 31 1)) ∧ warpAt? sPload 0 0 = some { wMat with infl := [waitA] } ∧
      releaseReady sPload 0 0 waitA.pathMask 2 = true ∧
      (warpEntries sPload 0 0).any (fun e => !e.started && decide (e.num < 5) && e.reads 31 1) = false ∧ AllLive sPload 0 ∧
      ∃ bs u, ploadRead (warpWho 0 { wMat with infl := [waitA] }) (16 * 1) 0x400 (dropUnit sPload 0 5) = (.ok bs, u)) := by
  refine ⟨⟨by decide, rfl, by decide⟩, ?_, ⟨by decide +kernel, rfl, by decide +kernel⟩, by decide +kernel, rfl, rfl,
    by unfold AllLive; decide, ⟨rfl, by unfold AllLive; decide, by decide, ?_⟩, by decide, by decide, by decide, by decide, by unfold AllLive; decide, ?_⟩
  · intro kind h
    simp only [List.mem_cons, List.not_mem_nil, or_false] at h
    rcases h with rfl | rfl | rfl | rfl | rfl | rfl <;> rfl
  · exact checked (by decide +kernel) (by decide +kernel)
  · exact unrefusedRead (by decide +kernel)
/-! ### Witnesses: slots of a line core -/

/-- Line core 0 with an engine's slot; its bundle at PC 0 of 1,024, three loop levels active, k0 to k2 set. -/
def lineCore : LineCore := { LineCore.init with
  head := some 0, engs := [(1, { Engine.init with halted := false, loops := List.replicate 3 ⟨0, 1, 1⟩ })]
  k := [(0, 0x17FFFC), (1, 0xFFFFFFFF), (2, 32)], band := some { head := 0, f := 0, b := 0, scanRows := 16, pbFail := false } }
def slotOf (l : LineCore) (e k : Nat) : State := { setLine State.reset 0 l with cur := .slot 0 e k }
def sis (e k : Nat) : SIss := { lc := 0, eng := e, slot := k }

theorem slotIssues {s : State} {x : SIss} {i : Instr} (h : s.cur = .slot x.lc x.eng x.slot ∧ slotFits x.eng x.slot i = true) :
    SlotIssues s x i := ⟨h.1, h.2⟩

theorem witness_scalar_slots :
    ∀ i ∈ [Instr.kaddReg 15 0 1, .kaddImm 15 1 1, .ksubReg 0 0 1, .ksubImm 0 0 0x800, .kmulReg 1 1 1, .kmulImm 1 1 0xFFF, .kmov 2 1,
      .kldi 2 0x8000, .kldiHi 1 0xFFFF, .kcmpReg 2 0 5 1, .kcmpImm 2 1 2 0],
      SlotIssues (slotOf lineCore 1 0) (sis 1 0) i ∧ (scalarValue (lineOf (slotOf lineCore 1 0) 0) i).isSome = true := by
  intro i h
  simp only [List.mem_cons, List.not_mem_nil, or_false] at h
  rcases h with rfl | rfl | rfl | rfl | rfl | rfl | rfl | rfl | rfl | rfl | rfl <;> exact ⟨slotIssues (by decide), rfl⟩

/-- Streams of engine 1: 0 reads with a row at hand, 1 writes, 2 is flushed; 3 of the scan writer is complete. A token waits
from engine 0; a latch for the band. -/
def rowOne : List Half := List.replicate 64 1
def streamR : Stream := { eng := 1, kind := 0, addr := 0, nrows := 2, nel := 64, stride := 128, pos := 1, rows := [(none, rowOne)], done_ := 2, refused := none, bound := 0, band := 0, wrote := [] }
def streamW : Stream := { streamR with kind := 1, pos := 0, rows := [], done_ := 0 }
def lineStream : LineCore := { lineCore with
  streams := [(0, streamR), (1, streamW), (3, { streamW with eng := 3, kind := 4, pos := 2, done_ := 2 })], fifos := [(fifoKey 0 1, [9])] }
def latchA : Latch := { pose := [], tag := 0, seq := 1, fresh := true }
def slotsOf (e k : Nat) : State :=
  setHead (slotOf lineStream e k) 0 { Head.init with configured := true, cfg := probeCfg, latches := [(0, latchA)] }

theorem witness_other_slots :
    (∀ i ∈ [Instr.kld 3 0 0, .kst 3 0 0, .br 1023, .brc 0 1 1023, .loopReg 0 1023, .loopImm 1023 1023, .halt, .toksendReg 0 1,
      .toksendImm 2 0xFFF, .tokrecv 3 0, .bandchk 3, .lktrd 3 10, .evt 1],
      SlotIssues (slotsOf 1 0) (sis 1 0) i ∧ (slotActs (slotsOf 1 0) (sis 1 0) (lineOf (slotsOf 1 0) 0) i).isSome = true) ∧
    (∀ i ∈ [Instr.srdTile 0 1 7 15, .swrTile 1 1 7 15, .swrStream 1 0, .sflush 1],
      SlotIssues (slotsOf 1 3) (sis 1 3) i ∧ (slotActs (slotsOf 1 3) (sis 1 3) (lineOf (slotsOf 1 3) 0) i).isSome = true) ∧
    (slotActs (slotsOf 3 0) (sis 3 0) (lineOf (slotsOf 3 0) 0) .halt).isSome = true ∧ SlotIssues (slotsOf 3 0) (sis 3 0) .halt := by
  refine ⟨?_, ?_, by decide +kernel, slotIssues (by decide)⟩ <;> intro i h <;>
    simp only [List.mem_cons, List.not_mem_nil, or_false] at h
  · rcases h with rfl | rfl | rfl | rfl | rfl | rfl | rfl | rfl | rfl | rfl | rfl | rfl | rfl <;>
      exact ⟨slotIssues (by decide), by decide +kernel⟩
  · rcases h with rfl | rfl | rfl | rfl <;> exact ⟨slotIssues (by decide), by decide +kernel⟩

/-- SRD to a weight row by the matrix queue engine; SBIND by k2 = 32, a descriptor of a line-buffer read stream of 16 rows. -/
def bindLine : LineCore := { lineCore with
  streams := [(0, { streamR with eng := 2 })]
  lb := ((List.range 32).zip (toBytes 8 (2 * 2 ^ 61) ++ toBytes 8 (16 * 2 ^ 48 + 64 * 2 ^ 32 + 128) ++ toBytes 16 0)).map
    (fun e => (32 + e.1, e.2)) }

theorem witness_weight_rows :
    SlotIssues (slotOf bindLine 2 3) (sis 2 3) (.srdWeight 0 3 63) ∧
      (slotActs (slotOf bindLine 2 3) (sis 2 3) (lineOf (slotOf bindLine 2 3) 0) (.srdWeight 0 3 63)).isSome = true ∧
    SlotIssues (slotOf bindLine 1 3) (sis 1 3) (.sbind 1 2) ∧
      (slotActs (slotOf bindLine 1 3) (sis 1 3) (lineOf (slotOf bindLine 1 3) 0) (.sbind 1 2)).isSome = true :=
  ⟨slotIssues (by decide), by decide +kernel, slotIssues (by decide), by decide +kernel⟩

theorem witness_tile_slots :
    (∀ i ∈ [Instr.tadd 7 0 1 0 2 1 0, .tsub 0 1 0 15 0 0 1, .tmul 0 1 2 0 3 0 0, .tmac 0 1 2 0 1 1 0, .tmin 0 1 2 0 2 0, .tmax 0 1 2 0 3 0,
      .tabsd 0 1 2 0 0 0, .tcmp 0 1 2 0 1 0 5, .tsel 0 1 2 3, .tcvt 0 1 0 1 15 3 3, .tshift 0 1 0 1 16, .tand 0 1 2 0 0, .tor 0 1 2 0 0,
      .tlut 0 1 2, .rrot 0 1 0 0 63, .rbc 0 1 15 1 0, .rred 0 1 0 1 0, .crot 0 1 0 0 15, .cbc 0 1 0 0 15, .cred 0 1 2 0 2, .txmv 0 7],
      SlotIssues (slotOf lineCore 1 2) (sis 1 2) i ∧ ∃ q, tileForm (sis 1 2) (lineOf (slotOf lineCore 1 2) 0) i = some q ∧
        ∀ t ∈ q.srcs, tileBad (lineOf (slotOf lineCore 1 2) 0) t.1 t.2 = false) := by
  intro i h
  simp only [List.mem_cons, List.not_mem_nil, or_false] at h
  rcases h with rfl | rfl | rfl | rfl | rfl | rfl | rfl | rfl | rfl | rfl | rfl | rfl | rfl | rfl | rfl | rfl | rfl | rfl | rfl | rfl |
    rfl <;> exact ⟨slotIssues (by decide), _, rfl, by intro t _; rfl⟩

/-- TGATH from k2 = 32; a queue of seven entries; a finished product. -/
def mEntry : MEntry := { a := [], set := 0, acc := false, started := some 0, w := [], out := some (List.replicate 1024 0x3F800000) }

theorem witness_tile_queue :
    (SlotIssues (slotOf lineCore 1 1) (sis 1 1) (.tgath 0 1 2 2 20) ∧
      ∀ j, j < 1024 → ((getD 0#32 lineCore.k 2).toNat + 2 * tileAt lineCore 0 1 j + tileAt lineCore 0 2 j * 2 ^ 20) % 2 = 0 ∧
        (getD 0#32 lineCore.k 2).toNat + 2 * tileAt lineCore 0 1 j + tileAt lineCore 0 2 j * 2 ^ 20 + 2 ≤ 0x180000 ∧
        lbView (slotOf lineCore 1 1).tick lineCore 1 none
          ((getD 0#32 lineCore.k 2).toNat + 2 * tileAt lineCore 0 1 j + tileAt lineCore 0 2 j * 2 ^ 20) 2 = some [0, 0]) ∧
    (let l := { lineCore with mq := List.replicate 7 mEntry }
     SlotIssues (slotOf l 1 1) (sis 1 1) (.tmatq 7 1 3) ∧ lineOf (slotOf l 1 1) 0 = l ∧ l.tileErr = [] ∧
       l.mq.length + (l.fx.filter (fun f => match f with | .enq _ => true | _ => false)).length < 8) ∧
    (let l := { lineCore with mq := [mEntry] }
     SlotIssues (slotOf l 1 2) (sis 1 2) (.tmatr 7) ∧ poppable 0 l.mqLeft = some 0 ∧ l.mqLeft[0]? = some mEntry ∧
       mEntry.out = some (List.replicate 1024 0x3F800000)) :=
  ⟨⟨slotIssues (by decide), fun _ _ => ⟨by simp [lineCore, tileAt, getD, lookup, LineCore.init], by simp [lineCore, tileAt, getD, lookup, LineCore.init],
     by rfl⟩⟩,
   ⟨slotIssues (by decide), rfl, rfl, by decide⟩, slotIssues (by decide), by decide +kernel, rfl, rfl⟩
/-! ### Witnesses: requests and answers -/

/-- A request of lane 0 for 0x400, its instruction waiting, and the block at its home. -/
def reqOf (op : MemOp) (stage : Stage) : Req := { warpReq x1 wMem 1 1 0x400 4 op 8 4 0 false false false false false with stage := stage }
def waitB : Infl := { iid := 1, pc := 64, len := 8, inst := 0, lanes := 1, pathMask := 1, open_ := [2], faults := [], derr := [] }
def wWait : Warp := { wMem with infl := [waitB], lanes := [(0, { thread 0 with wait := .mem 1 }), (1, thread 1)] }
def homeBlock : L2Block := {
  pid := 0, atag := 0, vb := 8, pa := 8, blk := ⟨15, blockOf [1, 2, 3, 4]⟩, sp := [], lv := 3, dirty := false, rd := true,
  wr := true, ex := true, comp := false, pol := 0, gen := 0, win := false }
def flying (op : MemOp) (stage : Stage) : State :=
  { withBlock (issuing wWait probeGroup 1 8) 8 (blockOf [1, 2, 3, 4]) with cur := .idle, reqs := [(2, reqOf op stage)], nextId := 3 }

theorem unrefusedWith {ε α : Type} {p : Except ε α × State} {P : State → Prop}
    (h : (match p.1 with | .ok _ => true | .error _ => false) = true) (k : P p.2) : ∃ v u, p = (.ok v, u) ∧ P u := by
  obtain ⟨v, u, rfl⟩ := unrefusedRead h
  exact ⟨v, u, rfl, k⟩

theorem pairWith {α β : Type} [DecidableEq α] {p : α × β} {v : α} {P : β → Prop} (h : decide (p.1 = v) = true) (k : P p.2) :
    ∃ u, p = (v, u) ∧ P u := ⟨p.2, Prod.ext (of_decide_eq_true h) rfl, k⟩

theorem witness_home_accesses :
    (∀ r ∈ [reqOf (.store [9, 9, 9, 9]) .toHome, reqOf .load .toHome, reqOf .ldr .toHome],
      let s := flying r.op r.stage
      lookup s.reqs 2 = some r ∧ behind s 2 r = false ∧ queuedBehind s 2 r = false ∧ regionOf r.va ≠ .aperture ∧
      twinOf s 2 r = none ∧ (∃ u, homeHit (leaveCore s 2 r) r.part r.atag r.vb = (some (0, homeBlock), u) ∧
        lookup u.reqs 2 = some { r with sent := true } ∧ twinOf u 2 r = none) ∧
      permits homeBlock.rd homeBlock.wr homeBlock.ex r.op.need = true ∧ AllLive s r.core ∧
      ∀ w, warpAt? s r.core r.wslot = some w → ∀ f ∈ w.infl, f.faults = []) ∧
    (∀ r ∈ [reqOf .load .accepted, reqOf (.store [9, 9, 9, 9]) .accepted, reqOf (.atomic 0 1 [(0, 5, 0)]) .accepted],
      let s := flying r.op r.stage
      lookup s.reqs 2 = some r ∧ behind s 2 r = false ∧ regionOf r.va ≠ .aperture ∧
      ∃ u, homeHit s r.part r.atag r.vb = (some (0, homeBlock), u) ∧ lookup u.reqs 2 = some r) ∧
    blockBytes homeBlock = .ok (blockOf [1, 2, 3, 4]) ∧
    tooBig (flying .load .accepted) (rewritten (flying .load .accepted) homeBlock (blockOf [9, 9, 9, 9])) = false := by
  refine ⟨?_, ?_, of_gave (by decide +kernel), by decide +kernel⟩ <;> intro r h <;>
    simp only [List.mem_cons, List.not_mem_nil, or_false] at h
  · rcases h with rfl | rfl | rfl <;>
      refine ⟨by decide, by decide, by decide, by decide, by decide, pairWith (by decide +kernel) (by decide +kernel), by decide,
        by unfold AllLive; decide, ?_⟩ <;> intro w hw <;> cases hw <;> decide
  · rcases h with rfl | rfl | rfl <;> exact ⟨by decide, by decide, by decide, pairWith (by decide +kernel) (by decide +kernel)⟩

/-- The two halves of a store of 16 bytes at 0x400, whose block may not be written. -/
def halfOf (va : VA) : Req := warpReq x1 wMem 1 1 va 8 (.store (List.replicate 8 9)) 255 0 0 false false false true false
def sHalves : State := { flying .load .toHome with reqs := [(2, halfOf 0x400), (3, halfOf 0x408)], nextId := 4 }

theorem witness_halves :
    lookup sHalves.reqs 2 = some (halfOf 0x400) ∧ (halfOf 0x400).stage = .toHome ∧ behind sHalves 2 (halfOf 0x400) = false ∧
      queuedBehind sHalves 2 (halfOf 0x400) = false ∧ regionOf (halfOf 0x400).va ≠ .aperture ∧
      twinOf sHalves 2 (halfOf 0x400) = some (3, halfOf 0x408) ∧ (halfOf 0x400).op.isStore = true ∧
      ∃ u, homeHit (leaveCore (leaveCore sHalves 2 (halfOf 0x400)) 3 (halfOf 0x408)) 0 (halfOf 0x400).atag (halfOf 0x400).vb =
          (some (0, homeBlock), u) ∧
        twinOf u 2 (halfOf 0x400) = some (3, { halfOf 0x408 with sent := true }) ∧
        lookup u.reqs 2 = some { halfOf 0x400 with sent := true } ∧ lookup u.reqs 3 = some { halfOf 0x408 with sent := true } :=
  ⟨by decide, rfl, by decide, by decide, by decide, by decide, rfl, pairWith (by decide +kernel) (by decide +kernel)⟩

/-- Page tables of partition 0 in its L2: the context entry at 0, a leaf of 1 GiB at 0x100; levels 0 and 1 cached. -/
def bit63 : Nat := 2 ^ 63
def sWalk (stage : Stage) : State :=
  let s := flying .load stage
  let s := withBlock (withBlock s ((apertureVA 0).toNat / 128) (blockOf (toBytes 8 bit63))) ((apertureVA 0x100).toNat / 128)
    (blockOf (toBytes 8 (bit63 + 3 * 2 ^ 61 + 7 * 2 ^ 52)))
  { s with
    l2 := remove s.l2 (l2Key 0 8)
    root := { s.root with cxtb := [(0, BitVec.ofNat 64 bit63)], chmap := [(0, 0x80000000)] }
    wcache := [(0, [⟨0, 0, 0, 0, 0⟩, ⟨0, 0, 1, 0, 0x100⟩])] }
def leafA : Leaf := { vbase := 0, size := 2 ^ 30, pbase := 0, apl := 0, comp := false, pol := 0, ex := true, wr := true, rd := true }

/-- The same with the leaf in the TLB. -/
def sMiss (stage : Stage) : State := { sWalk stage with tlb := [(0, [⟨0, 0, leafA⟩])] }
def fromZero : PBlock := ⟨15, zeroBlock⟩

theorem witness_misses :
    (let s := sWalk .needWalk
     let r := reqOf .load .needWalk
     lookup s.reqs 2 = some r ∧ homeSlice s r.part r.vb r.atag = some 0 ∧ tlbFind s (xlatUnit 0) r.part r.atag r.va.toNat = none ∧
       ∃ u, walk s (xlatUnit 0) r.part r.atag r.va.toNat = (.ok leafA, u) ∧ lookup u.reqs 2 = some r) ∧
    (let s := sMiss .needMem
     let r := reqOf .load .needMem
     lookup s.reqs 2 = some r ∧ fetching s r = false ∧ leafFor s r = some leafA ∧
       locate s r.part (nbits (r.blockPA s leafA) 0 41) = some (locOf 0 false 8) ∧
       ∃ u, fetchBlock s 0 (locOf 0 false 8) (r.blockPA s leafA) = (.ok fromZero, u) ∧ lookup u.reqs 2 = some r) ∧
    (let s := sMiss (.fetched (some fromZero))
     let r := reqOf .load (.fetched (some fromZero))
     lookup s.reqs 2 = some r ∧ homeSlice s r.part r.vb r.atag = some 0 ∧ leafFor s r = some leafA ∧
       ∃ u, homeHit (setStage s 2 .toHome) r.part r.atag r.vb = (none, u) ∧ lookup u.reqs 2 = some { r with stage := .toHome } ∧
         homeSlice u r.part r.vb r.atag = some 0 ∧ leafFor u r = some leafA ∧
         tooBig u { (installBlock u 0 r.part r.atag r.vb (r.blockPA u leafA) leafA fromZero r.stream).1 with
           blk := fromZero, dirty := false } = false ∧
         tooBig (installBlock u 0 r.part r.atag r.vb (r.blockPA u leafA) leafA fromZero r.stream).2
           (installBlock u 0 r.part r.atag r.vb (r.blockPA u leafA) leafA fromZero r.stream).1 = false) :=
  ⟨⟨by decide, by decide, by decide, accessedWith (by decide +kernel) (by decide +kernel)⟩,
   ⟨by decide, by decide, by decide, by decide +kernel, accessedWith (by decide +kernel) (by decide +kernel)⟩,
   by decide, by decide, by decide, _, Prod.ext (by decide +kernel) rfl, by decide +kernel, by decide +kernel, by decide +kernel,
   by decide +kernel, by decide +kernel⟩

/-- Answers: a load, an acquiring load, a store, an atomic, and a node that no port leads to. -/
theorem witness_answers :
    (let r := reqOf .load (.replied [5])
     lookup (flying r.op r.stage).reqs 2 = some r ∧ r.op.isLoad = true ∧ r.acquire = false ∧ r.wslot ≠ noWarp ∧
       warpAt? (flying r.op r.stage) r.core r.wslot = some wWait) ∧
    (let r := { reqOf .load (.replied [5]) with acquire := true }
     let s := { flying r.op r.stage with reqs := [(2, r)] }
     lookup s.reqs 2 = some r ∧ warpAt? s r.core r.wslot = some wWait ∧ AllLive s r.core ∧ wWait.infl = [waitB] ∧ waitB.iid = r.iid) ∧
    (let r := reqOf (.store [9, 9, 9, 9]) .checked
     let s := flying r.op r.stage
     lookup s.reqs 2 = some r ∧ r.op.isStore = true ∧ warpAt? s r.core r.wslot = some wWait ∧ AllLive s r.core) ∧
    (let r := reqOf (.atomic 0 1 [(0, 5, 0)]) (.replied [1, 6])
     let s := flying r.op r.stage
     lookup s.reqs 2 = some r ∧ r.op.replyLanes ≠ [] ∧ r.acquire = false ∧ warpAt? s r.core r.wslot = some wWait) ∧
    (let r := { reqOf .load .remote with snap := toBytes 8 (2 ^ 41) }
     let s := { flying r.op r.stage with reqs := [(2, r)] }
     lookup s.reqs 2 = some r ∧ nodeOf r.farPA = 1 ∧ portsTo s (nodeOf r.farPA) = [] ∧ warpAt? s r.core r.wslot = some wWait ∧ AllLive s r.core) :=
  ⟨⟨by decide, rfl, rfl, by decide, rfl⟩, ⟨by decide, rfl, by unfold AllLive; decide, rfl, rfl⟩,
   ⟨by decide, rfl, rfl, by unfold AllLive; decide⟩, ⟨by decide, by decide, rfl, rfl⟩,
   by decide, by decide, by decide +kernel, rfl, by unfold AllLive; decide⟩

/-! ### Witnesses: channels, ports, maintenance, window registers -/

/-- A far row held in slot 0 of bank 2 of channel 1, dirty, and one byte of memory. -/
def sRow : State := { State.reset with dram := { Dram.init with
  mem := [(rowKey 1 2 1030 5, 9#8)], ptag := [(ptagKey 1 2 0, { dirty := true, pri := 1, frow := 1025, seq := 4 })],
  pctr := [(34, 4)], autoq := [(1, 2, 1030, 0)], resetting := [7] } }

theorem witness_rows :
    (farRow 1 2 1030 = true ∧ chanDraining sRow 1 = false ∧ promSlot sRow 1 2 1030 = none ∧ Memory.wf sRow.dram.mem = true ∧
      lookup sRow.dram.ptag (ptagKey 1 2 1) = none ∧ (∀ j, j < 1 → lookup sRow.dram.ptag (ptagKey 1 2 j) ≠ none) ∧
      getD 0 sRow.dram.pctr (1 * 32 + 2) < 2 ^ 40 - 1) ∧
    (farRow 1 2 1025 = true ∧ promSlot sRow 1 2 1025 = some 0 ∧
      lookup sRow.dram.ptag (ptagKey 1 2 0) = some { dirty := true, pri := 1, frow := 1025, seq := 4 }) ∧
    sRow.dram.autoq.find? (fun e => e.1 == 1) = some (1, 2, 1030, 0) ∧
    sRow.root.chmap.any (fun e => chValid e.2 && chLsz e.2 != 7 && chChan e.2 == 1) = false ∧ 1 ∉ sRow.dram.resetting ∧ 7 ∈ sRow.dram.resetting :=
  ⟨⟨by decide, by decide, by decide, by decide, by decide, by decide, by decide⟩, ⟨by decide, by decide, by decide⟩,
   by decide, by decide, by decide, by decide⟩

/-- A counter at its end; a written row with errors, one with another row's guard word, and one never written; a port with a
transaction that waits, one that trains, and one that never came up. -/
def sBank : State := { sRow with
  dram := { sRow.dram with
    pctr := [(34, 2 ^ 40 - 1)], errs := [(rowKey 1 2 1030 128, 2), (rowKey 1 2 1030 256, 5)]
    mem := writeRun (writeRun [] (rowKey 1 2 1030 2040) (toBytes 8 (guardWord 1 2 1030))) (rowKey 1 2 1031 2040) (toBytes 8 (guardWord 1 2 1030)) }
  ports := [(3, { Port.init with up := true, replay := [{ seq := 0, gid := 0, head := [], load := .none }] }),
    (4, { Port.init with up := true, training := true })] }

theorem witness_channels :
    (2 ^ 40 - 1 ≤ getD 0 sBank.dram.pctr (1 * 32 + 2) ∧ getD 0 sBank.dram.pctr (1 * 32 + 3) < 2 ^ 40 - 1) ∧
    (rowHeld sBank 1 2 1030 = some 1030 ∧ guardSays sBank 1 2 1030 1030 = .good) ∧
    (rowHeld sBank 1 2 1031 = some 1031 ∧ guardSays sBank 1 2 1031 1031 = .bad) ∧
    (rowHeld sBank 1 2 513 = none ∧ rowHeld sBank 1 2 1032 = some 1032 ∧ guardSays sBank 1 2 1032 1032 = .reset) ∧
    ((portOf sBank 3).up = true ∧ (portOf sBank 3).training = false ∧ (portOf sBank 3).replay ≠ []) ∧
    (portOf sBank 4).training = true ∧ (portOf sBank 5).up = false ∧ (portOf sBank 5).training = false := by decide +kernel

/-- The maintenance ring of partition 0 at 0x1000 with one record, for these operations; memory through channel 0. -/
def maintBytes (op pages : Nat) : List Byte :=
  toBytes 8 (op * 2 ^ 56) ++ toBytes 8 0 ++ toBytes 8 pages ++ toBytes 8 0 ++ toBytes 8 0 ++ toBytes 8 0 ++ toBytes 8 0 ++ toBytes 8 0
def sMaint (op : Nat) : State :=
  let s := withBlock State.reset ((apertureVA 0x1000).toNat / 128) (blockOf (maintBytes op 1))
  let s := { s with root := { s.root with chmap := [(0, 0x80000000)], cxtb := [(0, BitVec.ofNat 64 (2 ^ 63))] } }
  setWin32 (setWin64 (setWin32 s 0 oMQCTL (2 ^ 31)) 0 oMQBASE 0x1000) 0 oMQTAIL 1

theorem someWith {α β : Type} [DecidableEq α] {p : Option α × β} {v : α} {P : β → Prop} (h : decide (p.1 = some v) = true)
    (k : P p.2) : ∃ u, p = (some v, u) ∧ P u := ⟨p.2, Prod.ext (of_decide_eq_true h) rfl, k⟩

/-- A stalled warp whose wait has passed. -/
def stallW : Stall :=
  { pc := 64, inst := 0, len := 8, faults := [⟨0, 0x400, .notMapped, 0, 1⟩], accst := none, retryAt := 0, backoff := 64 }
def sStall : State := issuing { warp2 with stall := [stallW] } probeGroup 3 8

theorem witness_maintenance :
    (∃ u, maintRecord (sMaint 0) 0 = (some (maintBytes 0 1), u) ∧ True) ∧ maintOk (maintBytes 0 1) = true ∧
    mOp (maintBytes 0 1) = 0 ∧
    (∀ op ∈ [1, 2, 3], (∃ u, maintRecord (sMaint op) 0 = (some (maintBytes op 1), u) ∧ True) ∧
      mOp (maintBytes op 1) = op ∧ maintOk (maintBytes op 1) = true ∧
      (maintSweep 0 (maintBytes op 1)).busy (maintRecord (sMaint op) 0).2 = false ∧
      (maintRecord (sMaint op) 0).2.reqs = []) ∧
    ((warpAt sStall 0 0).stall = stallW :: [] ∧ stallW.retryAt ≤ cycOf sStall 0 ∧ groupFaults stallW.faults ≠ [] ∧
      (warpAt? sStall 0 0).isSome = true ∧ faultRoom sStall (warpAt sStall 0 0).part < (groupFaults stallW.faults).length) ∧
    (groupFaults stallW.faults).length ≤ faultRoom (setWin32 sStall 0 oFBCTL (2 ^ 31 + 6)) 0 := by
  refine ⟨someWith (by decide +kernel) trivial, by decide, by decide, ?_, ⟨rfl, by decide, by decide, rfl, by decide⟩, by decide⟩
  intro op h
  simp only [List.mem_cons, List.not_mem_nil, or_false] at h
  rcases h with rfl | rfl | rfl <;>
    exact ⟨someWith (by decide +kernel) trivial, by decide, by decide, by decide +kernel, by decide +kernel⟩

/-- A queue that errored, its BLOCK bit set. -/
theorem witness_window :
    win32 (setWin32 State.reset 0 (oLQSTAT 5) (2 ^ 31 + 2)) 0 (oLQSTAT 5) / 2 ^ 31 % 2 = 1 ∧ 7 / 2 ^ 31 % 2 = 0 ∧ 13 % 16 ≤ 13 ∧ 14 ≤ 14 % 16 ∧ 14 ≤ 15 % 16 ∧
    win32 (setWin32 State.reset 0 oMQCTL (2 ^ 31 + 4)) 0 oMQCTL / 2 ^ 31 % 2 = 1 := by decide

/-! ### Witnesses: the engines -/

/-- A group with one command in a ring of 16 words at 128, and the state of its ring. -/
def gCmd (ring : Nat) (words : List Nat) (r : Ring) : Group :=
  { probeGroup with
    spad := writeRun (writeRun (writeRun [] (32 * ring) (toBytes 8 (16 * 2 ^ 32 + 4 * 2 ^ 28 + 1))) (32 * ring + 8) (toBytes 4 words.length))
      128 (words.flatMap (toBytes 8))
    rings := [(ring, r)] }
def hdr (opc npay : Nat) : Nat := opc * 2 ^ 40 + npay * 2 ^ 32
def inUse : Ring := { Ring.init with used := true }
def ringTurn : Ring := { inUse with act := true }
/-- COPY of 8 bytes of the region from 200 to 216, FILL of 5 at 216, SCADD of no element. -/
def wCopy : List Nat := [hdr 1 3, 2 ^ 63 + 200, 2 ^ 63 + 216, 8]
def wFill : List Nat := [hdr 6 3, 2 ^ 63 + 216, 5, 0x807060504030201]
def wScadd : List Nat := [hdr 16 5, 2 ^ 63, 2 ^ 63, 2 ^ 63, 0, 1]
def sCmd (ring : Nat) (words : List Nat) (r : Ring) : State := setCore State.reset 0 { Core.init with groups := [(0, gCmd ring words r)] }
def cmdOf (ring : Nat) (words : List Nat) : Cmd := cmdAt (gCmd ring words inUse) (ringEntry (gCmd ring words inUse) ring)

/-- A ring's command and entry do not depend on its progress. -/
theorem witness_engine_start :
    ∀ e ∈ [(Instr.copy 0 0 0, 0, 1, wCopy), (Instr.fill 0 0 1, 1, 6, wFill), (Instr.scadd 0 0 2, 2, 16, wScadd)],
      let y := gCmd e.2.1 e.2.2.2 inUse
      let c := cmdOf e.2.1 e.2.2.2
      engineCommand e.1 = some (⟨0, 0, e.2.1⟩, e.2.2.1) ∧ groupAt (sCmd e.2.1 e.2.2.2 inUse) 0 0 = some y ∧
      engineServes y e.2.1 = true ∧ y.spadErr = [] ∧ c.opc = e.2.2.1 ∧ cmdOk e.2.1 c = true ∧ (ringOf y e.2.1).act = false ∧
      hWsem c.h ≤ y.rec_.sems ∧ hSsem c.h ≤ y.rec_.sems ∧ hThr c.h ≤ semGet y (hWsem c.h) ∧
      (e.2.1 = 2 ∨ ∃ ds, startDescr y c = .ok ds) := by
  intro e h
  simp only [List.mem_cons, List.not_mem_nil, or_false] at h
  rcases h with rfl | rfl | rfl <;>
    exact ⟨by decide, rfl, by decide +kernel, rfl, by decide +kernel, by decide +kernel, by decide, by decide +kernel, by decide +kernel,
      by decide +kernel, by first | exact .inl rfl | exact .inr ⟨_, by rfl⟩⟩

theorem okWith {ε α : Type} {p : Except ε α × State} {P : State → Prop}
    (h : (match p.1 with | .ok _ => true | .error _ => false) = true) (k : P p.2) : ∃ v u, p = (.ok v, u) ∧ P u := by
  obtain ⟨a, u⟩ := p
  cases a with
  | ok v => exact ⟨v, u, rfl, k⟩
  | error e => cases h

theorem witness_engine_turn :
    (let y := gCmd 0 wCopy ringTurn
     let c := cmdOf 0 wCopy
     engineServes y 0 = true ∧ cmdAt y (ringEntry y 0) = c ∧ (ringOf y 0).act = true ∧ (ringOf y 0).fin = false ∧
       (ringOf y 0).moved = (ringOf y 0).cursor ∧
       (∃ v u, transferChunk ⟨0, 0, 0⟩ c 0 (sCmd 0 wCopy ringTurn) = (.ok v, u) ∧ (groupAt u 0 0).isSome = true) ∧
       hChn c.h = false ∧ c.w 0 / 2 ^ 63 % 2 = 1 ∧ c.w 1 / 2 ^ 63 % 2 = 1 ∧ c.w 0 % 2 ^ 19 + cLen c ≤ c.w 1 % 2 ^ 19 ∧
       c.w 0 % 2 ^ 19 + 4096 * 0 + min 4096 (cLen c - 4096 * 0) ≤ 256 * y.rec_.spad ∧
       c.w 1 % 2 ^ 19 + 4096 * 0 + min 4096 (cLen c - 4096 * 0) ≤ 256 * y.rec_.spad) ∧
    (let y := gCmd 1 wFill ringTurn
     let c := cmdOf 1 wFill
     engineServes y 1 = true ∧ cmdAt y (ringEntry y 1) = c ∧ c.opc = 6 ∧ (ringOf y 1).moved = (ringOf y 1).cursor ∧ hChn c.h = false ∧
       c.w 0 / 2 ^ 63 % 2 = 1 ∧ c.w 0 % 2 ^ 19 + 4096 * 0 + min 4096 (cLen c - 4096 * 0) ≤ 256 * y.rec_.spad) ∧
    (let y := gCmd 2 wScadd ringTurn
     engineServes y 2 = true ∧ ∃ v u, saeWindow ⟨0, 0, 2⟩ (cmdOf 2 wScadd) 0 0 (sCmd 2 wScadd ringTurn) = (.ok v, u) ∧ (groupAt u 0 0).isSome = true) :=
  ⟨⟨by decide +kernel, by decide +kernel, by decide, by decide, by decide, okWith (by decide +kernel) (by decide +kernel), by decide +kernel,
     by decide +kernel, by decide +kernel, by decide +kernel, by decide +kernel, by decide +kernel⟩,
   ⟨by decide +kernel, by decide +kernel, by decide +kernel, by decide, by decide +kernel, by decide +kernel, by decide +kernel⟩,
   by decide +kernel, okWith (by decide +kernel) (by decide +kernel)⟩

/-- COPY with a barrier object at 240 of which its 8 bytes are what is left; COPY with a chain of no stage, and of a checksum at 232. -/
def wBar : List Nat := [hdr 1 4 + 2, 2 ^ 63 + 200, 2 ^ 63 + 216, 8, 240]
def objLeft : Nat := mkObj 8 false false 0 1 0
def gBar : Group := let y := gCmd 0 wBar { ringTurn with moved := 1 }; { y with spad := writeRun y.spad 240 (toBytes 8 objLeft) }
def wChn (id : Nat) : List Nat := [hdr 1 4 + 1, 2 ^ 63 + 200, 2 ^ 63 + 216, 8, 8 * 2 ^ 24 + id]
def gChn (id : Nat) : Group := gCmd 0 (wChn id) { ringTurn with fin := true, descr := [2 ^ 63 + 232, 0, 0, 0, 0, 0] }
def crcStage : Stg := ⟨7, 8, 2 ^ 63 + 232⟩

/-- A chunk moved and not yet counted; a command whose chunks are all counted; a parked ring whose PARK is cleared, with a command
at HEAD and without. -/
theorem witness_engine_end :
    ((ringOf (gCmd 0 wCopy { ringTurn with moved := 1 }) 0).act = true ∧
      (ringOf (gCmd 0 wCopy { ringTurn with moved := 1 }) 0).cursor < (ringOf (gCmd 0 wCopy { ringTurn with moved := 1 }) 0).moved ∧
      hBar (cmdAt (gCmd 0 wCopy { ringTurn with moved := 1 }) (ringEntry (gCmd 0 wCopy { ringTurn with moved := 1 }) 0)).h = false) ∧
    (let c := cmdAt gBar (ringEntry gBar 0)
     (ringOf gBar 0).act = true ∧ (ringOf gBar 0).cursor < (ringOf gBar 0).moved ∧ gBar.spadErr = [] ∧ hBar c.h = true ∧ c.barOff = 240 ∧
       ofBytes (spadRead gBar c.barOff 8) = objLeft ∧ chunkBytes (ringOf gBar 0).descr c 0 = 8 ∧
       objPhase (objUpdate objLeft (-8) false) ≠ objPhase objLeft) ∧
    (let y := gCmd 0 wCopy { ringTurn with fin := true }
     (ringOf y 0).act = true ∧ (ringOf y 0).fin = true ∧ (ringOf y 0).parked = false ∧ hChn (cmdAt y (ringEntry y 0)).h = false) ∧
    (∀ n ∈ [0, 4], let y := gCmd 0 (wCopy.take n) { inUse with parked := true }
     (ringOf y 0).parked = true ∧ y.saving = none ∧ (ringEntry y 0).park = false ∧ (ringEntry y 0).tail = n) := by decide +kernel

theorem witness_engine_chain :
    (∀ id ∈ [0, 7], (ringOf (gChn id) 0).act = true ∧ (ringOf (gChn id) 0).fin = true ∧ (ringOf (gChn id) 0).parked = false ∧
      (gChn id).spadErr = []) ∧
    (∃ ch, cmdChain (cmdAt (gChn 0) (ringEntry (gChn 0) 0)) (ringOf (gChn 0) 0).descr = .ok (some ch) ∧ checksumOf ch.rev = none) ∧
    ∃ ch, cmdChain (cmdAt (gChn 7) (ringEntry (gChn 7) 0)) (ringOf (gChn 7) 0).descr = .ok (some ch) ∧
      checksumOf ch.rev = some (crcStage, []) ∧
      ∃ v u, engWrite ⟨0, 0, 0⟩ crcStage.dw 0 4 (toBytes 4 ((ringOf (gChn 7) 0).crc.toNat ^^^ 0xFFFFFFFF))
        (setCore State.reset 0 { Core.init with groups := [(0, gChn 7)] }) = (.ok v, u) ∧ (groupAt u 0 0).isSome = true :=
  ⟨by decide +kernel, ⟨⟨8, [], 8⟩, by rfl, by rfl⟩, ⟨8, [crcStage], 8⟩, by rfl, by rfl, okWith (by decide +kernel) (by decide +kernel)⟩

/-! ### Witnesses: grids -/

/-- A grid of one group of the record of `recBytes`, of record 5 of queue 3, and a child of it. -/
def rec1 : LaunchRec := parseRecord recBytes
def grid1 : Grid := Grid.fresh rec1 0 7 0 0 (some (3, 5)) none
def child1 : Child := { rec_ := rec1, asid := 0, pri := 7, depth := 1, uid := 9, parent := 0, group := 0, counts := none }
def partWith (p : Part) : State := { State.reset with
  parts := [(0, p)], root := { Root.init with corst := [(0, 2#32)], chmap := [(0, 0x80000000)], cxtb := [(0, BitVec.ofNat 64 (2 ^ 63))] } }

theorem witness_child_dispatch :
    (partOf (partWith { Part.init with childq := [child1] }) 0).childq.find? (fun c => c.pri == 7) = some child1 ∧
    child1.counts = none ∧ child1.rec_.gx * child1.rec_.gy * child1.rec_.gz ≠ 0 := by decide

/-- Queue 0 at 0x1000 with one record, of priority 7. -/
def sQueue : State :=
  let s := withBlock (partWith Part.init) ((apertureVA 0x1000).toNat / 128) recBytes
  let s := { s with root := { s.root with chmap := [(0, 0x80000000)], cxtb := [(0, BitVec.ofNat 64 (2 ^ 63))] } }
  setWin32 (setWin64 (setWin32 s 0 (oLQCTL 0) (2 ^ 31 + 7 * 2 ^ 28 + 4)) 0 (oLQBASE 0) 0x1000) 0 (oLQTAIL 0) 1

theorem witness_queue_dispatch :
    (partOf sQueue 0).childq = [] ∧ turnsAt (partOf sQueue 0) 7 = [0] ∧
      (∃ u, headOfQueue sQueue 0 0 = (.ready rec1, u) ∧ True) ∧ rec1.gx * rec1.gy * rec1.gz ≠ 0 :=
  ⟨rfl, by decide, pairWith (by decide +kernel) trivial, by decide⟩

def sGrid : State := partWith { Part.init with grids := [(4, grid1)] }

theorem witness_placement :
    lookup (partOf sGrid 0).grids 4 = some grid1 ∧ grid1.rec_.setSize = 1 ∧ mayPlace sGrid 0 (dieOf 0) 4 grid1 = true ∧
    coreFits sGrid 0 0 grid1.rec_ grid1.rec_.warps = true ∧ waitingGrids (partOf sGrid 0) = [(4, grid1)] ∧
    blockerOf (partOf sGrid 0) 1 = none := by decide

/-- An ended group, with and without a running child; a retire record without children. -/
def gEnded (cs : List Nat) : Group := { probeGroup with ended := true, children := cs }
def sEnded (cs : List Nat) : State := setCore sGrid 0 { Core.init with
  groups := [(2, gEnded cs)], retire := [(0, { part := 0, grid := 4, linear := 0, children := [] })] }

theorem witness_retirement :
    (∀ cs ∈ [[], [9]], groupAt (sEnded cs) 0 2 = some (gEnded cs) ∧ regionFree (sEnded cs) 0 2 (gEnded cs) = true) ∧
    (upto 64).find? (fun i => (lookup (coreOf (sEnded [9]) 0).retire i).isNone) = some 1 ∧
    lookup (coreOf (sEnded []) 0).retire 0 = some { part := 0, grid := 4, linear := 0, children := [] } := by
  refine ⟨?_, by decide, by decide⟩
  intro cs h
  simp only [List.mem_cons, List.not_mem_nil, or_false] at h
  rcases h with rfl | rfl <;> exact ⟨rfl, by decide⟩

/-- A grid of a queue record, and one of a parent, whose groups have retired. -/
def gridDone : Grid := { grid1 with retired := 1, next := 1 }
def sDone : State := setWin32 (setWin32 (partWith { Part.init with grids :=
  [(4, gridDone), (5, { gridDone with src := none, parent := some (7, 0) }), (7, grid1)] }) 0 (oLQPDONE 3) 5) 0 (oLQCDONE 3) 5

theorem witness_completion :
    (∀ e ∈ [(4, gridDone), (5, { gridDone with src := none, parent := some (7, 0) })],
      lookup (partOf sDone 0).grids e.1 = some e.2 ∧ e.2.retired = e.2.total ∧ e.2.children = 0 ∧ e.2.spilled = [] ∧
      (∀ x ∈ (partOf sDone 0).slots, x.2.grid ≠ e.1) ∧ ∀ x ∈ sDone.cores, gridOn 0 e.1 x.2 = false) ∧
    sDone.reqs = [] ∧ gridDone.src = some (3, 5) ∧ (partOf sDone 0).marks = [] ∧ win32 sDone 0 (oLQPDONE 3) = 5 ∧ win32 sDone 0 (oLQCDONE 3) = 5 := by
  decide +kernel

/-- A ready record, whose wait has passed, of group 0 of grid 4 on core 0; a spilled one of the same grid. -/
def recC : ContRec := { tpc := 0x200, kind := 0, free := false, apart := false, level := 0, npay := 1, nres := 0, rdy := true, group := 0, grid := 4, part := 0,
                        gslot := 2, tx := 0, ty := 0, tz := 0, windex := 0, pay := [7], since := 0, rank := 1, uid := 1, core := 0, saw := [] }
def sCont : State := setCore (partWith { Part.init with grids := [(4, { grid1 with spilled := [{ recC with uid := 5 }, { recC with uid := 3 }] })] }) 0
  { Core.init with cyc := 600, groups := [(2, { probeGroup with grid := 4 })], contq := [recC] }

theorem witness_continuation :
    (coreOf sCont 0).contq.find? (fun r => r.uid == 1) = some recC ∧
    (lookup (partOf sCont recC.part).grids recC.grid).map (·.rec_) = some rec1 ∧
    quadSlots (coreOf sCont 0) 1 = (upto 16).map (16 + ·) ∧ (eligible (coreOf sCont 0) recC).take 32 = [recC] ∧
    quadRoom (coreOf sCont 0) 1 rec1.regs rec1.acc ≠ 0 ∧
    formsNow sCont 0 (eligible (coreOf sCont 0) recC) = true ∧
    0 ∉ (partOf sCont 0).held ∧ coreOwned sCont 0 0 = true ∧ keyReady sCont 0 recC = true ∧
    (coreOf sCont 0).contq.length < contQueueSize ∧ corePart sCont 0 = 0 ∧
    { recC with uid := 3 } ∈ (partOf sCont 0).grids.flatMap (fun e => e.2.spilled.filterMap (returnsTo sCont 0)) ∧
    ∀ q ∈ (partOf sCont 0).grids.flatMap (fun e => e.2.spilled.filterMap (returnsTo sCont 0)),
      q = { recC with uid := 3 } ∨ 3 < q.uid := by decide

/-! ### Witnesses: traps that wait, saves and restorations -/

def trap1 : Trap := { code := 2, detail := 0, aux := 0, mask := 3, elem := 0, addr := 0x400, inst := 0, pc := 64, len := 8 }
/-- A record of lane 0 of warp 0 of group 0, of a load, answered with DELIVER. -/
def rec0 (answer : Option Nat) : FaultRec :=
  { seq := 4, grid := 0, unit := groupUnit 0 0, wslot := 0, lmask := 1, pc := 64, va := 0x400, cause := 0, acc := 0, inst := 0, len := 8,
    engine := none, accst := none, answer := answer }
def sDelivered : State := { issuing warp2 probeGroup 3 8 with parts := [(0, { Part.init with faults := [rec0 (some 1)] })] }

theorem witness_waiting_trap :
    (let w := { warp2 with trapPend := some trap1 }
     warpAt? (issuing w probeGroup 3 8) 0 0 = some w ∧ w.trapPend = some trap1 ∧ HandlerReady w) ∧
    (∃ t, accessTrap sDelivered 0 0 (delivered sDelivered 0 0 warp2) = some (t, [rec0 (some 1)])) ∧ warp2.trapPend = none ∧ HandlerReady warp2 ∧
    (let w := { warp2 with trapPend := some trap1, tba := 0 }
     (warpAt? (issuing w probeGroup 3 8) x8.core x8.wslot).isSome = true ∧ (x8.warp (issuing w probeGroup 3 8)).trapPend = some trap1 ∧
       trapIsFatal (x8.warp (issuing w probeGroup 3 8)) = true) :=
  ⟨⟨rfl, rfl, rfl, by decide, rfl⟩, ⟨_, by rfl⟩, rfl, ⟨rfl, by decide, rfl⟩, rfl, rfl, rfl⟩

theorem witness_halts :
    (groupAt s8 0 0 = some probeGroup ∧ exited s8 0 0 probeGroup = false) ∧
    (let w := { warp2 with gslot := none }
     warpAt? (issuing w probeGroup 3 8) 0 0 = some w ∧ w.gslot = none) ∧
    (lookup (partOf sGrid 0).grids 4 = some grid1 ∧ grid1.src = some (3, 5)) := by decide

/-- A group whose ring 1 owes a trap, without and with a warp that can take it. -/
def gOwes : Group := { probeGroup with rings := [(1, { inUse with owes := true })] }

theorem witness_engine_fault :
    (let s := setCore State.reset 0 { Core.init with groups := [(0, gOwes)] }
     groupAt s 0 0 = some gOwes ∧ (upto 3).find? (fun i => (ringOf gOwes i).owes) = some 1 ∧ engineWarp (coreOf s 0) 0 = none ∧
       gOwes.saving = none) ∧
    (let s := issuing warp2 gOwes 3 8
     groupAt s 0 0 = some gOwes ∧ engineWarp (coreOf s 0) 0 = some 0 ∧ warpAt? s 0 0 = some warp2 ∧ HandlerReady warp2 ∧
       warp2.trapPend = none ∧ delivered s 0 0 warp2 = [] ∧ warp2.stall = [] ∧ (boundaryPath s 0 0).isSome = true) :=
  ⟨by decide, rfl, by decide, rfl, ⟨rfl, by decide, rfl⟩, rfl, by decide, rfl, by decide⟩

/-- Imprecise records without a ring, and with a ring of 16 entries at 0x400, in which the first is free. -/
def impR : Imprecise := { pcb := 2, flags := 1, since := 0 }
def wImp (log : DWord) : Warp := { warp2 with imp := some impR, fplog := log }
def sImp (log : DWord) : State :=
  let s := withBlock (issuing (wImp log) probeGroup 3 8) 8 (blockOf [])
  setCore s 0 { coreOf s 0 with cyc := 300 }
def ringLog : DWord := BitVec.ofNat 64 (2 ^ 63 + 4 * 2 ^ 58 + 0x400)

theorem witness_imprecise :
    (∀ log ∈ [0, ringLog], warpAt? (sImp log) 0 0 = some (wImp log) ∧ (wImp log).imp = some impR ∧ (wImp log).gslot = some 0 ∧
      groupAt (sImp log) 0 0 = some probeGroup ∧ impR.since + 256 ≤ cycOf (sImp log) 0 ∧ (coreOf (sImp log) 0).impq = [] ∧
      (sImp log).reqs = [] ∧ (wImp log).lanes.map (fun e => e.2.saw) = [[], []]) ∧
    (0#64).getLsbD 63 = false ∧ ringLog.getLsbD 63 = true ∧ fld ringLog 58 5 = 4 ∧
    ∃ u, homeRmw (modCore (modWarp (sImp ringLog) 0 0 (fun w => { w with imp := none })) 0 (fun c => { c with impq := c.impq ++ [
        { part := 0, asid := 0, grid := 0, fplog := ringLog, pcb := 2, flags := 1, group := 0, windex := 0, isCont := false,
          after := [] }] })) (warpWho 0 (wImp ringLog)) .rw
        (BitVec.ofNat 57 (fld ringLog 6 51 * 64)) 24 [] (fun bs =>
          if (leAt bs 0 8 + 2 ^ 64 - leAt bs 8 8) % 2 ^ 64 < 2 ^ 4 then
            (toBytes 8 (leAt bs 0 8 + 1) ++ bs.drop 8, some (leAt bs 0 8))
          else (bs.take 16 ++ toBytes 8 (leAt bs 16 8 + 1), (none : Option Nat))) = (.ok (some 0), u) := by
  refine ⟨?_, by decide, by decide, by decide, accessed (by decide +kernel)⟩
  intro log h
  simp only [List.mem_cons, List.not_mem_nil, or_false] at h
  rcases h with rfl | rfl <;> exact ⟨rfl, rfl, rfl, rfl, by decide, rfl, rfl, rfl⟩

/-- A store of the warp is in flight while its record is due. -/
theorem witness_imprecise_waits : ∃ e ∈ [(0, reqOf (.store [9]) .toHome)], e.2.core = 0 ∧ e.2.wslot = 0 ∧ e.2.op.isWrite = true := by
  decide

/-- A save slot of a group of grid 4. -/
def slot1 (reason : Nat) (answered : Bool) : SaveSlot :=
  { reason := reason, asid := 0, grid := 4, linear := 0, answered := answered, lead := 1, children := [], rings := [], errPc := [], errMore := [], rows := [],
    held := [], spadErr := [], fatal := reason == 3 }
def pSlot (reason : Nat) (answered : Bool) : Part := { Part.init with
  grids := [(4, { grid1 with next := 1 })], slots := [(1, slot1 reason answered)], faults := [rec0 none] }

theorem witness_answered :
    (pSlot 2 false).faults.find? (fun r => r.seq == 4 && r.answer.isNone) = some (rec0 none) ∧ (rec0 none).engine = none ∧
    (rec0 none).unit < slotUnit 0 ∧
    (∀ reason ∈ [2, 3], lookup (partOf (partWith (pSlot reason false)) 0).slots 1 = some (slot1 reason false) ∧
      (slot1 reason false).answered = false) ∧ (slot1 2 false).fatal = false := by decide

/-- A HOLD of ASID 5 that collects, and none. -/
theorem witness_hold :
    holdBusy (partOf s8 0) = false ∧ 5 < 4096 ∧
    nbit ((partOf (setWin64 s8 0 oPRESTAT (2 ^ 63 + 5 * 2 ^ 32)) 0).w64 oPRESTAT) 63 = true ∧
    (∀ e ∈ (setWin64 s8 0 oPRESTAT (2 ^ 63 + 5 * 2 ^ 32)).cores,
      unacked (setWin64 s8 0 oPRESTAT (2 ^ 63 + 5 * 2 ^ 32)) 0 5 e.1 e.2 = false) := by decide

/-- Grid 4 started early on grid 6, for whose group its own holds the semaphores; no live thread of that does other than wait. -/
def recEs : LaunchRec := { rec1 with es := true, dep0 := some (3, 5) }
def gEarly : Group := { probeGroup with grid := 4, rec_ := { probeRec with sems := 256 } }
def sEarly : State :=
  setCore (partWith { Part.init with grids := [(4, { Grid.fresh recEs 0 7 0 0 (some (2, 0)) none with next := 1 }),
      (6, { grid1 with rec_ := { rec1 with sems := 1 } })] }) 0 { Core.init with
    groups := [(2, gEarly)],
    warps := [(0, { warp2 with gslot := some 2, grid := 4, lanes := [(0, { thread 0 with wait := .barGrp })] })] }

theorem witness_swap_out : groupAt sEarly 0 2 = some gEarly ∧ yieldsToProducer sEarly 0 2 gEarly = true := by decide +kernel

/-- A settled group that waits to be saved, with save slots; and a saved one that may re-enter. -/
def sSave (r : Nat) : State := setCore (setWin32 (partWith Part.init) 0 oSVCTL (2 ^ 31 + 4)) 0
  { Core.init with groups := [(2, { probeGroup with saving := some r })], warps := [(0, { warp2 with gslot := some 2 })] }
def sBack : State := partWith { pSlot 0 true with faults := [] }

theorem witness_save :
    (∀ r ∈ [0, 1], groupAt (sSave r) 0 2 = some { probeGroup with saving := some r } ∧ freeSlotsOf (partOf (sSave r) 0) = [0, 1, 2, 3] ∧
      groupSettled (sSave r) 0 2 { probeGroup with saving := some r } = true ∧
      exited (sSave r) 0 2 { probeGroup with saving := some r } = false ∧ (partOf (sSave r) 0).faults = []) ∧
    (lookup (partOf sBack 0).slots 1 = some (slot1 0 true) ∧ (lookup (partOf sBack 0).grids 4).map (·.rec_) = some rec1 ∧
      mayReenter (partOf sBack 0) (slot1 0 true) = true ∧ (slot1 0 true).lead = 1 ∧ (slot1 0 true).linear ≠ 0xFFFFFFFF ∧
      setSlots (partOf sBack 0) 1 = [1]) ∧
    coreFits sBack 0 0 rec1 (slotCounts sBack 0 1).1 = true ∧
    (coreOf sBack 0).contq.length + (slotCounts sBack 0 1).2 ≤ contQueueSize ∧
    inTurn sBack 0 (dieOf 0) 4 { grid1 with next := 1 } = true := by decide +kernel

/-! ### Witnesses: resources -/

/-- Core 1 and channel 4 assigned, cores 0 and 2 owned; channels 0 and 5 owned, at slots 0 and 1; slices 0 and 1 assigned. -/
def sRes : State := { State.reset with root := { Root.init with
  corst := [(0, 2#32), (1, 1#32), (2, 2#32)], chst := [(0, 2#32), (4, 1#32), (5, 2#32)], slcst := [(0, 1#32), (1, 2#32)]
  chmap := [(0, 0x80000000#32), (1, 0x80000005#32)]
  slctl := [(0, BitVec.ofNat 32 (1 * 2 ^ 8 + 1))], slist := [(0, 1#8), (128, 0x80#8)] } }
def drainCh : State := { sRes with root := { sRes.root with chst := [(5, 3#32)] } }

theorem witness_resources :
    (∀ v ∈ [0, 7 * 2 ^ 60, 2 ^ 60 + 2 ^ 8], v / 2 ^ 60 % 16 = 0 ∨ 7 ≤ v / 2 ^ 60 % 16 ∨ v / 2 ^ 8 % 2 ^ 46 ≠ 0) ∧
    (resState sRes kCORE 3 = rFREE ∧ 3 < resCount kCORE ∧ resState sRes kSLICE 0 ≠ rFREE ∧ 0 < resCount kSLICE ∧
      resIs sRes kCORE 1 rASSIGNED 0 = true ∧ resIs sRes kCHAN 4 rASSIGNED 0 = true ∧ kCHAN ≠ kCORE ∧ 4 < resCount kCHAN) ∧
    (resCount kCORE ≤ 192 ∧ 16 ≤ 16) ∧
    (resIs sRes kCORE 2 rOWNED 0 = true ∧ (ownedCores sRes 0).filter (· != 2) = [0] ∧ quadsLeft sRes 0 [0] = true ∧
      (ownedCores { sRes with root := { sRes.root with corst := [(2, 2#32)] } } 0).filter (· != 2) = []) ∧
    (setValid sRes 0 1 = true ∧ setChans sRes 1 = [5] ∧ resIs sRes kCHAN 5 rOWNED 0 = true ∧ setValid sRes 0 0 = true ∧
      0 ∉ setSlotsOf sRes 1) ∧
    (BitVec.ofNat 32 0x80000004 &&& 0xFFFF003F#32 = 0x80000004#32 ∧ chValid 0x80000004#32 = true ∧ chLsz 0x80000004#32 ≠ 7 ∧
      resIs sRes kCHAN (chChan 0x80000004#32) rASSIGNED (chPart 0x80000004#32) = true) ∧
    (setValid drainCh 0 1 = true ∧ setChans drainCh 1 = [5] ∧ resIs drainCh kCHAN 5 rDRAINING 0 = true ∧
      setBusy drainCh 0 (setSlotsOf drainCh 1) = false) ∧
    (slBusy sRes 0 = false ∧ newList sRes 0 = some [0]) := by decide +kernel

/-- After the commit: slice 1 drains, slice 0 serves; a block that is still at its old home. -/
def sCommitted : State := (commitList sRes 0 [0])
def sMove : State := { sCommitted with l2 := [(l2Key 1 8, [{ homeBlock with gen := 0 }])] }

theorem witness_sweep :
    (slBusy sCommitted 0 = true ∧ oldBlocks sCommitted 0 = [] ∧ sCommitted.reqs = [] ∧ resIs sCommitted kSLICE 1 rDRAINING 0 = true) ∧
    oldHome sMove 0 8 0 = some 1 ∧ homeSlice sMove 0 8 0 = some 0 ∧ l2Find sMove 1 0 0 8 = some { homeBlock with gen := 0 } := by
  decide +kernel

/-- Core 0 drains, without and with a record, which core 2 has room for; a core, a slice and a channel that are being zeroed. -/
def sDrain (rs : List ContRec) : State :=
  setCore { sRes with root := { sRes.root with corst := [(0, 3#32), (2, 2#32)] } } 0 { Core.init with contq := rs }
def sZero : State := { sRes with root := { sRes.root with corst := [(0, 4#32)], slcst := [(3, 4#32)], chst := [(5, 4#32)] } }

theorem witness_drains :
    (∀ rs ∈ [[], [recC]], resPart (sDrain rs) kCORE 0 = 0 ∧ resState (sDrain rs) kCORE 0 = rDRAINING ∧ coreQuiet (sDrain rs) 0 = true ∧
      (coreOf (sDrain rs) 0).retire = [] ∧ (coreOf (sDrain rs) 0).contq = rs) ∧
    (∀ e ∈ [(kCORE, 0), (kSLICE, 3), (kCHAN, 5)], e.2 < resCount e.1 ∧ resState sZero e.1 e.2 = rZEROING) := by decide

theorem witness_drain_target : drainTarget (sDrain [recC]) 0 0 = some 2 := by
  have h : ((ownedCores (sDrain [recC]) 0).filter (fun t => t != 0 &&
    decide ((coreOf (sDrain [recC]) t).contq.length + (coreOf (sDrain [recC]) 0).contq.length ≤ contQueueSize) &&
    decide ((coreOf (sDrain [recC]) t).retire.length + (coreOf (sDrain [recC]) 0).retire.length ≤ 64))) = [2] := by decide
  unfold drainTarget
  simp only [h]
  simp [Nat.mod_one]

theorem witness_fatal : (partOf (partWith { Part.init with fatal := [(1, 8)], grids := [(4, grid1)] }) 0).fatal = (1, 8) :: [] := rfl

/-! ### Witnesses: the host, other nodes, the module -/

/-- A partition with two entries to send, and queue pair 0 started. -/
def qpair0 : QPair := { ctx := toBytes 8 (2 ^ 63 + 2 ^ 60 + 3 * 2 ^ 56), sq := 0, eq := 0, failed := false, tries := 0, reply := (0, []), last := none, said := (0, []) }
def note1 : NotEntry := { typ := 1, asid := 0, arg0 := 0, arg1 := 0, since := 0 }
def pNotes : Part := { (Part.init.setW64 oNQCTL (2 ^ 31 + 6)) with notif := [note1, note1], qps := [(0, qpair0)], clock := 10 }

theorem witness_batches :
    (nqBatch pNotes = 1 ∧ 1 ≤ pNotes.notif.length ∧ mayBatch pNotes 1 = true) ∧
    (let p := pNotes.setW32 oNQCOAL (4 * 2 ^ 16 + 5)
     min (nqBatch p) p.notif.length = 2 ∧ nqIval p ≠ 0 ∧ note1.since + nqIval p ≤ p.clock ∧ mayBatch p 2 = true) ∧
    ({ pNotes with sent := [{ addr := 0, rkey := 0, data := [], imm := some 1, psn := 0 }] }.sent ≠ [] ∧ lookup pNotes.qps 0 = some qpair0 ∧
      qpair0.failed = false) := by decide

/-- The context of queue pair 0 at 0x1000, valid or not; QPCTL counts 1. -/
def ctxBytes (v : Nat) : List Byte := toBytes 8 (v * 2 ^ 63 + 2 ^ 60 + 3 * 2 ^ 56)
def sCtx (v : Nat) (qps : SMap QPair) : State :=
  let s := withBlock (withBlock (partWith { Part.init with qps := qps }) ((apertureVA 0x1000).toNat / 128) (blockOf (ctxBytes v)))
    (2 ^ 56 / 128) (blockOf [1, 2])
  let s := withBlock s ((apertureVA 0x2000).toNat / 128) (blockOf [3])
  let s := { s with root := { s.root with chmap := [(0, 0x80000000)], cxtb := [(0, BitVec.ofNat 64 (2 ^ 63))], fgp := [(0, BitVec.ofNat 32 (2 ^ 31 + 9))], epaddr := [(0, 7)] } }
  setWin32 (setWin64 { s with ports := [(3, { Port.init with up := true })] } 0 oQPBASE 0x1000) 0 oQPCTL 1

theorem witness_contexts :
    (∀ v ∈ [0, 1], ∃ u, readContext (sCtx v []) 0 0 = (some ((blockOf (ctxBytes v)).take 64), u) ∧ lookup (partOf u 0).qps 0 = none) ∧
    nbit (leAt ((blockOf (ctxBytes 1)).take 64) 0 8) 63 = true ∧ nbit (leAt ((blockOf (ctxBytes 0)).take 64) 0 8) 63 = false ∧
    contextOk ((blockOf (ctxBytes 1)).take 64) = true ∧ contextRetryOk ((blockOf (ctxBytes 1)).take 64) = true := by
  refine ⟨?_, by decide, by decide, by decide, by decide⟩
  intro v h
  simp only [List.mem_cons, List.not_mem_nil, or_false] at h
  rcases h with rfl | rfl <;> exact someWith (by decide +kernel) (by decide +kernel)

/-- Queue pair 0 with its source address, which has served a message before sequence number 0; headers that come next, again, and
far off. -/
def qpairA : QPair := { qpair0 with
  ctx := toBytes 8 (2 ^ 63 + 2 ^ 60 + 3 * 2 ^ 56) ++ toBytes 8 0 ++ toBytes 16 5, reply := (0, [7]), last := some 0xFFFFFF }
def hdrQ (psn : Nat) : PacketHdr := { qpn := 0x100, src := 5, pkey := 0xFFFF, psn := psn }
def sQp : State := sCtx 1 [(0, qpairA)]

theorem witness_rdma :
    (∀ psn ∈ [0, 0xFFFFFF, 9], contextFor sQp 0 (hdrQ psn) = some (0, qpairA)) ∧ (hdrQ 0).psn = qpairA.eq ∧
    (hdrQ 0xFFFFFF).psn ≠ qpairA.eq ∧ qpairA.last = some (hdrQ 0xFFFFFF).psn ∧ (hdrQ 9).psn ≠ qpairA.eq ∧ qpairA.last ≠ some (hdrQ 9).psn ∧
    oNQHEAD + 8 ≤ 65536 ∧ (windowSteps oNQHEAD 8).length ≤ 1 ∧ inSharedWindow (2 ^ 56) 2 = true ∧ localRange sQp 0x2000 2 = true ∧
    (∃ u, writeN sQp { part := 0, asid := 0, path := .H, ap := false } (BitVec.ofNat 57 (2 ^ 56)) [7, 8] = (.ok (), u)) ∧
    (∃ u, writeN sQp (devWho 0) (apertureVA 0x2000) [7, 8] = (.ok (), u)) ∧
    (∃ u, readN sQp { part := 0, asid := 0, path := .H, ap := false } (BitVec.ofNat 57 (2 ^ 56)) 2 = (.ok [1, 2], u)) ∧
    (∃ u, readN sQp (devWho 0) (apertureVA 0x2000) 1 = (.ok [3], u)) ∧ 3 ≤ 3 ∧ localRange sQp (2 ^ 41) 2 = false ∧
    contextFor sQp 0 { hdrQ 0 with pkey := 0x7FFF } = none ∧ contextFor sQp 1 (hdrQ 0) = none ∧
    contextFor sQp 0 { hdrQ 0 with src := 6 } = none ∧ contextFor sQp 0 { hdrQ 0 with qpn := 0x101 } = none :=
  ⟨by decide +kernel, rfl, by decide, rfl, by decide, by decide, by decide, by decide, by decide, by decide, accessed (by decide +kernel),
   accessed (by decide +kernel), accessed (by decide +kernel), accessed (by decide +kernel), by decide, by decide, by decide +kernel,
   by decide +kernel, by decide +kernel, by decide +kernel⟩

theorem witness_fabric :
    (let s := sCtx 1 []
     let who : Who := { part := 0, asid := 0, path := .F, ap := true, port := some 3 }
     3 < 144 ∧ (portOf s 3).up = true ∧ (upto 16).find? (fun p => fgpOn s p && fgpGid s p == 9) = some 0 ∧
       nodeOf 0x2000 = s.root.node ∧ meetsWindow 0x2000 1 = false ∧
       (∃ u, readN s who (apertureVA 0x2000) 1 = (.ok [3], u)) ∧ (∃ u, writeN s who (apertureVA 0x2000) [4] = (.ok (), u)) ∧
       (∀ p, p < 16 → (fgpOn s p && fgpGid s p == 8) = false) ∧ (portOf s 4).up = false) ∧
    (partOf (partWith { Part.init with att := some 0x2000 }) 0).att = some 0x2000 :=
  ⟨⟨by decide, by decide, by decide +kernel, by decide, by decide, accessed (by decide +kernel), accessed (by decide +kernel), by decide +kernel,
    by decide⟩, rfl⟩

/-! ### Witnesses: heads -/

/-- A valid configuration of 16 lines of one pixel, its blocks in the shared window; a head that runs under it. -/
def cfgV : List Byte := toBytes 8 (1 * 2 ^ 36 + 16 * 2 ^ 22 + 100 * 2 ^ 8) ++ toBytes 8 (1024 * 2 ^ 32 + 4) ++ toBytes 8 (2 ^ 56) ++ toBytes 8 (2 ^ 56 + 2 ^ 12) ++
  toBytes 8 (2 ^ 56 + 2 ^ 13) ++ toBytes 8 (2 ^ 56 + 2 ^ 14) ++ List.replicate 16 0
def headV : Head := { Head.init with configured := true, cfg := cfgV, haveImage := true }
/-- Head 0 is enabled for partition 0 with line core 0. -/
def sHead (h : Head) (l : LineCore) : State := { partWith Part.init with
  root := { (partWith Part.init).root with hdown := [(0, 0x80000001)] }, heads := [(0, h)], lcs := [(0, { l with head := some 0 })] }
def withCfg (s : State) (c : List Byte) : State := (upto 16).foldl (fun s i => setWin32 s 0 (oHDCFG 0 + 4 * i) (leAt c (4 * i) 4)) s

theorem witness_enable :
    (headOf (sHead headV LineCore.init) 1).disabling = false ∧ headOn (sHead headV LineCore.init) 1 = false ∧
    (BitVec.ofNat 32 2 ||| 0x80000000#32) &&& 0xFFFF#32 ≠ 0#32 ∧
    (∀ o, o < 12 → o ≠ 1 → headOn (sHead headV LineCore.init) o = true →
      hdown (sHead headV LineCore.init) o &&& (BitVec.ofNat 32 2 ||| 0x80000000#32) &&& 0xFFFF#32 = 0#32) ∧
    2 < 2 ^ 31 ∧ headOn (sHead headV LineCore.init) 0 = true ∧ headV.disabling = false ∧ headV.configured = true ∧ Head.init.configured = false := by
  decide

theorem witness_poll :
    (let s := withCfg (sHead Head.init LineCore.init) cfgV
     headOn s 0 = true ∧ (headOf s 0).configured = false ∧ cfgOk (hdcfgBytes s 0) = true) ∧
    (let s := withCfg (sHead Head.init LineCore.init) [1]
     headOn s 0 = true ∧ (headOf s 0).configured = false ∧ cfgOk (hdcfgBytes s 0) = false ∧ leAt (hdcfgBytes s 0) 0 64 ≠ 0 ∧
       hdcfgBytes s 0 ≠ (headOf s 0).cfgSeen ∧ (headOf s 0).events = [] ∧ openRows s 0 = [] ∧ (partOf s (headPart s 0)).notif.length < 1024) := by decide +kernel

def latchV : Latch := { pose := [], tag := 0, seq := 0, fresh := false }

/-- The last line of a frame whose band is presented and whose latches are done; with and without a pending disable. -/
def headEnd (d : Bool) : Head :=
  { headV with line := 99, scanned := 99, bands := [(0, 0)], disabling := d, nextLatchF := 2, latches := [(0, latchV)] }

theorem witness_frame : ∀ d ∈ [false, true], headOn (sHead (headEnd d) LineCore.init) 0 = true ∧ (headEnd d).configured = true ∧
    (headEnd d).line + 1 = cfgVtot (headEnd d).cfg ∧ latchDue (headEnd d) = false ∧
    presentedBy (headEnd d) ((headEnd d).scanned + 1) = true ∧ lookup (headEnd d).bands 0 = some 0 ∧
    (bandLatch (headEnd d) (headEnd d).f 0).isSome = true := by decide

/-- An image whose engine 3 has one bundle, at 2^56 + 2^14, and its load. -/
def imageBytes : List Byte := sliceBytes (toBytes 8 (0x43560001 * 2 ^ 32) ++ toBytes 8 0 ++ toBytes 8 0 ++ toBytes 8 0 ++ toBytes 8 0 ++ toBytes 8 (1 * 2 ^ 32)) 0 256
def sLoading : State :=
  let s := withCfg (sHead { headV with loading := true } LineCore.init) cfgV
  let s := withBlock s ((2 ^ 56 + 2 ^ 14) / 128) (imageBytes.take 128)
  let s := withBlock s ((2 ^ 56 + 2 ^ 14) / 128 + 1) (imageBytes.drop 128)
  let s := withBlock s ((2 ^ 56 + 2 ^ 14) / 128 + 2) (blockOf [])
  setWin32 s 0 (oHDCFG 0 + 48) 1

theorem witness_load :
    headOn sLoading 0 = true ∧ loadBit sLoading 0 = true ∧ (headOf sLoading 0).loading = true ∧
    (parseImage imageBytes).map (fun cs => 16 * (cs.map (·.1)).foldl (· + ·) 0) = some 16 ∧
    ∃ u v, readN sLoading (headWho sLoading 0) (cfgProg (hdcfgBytes sLoading 0)) 256 = (.ok imageBytes, u) ∧
      readN u (headWho sLoading 0) (cfgProg (hdcfgBytes sLoading 0) + 256#57) 16 = (.ok (List.replicate 16 0), v) ∧
      headPart v 0 = headPart sLoading 0 ∧ (headOf v 0).events = [] ∧ openRows v 0 = [] :=
  ⟨by decide, by decide +kernel, by decide +kernel, by decide +kernel,
   accessed_twiceWith (g := fun u => readN u (headWho sLoading 0) (cfgProg (hdcfgBytes sLoading 0) + 256#57) 16)
     (by decide +kernel) (by decide +kernel) (by decide +kernel)⟩

/-- A Locket block with a valid first buffer, a latch of band 0 due. -/
def locket : List Byte := blockOf (toBytes 4 5 ++ (toBytes 4 0 ++ toBytes 4 0 ++ toBytes 4 0 ++ toBytes 4 0x3F800000) ++ toBytes 28 0 ++ toBytes 8 0 ++
  toBytes 4 0 ++ toBytes 4 5)
def headLatch : Head := { headV with line := 80, scanned := 80 }
def sLatch : State := withBlock (sHead headLatch LineCore.init) ((2 ^ 56 + 2 ^ 12) / 128) locket

theorem witness_latch :
    headOn sLatch 0 = true ∧ headLatch.configured = true ∧ latchDue headLatch = true ∧
    (∃ u, readN sLatch (headWho sLatch 0) (cfgLocket headLatch.cfg) 128 = (.ok locket, u) ∧ headOf u 0 = headLatch) ∧
    bufValid (sliceBytes locket 0 64) = true ∧ bufValid (sliceBytes locket 64 64) = false :=
  ⟨by decide, by decide, by decide, accessedWith (by decide +kernel) (by decide +kernel), by decide +kernel, by decide +kernel⟩

/-- Band 0: to begin, to be abandoned, to be presented by fallback; and a RELF that is owed. -/
def bandV : Band := { head := 0, f := 0, b := 0, scanRows := 16, pbFail := false }

theorem witness_bands :
    (let s := sHead headV LineCore.init
     nextBand s 0 = some 0 ∧ headOn s 0 = true ∧ (lineOf s 0).susp = false ∧ (lineOf s 0).band = none ∧ (lineOf s 0).landings = [] ∧
       lookup headV.bands 0 = none ∧ (headV.scanned : Int) < deadline headV headV.f 0 - 1 ∧ headV.haveImage = true) ∧
    (let s := sHead { headV with line := 90, scanned := 90 } { LineCore.init with band := some bandV }
     (lineOf s 0).head = some 0 ∧ (lineOf s 0).band = some bandV ∧ deadline (headOf s 0) 0 0 - 1 ≤ (headOf s 0).scanned) ∧
    (let h := { headV with line := 90, scanned := 90, bands := [(0, 3)], latches := [(0, latchV)] }
     lookup h.bands 0 = some 3 ∧ bandLatch h h.f 0 = some latchV ∧ deadline h h.f 0 - 1 ≤ h.scanned) := by decide

/-- The RELF of frame slot 2 is owed, at 2^56 + 128 · 2 + 12. -/
def sRelf : State := withBlock (sHead { headV with relOwed := [(2 ^ 56, 2, 9)] } LineCore.init) (2 ^ 56 / 128 + 2) (blockOf [])

theorem witness_relf :
    (headOf sRelf 0).relOwed.find? (fun p => p.2.1 == 2) = some (2 ^ 56, 2, 9) ∧ openRows sRelf 0 = [] ∧
    ∃ u, writeN sRelf (headWho sRelf 0) ((2 ^ 56 : VA) + BitVec.ofNat 57 (128 * 2 + 12)) (toBytes 4 9) = (.ok (), u) :=
  ⟨by decide, by decide, accessed (by decide +kernel)⟩

/-- Streams of two elements and one row: a memory read and write at 2^56 in the first block of `sStream`, a line-buffer read and write at 0. -/
def streamV (kind : Nat) (rows : List (Option Nat × List Half)) : Stream :=
  { eng := 0, kind := kind, addr := if kind < 2 then 2 ^ 56 else 0, nrows := 1, nel := 2, stride := 4, pos := 0, rows := rows, done_ := 0, refused := none, bound := 0, band := 0, wrote := [] }
def sStream (kind : Nat) (rows : List (Option Nat × List Half)) : State :=
  withBlock (sHead headV { LineCore.init with streams := [(1, streamV kind rows)] }) (2 ^ 56 / 128) (blockOf [1, 0, 2, 0])

/-- A write to an address that is not mapped, while the band runs. -/
def sLost : State := sHead headV { LineCore.init with
  band := some bandV, streams := [(1, { streamV 1 [(none, [7, 8])] with addr := 2 ^ 56 + 2 ^ 20 })] }
theorem pieceV : (streamV 1 [(none, [7, 8])]).writes = [⟨0, 0, 2 ^ 56, rowBytes 2 [7, 8]⟩] := by decide +kernel

theorem witness_streams :
    (lookup (lineOf (sStream 2 []) 0).streams 1 = some (streamV 2 []) ∧ (lineOf (sStream 2 []) 0).head = some 0 ∧
      lbOk ((streamV 2 []).rowAt 0) 4 = true ∧
      (lbView (sStream 2 []).tick (lineOf (sStream 2 []) 0) 0 (some 0) 0 4).isSome = true) ∧
    (∃ u, readN (sStream 0 []) (headWho (sStream 0 []) 0) (BitVec.ofInt 57 ((streamV 0 []).rowAt 0)) 4 = (.ok [1, 0, 2, 0], u) ∧
      lineOf u 0 = lineOf (sStream 0 []) 0) ∧
    lbOk ((streamV 3 [(none, [7, 8])]).rowAt 0) (rowBytes 2 [7, 8]).length = true ∧
    (streamV 1 [(none, [7, 8])]).writes = [⟨0, 0, 2 ^ 56, rowBytes 2 [7, 8]⟩] ∧
    (∀ n, (streamV 1 [(none, [7, 8])]).writes[n % (streamV 1 [(none, [7, 8])]).writes.length]? = some ⟨0, 0, 2 ^ 56, rowBytes 2 [7, 8]⟩) ∧
    (∃ u, writeN (sStream 1 [(none, [7, 8])]) (headWho (sStream 1 []) 0) (2 ^ 56) (rowBytes 2 [7, 8]) = (.ok (), u)) ∧
    ∃ e u, writeN sLost (headWho sLost 0) (2 ^ 56 + 2 ^ 20) (rowBytes 2 [7, 8]) = (.error e, u) ∧ (lineOf u 0).band.isSome = true ∧
      (headOf u 0).events = [] :=
  ⟨by decide, accessedWith (by decide +kernel) (by decide +kernel), by decide, by decide +kernel, fun n => by rw [pieceV, List.length_singleton, Nat.mod_one]; rfl,
   accessed (by decide +kernel), refusedWith (by decide +kernel) ⟨by decide +kernel, by decide +kernel⟩⟩

def mentry : MEntry := { a := [], set := 0, acc := false, started := some 0, w := [], out := none }

theorem witness_product :
    let l := { LineCore.init with mq := [mentry], cyc := 8 }
    l.mq.findIdx? (fun e => e.started.isSome && e.out.isNone) = some 0 ∧ l.mq[0]? = some mentry ∧ 0 + 8 ≤ l.cyc ∧ mentry.acc = false := by decide

/-! ### Witnesses: a step -/

/-- The NOP of 08 R215, and the turn of quadrant 0 of core 0, where it stands at PC 0. -/
def nopWord : DWord := 0x383FFFFFFFF80000
def nopI : Instr := .nop (fl 7 255 255 255 255 0 0 0 0 0 none)
def sTurn : State := State.reset.withFetchWord 64 nopWord.toNat

theorem witness_turn :
    sTurn.agenda = [.issue 0 0] ∧ sTurn.root.heldInReset = false ∧
    ∃ p t u op f, TurnGoesTo { sTurn with agenda := [], tick := sTurn.tick + 1 } 0 0 0 p t ∧ Fetched t u 0 0 p nopI op f nopWord 8 :=
  ⟨rfl, rfl, _, _, _, _, _, ⟨_, _, _, _, rfl, rfl, rfl, rfl, rfl, rfl, rfl⟩, Prod.ext (by rfl) rfl, by decide⟩

/-- The bytes at an address of the instruction cache, and the second turn of a pair there. -/
def sPair : State := { sTurn with agenda := [.pair 0 0 1] }

theorem witness_pair :
    (∃ bs u, fetchC sPair 0 0 0 .inst 0 8 = (.ok bs, u) ∧ BitVec.ofNat 64 (ofBytes bs) = nopWord) ∧ wantsLiteral nopWord = false ∧
    decodeSuric nopWord 0#64 = .ok nopI ∧
    ∃ p, (pathsOf (warpAt sPair 0 0)).find? (fun p => p.mask &&& 1 == 1 && (1 : Word) != 0#32) = some p ∧
      ∃ u op f, Fetched { sPair with agenda := [], tick := sPair.tick + 1 } u 0 0 p nopI op f nopWord 8 :=
  ⟨⟨_, _, Prod.ext (by rfl) rfl, by decide⟩, by decide, by rfl, _, rfl, _, _, _, Prod.ext (by rfl) rfl, by decide⟩

/-- An instruction with a literal: MOVL of 32 bits, fetched as two words. -/
def movlI : Instr := .movl (fl 7 1 255 255 255 0 0 0 0 1 (some 0x12345678))
def movlBytes : List Byte := match encode movlI with
  | some (w, some l) => toBytes 8 w.toNat ++ toBytes 8 l.toNat
  | _ => []
def sLit : State := setCore State.reset 0 { Core.init with ic := [{ pid := 0, atag := 0, line := 0, sv := 3, rd := false, wr := false, ex := true, bytes := sliceBytes movlBytes 0 64 }] }

theorem witness_literal : WellFormed movlI = true ∧
    (∃ w l, encode movlI = some (w, some l) ∧ wantsLiteral w = true ∧ decodeSuric w l = .ok movlI) ∧
    ∃ bs u ls v, fetchC sLit 0 0 0 .inst 0 8 = (.ok bs, u) ∧ fetchC u 0 0 0 .inst (0 + 8#57) 8 = (.ok ls, v) ∧ bs ++ ls = movlBytes :=
  ⟨by decide, ⟨_, _, rfl, by decide, by rfl⟩, _, _, _, _, Prod.ext (by rfl) rfl, Prod.ext (by rfl) rfl, by decide⟩

/-- A bundle of four NO_OPERATIONs in engine 1 of line core 0, whose band runs. -/
def sBundle : State := State.reset.withFetchWord 32 0

theorem witness_bundle :
    sBundle.agenda = [.line 0] ∧ sBundle.root.heldInReset = false ∧ engineIssues (lineOf sBundle 0) (lineOf sBundle 0).nextEng = true ∧
    bandLives sBundle 0 = true ∧ bundleAt (lineOf sBundle 0) (lineOf sBundle 0).nextEng = 0#32 ++ 0#32 ++ 0#32 ++ 0#32 ∧
    decodeScalar 0 = some .noOperation ∧ decodeTile 0 = some .noOperation ∧ decodeStream 0 = some .noOperation ∧
    ∃ t₀ t₁ t₂ t₃,
      (let s₀ := modLine { sBundle with agenda := [], tick := sBundle.tick + 1 } 0 (fun l => { l with fx := [], bst := .ok, took := none })
       let e := (lineOf sBundle 0).nextEng
       exec .noOperation { s₀ with cur := .slot 0 e 0 } = .next t₀ ∧ exec .noOperation { t₀ with cur := .slot 0 e 1 } = .next t₁ ∧
         exec .noOperation { t₁ with cur := .slot 0 e 2 } = .next t₂ ∧ exec .noOperation { t₂ with cur := .slot 0 e 3 } = .next t₃ ∧
         (lineOf t₃ 0).bst = .ok) :=
  ⟨rfl, rfl, by decide, by decide, by decide, by decide, by decide, by decide, _, _, _, _, rfl, rfl, rfl, rfl, rfl⟩

/-- An event on the agenda; an empty agenda; the form of the state before and after a step. -/
theorem witness_step :
    isEvent (.coldReset) = true ∧ isEvent (.hold 0 1) = true ∧ State.reset.root.heldInReset = false ∧ State.reset.agenda = [] ∧
    Kept State.reset ∧ (∃ t, step State.reset = .next t) ∧ Kept sTurn ∧ ∃ t, step sTurn = .next t :=
  ⟨by decide, by decide, rfl, rfl, ⟨rfl, rfl⟩, ⟨_, rfl⟩, ⟨rfl, rfl⟩, _, by rfl⟩

theorem witness_encodings :
    (WellFormed nopI = true ∧ ∃ w, encode nopI = some (w, none)) ∧
    (∀ i ∈ [Instr.kaddImm 3 3 1, .tadd 1 2 3 0 2 0 0, .srdTile 1 1 4 5, .noOperation], WellFormed i = true ∧ (encodeSlot i).isSome = true) ∧
    slotKind (.kaddImm 3 3 1) = some 0 ∧ slotKind (.tadd 1 2 3 0 2 0 0) = some 1 ∧ slotKind (.srdTile 1 1 4 5) = some 3 :=
  ⟨⟨by decide, _, rfl⟩, by decide, by decide, by decide, by decide⟩

/-! ### Worked examples of the spec, in one step -/

/-- Register `r` of lane `l` of warp 0 of core 0 after a step. -/
def vAfter (o : Host.Outcome State Fault Refusal) (l r : Nat) : Option Word :=
  match o with
  | .next t => (warpAt? t 0 0).map (fun w => vget w l r)
  | _ => none

/-- Thread 0 with v2, v3 and v4. -/
def sOps (a b c : Word) : State := issuing { warp2 with lanes := [(0, thread 0)], vr := [(2, a), (3, b), (4, c)] } probeGroup 1 8

/-- 08, beside R191: IADD.sat.i8x4 and IADD.i8x4. -/
theorem test_iadd_sat : vAfter (exec (.iadd (fl 7 1 2 3 255 0 0 1 4 0 none)) (sOps 0x7F800102 0x01FFFF01 0)) 0 1 = some 0x7F800003 := by decide
theorem test_iadd_wraps : vAfter (exec (.iadd (fl 7 1 2 3 255 0 0 0 4 0 none)) (sOps 0x7F800102 0x01FFFF01 0)) 0 1 = some 0x807F0003 := by decide

/-- 08, beside R195: LOP3 with the table 0x66. -/
theorem test_lop3 : vAfter (exec (.lop3 (fl 7 1 2 3 4 0 0 6 6 0 none)) (sOps 0x0000FFFF 0x00FF00FF 0xDEADBEEF)) 0 1 = some 0x00FFFF00 := by decide

/-- 09, beside R228: FFMA.rd is fused. -/
theorem test_ffma_rd : vAfter (exec (.ffma (fl 7 10 2 3 4 0 1 3 8 0 none)) (sOps 0x3F800001 0x3F800001 0x3F800000)) 0 10 = some 0xB4800001 := by decide

/-- 09, beside R240: the block scale of 5.0 and 0.1 for E4M3. -/
theorem test_mxexp : vAfter (exec (.mxexp (fl 7 1 4 9 255 0 0 0 8 0 none))
    (issuing { warp2 with vr := [(4, 0x40A00000), (260, 0x3DCCCCCD)] } probeGroup 3 8)) 0 1 = some 0x79 := by decide

/-- 09, beside R247: REDUX.sum.f32 adds exactly, in a clasp region over the lanes of both paths; outside it over its own. -/
def wRedux (cl : Bool) : Warp := { warp2 with
  lanes := lanes32.map (fun l => (l, if l < 16 then thread l else { thread l with pc := 128 })), clOpen := cl, cmask := 0xFFFF
  vr := [(4, 0x4B800000), (17 * 256 + 4, 0x3F800000), (30 * 256 + 4, 0xCB800000)] }
theorem test_redux : vAfter (exec (.redux (fl 7 5 4 255 255 0 0 0 8 0 none)) (issuing (wRedux true) probeGroup 0xFFFF 8)) 0 5 = some 0x3F800000 ∧
    vAfter (exec (.redux (fl 7 5 4 255 255 0 0 0 8 0 none)) (issuing (wRedux true) probeGroup 0xFFFF 8)) 17 5 = some 0 := by decide +kernel
theorem test_redux_outside : vAfter (exec (.redux (fl 7 5 4 255 255 0 0 0 8 0 none)) (issuing (wRedux false) probeGroup 0xFFFF 8)) 0 5 =
    some 0x4B800000 := by decide +kernel

/-- 09, beside R252: FIL with entry i = (i + 4) mod 128, by a full path and by 16 lanes. -/
def wFil : Warp := { warp2 with
  lanes := lanes32.map (fun l => (l, thread l)), vr := lanes32.map (fun l => (l * 256 + 8, BitVec.ofNat 32 (100 + l)))
  fil := (upto 128).map (fun i => (256 + i, BitVec.ofNat 8 ((i + 4) % 128))) }
theorem test_fil : (vAfter (exec (.fil (fl 7 9 8 255 255 0 0 2 0 0 none)) (issuing wFil probeGroup 0xFFFFFFFF 8)) 5 9,
    vAfter (exec (.fil (fl 7 9 8 255 255 0 0 2 0 0 none)) (issuing wFil probeGroup 0xFFFFFFFF 8)) 31 9) = (some 106, some 100) := by decide +kernel
theorem test_fil_half : vAfter (exec (.fil (fl 7 9 8 255 255 0 0 2 0 0 none)) (issuing wFil probeGroup 0xFFFF 8)) 15 9 = some 0 := by decide +kernel

/-! ### Worked examples: memory, formats, the host -/

/-- 02, beside R36: slots 16 to 31 are one set of 16; block 583 of channel 20, and the near block of the same offset. -/
def sSet : State := { State.reset with root := { Root.init with
  chmap := (upto 16).map (fun i => (16 + i, BitVec.ofNat 32 (2 ^ 31 + 4 * 2 ^ 24 + 16 + i))) } }
theorem test_locate : locate sSet 0 0x4000123480 = some ⟨20, false, 583, 7, 1025, 13⟩ ∧
    locate sSet 0 0x14000123480 = some ⟨20, true, 583, 7, 1, 13⟩ := by decide +kernel

/-- 03, beside R57: the int32 values 1,000 to 1,031 pack as B4D1; with 1,200 as word 5, as B4D2. -/
def ints32 (f : Nat → Nat) : List Byte := lanes32.flatMap (fun i => toBytes 4 (f i))
theorem test_pack : encodeBlock (ints32 (1000 + ·)) = ⟨5, [0xE8, 3, 0, 0] ++ lanes32.map (BitVec.ofNat 8) ++ List.replicate 28 0⟩ := by decide +kernel
theorem test_repack : (encodeBlock (ints32 (fun i => if i = 5 then 1200 else 1000 + i))).tag = 6 := by decide +kernel

/-- 06, beside R164: a chunk of BF16 products 2^24, 1 and −2^24. -/
theorem test_chunk : (accChunks 16 [] [] 1 0 ([fdecode bf16 0x4580, fdecode bf16 0x3F80, fdecode bf16 0xC580] ++ List.replicate 13 (fdecode bf16 0))
    ([fdecode bf16 0x4580, fdecode bf16 0x3F80, fdecode bf16 0x4580] ++ List.replicate 13 (fdecode bf16 0)) 0).1 = 0x3F800000 := by decide

/-- 05, beside R126: UNPACK of 6.0 in E2M1 is E4M3 0x4C. -/
theorem test_unpack : unpackElem 13 7 = 0x4C := by decide

/-- 11, beside R316: column 8 lies outside the left triangle and inside the right one. -/
theorem test_edges : edgeMask (-1) 0 2176 = ofBytes (List.replicate 16 [0xFF#8, 0#8]).flatten ∧
    edgeMask 1 0 (-2176) = ofBytes (List.replicate 16 [0#8, 0xFF#8]).flatten := by decide +kernel

/-- 22, beside R511: the tail that an immediate carries. -/
theorem test_immediate : immTail 0x04000FFE 0x14001000 = 0x04001000 ∧ 0x14001000 / 2 ^ 26 % 64 = 5 := by decide

/-- 21, beside R505, and 15, beside R418: tile words of bundles. -/
theorem test_bundle_words : decodeTile 0x2D900481 = some (.tshift 3 1 1 1 1) ∧ decodeTile 0x0F380800 = some (.tmul 6 3 4 0 2 0 0) ∧
    decodeStream 0x20080000 = some (.srdTile 0 0 0 8) := by decide

/-! ### Words and forms that are refused -/

/-- An operation code without an instruction, the reserved hint K = 3, and a reserved guard are refused (07 R167, R175). -/
theorem test_reserved : (match decodeSuric 0xC4380000_00000000 0 with | .ok _ => false | .error _ => true) = true ∧
    (match decodeSuric 0x80384020308204A3 0 with | .ok _ => false | .error _ => true) = true := by decide

end Sys2Proof.Tests
end

/-! # Every step keeps the form of the state (02 R31)

`FormAt c s`: memory stands in its canonical form, and `c` is who issues. Every operation of the model keeps it, so there is one
lemma `f_form` for every operation `f`, in the order of the model. Its proof follows the branches of `f` and cites the lemmas of
what `f` calls; only the writes of DRAM speak of memory itself. An instruction that issues leaves `FormAt .idle` behind. -/

namespace Sys2Proof.Machine

/-- Memory stands in its canonical form, and `c` is who issues. -/
def FormAt (c : Cur) (s : State) : Prop := Memory.wf s.dram.mem = true ∧ s.cur = c

section
variable {c : Cur} {s : State}

/-- An update that leaves memory and the issuer keeps the form. -/
theorem FormAt.update {root : Root} {dram : Dram} {l2 : SMap (List L2Block)} {tlb : SMap (List TlbEntry)}
    {wcache : SMap (List WalkEntry)} {resv : SMap (Nat × Nat × Nat)} {reqs : SMap Req} {parts : SMap Part} {cores : SMap Core}
    {heads : SMap Head} {lcs : SMap LineCore} {ports : SMap Port} {peerReply : Nat × List Byte} {agenda : List Act}
    {tick nextId : Nat} (h : FormAt c s) (hm : dram.mem = s.dram.mem) :
    FormAt c
      { s with root, dram, l2, tlb, wcache, resv, reqs, parts, cores, heads, lcs, ports, peerReply, agenda, tick, nextId } :=
  ⟨hm ▸ h.1, h.2⟩

/-- An update of DRAM that gives memory a canonical form keeps the form. -/
theorem FormAt.withDram {d : Dram} (hd : Memory.wf d.mem = true)
    (h : FormAt c s) : FormAt c { s with dram := d } := ⟨hd, h.2⟩

theorem foldl_form {α : Type} {f : State → α → State} {l : List α}
    (hf : ∀ {t a}, FormAt c t → FormAt c (f t a)) (h : FormAt c s) : FormAt c (l.foldl f s) := by
  induction l generalizing s with
  | nil => exact h
  | cons a l ih => exact ih (hf h)

/-- The state of a computation whose outcome is known. -/
theorem FormAt.of_eq {β : Type} {x : β × State} {b : β} {t : State}
    (h : FormAt c x.2) (e : x = (b, t)) : FormAt c t := by
  subst e
  exact h

theorem ite_form {p : Prop} [Decidable p] {t u : State} (ht : FormAt c t) (hu : FormAt c u) :
    FormAt c (if p then t else u) := by
  split
  · exact ht
  · exact hu

/-- The state kept in any place of an accumulator. -/
theorem foldl_proj_form {α β : Type} {g : β → State} {f : β → α → β} {l : List α} {x : β}
    (hf : ∀ {x a}, FormAt c (g x) → FormAt c (g (f x a))) (h : FormAt c (g x)) : FormAt c (g (l.foldl f x)) := by
  induction l generalizing x with
  | nil => exact h
  | cons a l ih => exact ih (hf h)

theorem foldl_fst_form {α β : Type} {f : State × β → α → State × β} {l : List α} {x : State × β}
    (hf : ∀ {x a}, FormAt c x.1 → FormAt c (f x a).1) (h : FormAt c x.1) : FormAt c (l.foldl f x).1 :=
  foldl_proj_form (g := Prod.fst) hf h

theorem setD_fold_wf {es m : SMap Byte} (h : Memory.wf m = true) :
    Memory.wf (es.foldl (fun acc e => setD 0#8 acc e.1 e.2) m) = true := by
  induction es generalizing m with
  | nil => exact h
  | cons e es ih => exact ih (canonical_setD _ _ _ _ h)
end

end Sys2Proof.Machine

/-! ### Memory, its rows, links and metadata -/

namespace Sys2Proof.Machine

variable {c : Cur} {s : State}

theorem modPort_form {i : Nat} {f : Port → Port} (h : FormAt c s) : FormAt c (modPort s i f) := h

theorem cross_form {a b : Nat} {head : List Byte} {load : Load} (h : FormAt c s) :
    FormAt c (cross s a b head load) := by
  fun_cases cross s a b head load <;> grind [modPort_form]

theorem sendOn_form {i gid : Nat} {head : List Byte} {load : Load} (h : FormAt c s) :
    FormAt c (sendOn s i gid head load) := modPort_form h

theorem sendFabric_form {die part node vb : Nat} {head : List Byte} {load : Load} (h : FormAt c s) :
    FormAt c (sendFabric s die part node vb head load) := by
  fun_cases sendFabric s die part node vb head load <;> grind [cross_form, sendOn_form]

theorem countCorr_form {chan bank : Nat} (h : FormAt c s) : FormAt c (countCorr s chan bank) := h

theorem readUnit_form {chan bank row blk n : Nat} (h : FormAt c s) : FormAt c (readUnit s chan bank row blk n).2 := by
  fun_cases readUnit s chan bank row blk n <;> grind [countCorr_form]

theorem markDirty_form {chan bank row : Nat} (h : FormAt c s) :
    FormAt c (markDirty s chan bank row) := by fun_cases markDirty s chan bank row <;> exact h

theorem readyRow_form {chan bank row : Nat} (h : FormAt c s) : FormAt c (readyRow s chan bank row) := by
  fun_cases readyRow s chan bank row
  case case1 => exact h
  case case2 | case3 => exact h.withDram (writeRun_wf _ _ _ h.1)

theorem writeUnit_form {chan bank row blk : Nat} {bytes : List Byte} (h : FormAt c s) :
    FormAt c (writeUnit s chan bank row blk bytes) := by
  have hr : FormAt c (readyRow (if row ≥ 1024 then markDirty s chan bank row else s) chan bank row) := by
    split
    · exact readyRow_form (markDirty_form h)
    · exact readyRow_form h
  exact hr.withDram (writeRun_wf _ _ _ hr.1)

theorem metaPut_form {chan : Nat} {ln : MetaLine} (h : FormAt c s) : FormAt c (metaPut s chan ln) := by
  fun_cases metaPut s chan ln
  grind [FormAt.update, writeUnit_form]

theorem dropCovered_form {chan n : Nat} (h : FormAt c s) : FormAt c (dropCovered s chan n) := h

theorem metaFail_form {chan n : Nat} (h : FormAt c s) : FormAt c (metaFail s chan n) := dropCovered_form h

theorem metaLine_form {chan n : Nat} (h : FormAt c s) : FormAt c (metaLine s chan n).2 := by
  fun_cases metaLine s chan n <;> grind [readUnit_form, metaPut_form, metaFail_form]

theorem metaUpset_form {chan n : Nat} (h : FormAt c s) : FormAt c (metaUpset s chan n) := by
  fun_cases metaUpset s chan n <;> grind [FormAt.update, markDirty_form, readyRow_form]

theorem metaRewrite_form {chan n : Nat} {bytes : List Byte} (h : FormAt c s) :
    FormAt c (metaRewrite s chan n bytes) := writeUnit_form h

theorem readTag_form {l : Loc} (h : FormAt c s) : FormAt c (readTag s l).2 := by
  fun_cases readTag s l <;> grind [metaLine_form]

theorem writeTag_form {l : Loc} {tag : Nat} (h : FormAt c s) : FormAt c (writeTag s l tag).2 := by
  fun_cases writeTag s l tag <;> grind [metaPut_form, metaLine_form]

theorem dramRead_form {l : Loc} (h : FormAt c s) : FormAt c (dramRead s l).2 := by
  fun_cases dramRead s l <;> grind [readUnit_form, readTag_form]

theorem dramWrite_form {l : Loc} {b : PBlock} (h : FormAt c s) : FormAt c (dramWrite s l b).2 := by
  fun_cases dramWrite s l b <;> grind [writeUnit_form, writeTag_form]

theorem renumber_form {chan bank : Nat} (h : FormAt c s) : FormAt c (renumber s chan bank) := h

theorem nextSeq_form {chan bank : Nat} (h : FormAt c s) : FormAt c (nextSeq s chan bank).2 := by
  fun_cases nextSeq s chan bank
  grind [FormAt.update, renumber_form]

theorem copyRow_form {chan bank src dst : Nat} (h : FormAt c s) : FormAt c (copyRow s chan bank src dst) :=
  h.withDram (setD_fold_wf (canonical_filter _ _ _ h.1))

theorem demoteRow_form {chan bank row : Nat} (h : FormAt c s) : FormAt c (demoteRow s chan bank row).2 := by
  fun_cases demoteRow s chan bank row <;> grind [FormAt.update, copyRow_form]

theorem fillSlot_form {chan bank row t p : Nat} (h : FormAt c s) : FormAt c (fillSlot s chan bank row t p) :=
  copyRow_form (nextSeq_form h)

theorem promoteRow_form {chan bank row p : Nat} (h : FormAt c s) : FormAt c (promoteRow s chan bank row p).2 := by
  fun_cases promoteRow s chan bank row p <;> grind [FormAt.update, nextSeq_form, copyRow_form, fillSlot_form]

theorem clearChannel_form {chan : Nat} (h : FormAt c s) : FormAt c (clearChannel s chan) :=
  h.withDram (canonical_filter _ _ _ h.1)

theorem setPart_form {p : Nat} {x : Part} (h : FormAt c s) : FormAt c (setPart s p x) := h

theorem modPart_form {p : Nat} {f : Part → Part} (h : FormAt c s) : FormAt c (modPart s p f) := setPart_form h

theorem setCore_form {k : Nat} {x : Core} (h : FormAt c s) : FormAt c (setCore s k x) := h

theorem modCore_form {k : Nat} {f : Core → Core} (h : FormAt c s) : FormAt c (modCore s k f) := setCore_form h

theorem setL2_form {k : Nat} {bs : List L2Block} (h : FormAt c s) : FormAt c (setL2 s k bs) := h

theorem l2Drop_form {slice pid atag vb : Nat} (h : FormAt c s) : FormAt c (l2Drop s slice pid atag vb) := setL2_form h

theorem writeBack_form {slice : Nat} {b : L2Block} (h : FormAt c s) : FormAt c (writeBack s slice b) := by
  fun_cases writeBack s slice b <;> grind [cross_form, dramWrite_form, modPart_form]

theorem modReq_form {rid : Nat} {f : Req → Req} (h : FormAt c s) : FormAt c (modReq s rid f) := h

theorem setStage_form {rid : Nat} {st : Stage} (h : FormAt c s) : FormAt c (setStage s rid st) := modReq_form h

theorem dropReq_form {rid : Nat} (h : FormAt c s) : FormAt c (dropReq s rid) := h

theorem clearResv_form {p atag va n : Nat} {own : List Nat} (h : FormAt c s) :
    FormAt c (clearResv s p atag va n own) := h

theorem setResv_form {r : Req} (h : FormAt c s) : FormAt c (setResv s r) := h

theorem takeResv_form {r : Req} (h : FormAt c s) : FormAt c (takeResv s r).2 := h

theorem finished_form {rid : Nat} {r : Req} {snap : List Byte} {vals : List Nat} (h : FormAt c s) :
    FormAt c (finished s rid r snap vals) := by
  fun_cases finished s rid r snap vals <;> grind [modReq_form, setStage_form, dropReq_form]

theorem performOn_form {rid : Nat} {r : Req} {b : L2Block} (h : FormAt c s) : FormAt c (performOn s rid r b).1 := by
  fun_cases performOn s rid r b <;> grind [clearResv_form, setResv_form, takeResv_form, finished_form]

theorem performAll_form {b : L2Block} {p : Req → Bool} (h : FormAt c s) : FormAt c (performAll s b p).1 :=
  foldl_fst_form performOn_form h

theorem serveOnce_form {slice : Nat} {b : L2Block} (h : FormAt c s) : FormAt c (serveOnce s slice b).1 := by
  fun_cases serveOnce s slice b
  grind [writeBack_form, performAll_form]

theorem retireBlock_form {slice : Nat} {b : L2Block} (h : FormAt c s) :
    FormAt c (retireBlock s slice b) := serveOnce_form h

theorem evictMisplaced_form {slice : Nat} {bs : List L2Block}
    (h : FormAt c s) : FormAt c (evictMisplaced s slice bs).1 :=
  foldl_form retireBlock_form h

theorem makeRoom_form {slice : Nat} {win : Bool} {cap need n : Nat} {m : List L2Block} (h : FormAt c s) :
    FormAt c (makeRoom s slice win cap need n m).1 := by
  fun_induction makeRoom s slice win cap need n m <;> grind [retireBlock_form]

theorem l2Install_form {slice : Nat} {b : L2Block} {asLru : Bool} (h : FormAt c s) :
    FormAt c (l2Install s slice b asLru) := by
  fun_cases l2Install s slice b asLru <;> grind [setL2_form, retireBlock_form, evictMisplaced_form, makeRoom_form]

theorem settleBlock_form {slice : Nat} {b : L2Block} (h : FormAt c s) : FormAt c (settleBlock s slice b).1 := by
  fun_cases settleBlock s slice b <;> grind [performAll_form, l2Install_form]

end Sys2Proof.Machine

/-! ### Translation, the home slices and the accesses of engines -/

namespace Sys2Proof.Machine

variable {c : Cur} {s : State}

theorem cancelFetch_form {pid atag vb : Nat} (h : FormAt c s) : FormAt c (cancelFetch s pid atag vb) := h

theorem l2Place_form {slice : Nat} {b : L2Block} {asLru : Bool} (h : FormAt c s) :
    FormAt c (l2Place s slice b asLru).1 := by
  fun_cases l2Place s slice b asLru <;> grind [serveOnce_form, l2Install_form]

theorem installBlock_form {slice pid atag vb pa : Nat} {lf : Leaf} {blk : PBlock} {asLru : Bool} (h : FormAt c s) :
    FormAt c (installBlock s slice pid atag vb pa lf blk asLru).2 := by
  fun_cases installBlock s slice pid atag vb pa lf blk asLru <;> grind [FormAt.update, cancelFetch_form, l2Place_form]

theorem fetchBlock_form {slice : Nat} {l : Loc} {pa : Nat} (h : FormAt c s) :
    FormAt c (fetchBlock s slice l pa).2 := by
  fun_cases fetchBlock s slice l pa <;> grind [cross_form, dramRead_form]

theorem fillFrom_form {slice pid atag vb pa : Nat} {lf : Leaf} (h : FormAt c s) :
    FormAt c (fillFrom s slice pid atag vb pa lf).2 := by
  fun_cases fillFrom s slice pid atag vb pa lf <;> grind [installBlock_form, fetchBlock_form]

theorem moveBlock_form {p atag vb : Nat} (h : FormAt c s) : FormAt c (moveBlock s p atag vb).2 := by
  fun_cases moveBlock s p atag vb <;> grind [cross_form, setL2_form, l2Drop_form, l2Install_form]

theorem homeHit_form {p atag vb : Nat} (h : FormAt c s) : FormAt c (homeHit s p atag vb).2 := by
  fun_cases homeHit s p atag vb <;> grind [moveBlock_form]

theorem apertureBlock_form {p : Nat} {va : VA} (h : FormAt c s) : FormAt c (apertureBlock s p va).2 := by
  fun_cases apertureBlock s p va <;> grind [fillFrom_form, homeHit_form]

theorem read8_form {die p pa : Nat} (h : FormAt c s) : FormAt c (read8 s die p pa).2 := by
  fun_cases read8 s die p pa <;> grind [cross_form, settleBlock_form, apertureBlock_form]

theorem cacheTable_form {u : Nat} {e : WalkEntry} (h : FormAt c s) : FormAt c (cacheTable s u e) := h

theorem walkFrom_form {u p atag va n m ps : Nat} (h : FormAt c s) :
    FormAt c (walkFrom s u p atag va n m ps).2 := by
  fun_induction walkFrom s u p atag va n m ps <;> grind [read8_form, cacheTable_form]

theorem walk_form {u p atag va : Nat} (h : FormAt c s) : FormAt c (walk s u p atag va).2 := by
  fun_cases walk s u p atag va <;> grind [read8_form, walkFrom_form]

theorem tlbAdd_form {u p atag : Nat} {lf : Leaf} (h : FormAt c s) : FormAt c (tlbAdd s u p atag lf) := h

theorem translate_form {slice p atag va : Nat} (h : FormAt c s) : FormAt c (translate s slice p atag va).2 := by
  fun_cases translate s slice p atag va <;> grind [walk_form, tlbAdd_form]

theorem crossings_form {w : Who} {slice : Nat} {va : VA} {out back : Load} (h : FormAt c s) :
    FormAt c (crossings s w slice va out back) := by
  fun_cases crossings s w slice va out back <;> grind [cross_form]

theorem toAndFro_form {w : Who} {va : VA} {out back : Load} (h : FormAt c s) :
    FormAt c (toAndFro s w va out back) := by
  fun_cases toAndFro s w va out back <;> grind [crossings_form]

theorem homeTarget_form {w : Who} {va : VA} (h : FormAt c s) : FormAt c (homeTarget s w va).2 := by
  fun_cases homeTarget s w va <;> grind [fillFrom_form, homeHit_form, apertureBlock_form, translate_form]

theorem replaceSite_form {w : Who} {va : VA} (h : FormAt c s) : FormAt c (replaceSite s w va).2 := by
  fun_cases replaceSite s w va <;> grind [readTag_form, translate_form]

theorem writeTarget_form {w : Who} {va : VA} {full : Bool} (h : FormAt c s) :
    FormAt c (writeTarget s w va full).2 := by
  fun_cases writeTarget s w va full <;> grind [installBlock_form, homeTarget_form, replaceSite_form]

theorem touch_form {slice : Nat} {b : L2Block} (h : FormAt c s) : FormAt c (touch s slice b) := by
  fun_cases touch s slice b <;> grind [setL2_form]

theorem l2Replace_form {slice : Nat} {b : L2Block} {bytes : List Byte} (h : FormAt c s) :
    FormAt c (l2Replace s slice b bytes) := l2Install_form h

theorem farAccess_form {α : Type} {w : Who} {va : VA} {node pa : Nat} {out back : Load} {v : α} (h : FormAt c s) :
    FormAt c (farAccess s w va node pa out back v).2 := by
  fun_cases farAccess s w va node pa out back v <;> grind [sendFabric_form, toAndFro_form]

theorem homeRead_form {w : Who} {need : Need} {va : VA} {n : Nat} (h : FormAt c s) :
    FormAt c (homeRead s w need va n).2 := by
  fun_cases homeRead s w need va n <;> grind [crossings_form, toAndFro_form, homeTarget_form, touch_form, farAccess_form]

theorem homeRmw_form {α : Type} {w : Who} {need : Need} {va : VA} {n : Nat} {own : List Nat}
    {f : List Byte → List Byte × α} (h : FormAt c s) : FormAt c (homeRmw s w need va n own f).2 := by
  fun_cases homeRmw s w need va n own f <;>
    grind [writeTarget_form, toAndFro_form, farAccess_form, crossings_form, l2Replace_form, clearResv_form]

theorem homeWrite_form {w : Who} {va : VA} {bytes : List Byte} (h : FormAt c s) :
    FormAt c (homeWrite s w va bytes).2 := homeRmw_form h

theorem readSpan_form {w : Who} {need : Need} {va : VA} {n m : Nat} (h : FormAt c s) :
    FormAt c (readSpan s w need va n m).2 := by
  fun_induction readSpan s w need va n m <;> grind [homeRead_form]

theorem writeSpan_form {w : Who} {va : VA} {n : List Byte} {m : Nat} (h : FormAt c s) :
    FormAt c (writeSpan s w va n m).2 := by
  fun_induction writeSpan s w va n m <;> grind [homeWrite_form]

theorem readN_form {w : Who} {va : VA} {n : Nat} (h : FormAt c s) : FormAt c (readN s w va n).2 := readSpan_form h

theorem writeN_form {w : Who} {va : VA} {bs : List Byte} (h : FormAt c s) :
    FormAt c (writeN s w va bs).2 := writeSpan_form h

theorem devFar_form {α : Type} {p pa : Nat} {out : Load} {v : α} (h : FormAt c s) :
    FormAt c (devFar s p pa out v).2 := by
  fun_cases devFar s p pa out v <;> grind [sendFabric_form]

theorem readPA_form {p pa n : Nat} (h : FormAt c s) : FormAt c (readPA s p pa n).2 := by
  fun_cases readPA s p pa n <;> grind [readN_form, devFar_form]

theorem writePA_form {p pa : Nat} {bs : List Byte} (h : FormAt c s) : FormAt c (writePA s p pa bs).2 := by
  fun_cases writePA s p pa bs <;> grind [writeN_form, devFar_form]

theorem fetchC_form {core part asid : Nat} {k : FetchKind} {va : VA} {n : Nat} (h : FormAt c s) :
    FormAt c (fetchC s core part asid k va n).2 := by
  fun_cases fetchC s core part asid k va n <;> grind [setCore_form, modCore_form, homeRead_form]

theorem fetchSpan_form {core part asid : Nat} {k : FetchKind} {va : VA} {n m : Nat} (h : FormAt c s) :
    FormAt c (fetchSpan s core part asid k va n m).2 := by
  fun_induction fetchSpan s core part asid k va n m <;> grind [fetchC_form]

theorem invalidateL1_form {core : Nat} (h : FormAt c s) : FormAt c (invalidateL1 s core) := by
  fun_cases invalidateL1 s core
  grind [FormAt.update, modCore_form]

theorem setWin32_form {p off v : Nat} (h : FormAt c s) : FormAt c (setWin32 s p off v) := modPart_form h

theorem setWin64_form {p off v : Nat} (h : FormAt c s) : FormAt c (setWin64 s p off v) := modPart_form h

theorem pushNote_form {part typ asid arg0 arg1 : Nat} (h : FormAt c s) :
    FormAt c (pushNote s part typ asid arg0 arg1) := by
  fun_cases pushNote s part typ asid arg0 arg1
  grind [modPart_form]

theorem modGroup_form {core g : Nat} {f : Group → Group} (h : FormAt c s) :
    FormAt c (modGroup s core g f) := modCore_form h

theorem modWarp_form {core ws : Nat} {f : Warp → Warp} (h : FormAt c s) :
    FormAt c (modWarp s core ws f) := modCore_form h

theorem orphanReqs_form {core ws : Nat} (h : FormAt c s) : FormAt c (orphanReqs s core ws) := h

theorem clearWarpResv_form {core ws : Nat} (h : FormAt c s) : FormAt c (clearWarpResv s core ws) := h

theorem dropWarp_form {core ws : Nat} (h : FormAt c s) : FormAt c (dropWarp s core ws) := by
  fun_cases dropWarp s core ws
  grind [modCore_form, orphanReqs_form, clearWarpResv_form]

theorem dropGroup_form {core g : Nat} (h : FormAt c s) : FormAt c (dropGroup s core g) :=
  foldl_form (f := fun s ws => dropWarp s core ws) dropWarp_form h

theorem forgetChild_form {part uid : Nat} (h : FormAt c s) : FormAt c (forgetChild s part uid) := modPart_form h

theorem finishGrid_form {part num : Nat} {g : Grid} {aborted : Bool} (h : FormAt c s) :
    FormAt c (finishGrid s part num g aborted) := by
  fun_cases finishGrid s part num g aborted <;> grind [modPart_form, pushNote_form, forgetChild_form]

theorem discardGrid_form {part num : Nat} (h : FormAt c s) : FormAt c (discardGrid s part num) := by
  unfold discardGrid
  refine modPart_form (foldl_form (fun {t e} ht => ?_) h)
  exact modCore_form (foldl_form (f := fun s w => dropWarp s e.1 w) dropWarp_form
    (foldl_form (f := fun s g => dropGroup s e.1 g) dropGroup_form ht))

theorem abortGrid_form {part n num : Nat} {pc : VA} (h : FormAt c s) : FormAt c (abortGrid part n s num pc) := by
  induction n generalizing s num pc with
  | zero => exact h
  | succ n ih =>
    unfold abortGrid
    split
    · exact h
    · exact finishGrid_form (foldl_form ih (discardGrid_form h))

theorem abort_form {part num : Nat} {pc : VA} (h : FormAt c s) : FormAt c (abort s part num pc) := abortGrid_form h

end Sys2Proof.Machine

/-! ### Partitions, groups, warps and faults -/

namespace Sys2Proof.Machine

variable {c : Cur} {s : State}

theorem Iss.mod_form {x : Iss} {f : Warp → Warp} (h : FormAt c s) : FormAt c (Iss.mod x s f) := modWarp_form h

theorem Iss.next_form {x : Iss} (h : FormAt c s) : FormAt c (Iss.next x s) := Iss.mod_form h

theorem performImp_form {core : Nat} {r : ImpWrite} (h : FormAt c s) : FormAt c (performImp s core r) := by
  fun_cases performImp s core r <;> grind [homeRmw_form, writeN_form]

theorem drainImps_form {core : Nat} {n : List ImpWrite} (h : FormAt c s) : FormAt c (drainImps core n s).2 := by
  fun_induction drainImps core n s <;> grind [performImp_form]

theorem drainImp_form {core : Nat} (h : FormAt c s) : FormAt c (drainImp s core) := modCore_form (drainImps_form h)

theorem writeImp_form {core ws : Nat} (h : FormAt c s) : FormAt c (writeImp s core ws) := by
  fun_cases writeImp s core ws <;> grind [modCore_form, modWarp_form, drainImp_form]

theorem addFlags_form {core ws : Nat} {pc : VA} {fl : Flags} (h : FormAt c s) :
    FormAt c (addFlags s core ws pc fl) := by
  fun_cases addFlags s core ws pc fl <;> grind [modWarp_form, writeImp_form]

theorem haltGroup_form {core g reason : Nat} (h : FormAt c s) : FormAt c (haltGroup s core g reason) := by
  fun_cases haltGroup s core g reason <;> grind [modCore_form, modGroup_form]

theorem haltFree_form {core ws reason : Nat} (h : FormAt c s) : FormAt c (haltFree s core ws reason) := by
  fun_cases haltFree s core ws reason
  grind [modWarp_form]

theorem haltUnit_form {core ws reason : Nat} {pc : VA} (h : FormAt c s) :
    FormAt c (haltUnit s core ws reason pc) := by
  fun_cases haltUnit s core ws reason pc <;> grind [modGroup_form, modWarp_form, abort_form, haltGroup_form, haltFree_form]

theorem takeTrap_form {core ws : Nat} {t : Trap} (h : FormAt c s) : FormAt c (takeTrap s core ws t) := by
  fun_cases takeTrap s core ws t <;> grind [modWarp_form, writeImp_form, haltUnit_form]

theorem Iss.trap_form {x : Iss} {code detail : Nat} {mask : Word} {elem : Nat} {addr : DWord} (h : FormAt c s) :
    FormAt c (Iss.trap x s code detail mask elem addr) := takeTrap_form h

theorem Iss.illegal_form {x : Iss} {code detail : Nat} (h : FormAt c s) :
    FormAt c (Iss.illegal x s code detail) := Iss.trap_form h

theorem putFault_form {part core wslot gslot asid unit : Nat} {pc : VA} {inst : DWord} {len nrec : Nat}
    {grid : Nat} {engine accst : Option Nat} {f : LaneFault} {lmask : Word}
    (h : FormAt c s) :
    FormAt c (putFault s part core wslot gslot asid unit pc inst len nrec grid engine accst f lmask) := by
  fun_cases putFault s part core wslot gslot asid unit pc inst len nrec grid engine accst f lmask
  grind [modPart_form, writePA_form]

theorem grantFaults_form {core ws : Nat} {st : Stall} (h : FormAt c s) : FormAt c (grantFaults s core ws st) := by
  unfold grantFaults
  extract_lets w gs unit t u
  have ht : FormAt c t := foldl_form putFault_form h
  split
  · exact modGroup_form (pushNote_form ht)
  · exact modWarp_form (pushNote_form ht)

theorem reserveFaults_form {core ws : Nat} {pc : VA} {inst : DWord} {len : Nat} {faults : List LaneFault}
    {accst : Option Nat}
    (h : FormAt c s) :
    FormAt c (reserveFaults s core ws pc inst len faults accst) := by
  fun_cases reserveFaults s core ws pc inst len faults accst <;> grind [modWarp_form, grantFaults_form]

theorem retryFaults_form {core ws : Nat} (h : FormAt c s) : FormAt c (retryFaults s core ws) := by
  fun_cases retryFaults s core ws <;> grind [modWarp_form, grantFaults_form]

theorem Iss.accessFailed_form {x : Iss} {lanes : List Nat} {va : VA} {acc path : Nat} {e : AccErr} (h : FormAt c s) :
    FormAt c (Iss.accessFailed x s lanes va acc path e) := by
  fun_cases Iss.accessFailed x s lanes va acc path e <;> grind [Iss.trap_form, reserveFaults_form]

theorem endWarp_form {core ws : Nat} (h : FormAt c s) :
    FormAt c (endWarp s core ws) := dropWarp_form (writeImp_form h)

theorem reap_form {core : Nat} (h : FormAt c s) : FormAt c (reap s core) := by
  unfold reap
  extract_lets k gone done t
  have ht : FormAt c t := foldl_form endWarp_form h
  exact modCore_form ht

theorem sees_form {core ws : Nat} {lanes : Word} {rids : List Nat} (h : FormAt c s) :
    FormAt c (sees s core ws lanes rids) := by
  fun_cases sees s core ws lanes rids
  grind [modWarp_form]

theorem checkGroupBarrier_form {core g : Nat} (h : FormAt c s) : FormAt c (checkGroupBarrier s core g) := by
  fun_cases checkGroupBarrier s core g <;> grind [modCore_form, modGroup_form]

theorem endThreads_form {core ws : Nat} {mask : Word} (h : FormAt c s) : FormAt c (endThreads s core ws mask) := by
  fun_cases endThreads s core ws mask
  grind [modWarp_form, writeImp_form, reap_form, checkGroupBarrier_form]

end Sys2Proof.Machine

/-! ### The issue of an instruction; loads, stores, atomics, synchronisation -/

namespace Sys2Proof.Machine

variable {c : Cur} {s : State}

theorem deliver_form {x : Iss} {rs : List (Nat × LaneRes)} (h : FormAt c s) : FormAt c (deliver x s rs) := by
  fun_cases deliver x s rs <;> grind [Iss.mod_form, Iss.next_form, addFlags_form, Iss.trap_form]

theorem deliverUni_form {x : Iss} {r : LaneRes} (h : FormAt c s) : FormAt c (deliverUni x s r) := by
  fun_cases deliverUni x s r <;> grind [Iss.mod_form, Iss.next_form, addFlags_form, Iss.trap_form]

theorem perLane_form {op : Nat} {f : Fields} {compute : Warp → Nat → LaneRes} {x : Iss} (h : FormAt c s) :
    FormAt c (perLane op f compute x s) := by
  fun_cases perLane op f compute x s <;> grind [Iss.next_form, deliver_form, deliverUni_form]

theorem deliverAll_form {x : Iss} {wset : List Nat} {fl : Flags} {put : Warp → Warp} (h : FormAt c s) :
    FormAt c (deliverAll x s wset fl put) := by
  fun_cases deliverAll x s wset fl put <;> grind [Iss.mod_form, Iss.next_form, addFlags_form, Iss.trap_form]

theorem admitted_form {op : Nat} {f : Fields} {body : Iss → State → State} {x : Iss}
    (hb : FormAt c s → FormAt c (body x s)) (h : FormAt c s) : FormAt c (admitted op f body x s) := by
  fun_cases admitted op f body x s
  case case1 | case2 => exact Iss.illegal_form h
  case case3 => exact hb h

/-- Whatever an issued instruction does in the form, afterwards no instruction is half issued. -/
theorem issue_kept {op : Nat} {f : Fields} {body : Iss → State → State} {t : State}
    (hb : ∀ {c x}, FormAt c s → FormAt c (body x s)) (h : FormAt c s) (e : issue op f body s = .next t) : FormAt .idle t := by
  unfold issue at e
  split at e
  · cases e
    exact ⟨(admitted_form hb h).1, rfl⟩
  · cases e

theorem acquireBy_form {core ws : Nat} {lanes : Word} {wide : Bool} (h : FormAt c s) :
    FormAt c (acquireBy s core ws lanes wide) := by
  fun_cases acquireBy s core ws lanes wide <;> grind [invalidateL1_form, sees_form]

theorem addrTrap_form {op : Nat} {f : Fields} {x : Iss} {code : Nat} {bad : List (Nat × VA)} (h : FormAt c s) :
    FormAt c (addrTrap op f x s code bad) := by
  fun_cases addrTrap op f x s code bad
  grind [Iss.trap_form]

theorem pushReq_form {r : Req} (h : FormAt c s) : FormAt c (pushReq s r).2 := h

theorem markNoFill_form {core part atag line : Nat} (h : FormAt c s) :
    FormAt c (markNoFill s core part atag line) := h

theorem l1Drop_form {core part atag line : Nat} (h : FormAt c s) :
    FormAt c (l1Drop s core part atag line) := modCore_form h

theorem l1Forget_form {core part atag line : Nat} (h : FormAt c s) :
    FormAt c (l1Forget s core part atag line) := l1Drop_form (markNoFill_form h)

theorem l1Patch_form {core part atag : Nat} {va : VA} {bs : List Byte} (h : FormAt c s) :
    FormAt c (l1Patch s core part atag va bs) := by
  fun_cases l1Patch s core part atag va bs
  grind [modCore_form]

theorem finishInfl_form {core ws iid : Nat} (h : FormAt c s) : FormAt c (finishInfl s core ws iid) := by
  fun_cases finishInfl s core ws iid <;> grind [modWarp_form, reserveFaults_form, reap_form]

theorem sendInfl_form {x : Iss} {op : Nat} {f : Fields} {lanes : List Nat} {iid : Nat} {rids : List Nat}
    {faults : List LaneFault}
    (h : FormAt c s) :
    FormAt c (sendInfl x s op f lanes iid rids faults) := by
  fun_cases sendInfl x s op f lanes iid rids faults <;> grind [Iss.mod_form, finishInfl_form]

theorem answerInfl_form {core ws iid rid : Nat} {lanes : Word} {va : VA} {acc : Nat} {e : Option AccErr}
    (h : FormAt c s) :
    FormAt c (answerInfl s core ws iid rid lanes va acc e) := by
  fun_cases answerInfl s core ws iid rid lanes va acc e <;> grind [modWarp_form, finishInfl_form]

theorem freshIid_form (h : FormAt c s) : FormAt c (freshIid s).2 := h

theorem loadParts_form {x : Iss} {w : Warp} {iid : Nat} {f : Fields} {dst ext : Nat}
    {uniform acq wide mayHit : Bool} {op : MemOp} {n : List (VA × Nat × Nat × List Nat)}
    (h : FormAt c s) :
    FormAt c (loadParts x w iid f dst ext uniform acq wide mayHit op n s).2 := by
  fun_induction loadParts x w iid f dst ext uniform acq wide mayHit op n s <;> grind [modCore_form, Iss.mod_form,
    sees_form, acquireBy_form, pushReq_form]

theorem loadBody_form {op : Nat} {mop : MemOp} {f : Fields} {x : Iss} (h : FormAt c s) :
    FormAt c (loadBody op mop f x s) := by
  fun_cases loadBody op mop f x s <;> grind [Iss.next_form, addrTrap_form, sendInfl_form, freshIid_form, loadParts_form]

theorem storeParts_form {x : Iss} {w : Warp} {iid : Nat} {f : Fields} {uniform : Bool}
    {n : List (VA × List Byte × List Nat)}
    (h : FormAt c s) :
    FormAt c (storeParts x w iid f uniform n s).2 := by
  fun_induction storeParts x w iid f uniform n s <;> grind [pushReq_form, markNoFill_form, l1Patch_form]

theorem storeBody_form {op : Nat} {f : Fields} {x : Iss} (h : FormAt c s) : FormAt c (storeBody op f x s) := by
  fun_cases storeBody op f x s <;> grind [Iss.next_form, addrTrap_form, sendInfl_form, freshIid_form, storeParts_form]

theorem atomParts_form {x : Iss} {w : Warp} {iid : Nat} {f : Fields} {uniform acq wide : Bool} {dst n : Nat}
    {mk : List Nat → MemOp} {ns : List (VA × List Nat)}
    (h : FormAt c s) :
    FormAt c (atomParts x w iid f uniform acq wide dst n mk ns s).2 := by
  fun_induction atomParts x w iid f uniform acq wide dst n mk ns s <;> grind [pushReq_form, markNoFill_form]

theorem atomBody_form {op : Nat} {f : Fields} {dst : Nat} {apart : Bool} {mk : List (Nat × Nat × Nat) → MemOp}
    {x : Iss}
    (h : FormAt c s) :
    FormAt c (atomBody op f dst apart mk x s) := by
  fun_cases atomBody op f dst apart mk x s <;> grind [Iss.next_form, addrTrap_form, sendInfl_form, freshIid_form,
    atomParts_form]

theorem ldcLanes_form {x : Iss} {w : Warp} {f : Fields} {size : Nat} {n : List (Nat × VA)} (h : FormAt c s) :
    FormAt c (ldcLanes x w f size n s).2 := by
  fun_induction ldcLanes x w f size n s <;> grind [fetchC_form]

theorem ldcBody_form {f : Fields} {x : Iss} (h : FormAt c s) : FormAt c (ldcBody f x s) := by
  fun_cases ldcBody f x s <;> grind [Iss.mod_form, Iss.next_form, Iss.trap_form, reserveFaults_form, addrTrap_form,
    ldcLanes_form]

theorem prefBody_form {f : Fields} {x : Iss} (h : FormAt c s) : FormAt c (prefBody f x s) := by
  unfold prefBody
  extract_lets w eas t
  have ht : FormAt c t := foldl_form pushReq_form h
  exact Iss.next_form ht

theorem cctlBody_form {f : Fields} {x : Iss} (h : FormAt c s) : FormAt c (cctlBody f x s) := by
  unfold cctlBody
  extract_lets w which drop all vas some
  have hall : FormAt c all := by
    unfold all
    split
    · exact invalidateL1_form h
    · exact modCore_form h
  have hsome : FormAt c some := by
    refine foldl_form (fun {t va} ht => ?_) h
    dsimp only
    split
    · exact modCore_form (markNoFill_form ht)
    · exact modCore_form ht
  grind [Iss.next_form]

theorem targetWrite_form {tg : Nat × Nat × Nat} {bs : List Byte} (h : FormAt c s) :
    FormAt c (targetWrite s tg bs) := modGroup_form h

theorem spadLanes_form {x : Iss} {go : Nat → Nat × Nat × Nat → State → Option (List (Nat × Nat)) × State}
    {ls : List (Nat × Nat × Nat × Nat)} (hg : ∀ {l tg s}, FormAt c s → FormAt c (go l tg s).2) (h : FormAt c s) :
    FormAt c (spadLanes x go ls s).2 := by
  fun_induction spadLanes x go ls s <;> grind [Iss.mod_form]

theorem spadBody_form {op : Nat} {quad : Bool} {size : Nat} {ea : Warp → Nat → VA} {f : Fields}
    {go : Warp → Nat → Nat × Nat × Nat → State → Option (List (Nat × Nat)) × State} {x : Iss}
    (hg : ∀ {w l tg s}, FormAt c s → FormAt c (go w l tg s).2) (h : FormAt c s) :
    FormAt c (spadBody op quad size ea f go x s) := by
  fun_cases spadBody op quad size ea f go x s <;>
    grind [Iss.next_form, addrTrap_form, spadLanes_form, Iss.mod_form, Iss.trap_form]

theorem spadLoad_form {f : Fields} {y1 : Warp} {y2 : Nat} {tg : Nat × Nat × Nat} (h : FormAt c s) :
    FormAt c (spadLoad f y1 y2 tg s).2 := by fun_cases spadLoad f y1 y2 tg s <;> exact h

theorem spadStore_form {f : Fields} {w : Warp} {l : Nat} {tg : Nat × Nat × Nat} (h : FormAt c s) :
    FormAt c (spadStore f w l tg s).2 := targetWrite_form h

theorem atomspLane_form {f : Fields} {w : Warp} {l : Nat} {tg : Nat × Nat × Nat} (h : FormAt c s) :
    FormAt c (atomspLane f w l tg s).2 := by
  fun_cases atomspLane f w l tg s <;> grind [targetWrite_form]

theorem semBody_form {f : Fields} {body : Iss → Nat → Group → Nat → State → State} {x : Iss}
    (hb : ∀ {x g y i s}, FormAt c s → FormAt c (body x g y i s)) (h : FormAt c s) : FormAt c (semBody f body x s) := by
  fun_cases semBody f body x s <;> grind [Iss.illegal_form, Iss.next_form]

theorem releaseObj_form {k g o : Nat} {ph : Bool} (h : FormAt c s) : FormAt c (releaseObj s k g o ph) := by
  unfold releaseObj
  refine foldl_form (fun {t e} ht => ?_) h
  extract_lets core hits quad u
  have hu : FormAt c u := foldl_form modWarp_form ht
  split
  · exact invalidateL1_form hu
  · exact hu

theorem updateObj_form {tg : Nat × Nat × Nat} {d : Int} {arrive : Bool} (h : FormAt c s) :
    FormAt c (updateObj s tg d arrive) := by
  fun_cases updateObj s tg d arrive <;> grind [targetWrite_form, releaseObj_form]

theorem fenceBody_form {f : Fields} {x : Iss} (h : FormAt c s) : FormAt c (fenceBody f x s) := by
  fun_cases fenceBody f x s <;> grind [Iss.next_form, acquireBy_form]

theorem fencexBody_form {f : Fields} {x : Iss} (h : FormAt c s) : FormAt c (fencexBody f x s) := by
  fun_cases fencexBody f x s <;> grind [Iss.next_form, acquireBy_form]

theorem barGrpBody_form {f : Fields} {x : Iss} (h : FormAt c s) : FormAt c (barGrpBody f x s) := by
  fun_cases barGrpBody f x s <;> grind [modGroup_form, Iss.mod_form, Iss.next_form, Iss.illegal_form, checkGroupBarrier_form]

theorem waitObj_form {x : Iss} {quad : Bool} {a : Nat} {ph : Bool} (h : FormAt c s) :
    FormAt c (waitObj x s quad a ph) := Iss.mod_form h

theorem barObjBody_form {quad : Bool} {d : BarDo} {bytes : Bool} {f : Fields} {x : Iss} (h : FormAt c s) :
    FormAt c (barObjBody quad d bytes f x s) := by
  fun_cases barObjBody quad d bytes f x s <;> grind [Iss.mod_form, Iss.next_form, Iss.trap_form, Iss.illegal_form,
    acquireBy_form, updateObj_form, waitObj_form]

theorem enqBody_form {f : Fields} {x : Iss} (h : FormAt c s) : FormAt c (enqBody f x s) := by
  fun_cases enqBody f x s <;> grind [modGroup_form, Iss.mod_form, Iss.next_form, Iss.trap_form, Iss.illegal_form]

theorem doneLanes_form {x : Iss} {w : Warp} {n : List (Nat × Nat)} (h : FormAt c s) :
    FormAt c (doneLanes x w n s).2 := by
  fun_induction doneLanes x w n s <;> grind [homeRmw_form, markNoFill_form, l1Patch_form]

theorem settle_form {x : Iss} {bad : List (Nat × VA × AccErr)} {stay : List Nat} {acc path : Nat} (h : FormAt c s) :
    FormAt c (settle x s bad stay acc path) := by
  fun_cases settle x s bad stay acc path <;> grind [Iss.mod_form, Iss.trap_form, reserveFaults_form]

theorem doneBody_form {f : Fields} {x : Iss} (h : FormAt c s) : FormAt c (doneBody f x s) := by
  fun_cases doneBody f x s <;> grind [Iss.next_form, Iss.illegal_form, doneLanes_form, settle_form]

theorem tileLanes_form {x : Iss} {w : Warp} {f : Fields} {n : List Nat} (h : FormAt c s) :
    FormAt c (tileLanes x w f n s).2 := by
  fun_induction tileLanes x w f n s <;> grind [homeRead_form]

theorem tilewaitBody_form {f : Fields} {x : Iss} (h : FormAt c s) : FormAt c (tilewaitBody f x s) := by
  fun_cases tilewaitBody f x s <;> grind [acquireBy_form, settle_form, tileLanes_form]

end Sys2Proof.Machine

/-! ### Clusters, launches and grids -/

namespace Sys2Proof.Machine

variable {c : Cur} {s : State}

theorem EngAt.mod_form {x : EngAt} {f : Group → Group} (h : FormAt c s) :
    FormAt c (EngAt.mod x s f) := modGroup_form h

theorem setSticky_form {x : EngAt} {bit : Nat} (h : FormAt c s) : FormAt c (setSticky s x bit) := by
  fun_cases setSticky s x bit
  grind [Iss.mod_form, EngAt.mod_form]

theorem parkRing_form {x : EngAt} {code opc : Nat} (h : FormAt c s) : FormAt c (parkRing s x code opc) := by
  fun_cases parkRing s x code opc
  grind [Iss.mod_form, EngAt.mod_form]

theorem stopRing_form {x : EngAt} {opc : Nat} {e : EStop} (h : FormAt c s) : FormAt c (stopRing s x opc e) := by
  fun_cases stopRing s x opc e <;> grind [pushNote_form, Iss.mod_form, putFault_form, EngAt.mod_form, parkRing_form]

theorem engReadMem_form {who : Who} {va : VA} {n m : Nat} (h : FormAt c s) :
    FormAt c (engReadMem who va n m s).2 := by
  fun_induction engReadMem who va n m s <;> grind [homeRead_form]

theorem engWriteMem_form {who : Who} {va : VA} {n : List Byte} {m : Nat} (h : FormAt c s) :
    FormAt c (engWriteMem who va n m s).2 := by
  fun_induction engWriteMem who va n m s <;> grind [homeWrite_form]

theorem engRead_form {x : EngAt} {aw : Nat} {off : Int} {n al : Nat} (h : FormAt c s) :
    FormAt c (engRead x aw off n al s).2 := by
  fun_cases engRead x aw off n al s <;> grind [engReadMem_form]

theorem engWrite_form {x : EngAt} {aw : Nat} {off : Int} {al : Nat} {bs : List Byte} (h : FormAt c s) :
    FormAt c (engWrite x aw off al bs s).2 := by
  fun_cases engWrite x aw off al bs s <;> grind [Iss.mod_form, EngAt.mod_form, engWriteMem_form]

theorem engRmw_form {x : EngAt} {aw : Nat} {off : Int} {n : Nat} {f : Nat → Nat} (h : FormAt c s) :
    FormAt c (engRmw x aw off n f s).2 := by
  fun_cases engRmw x aw off n f s <;> grind [homeRmw_form, Iss.mod_form, EngAt.mod_form]

theorem orStop_form {α : Type} {r : Except EStop α × State} {k : α → State → Except EStop Unit × State}
    (hk : ∀ {v t}, FormAt c t → FormAt c (k v t).2) (h : FormAt c r.2) : FormAt c (orStop r k).2 := by
  fun_cases orStop r k
  · exact hk h
  · exact h

theorem engEach_form {α : Type} {f : α → State → Except EStop Unit × State} {as : List α}
    (hf : ∀ {a t}, FormAt c t → FormAt c (f a t).2) (h : FormAt c s) : FormAt c (engEach f as s).2 := by
  induction as generalizing s with
  | nil => exact h
  | cons a as ih => exact orStop_form ih (hf h)

theorem renameUnit_form {part u v : Nat} (h : FormAt c s) : FormAt c (renameUnit s part u v) := by
  fun_cases renameUnit s part u v
  grind [modPart_form]

theorem settleAnswers_form {part lead : Nat} (h : FormAt c s) : FormAt c (settleAnswers s part lead) := by
  fun_cases settleAnswers s part lead <;> grind [abort_form]

theorem answer_form {part kind key action : Nat} (h : FormAt c s) : FormAt c (answer s part kind key action) := by
  fun_cases answer s part kind key action <;> grind [modPart_form, abort_form, settleAnswers_form]

theorem resumeWrite_form {part v : Nat} (h : FormAt c s) : FormAt c (resumeWrite s part v) := by
  fun_cases resumeWrite s part v <;> grind [answer_form]

theorem execReplay_form {part kind key : Nat} {t : State}
    (h : FormAt c s) (e : execReplay part kind key s = .next t) : FormAt c t := by
  cases e
  exact answer_form h

theorem execDeliver_form {part kind key : Nat} {t : State}
    (h : FormAt c s) (e : execDeliver part kind key s = .next t) : FormAt c t := by
  cases e
  exact answer_form h

theorem execAbort_form {part kind key : Nat} {t : State}
    (h : FormAt c s) (e : execAbort part kind key s = .next t) : FormAt c t := by
  cases e
  exact answer_form h

theorem holdAsid_form {part asid : Nat} (h : FormAt c s) : FormAt c (holdAsid s part asid) := by
  fun_cases holdAsid s part asid <;> grind [FormAt.update, modPart_form]

theorem releaseAsid_form {part asid : Nat} (h : FormAt c s) : FormAt c (releaseAsid s part asid) := by
  fun_cases releaseAsid s part asid <;> grind [modPart_form]

theorem prectlWrite_form {part v : Nat} (h : FormAt c s) : FormAt c (prectlWrite s part v) := by
  fun_cases prectlWrite s part v <;> grind [holdAsid_form, releaseAsid_form]

theorem execHold_form {part asid : Nat} {t : State}
    (h : FormAt c s) (e : execHold part asid s = .next t) : FormAt c t := by
  cases e
  exact holdAsid_form h

theorem execRelease_form {part asid : Nat} {t : State}
    (h : FormAt c s) (e : execRelease part asid s = .next t) : FormAt c t := by
  cases e
  exact releaseAsid_form h

theorem execHoldCompletion_form {part : Nat} {t : State}
    (h : FormAt c s) (e : execHoldCompletion part s = .next t) : FormAt c t := by
  unfold execHoldCompletion at e
  grind [setWin64_form, pushNote_form, Iss.next_form]

theorem execRowPromotion_form {chan bank row pri : Nat} {t : State}
    (h : FormAt c s) (e : execRowPromotion chan bank row pri s = .next t) : FormAt c t := by
  unfold execRowPromotion at e
  grind [promoteRow_form, Iss.next_form]

theorem execRowDemotion_form {chan bank row : Nat} {t : State}
    (h : FormAt c s) (e : execRowDemotion chan bank row s = .next t) : FormAt c t := by
  unfold execRowDemotion at e
  grind [demoteRow_form, Iss.next_form]

theorem execAutomaticPromotion_form {chan : Nat} {t : State}
    (h : FormAt c s) (e : execAutomaticPromotion chan s = .next t) : FormAt c t := by
  unfold execAutomaticPromotion at e
  grind [FormAt.update, promoteRow_form, Iss.next_form]

theorem execSeqRenumbering_form {chan bank : Nat} {t : State}
    (h : FormAt c s) (e : execSeqRenumbering chan bank s = .next t) : FormAt c t := by
  unfold execSeqRenumbering at e
  grind [renumber_form, Iss.next_form]

theorem execRefresh_form {chan : Nat} {t : State}
    (h : FormAt c s) (e : execRefresh chan s = .next t) : FormAt c t := by
  cases e
  exact h

theorem scrubUnit_form {chan bank row : Nat} {bad : Bool} {blk : Nat} (h : FormAt c s) :
    FormAt c (scrubUnit chan bank row bad blk s) := by
  fun_cases scrubUnit chan bank row bad blk s <;> grind [FormAt.update, countCorr_form]

theorem execPatrolScrub_form {chan bank row : Nat} {t : State}
    (h : FormAt c s) (e : execPatrolScrub chan bank row s = .next t) :
    FormAt c t := by
  unfold execPatrolScrub at e
  split at e
  · cases e; exact h
  · dsimp only at e
    split at e
    · cases e; exact h
    · cases e; exact foldl_form scrubUnit_form h

theorem execChannelReset_form {chan : Nat} {t : State}
    (h : FormAt c s) (e : execChannelReset chan s = .next t) : FormAt c t := by
  unfold execChannelReset at e
  grind [FormAt.update, Iss.next_form]

theorem execChannelResetComplete_form {chan : Nat} {t : State}
    (h : FormAt c s) (e : execChannelResetComplete chan s = .next t) : FormAt c t := by
  unfold execChannelResetComplete at e
  grind [FormAt.update, clearChannel_form, Iss.next_form]

theorem execBandwidthWindow_form {chan : Nat} {t : State}
    (h : FormAt c s) (e : execBandwidthWindow chan s = .next t) : FormAt c t := by
  cases e
  exact h

theorem execLinkTraining_form {link : Nat} {packed : Bool} {t : State}
    (h : FormAt c s) (e : execLinkTraining link packed s = .next t) : FormAt c t := by
  cases e
  exact h

theorem execFlitReplay_form {port : Nat} {ok : Bool} {t : State}
    (h : FormAt c s) (e : execFlitReplay port ok s = .next t) : FormAt c t := by
  unfold execFlitReplay at e
  grind [modPort_form, Iss.next_form]

theorem execPortRetrain_form {port : Nat} {ok : Bool} {t : State}
    (h : FormAt c s) (e : execPortRetrain port ok s = .next t) : FormAt c t := by
  unfold execPortRetrain at e
  grind [modPort_form, Iss.next_form]

theorem linkAck_form {link n : Nat} (h : FormAt c s) : FormAt c (linkAck s link n) := modPort_form h

theorem modGrid_form {part num : Nat} {f : Grid → Grid} (h : FormAt c s) :
    FormAt c (modGrid s part num f) := modPart_form h

theorem addRecord_form {core : Nat} {r : ContRec} {t : State}
    (h : FormAt c s) (e : addRecord s core r = some t) : FormAt c t := by
  have hn : FormAt c { s with nextId := s.nextId + 1 } := h
  unfold addRecord at e
  grind [modCore_form, writeN_form, modGrid_form]

end Sys2Proof.Machine

/-! ### Engines and their records -/

namespace Sys2Proof.Machine

variable {c : Cur} {s : State}

theorem branchTo_form {x : Iss} {lanes : List Nat} {target : Nat → VA} (h : FormAt c s) :
    FormAt c (branchTo x s lanes target) := by
  fun_cases branchTo x s lanes target <;> grind [Iss.mod_form, Iss.illegal_form, EngAt.mod_form]

theorem branchHandler_form {x : Iss} {take : Bool} {target : VA} (h : FormAt c s) :
    FormAt c (branchHandler x s take target) := by
  fun_cases branchHandler x s take target
  grind [Iss.mod_form, EngAt.mod_form]

theorem braBody_form {f : Fields} {x : Iss} (h : FormAt c s) : FormAt c (braBody f x s) := by
  fun_cases braBody f x s <;> grind [branchTo_form, branchHandler_form]

theorem brxBody_form {f : Fields} {x : Iss} (h : FormAt c s) : FormAt c (brxBody f x s) := by
  fun_cases brxBody f x s <;> grind [branchTo_form, branchHandler_form]

theorem callBody_form {f : Fields} {x : Iss} (h : FormAt c s) : FormAt c (callBody f x s) := by
  fun_cases callBody f x s <;> grind [Iss.mod_form, Iss.illegal_form, EngAt.mod_form, branchTo_form, branchHandler_form]

theorem exitLanes_form {x : Iss} {lanes : List Nat} (h : FormAt c s) : FormAt c (exitLanes x s lanes) := by
  fun_cases exitLanes x s lanes <;> grind [Iss.mod_form, endThreads_form, EngAt.mod_form]

theorem exitBody_form {f : Fields} {x : Iss} (h : FormAt c s) : FormAt c (exitBody f x s) := by
  fun_cases exitBody f x s <;> grind [Iss.illegal_form, exitLanes_form]

theorem deferLanes_form {x : Iss} {mk : Nat → ContRec} {n : List Nat} (h : FormAt c s) :
    FormAt c (deferLanes x mk n s).2 := by
  fun_induction deferLanes x mk n s <;> grind [addRecord_form]

theorem clearLaneResv_form {x : Iss} {lanes : List Nat} (h : FormAt c s) : FormAt c (clearLaneResv s x lanes) := h

theorem endDeferred_form {x : Iss} {lanes gone : List Nat} (h : FormAt c s) :
    FormAt c (endDeferred x s lanes gone) := by
  fun_cases endDeferred x s lanes gone <;> grind [Iss.mod_form, endThreads_form, EngAt.mod_form, clearLaneResv_form]

theorem deferBody_form {free : Bool} {f : Fields} {x : Iss} (h : FormAt c s) : FormAt c (deferBody free f x s) := by
  fun_cases deferBody free f x s <;> grind [Iss.illegal_form, deferLanes_form, endDeferred_form]

theorem claspBody_form {f : Fields} {x : Iss} (h : FormAt c s) : FormAt c (claspBody f x s) := by
  fun_cases claspBody f x s <;> grind [Iss.mod_form, Iss.next_form, Iss.illegal_form, EngAt.mod_form]

theorem unclaspBody_form {f : Fields} {x : Iss} (h : FormAt c s) : FormAt c (unclaspBody f x s) := by
  fun_cases unclaspBody f x s <;> grind [Iss.mod_form, Iss.next_form, Iss.illegal_form, EngAt.mod_form]

theorem countFault_form {who : Who} {va : VA} {n : Nat} (h : FormAt c s) : FormAt c (countFault who va n s).2 := by
  fun_induction countFault who va n s <;> grind [homeRead_form]

theorem launchLane_form {x : Iss} {w : Warp} {lane a : Nat} {counts : Option Nat} (h : FormAt c s) :
    FormAt c (launchLane x w lane a counts s).2 := by
  fun_cases launchLane x w lane a counts s <;> grind [readN_form, countFault_form]

theorem enqueueChild_form {x : Iss} {w : Warp} {r : LaunchRec} {counts : Option VA} (h : FormAt c s) :
    FormAt c (enqueueChild x w r counts s) := by
  fun_cases enqueueChild x w r counts s <;> grind [FormAt.update, modPart_form, modGroup_form]

theorem launchLanes_form {f : Fields} {two : Bool} {x : Iss} {w : Warp} {n : List Nat} (h : FormAt c s) :
    FormAt c (launchLanes f two x w n s).2 := by
  fun_induction launchLanes f two x w n s <;> grind [launchLane_form, enqueueChild_form]

theorem launchBody_form {op : Nat} {two : Bool} {f : Fields} {x : Iss} (h : FormAt c s) :
    FormAt c (launchBody op two f x s) := by
  fun_cases launchBody op two f x s <;> grind [Iss.mod_form, Iss.accessFailed_form, EngAt.mod_form, launchLanes_form]

theorem cwaitBody_form {f : Fields} {x : Iss} (h : FormAt c s) : FormAt c (cwaitBody f x s) := by
  fun_cases cwaitBody f x s <;> grind [Iss.mod_form, acquireBy_form, EngAt.mod_form]

theorem collective_form {t : Nat} {f : Fields} {go : Warp → List Nat → List Nat → Flags × (Nat → Nat)} {x : Iss}
    (h : FormAt c s) :
    FormAt c (collective t f go x s) := by
  fun_cases collective t f go x s <;> grind [Iss.next_form, deliverAll_form]

theorem filtBody_form {f : Fields} {x : Iss} (h : FormAt c s) : FormAt c (filtBody f x s) := by
  fun_cases filtBody f x s <;> grind [fetchSpan_form, Iss.mod_form, Iss.next_form, Iss.illegal_form,
    Iss.accessFailed_form, EngAt.mod_form]

theorem voteBody_form {f : Fields} {x : Iss} (h : FormAt c s) : FormAt c (voteBody f x s) := by
  fun_cases voteBody f x s <;> grind [Iss.mod_form, Iss.next_form, EngAt.mod_form]

theorem lrdBody_form {f : Fields} {x : Iss} (h : FormAt c s) : FormAt c (lrdBody f x s) := by
  fun_cases lrdBody f x s <;> grind [Iss.mod_form, Iss.next_form, EngAt.mod_form]

theorem lwrBody_form {f : Fields} {x : Iss} (h : FormAt c s) : FormAt c (lwrBody f x s) := by
  fun_cases lwrBody f x s <;> grind [Iss.mod_form, Iss.next_form, Iss.illegal_form, EngAt.mod_form]

end Sys2Proof.Machine

/-! ### The commands of the engines -/

namespace Sys2Proof.Machine

variable {c : Cur} {s : State}

theorem blockVals_form {src : Src} {b : Nat} {is : List Nat} (hs : ∀ {j t}, FormAt c t → FormAt c (src j t).2)
    (h : FormAt c s) : FormAt c (blockVals src b is s).2 := by
  fun_induction blockVals src b is s <;> grind

theorem streamElem_form {x : EngAt} {src : Src} {ss : List Stg} {j : Nat}
    (hs : ∀ {j t}, FormAt c t → FormAt c (src j t).2) (h : FormAt c s) : FormAt c (streamElem x src ss j s).2 := by
  induction ss generalizing j s with
  | nil => exact hs h
  | cons st rest ih =>
    unfold streamElem
    have hb {b is t} (ht : FormAt c t) : FormAt c (blockVals (streamElem x src rest) b is t).2 := blockVals_form ih ht
    grind [engRead_form]

theorem writeScales_form {x : EngAt} {src : Src} {st : Stg} {rest : List Stg} {b n : Nat}
    (hs : ∀ {j t}, FormAt c t → FormAt c (src j t).2) (h : FormAt c s) : FormAt c (writeScales x src st rest b n s).2 := by
  induction n generalizing b s with
  | zero => exact h
  | succ n ih => exact orStop_form (fun hv => orStop_form ih (engWrite_form hv)) (blockVals_form (streamElem_form hs) h)

theorem chainScales_form {x : EngAt} {src : Src} {e0 e1 : Nat} {ss : List Stg}
    (hs : ∀ {j t}, FormAt c t → FormAt c (src j t).2) (h : FormAt c s) : FormAt c (chainScales x src e0 e1 ss s).2 := by
  induction ss generalizing s with
  | nil => exact h
  | cons st rest ih =>
    refine orStop_form ih ?_
    split
    · exact writeScales_form hs h
    · exact h

theorem crcElems_form {x : EngAt} {src : Src} {w : Nat} {rest : List Stg} {e n k : Nat}
    (hs : ∀ {j t}, FormAt c t → FormAt c (src j t).2) (h : FormAt c s) : FormAt c (crcElems x src w rest e n k s).2 := by
  have hse {j t} (ht : FormAt c t) : FormAt c (streamElem x src rest j t).2 := streamElem_form hs ht
  fun_induction crcElems x src w rest e n k s <;> grind

theorem chainCrc_form {x : EngAt} {src : Src} {ch : Chn} {e0 e1 k : Nat}
    (hs : ∀ {j t}, FormAt c t → FormAt c (src j t).2) (h : FormAt c s) : FormAt c (chainCrc x src ch e0 e1 k s).2 := by
  fun_cases chainCrc x src ch e0 e1 k s
  · exact h
  · exact crcElems_form hs h

theorem specialBody_form {op : Nat} {k : SFn} {f : Fields} {x : Iss} (h : FormAt c s) :
    FormAt c (specialBody op k f x s) := perLane_form h

theorem sincosBody_form {f : Fields} {x : Iss} (h : FormAt c s) : FormAt c (sincosBody f x s) := perLane_form h

theorem readTaps_form {who : Who} {fmt : Nat} {n : List (VA × Nat)} (h : FormAt c s) :
    FormAt c (readTaps s who fmt n).2 := by
  fun_induction readTaps s who fmt n <;> grind [homeRead_form]

theorem texSample_form {who : Who} {desc : VA} {t : Nat} {a : TexArg} (h : FormAt c s) :
    FormAt c (texSample s who desc t a).2 := by
  fun_cases texSample s who desc t a <;> grind [readN_form, readTaps_form]

theorem rayStep_form {who : Who} {kinds : Nat → Option (List DWord)} {j : RayJob} (h : FormAt c s) :
    FormAt c (rayStep who kinds j s).2 := by
  fun_cases rayStep who kinds j s <;> grind [readN_form]

theorem rayAhead_form {who : Who} {kinds : Nat → Option (List DWord)} {n : Nat} {m : RayJob} (h : FormAt c s) :
    FormAt c (rayAhead who kinds n m s).2 := by
  fun_induction rayAhead who kinds n m s <;> grind [rayStep_form]

theorem engNat_form {x : EngAt} {aw : Nat} {off : Int} {n : Nat} (h : FormAt c s) :
    FormAt c (engNat x aw off n s).2 := by
  fun_cases engNat x aw off n s <;> grind [engRead_form]

theorem someElem_form {r : Except EStop Nat × State} (h : FormAt c r.2) : FormAt c (someElem r).2 := by
  fun_cases someElem r <;> exact h

theorem copySrc_form {x : EngAt} {k : Cmd} {w i : Nat} (h : FormAt c s) : FormAt c (copySrc x k w i s).2 := by
  unfold copySrc
  grind [someElem_form, engNat_form, engRead_form]

theorem ragLen_form {x : EngAt} {k : Cmd} {i : Nat} (h : FormAt c s) : FormAt c (ragLen x k i s).2 := engNat_form h

theorem cmdSrc_form {x : EngAt} {k : Cmd} {w e : Nat} (h : FormAt c s) : FormAt c (cmdSrc x k w e s).2 := by
  unfold cmdSrc
  grind [copySrc_form, someElem_form, engNat_form, ragLen_form]

theorem cmdDst_form {x : EngAt} {k : Cmd} {sz e : Nat} (h : FormAt c s) : FormAt c (cmdDst x k sz e s).2 := by
  fun_cases cmdDst x k sz e s <;> grind [engNat_form]

theorem moveElem_form {x : EngAt} {k : Cmd} {ch : Option Chn} {src : Src} {e : Nat}
    (hs : ∀ {j t}, FormAt c t → FormAt c (src j t).2) (h : FormAt c s) : FormAt c (moveElem x k ch src e s).2 := by
  fun_cases moveElem x k ch src e s <;> grind [cmdDst_form, engWrite_form]

theorem streamVals_form {src : Src} {e n : Nat} (hs : ∀ {j t}, FormAt c t → FormAt c (src j t).2) (h : FormAt c s) :
    FormAt c (streamVals src e n s).2 := by
  fun_induction streamVals src e n s <;> grind

theorem packedBytes_form {src : Src} {w lo hi : Nat} (hs : ∀ {j t}, FormAt c t → FormAt c (src j t).2)
    (h : FormAt c s) :
    FormAt c (packedBytes src w lo hi s).2 := by
  fun_cases packedBytes src w lo hi s <;> grind [streamVals_form]

theorem chunkFlags_form {x : EngAt} {k : Cmd} {i e0 e1 : Nat}
    (h : FormAt c s) : FormAt c (chunkFlags x k i e0 e1 s).2 := by
  have hflag {p : Prop} [Decidable p] {b : Nat} {t : State} (ht : FormAt c t) :
      FormAt c ((.ok (), if p then setSticky t x b else t) : Except EStop Unit × State).2 := by
    dsimp only
    split
    · exact setSticky_form ht
    · exact ht
  have hrag {p : Nat → Prop} [DecidablePred p] {j : Nat} {t : State} (ht : FormAt c t) : FormAt c (orStop (ragLen x k j t)
      (fun n s => (.ok (), if p n then setSticky s x 2 else s))).2 := orStop_form hflag (ragLen_form ht)
  unfold chunkFlags
  split
  · exact engEach_form (fun ht => orStop_form hflag (engNat_form ht)) h
  · exact engEach_form (fun ht => orStop_form hflag (engNat_form ht)) h
  · refine orStop_form (fun ht => ?_) (engEach_form (fun ht => ?_) h)
    · split
      · exact ht
      · exact engEach_form hrag ht
    · split
      · exact ht
      · exact hrag ht
  · exact h

theorem destPacks_form {who : Who} {va : VA} (h : FormAt c s) : FormAt c (destPacks who va s).2 := by
  fun_cases destPacks who va s <;> grind [homeTarget_form]

theorem readPiece_form {who : Who} {d v : VA} {n : Nat} (h : FormAt c s) : FormAt c (readPiece who d v n s).2 := by
  fun_cases readPiece who d v n s <;> grind [engReadMem_form, destPacks_form]

theorem writePiece_form {who : Who} {p : VA × Bool × List Byte} (h : FormAt c s) :
    FormAt c (writePiece who p s).2 := engWriteMem_form h

theorem readPieces_form {who : Who} {d v : VA} {n m : Nat} (h : FormAt c s) :
    FormAt c (readPieces who d v n m s).2 := by
  fun_induction readPieces who d v n m s <;> grind [readPiece_form]

theorem moveRuns_form {x : EngAt} {k : Cmd} {src : Src} {n e left : Nat}
    (hs : ∀ {j t}, FormAt c t → FormAt c (src j t).2) (h : FormAt c s) : FormAt c (moveRuns x k src n e left s).2 := by
  induction n generalizing e left s with
  | zero => exact h
  | succ n ih =>
    have hone {t} (ht : FormAt c t) : FormAt c (orStop (moveElem x k none src e t)
        (fun _ s => moveRuns x k src n (e + 1) (left - 1) s)).2 := orStop_form ih (moveElem_form hs ht)
    unfold moveRuns
    split
    · exact h
    · split
      · exact hone h
      · next who d v _ =>
        have hd : FormAt c (destPacks who d s).2 := destPacks_form h
        split
        · next e => rw [e] at hd; exact hone hd
        · next e =>
          rw [e] at hd
          exact orStop_form (fun hp => orStop_form ih (writePiece_form hp)) (readPiece_form hd)

theorem moveElems_form {x : EngAt} {k : Cmd} {ch : Option Chn} {i : Nat} (h : FormAt c s) :
    FormAt c (moveElems x k ch i s).2 := by
  unfold moveElems
  extract_lets w total lo hi e0 e1 base src
  have hbase {j t} (ht : FormAt c t) : FormAt c (base j t).2 := cmdSrc_form ht
  have hsrc {j t} (ht : FormAt c t) : FormAt c (src j t).2 := by
    unfold src
    split
    · exact streamElem_form hbase ht
    · exact hbase ht
  refine orStop_form (fun h1 => orStop_form (fun h2 => ?_) ?_) (chunkFlags_form h)
  · split
    · exact h2
    · refine orStop_form (fun h3 => ?_) (chainScales_form hbase h2)
      split
      · exact h3
      · exact orStop_form (fun h4 => EngAt.mod_form h4) (chainCrc_form hbase h3)
  · split
    · exact orStop_form engWrite_form (packedBytes_form hsrc h1)
    · split
      · exact moveRuns_form hsrc h1
      · exact engEach_form (moveElem_form hsrc) h1

theorem moveBytes_form {x : EngAt} {k : Cmd} {i : Nat} (h : FormAt c s) : FormAt c (moveBytes x k i s).2 := by
  unfold moveBytes
  extract_lets lo n plain
  have hplain : FormAt c plain.2 := orStop_form engWrite_form (engRead_form h)
  split
  · exact hplain
  · split
    · exact orStop_form (engEach_form writePiece_form) (readPieces_form h)
    · exact hplain

theorem fillBytes_form {x : EngAt} {k0 : Cmd} {k : Nat} (h : FormAt c s) :
    FormAt c (fillBytes x k0 k s).2 := engWrite_form h

theorem loadSteps_form {x : EngAt} {k : Cmd} (h : FormAt c s) : FormAt c (loadSteps x k s).2 := by
  refine orStop_form (fun ht => ?_) (engRead_form h)
  split
  · exact ht
  · dsimp only
    split
    · exact ht
    · exact modCore_form ht

theorem transferChunk_form {x : EngAt} {k0 : Cmd} {k : Nat} (h : FormAt c s) :
    FormAt c (transferChunk x k0 k s).2 := by
  fun_cases transferChunk x k0 k s <;> grind [moveElems_form, moveBytes_form, fillBytes_form, loadSteps_form]

theorem readAll_form {x : EngAt} {aw n : Nat} {ns : List Nat} (h : FormAt c s) :
    FormAt c (readAll x aw n ns s).2 := by
  fun_induction readAll x aw n ns s <;> grind [engNat_form]

theorem scaddWindow_form {x : EngAt} {k : Cmd} {w : Nat} (h : FormAt c s) : FormAt c (scaddWindow x k w s).2 := by
  refine orStop_form (fun h1 => orStop_form (fun h2 => orStop_form (fun h3 => ?_) (engEach_form engRmw_form h2))
    (readAll_form h1)) (readAll_form h)
  dsimp only
  split
  · exact setSticky_form h3
  · exact h3

theorem clearCounters_form {x : EngAt} {aw n : Nat} (h : FormAt c s) : FormAt c (clearCounters x aw n s).2 :=
  engEach_form engWrite_form h

theorem countWindow_form {x : EngAt} {kw aw bins : Nat} {k : Cmd} {w : Nat} (h : FormAt c s) :
    FormAt c (countWindow x kw aw bins k w s).2 := by
  refine orStop_form (fun h1 => engEach_form (fun ht => ?_) h1) (readAll_form h)
  split
  · exact setSticky_form ht
  · exact engRmw_form ht

theorem histWindow_form {x : EngAt} {k : Cmd} {w : Nat} (h : FormAt c s) : FormAt c (histWindow x k w s).2 := by
  refine orStop_form countWindow_form ?_
  split
  · exact clearCounters_form h
  · exact h

theorem prefixSums_form {x : EngAt} {aw acc b n : Nat} (h : FormAt c s) : FormAt c (prefixSums x aw acc b n s).2 := by
  induction n generalizing acc b s with
  | zero => exact h
  | succ n ih => exact orStop_form (fun hv => orStop_form ih (engWrite_form hv)) (engNat_form h)

theorem shiftOffsets_form {x : EngAt} {aw prev b n : Nat}
    (h : FormAt c s) : FormAt c (shiftOffsets x aw prev b n s).2 := by
  induction n generalizing prev b s with
  | zero => exact h
  | succ n ih => exact orStop_form (fun hv => orStop_form ih (engWrite_form hv)) (engNat_form h)

theorem placeItem_form {x : EngAt} {k : Cmd} {e : Nat × Nat} (h : FormAt c s) : FormAt c (placeItem x k e s).2 := by
  unfold placeItem
  dsimp only
  split
  · exact h
  · refine orStop_form (fun h1 => orStop_form (fun h2 => orStop_form engWrite_form (engWrite_form h2)) (engNat_form h1)) ?_
    split
    · exact h
    · exact engNat_form h

theorem binWindow_form {x : EngAt} {k : Cmd} {pass w : Nat}
    (h : FormAt c s) : FormAt c (binWindow x k pass w s).2 := by
  unfold binWindow
  dsimp only
  split
  · refine orStop_form (fun h1 => orStop_form (fun h2 => ?_) (countWindow_form h1)) ?_
    · split
      · exact prefixSums_form h2
      · exact h2
    · split
      · exact clearCounters_form h
      · exact h
  · refine orStop_form (fun h1 => orStop_form (fun h2 => ?_) (engEach_form placeItem_form h1)) (readAll_form h)
    split
    · exact shiftOffsets_form h2
    · exact h2

theorem saeWindow_form {x : EngAt} {k : Cmd} {pass w : Nat} (h : FormAt c s) :
    FormAt c (saeWindow x k pass w s).2 := by
  fun_cases saeWindow x k pass w s <;> grind [scaddWindow_form, histWindow_form, binWindow_form]

theorem startCmd_form {x : EngAt} {g : Group} {opc : Nat} (h : FormAt c s) : FormAt c (startCmd x g opc s) := by
  fun_cases startCmd x g opc s <;> grind [Iss.mod_form, EngAt.mod_form, parkRing_form, stopRing_form]

theorem moveChunk_form {x : EngAt} {g : Group} {opc : Nat} (h : FormAt c s) : FormAt c (moveChunk x g opc s) := by
  fun_cases moveChunk x g opc s <;> grind [Iss.mod_form, EngAt.mod_form, stopRing_form, transferChunk_form, saeWindow_form]

theorem engineTurn_form {core gslot ring opc : Nat} (h : FormAt c s) :
    FormAt c (engineTurn core gslot ring opc s) := by
  fun_cases engineTurn core gslot ring opc s <;> grind [parkRing_form, startCmd_form, moveChunk_form]

theorem execCopy_form {core gslot ring : Nat} {t : State}
    (h : FormAt c s) (e : execCopy core gslot ring s = .next t) : FormAt c t := by
  cases e
  exact engineTurn_form h

theorem execAffine_form {core gslot ring : Nat} {t : State}
    (h : FormAt c s) (e : execAffine core gslot ring s = .next t) : FormAt c t := by
  cases e
  exact engineTurn_form h

theorem execGather_form {core gslot ring : Nat} {t : State}
    (h : FormAt c s) (e : execGather core gslot ring s = .next t) : FormAt c t := by
  cases e
  exact engineTurn_form h

theorem execScatter_form {core gslot ring : Nat} {t : State}
    (h : FormAt c s) (e : execScatter core gslot ring s = .next t) : FormAt c t := by
  cases e
  exact engineTurn_form h

theorem execRagged_form {core gslot ring : Nat} {t : State}
    (h : FormAt c s) (e : execRagged core gslot ring s = .next t) : FormAt c t := by
  cases e
  exact engineTurn_form h

theorem execFill_form {core gslot ring : Nat} {t : State}
    (h : FormAt c s) (e : execFill core gslot ring s = .next t) : FormAt c t := by
  cases e
  exact engineTurn_form h

theorem execIuload_form {core gslot ring : Nat} {t : State}
    (h : FormAt c s) (e : execIuload core gslot ring s = .next t) : FormAt c t := by
  cases e
  exact engineTurn_form h

theorem execScadd_form {core gslot ring : Nat} {t : State}
    (h : FormAt c s) (e : execScadd core gslot ring s = .next t) : FormAt c t := by
  cases e
  exact engineTurn_form h

theorem execBin_form {core gslot ring : Nat} {t : State}
    (h : FormAt c s) (e : execBin core gslot ring s = .next t) : FormAt c t := by
  cases e
  exact engineTurn_form h

theorem execHist_form {core gslot ring : Nat} {t : State}
    (h : FormAt c s) (e : execHist core gslot ring s = .next t) : FormAt c t := by
  cases e
  exact engineTurn_form h

theorem execChunkCompletion_form {core gslot ring : Nat} {t : State}
    (h : FormAt c s) (e : execChunkCompletion core gslot ring s = .next t) : FormAt c t := by
  unfold execChunkCompletion at e
  grind [Iss.mod_form, Iss.next_form, updateObj_form, EngAt.mod_form, parkRing_form]

theorem writeCrc_form {x : EngAt} {g : Group} {k : Cmd} (h : FormAt c s) : FormAt c (writeCrc x g k s).2 := by
  fun_cases writeCrc x g k s <;> grind [engWrite_form]

theorem execCommandCompletion_form {core gslot ring : Nat} {t : State}
    (h : FormAt c s) (e : execCommandCompletion core gslot ring s = .next t) : FormAt c t := by
  unfold execCommandCompletion at e
  grind [Iss.mod_form, Iss.next_form, EngAt.mod_form, parkRing_form, stopRing_form, writeCrc_form]

theorem execRingResume_form {core gslot ring : Nat} {t : State}
    (h : FormAt c s) (e : execRingResume core gslot ring s = .next t) : FormAt c t := by
  unfold execRingResume at e
  grind [Iss.mod_form, Iss.next_form, EngAt.mod_form, parkRing_form]

end Sys2Proof.Machine

/-! ### Heads, bands and frames -/

namespace Sys2Proof.Machine

variable {c : Cur} {s : State}

theorem setLine_form {lc : Nat} {x : LineCore} (h : FormAt c s) : FormAt c (setLine s lc x) := h

theorem modLine_form {lc : Nat} {f : LineCore → LineCore} (h : FormAt c s) :
    FormAt c (modLine s lc f) := setLine_form h

theorem setHead_form {h0 : Nat} {x : Head} (h : FormAt c s) : FormAt c (setHead s h0 x) := h

theorem modHead_form {h0 : Nat} {f : Head → Head} (h : FormAt c s) : FormAt c (modHead s h0 f) := setHead_form h

/-- A slot instruction changes its line core alone, and afterwards no instruction is half issued. -/
theorem slotIssue_kept {i : Instr} {body : State → SIss → LineCore → LineCore} {t : State} (h : FormAt c s)
    (e : slotIssue i body s = .next t) : FormAt .idle t := by
  unfold slotIssue at e
  split at e
  · cases e
    exact modLine_form ⟨h.1, rfl⟩
  · cases e

theorem deliverEvents_form {head : Nat} {n : List CamEvent} (h : FormAt c s) : FormAt c (deliverEvents head n s) := by
  fun_induction deliverEvents head n s <;> grind [pushNote_form, modHead_form]

theorem flushEvents_form {head : Nat} (h : FormAt c s) : FormAt c (flushEvents s head) := deliverEvents_form h

theorem cameoEvent_form {head core code cause band value : Nat} (h : FormAt c s) :
    FormAt c (cameoEvent s head core code cause band value) := deliverEvents_form h

theorem spoil_form {who : Who} {va : VA} {n : List Byte} {m : Nat} (h : FormAt c s) :
    FormAt c (spoil s who va n m) := by
  fun_induction spoil s who va n m <;> grind [homeWrite_form]

theorem presentRun_form {hn y x n : Nat} {px : List Word} (h : FormAt c s) :
    FormAt c (presentRun s hn y x n px).2 := by
  fun_cases presentRun s hn y x n px <;> grind [writeN_form, modHead_form, spoil_form]

theorem trapEvent_form {lc hn band code : Nat} (h : FormAt c s) :
    FormAt c (trapEvent s lc hn band code) := cameoEvent_form (modLine_form h)

theorem endBand_form {lc outcome : Nat} (h : FormAt c s) : FormAt c (endBand s lc outcome) := by
  unfold endBand
  extract_lets l
  split
  · exact h
  · exact foldl_form trapEvent_form (by grind [modHead_form, modLine_form, cameoEvent_form, flushEvents_form])

theorem endCycle_form {lc : Nat} (h : FormAt c s) : FormAt c (endCycle s lc) := by
  fun_cases endCycle s lc <;> grind [modLine_form, trapEvent_form, endBand_form]

theorem Fx.onHead_form {lc : Nat} {x : Fx} (h : FormAt c s) : FormAt c (Fx.onHead lc x s) := by
  fun_cases Fx.onHead lc x s <;> grind [modLine_form, cameoEvent_form, presentRun_form]

theorem commitBundle_form {lc e : Nat} (h : FormAt c s) : FormAt c (commitBundle s lc e) := by
  unfold commitBundle
  extract_lets fx t u
  have ht : FormAt c t := foldl_form (fun hx => modLine_form (Fx.onHead_form hx)) h
  have hu : FormAt c u := modLine_form ht
  split
  · exact endBand_form hu
  · exact hu

theorem zeroWin_form {p off words : Nat} (h : FormAt c s) : FormAt c (zeroWin s p off words) :=
  foldl_form (f := fun s i => setWin32 s p (off + 4 * i) 0) setWin32_form h

theorem disableHead_form {hd : Nat} (h : FormAt c s) : FormAt c (disableHead s hd) := by
  unfold disableHead
  extract_lets t1 t2 t3 t4 t5
  have h1 : FormAt c t1 := foldl_form modLine_form h
  have h3 : FormAt c t3 := zeroWin_form (flushEvents_form h1)
  have h4 : FormAt c t4 := foldl_form modLine_form h3
  have h5 : FormAt c t5 := setHead_form h4
  exact h5

theorem enableHead_form {hd : Nat} {v : Word} (h : FormAt c s) : FormAt c (enableHead s hd v) := by
  unfold enableHead
  extract_lets r t u
  have ht : FormAt c t := h
  have hu : FormAt c u := zeroWin_form (setHead_form ht)
  exact foldl_form setLine_form hu

theorem hdownWrite_form {h0 : Nat} {v : Word} (h : FormAt c s) : FormAt c (hdownWrite s h0 v) := by
  fun_cases hdownWrite s h0 v <;> grind [FormAt.update, modHead_form, disableHead_form, enableHead_form]

theorem execHdownEnable_form {head v : Nat} {t : State}
    (h : FormAt c s) (e : execHdownEnable head v s = .next t) : FormAt c t := by
  cases e
  exact hdownWrite_form h

theorem execHdownDisable_form {head : Nat} {t : State}
    (h : FormAt c s) (e : execHdownDisable head s = .next t) : FormAt c t := by
  unfold execHdownDisable at e
  grind [Iss.next_form, hdownWrite_form]

theorem execLoadRequest_form {head : Nat} {t : State}
    (h : FormAt c s) (e : execLoadRequest head s = .next t) : FormAt c t := by
  unfold execLoadRequest at e
  grind [Iss.next_form, modHead_form]

theorem execLoaded_form {head : Nat} {t : State} (h : FormAt c s) (e : execLoaded head s = .next t) : FormAt c t := by
  unfold execLoaded at e
  extract_lets who at_ fin at e
  have hfin {img u} (hu : FormAt c u) : FormAt c (fin img u) := cameoEvent_form (setWin32_form (modHead_form hu))
  clear_value fin
  have hread {va n u} (hu : FormAt c u) : FormAt c (readN u who va n).2 := readN_form hu
  split at e
  · cases e
    exact h
  · have h1 := hread (va := at_) (n := 256) h
    split at e
    · next e1 =>
      rw [e1] at h1
      cases e
      exact hfin h1
    · next e1 =>
      rw [e1] at h1
      split at e
      · cases e
        exact hfin h1
      · next cs _ =>
        have h2 := hread (va := at_ + 256#57) (n := 16 * (cs.map (·.1)).foldl (· + ·) 0) h1
        split at e
        · next e2 =>
          rw [e2] at h2
          cases e
          exact hfin h2
        · next e2 =>
          rw [e2] at h2
          cases e
          exact hfin h2

theorem readSlots_form {who : Who} {tab : VA} {n : Nat} (h : FormAt c s) : FormAt c (readSlots who tab n s).2.2 := by
  fun_induction readSlots who tab n s <;> grind [readN_form]

theorem adopt_form {hn : Nat} (h : FormAt c s) : FormAt c (adopt s hn) := by
  fun_cases adopt s hn <;> grind [modHead_form, cameoEvent_form, readSlots_form]

theorem execRelfWrite_form {head fslot : Nat} {t : State}
    (h : FormAt c s) (e : execRelfWrite head fslot s = .next t) : FormAt c t := by
  unfold execRelfWrite at e
  grind [writeN_form, Iss.next_form, modHead_form]

theorem beginFrame_form {hn : Nat} (h : FormAt c s) : FormAt c (beginFrame s hn) := by
  have hlines {f : LineCore → LineCore} {cs : List Nat} {t : State} (ht : FormAt c t) :
      FormAt c (cs.foldl (fun s k => modLine s k f) t) := foldl_form modLine_form ht
  unfold beginFrame
  extract_lets t1 t2 t3 t4 hd
  have h2 : FormAt c t2 := modHead_form (modHead_form h)
  have h3 : FormAt c t3 := by
    unfold t3
    split
    · exact h2
    · exact modHead_form (hlines h2)
  have h4 : FormAt c t4 := adopt_form h3
  split
  · exact h4
  · exact hlines h4

theorem execFrameStart_form {head : Nat} {t : State}
    (h : FormAt c s) (e : execFrameStart head s = .next t) : FormAt c t := by
  unfold execFrameStart at e
  grind [Iss.next_form, modHead_form, cameoEvent_form, disableHead_form, beginFrame_form]

theorem execHdcfgPoll_form {head : Nat} {t : State}
    (h : FormAt c s) (e : execHdcfgPoll head s = .next t) : FormAt c t := by
  unfold execHdcfgPoll at e
  grind [Iss.next_form, modHead_form, cameoEvent_form, beginFrame_form]

theorem scanLine_form {head : Nat} (h : FormAt c s) : FormAt c (scanLine s head) := by
  fun_cases scanLine s head <;> grind [modHead_form]

theorem execLocketLatch_form {head : Nat} {t : State}
    (h : FormAt c s) (e : execLocketLatch head s = .next t) : FormAt c t := by
  unfold execLocketLatch at e
  grind [readN_form, Iss.next_form, modHead_form, cameoEvent_form]

theorem execBandStart_form {lc : Nat} {t : State}
    (h : FormAt c s) (e : execBandStart lc s = .next t) : FormAt c t := by
  unfold execBandStart at e
  grind [Iss.next_form, setLine_form, modLine_form, modHead_form]

theorem execBandAbandonment_form {lc : Nat} {t : State}
    (h : FormAt c s) (e : execBandAbandonment lc s = .next t) : FormAt c t := by
  unfold execBandAbandonment at e
  grind [Iss.next_form, modLine_form, modHead_form, endBand_form]

theorem fallbackLine_form {hn n y x : Nat} {hd : Head} {q : List Nat} {q0 : Option (List Nat)} {late : Bool}
    {o : Option Nat} (h : FormAt c s) : FormAt c (fallbackLine hn hd q q0 late y n x (o, s)).2.2 := by
  induction n generalizing x o s with
  | zero => exact h
  | succ n ih =>
    unfold fallbackLine
    extract_lets src img r
    have hr : FormAt c r.2.2 := by
      unfold r
      generalize src = found
      rcases found with _ | ⟨iy, ix⟩
      · exact h
      · dsimp only
        generalize (late && Config.freeValue s.tick (2 * (8192 * y + x)) % 2 == 1) = lost
        split
        · exact h
        · have hread : FormAt c (readN s (headWho s hn) (presAddr hd img iy + BitVec.ofNat 57 (4 * ix)) 4).2 := readN_form h
          split <;> (next e => rw [e] at hread; exact hread)
    clear_value r
    obtain ⟨w, o', s'⟩ := r
    have hrest : FormAt c (fallbackLine hn hd q q0 late y n (x + 1) (o', s')).2.2 := ih hr
    generalize fallbackLine hn hd q q0 late y n (x + 1) (o', s') = z at hrest ⊢
    exact hrest

theorem execFallback_form {head band : Nat} {late : Bool} {t : State} (h : FormAt c s)
    (e : execFallback head band late s = .next t) : FormAt c t := by
  have hev {k cd cs b v u} (hu : FormAt c u) : FormAt c (cameoEvent u head k cd cs b v) := cameoEvent_form hu
  have hmod {u f} (hu : FormAt c u) : FormAt c (modHead u head f) := modHead_form hu
  unfold execFallback at e
  extract_lets hd core s1 q0 at e
  split at e
  · next o f _ _ =>
    split at e
    · cases e
      exact h
    · extract_lets s2 q at e
      have h2 : FormAt c s2 := hev (hmod h)
      clear_value s2
      split at e
      next o' w u hr =>
      have hu : FormAt c ((o', w, u) : Option Nat × Bool × State).2.2 := by
        rw [← hr]
        refine foldl_proj_form (g := fun x : Option Nat × Bool × State => x.2.2) (fun hx => ?_) h2
        exact presentRun_form (fallbackLine_form (o := _) hx)
      cases e
      refine hmod ?_
      grind
  · cases e
    exact h

end Sys2Proof.Machine

/-! ### Dispatch and placement -/

namespace Sys2Proof.Machine

variable {c : Cur} {s : State}

theorem rdsrBody_form {f : Fields} {x : Iss} (h : FormAt c s) : FormAt c (rdsrBody f x s) := by
  fun_cases rdsrBody f x s
  grind [perLane_form]

theorem p2vBody_form {f : Fields} {x : Iss} (h : FormAt c s) : FormAt c (p2vBody f x s) := by
  fun_cases p2vBody f x s
  grind [perLane_form]

theorem readRecord_form {part pa : Nat} (h : FormAt c s) : FormAt c (readRecord s part pa).2 := by
  fun_cases readRecord s part pa <;> grind [readPA_form]

theorem headOfQueue_form {part q : Nat} (h : FormAt c s) : FormAt c (headOfQueue s part q).2 := by
  fun_cases headOfQueue s part q <;> grind [readRecord_form]

theorem startGrid_form {part : Nat} {r : LaunchRec} {asid pri depth uid total : Nat} {src : Option (Nat × Nat)}
    {parent : Option (Nat × Nat)}
    (h : FormAt c s) :
    FormAt c (startGrid s part r asid pri depth uid total src parent) := by
  fun_cases startGrid s part r asid pri depth uid total src parent <;> grind [modPart_form, finishGrid_form]

theorem dispatchRecord_form {part q : Nat} {r : LaunchRec} (h : FormAt c s) :
    FormAt c (dispatchRecord s part q r) := startGrid_form (modPart_form h)

theorem readCounts_form {ch : Child} {part : Nat} {va : VA} (h : FormAt c s) :
    FormAt c (readCounts s ch part va).2 := by
  fun_cases readCounts s ch part va <;> grind [readN_form]

theorem dispatchChild_form {part : Nat} {ch : Child} (h : FormAt c s) : FormAt c (dispatchChild s part ch) := by
  fun_cases dispatchChild s part ch <;> grind [modPart_form, startGrid_form, readCounts_form]

theorem serveQueues_form {part : Nat} {n : List Nat} (h : FormAt c s) : FormAt c (serveQueues part n s).2 := by
  fun_induction serveQueues part n s <;> grind [setWin32_form, headOfQueue_form, dispatchRecord_form]

theorem servePri_form {part n : Nat} (h : FormAt c s) : FormAt c (servePri part n s) := by
  fun_induction servePri part n s <;> grind [dispatchChild_form, serveQueues_form]

theorem execGridDispatch_form {part : Nat} {t : State}
    (h : FormAt c s) (e : execGridDispatch part s = .next t) : FormAt c t := by
  unfold execGridDispatch at e
  grind [Iss.next_form, servePri_form]

/-- The definition is opened over an arbitrary `rd` for `readPA`: with `readPA` itself, the kernel would try to compute the
address of the slot. -/
theorem slotRead_form {part slot off n : Nat} (h : FormAt c s) : FormAt c (slotRead s part slot off n).2 := by
  have hr {pa} : FormAt c (readPA s part pa n).2 := readPA_form h
  obtain ⟨rd, hrd⟩ : ∃ rd, rd = readPA := ⟨readPA, rfl⟩
  obtain ⟨f, hf⟩ : ∃ f, f = slotRead := ⟨slotRead, rfl⟩
  rw [← hf]
  delta slotRead at hf
  rw [← hrd] at hf hr
  subst hf
  dsimp only
  split
  · next e => exact hr.of_eq e
  · next e => exact hr.of_eq e

theorem placeGroup_form {part num : Nat} {gr : Grid} {linear core : Nat} (h : FormAt c s) :
    FormAt c (placeGroup s part num gr linear core).2 := by
  fun_cases placeGroup s part num gr linear core
  grind [modCore_form, invalidateL1_form]

theorem joinSet_form {ms : List (Nat × Nat)} (h : FormAt c s) : FormAt c (joinSet s ms) := by
  unfold joinSet
  split
  · exact h
  · exact foldl_form modGroup_form h

theorem placeSet_form {part num : Nat} {gr : Grid} {first : Nat} {cores : List Nat} (h : FormAt c s) :
    FormAt c (placeSet s part num gr first cores) :=
  joinSet_form (foldl_fst_form placeGroup_form h)

theorem notePlaced_form {part num n : Nat} {gr : Grid} (h : FormAt c s) : FormAt c (notePlaced s part num n gr) := by
  fun_cases notePlaced s part num n gr <;> grind [modPart_form, Iss.next_form, modGrid_form]

theorem execGroupPlacement_form {part grid group core : Nat} {t : State}
    (h : FormAt c s) (e : execGroupPlacement part grid group core s = .next t) : FormAt c t := by
  unfold execGroupPlacement at e
  grind [Iss.next_form, placeSet_form, notePlaced_form]

theorem execPlacementTimeout_form {part die : Nat} {t : State}
    (h : FormAt c s) (e : execPlacementTimeout part die s = .next t) : FormAt c t := by
  unfold execPlacementTimeout at e
  grind [modPart_form, Iss.next_form]

theorem retireOne_form {part num : Nat} (h : FormAt c s) : FormAt c (retireOne s part num) := modGrid_form h

theorem execGroupRetire_form {core gslot : Nat} {t : State}
    (h : FormAt c s) (e : execGroupRetire core gslot s = .next t) : FormAt c t := by
  unfold execGroupRetire at e
  grind [modCore_form, dropGroup_form, Iss.next_form, retireOne_form]

theorem execGridCompletion_form {part grid : Nat} {t : State}
    (h : FormAt c s) (e : execGridCompletion part grid s = .next t) : FormAt c t := by
  unfold execGridCompletion at e
  grind [finishGrid_form, Iss.next_form]

theorem execContinuationWarpFormation_form {core rec quadrant : Nat} {t : State}
    (h : FormAt c s) (e : execContinuationWarpFormation core rec quadrant s = .next t) : FormAt c t := by
  unfold execContinuationWarpFormation at e
  grind [modCore_form, modGroup_form, Iss.next_form]

theorem execSpillReturn_form {core : Nat} {t : State}
    (h : FormAt c s) (e : execSpillReturn core s = .next t) : FormAt c t := by
  unfold execSpillReturn at e
  grind [modCore_form, invalidateL1_form, Iss.next_form, modGrid_form]

end Sys2Proof.Machine

/-! ### Requests on their way -/

namespace Sys2Proof.Machine

variable {c : Cur} {s : State}

theorem writeReg8_form {part off v : Nat} (h : FormAt c s) : FormAt c (writeReg8 s part off v) := by
  fun_cases writeReg8 s part off v <;> grind [modPart_form, setWin64_form, resumeWrite_form, prectlWrite_form]

theorem winWrite_form {part off n v : Nat} (h : FormAt c s) : FormAt c (winWrite s part off n v) := by
  fun_cases winWrite s part off n v <;> grind [modPart_form, writeReg8_form]

theorem winWrite8_form {part off v : Nat} (h : FormAt c s) : FormAt c (winWrite8 s part off v) := by
  fun_cases winWrite8 s part off v <;> grind [winWrite_form]

theorem execMqtailWrite_form {part v : Nat} {t : State}
    (h : FormAt c s) (e : execMqtailWrite part v s = .next t) : FormAt c t := by
  cases e
  exact h

theorem execMqctlWrite_form {part v : Nat} {t : State}
    (h : FormAt c s) (e : execMqctlWrite part v s = .next t) : FormAt c t := by
  cases e
  exact h

theorem execLqtailWrite_form {part q v : Nat} {t : State}
    (h : FormAt c s) (e : execLqtailWrite part q v s = .next t) : FormAt c t := by
  unfold execLqtailWrite at e
  grind [Iss.next_form, winWrite_form]

theorem execLqstatWrite_form {part q v : Nat} {t : State}
    (h : FormAt c s) (e : execLqstatWrite part q v s = .next t) : FormAt c t := by
  unfold execLqstatWrite at e
  grind [Iss.next_form, winWrite_form]

theorem rootWrite_form {n kind v : Nat} (h : FormAt c s) :
    FormAt c (rootWrite s n kind v) := by fun_cases rootWrite s n kind v <;> exact h

theorem leaveCore_form {rid : Nat} {r : Req} (h : FormAt c s) : FormAt c (leaveCore s rid r) := by
  fun_cases leaveCore s rid r <;> grind [cross_form, modReq_form]

theorem comeBack_form {r : Req} {l : Load} (h : FormAt c s) : FormAt c (comeBack s r l) := by
  fun_cases comeBack s r l <;> grind [cross_form]

theorem tellInfl_form {rid : Nat} {r : Req} {e : Option AccErr} (h : FormAt c s) :
    FormAt c (tellInfl s rid r e) := answerInfl_form h

theorem bothHalves_form {rid : Nat} {r : Req} {f : State → Nat → Req → State}
    (hf : ∀ {t q x}, FormAt c t → FormAt c (f t q x)) (h : FormAt c s) : FormAt c (bothHalves s rid r f) := by
  fun_cases bothHalves s rid r f
  · exact hf (hf h)
  · exact hf h

theorem refuseReq_form {rid : Nat} {r : Req} {e : AccErr} (h : FormAt c s) : FormAt c (refuseReq s rid r e) := by
  refine bothHalves_form (fun ht => ?_) h
  split
  · exact dropReq_form ht
  · split
    · exact setStage_form ht
    · exact tellInfl_form (comeBack_form (dropReq_form ht))

theorem acceptReq_form {rid : Nat} {r : Req} {snap : List Byte} {fill : Option (Bool × Bool)} (h : FormAt c s) :
    FormAt c (acceptReq s rid r snap fill) := by
  refine bothHalves_form (fun ht => ?_) h
  split
  · exact setStage_form ht
  · dsimp only
    split
    · exact modReq_form ht
    · exact tellInfl_form (modReq_form ht)

theorem l1Fill_form {r : Req} {rd wr : Bool} {blk : List Byte} (h : FormAt c s) :
    FormAt c (l1Fill s r rd wr blk) := modCore_form h

theorem forwardReq_form {rid : Nat} {r : Req} {lf : Leaf} {pa : Nat} (h : FormAt c s) :
    FormAt c (forwardReq s rid r lf pa) := by
  fun_cases forwardReq s rid r lf pa
  · exact dropReq_form h
  · exact refuseReq_form h
  · exact h
  · exact bothHalves_form (fun ht => modReq_form (sendFabric_form ht)) h

theorem missReq_form {rid : Nat} {r : Req} (h : FormAt c s) : FormAt c (missReq s rid r) := by
  fun_cases missReq s rid r <;> grind [setStage_form, refuseReq_form, forwardReq_form]

theorem hitReq_form {rid : Nat} {r : Req} {h0 : Nat} {b : L2Block} (h : FormAt c s) :
    FormAt c (hitReq s rid r h0 b) := by
  fun_cases hitReq s rid r h0 b <;> grind [dropReq_form, touch_form, refuseReq_form, acceptReq_form, l1Fill_form]

theorem arriveReq_form {rid : Nat} {r : Req} (h : FormAt c s) : FormAt c (arriveReq s rid r) := by
  fun_cases arriveReq s rid r <;> grind [dropReq_form, homeHit_form, refuseReq_form, acceptReq_form, missReq_form, hitReq_form]

theorem lostBlock_form {r : Req} (h : FormAt c s) : FormAt c (lostBlock s r) := modPart_form h

theorem performAt_form {rid : Nat} {r : Req} {h0 : Nat} {b : L2Block} (h : FormAt c s) :
    FormAt c (performAt s rid r h0 b) := by
  fun_cases performAt s rid r h0 b <;> grind [performOn_form, l2Install_form, touch_form]

theorem performLost_form {rid : Nat} {r : Req} (h : FormAt c s) : FormAt c (performLost s rid r) := by
  fun_cases performLost s rid r <;> grind [setStage_form, dropReq_form, lostBlock_form]

theorem performReq_form {rid : Nat} {r : Req} (h : FormAt c s) : FormAt c (performReq s rid r) := by
  fun_cases performReq s rid r <;> grind [setStage_form, dropReq_form, homeHit_form, homeTarget_form, winWrite_form,
    performAt_form, performLost_form]

theorem execHomeSliceAccess_form {rid : Nat} {t : State} (h : FormAt c s) (e : execHomeSliceAccess rid s = .next t) :
    FormAt c t := by
  unfold execHomeSliceAccess at e
  split at e
  · cases e
    exact h
  · cases e
    split
    · split
      · exact h
      · exact arriveReq_form (bothHalves_form leaveCore_form h)
    · split
      · exact h
      · exact performReq_form h
    · exact h

theorem execPageWalk_form {rid : Nat} {t : State}
    (h : FormAt c s) (e : execPageWalk rid s = .next t) : FormAt c t := by
  unfold execPageWalk at e
  split at e
  · split at e
    · cases e
      exact h
    · split at e
      · cases e
        exact refuseReq_form h
      · dsimp only at e
        split at e
        · cases e
          exact setStage_form h
        · split at e
          · next e1 =>
            cases e
            exact setStage_form (tlbAdd_form ((walk_form h).of_eq e1))
          · next e1 =>
            cases e
            exact refuseReq_form ((walk_form h).of_eq e1)
  · cases e
    exact h

theorem execMemoryAccess_form {rid : Nat} {t : State} (h : FormAt c s) (e : execMemoryAccess rid s = .next t) :
    FormAt c t := by
  unfold execMemoryAccess at e
  split at e
  · split at e
    · cases e
      exact h
    · split at e
      · cases e
        exact setStage_form h
      · split at e
        · split at e
          · next e1 =>
            cases e
            exact refuseReq_form ((fetchBlock_form h).of_eq e1)
          · next e1 =>
            cases e
            exact setStage_form ((fetchBlock_form h).of_eq e1)
        · cases e
          exact refuseReq_form h
  · cases e
    exact h

theorem execL2Fill_form {rid : Nat} {t : State} (h : FormAt c s) (e : execL2Fill rid s = .next t) : FormAt c t := by
  unfold execL2Fill at e
  split at e
  · split at e
    · have hhit {p a v} : FormAt c (homeHit (setStage s rid .toHome) p a v).2 := homeHit_form (setStage_form h)
      dsimp only at e
      split at e
      · next e1 =>
        cases e
        exact hhit.of_eq e1
      · next e1 =>
        have hu := hhit.of_eq e1
        split at e
        · cases e
          split
          · exact retireBlock_form (hitReq_form (installBlock_form hu))
          · exact installBlock_form hu
        · cases e
          exact hu
    · cases e
      exact h
  · cases e
    exact h

theorem comeFar_form {r : Req} {l : Load} (h : FormAt c s) : FormAt c (comeFar s r l) := by
  fun_cases comeFar s r l <;> grind [cross_form, comeBack_form]

theorem answerL1_form {r : Req} {fill : Option (Bool × Bool)} (h : FormAt c s) : FormAt c (answerL1 s r fill) := by
  fun_cases answerL1 s r fill <;> grind [markNoFill_form, l1Forget_form, l1Fill_form]

theorem acquired_form {r : Req} (h : FormAt c s) : FormAt c (acquired s r) := by
  fun_cases acquired s r <;> grind [invalidateL1_form, acquireBy_form]

theorem returnLoad_form {rid : Nat} {r : Req} {v : Nat} {fill : Option (Bool × Bool)} {closes : Bool}
    (h : FormAt c s) :
    FormAt c (returnLoad s rid r v fill closes) := by
  fun_cases returnLoad s rid r v fill closes <;> grind [dropReq_form, modWarp_form, tellInfl_form, answerL1_form, acquired_form]

theorem execLoadDataReturn_form {rid : Nat} {t : State}
    (h : FormAt c s) (e : execLoadDataReturn rid s = .next t) : FormAt c t := by
  unfold execLoadDataReturn at e
  grind [dropReq_form, setResv_form, Iss.next_form, comeBack_form, tellInfl_form, comeFar_form, returnLoad_form]

theorem execStoreAcceptance_form {rid : Nat} {t : State}
    (h : FormAt c s) (e : execStoreAcceptance rid s = .next t) : FormAt c t := by
  unfold execStoreAcceptance at e
  grind [setStage_form, dropReq_form, Iss.next_form, l1Forget_form, comeBack_form, tellInfl_form, comeFar_form]

theorem atomicL1_form {r : Req} {new : Option Nat} (h : FormAt c s) : FormAt c (atomicL1 s r new) := by
  fun_cases atomicL1 s r new <;> grind [l1Forget_form, l1Patch_form, answerL1_form]

theorem execAtomicReply_form {rid : Nat} {t : State}
    (h : FormAt c s) (e : execAtomicReply rid s = .next t) : FormAt c t := by
  unfold execAtomicReply at e
  split at e
  · next r _ =>
    extract_lets lanes finish at e
    have hfin {vals closes u} (hu : FormAt c u) : FormAt c (finish vals closes u) := by
      have hd : FormAt c (dropReq u rid) := dropReq_form hu
      have hw {v} (hv : FormAt c v) : FormAt c (if closes then tellInfl v rid r none else v) := by
        split
        · exact tellInfl_form hv
        · exact hv
      refine hw (acquired_form (atomicL1_form ?_))
      split
      · exact hd
      · exact modWarp_form hd
    split at e
    · cases e
      exact h
    · split at e
      · cases e
        exact hfin (comeBack_form h)
      · split at e
        · cases e
          exact h
        · split at e
          · cases e
            exact tellInfl_form (comeFar_form (dropReq_form h))
          · cases e
            refine hfin (comeFar_form ?_)
            split
            · exact takeResv_form h
            · exact h
      · cases e
        exact h
  · cases e
    exact h

theorem execUnreachableNodeFault_form {rid : Nat} {t : State}
    (h : FormAt c s) (e : execUnreachableNodeFault rid s = .next t) : FormAt c t := by
  unfold execUnreachableNodeFault at e
  grind [dropReq_form, Iss.next_form, tellInfl_form]

end Sys2Proof.Machine

/-! ### Maintenance and resources -/

namespace Sys2Proof.Machine

variable {c : Cur} {s : State}

theorem maintRecord_form {part : Nat} (h : FormAt c s) : FormAt c (maintRecord s part).2 := by
  fun_cases maintRecord s part <;> grind [readPA_form]

theorem flushBlocks_form {mine : L2Block → Bool} (h : FormAt c s) : FormAt c (flushBlocks s mine) :=
  foldl_form (fun ht => ite_form ht (setL2_form (foldl_form writeBack_form ht))) h

theorem Sweep.run_form {w : Sweep} (h : FormAt c s) : FormAt c (Sweep.run w s) := by
  fun_cases Sweep.run w s
  grind [FormAt.update, flushBlocks_form]

theorem maintDone_form {part : Nat} {bs : List Byte} {status : Nat} (h : FormAt c s) :
    FormAt c (maintDone s part bs status) := setWin32_form (writePA_form h)

theorem runMaint_form {part : Nat} {mine : Nat → Bool} (h : FormAt c s) : FormAt c (runMaint s part mine) := by
  fun_cases runMaint s part mine <;> grind [maintRecord_form, Sweep.run_form, maintDone_form]

theorem execMaintenanceNop_form {part : Nat} {t : State}
    (h : FormAt c s) (e : execMaintenanceNop part s = .next t) : FormAt c t := by
  cases e
  exact runMaint_form h

theorem execInvRange_form {part : Nat} {t : State}
    (h : FormAt c s) (e : execInvRange part s = .next t) : FormAt c t := by
  cases e
  exact runMaint_form h

theorem execInvAsid_form {part : Nat} {t : State}
    (h : FormAt c s) (e : execInvAsid part s = .next t) : FormAt c t := by
  cases e
  exact runMaint_form h

theorem execInvPart_form {part : Nat} {t : State}
    (h : FormAt c s) (e : execInvPart part s = .next t) : FormAt c t := by
  cases e
  exact runMaint_form h

theorem execFaultReservationRetry_form {core wslot : Nat} {t : State}
    (h : FormAt c s) (e : execFaultReservationRetry core wslot s = .next t) : FormAt c t := by
  cases e
  exact retryFaults_form h

theorem setRes_form {kind i st part : Nat} (h : FormAt c s) : FormAt c (setRes s kind i st part) := by
  fun_cases setRes s kind i st part
  grind [FormAt.update, pushNote_form]

theorem rszCode_form {code : Nat} (h : FormAt c s) : FormAt c (rszCode s code) := h

theorem onResource_form {kind part i : Nat} {st : Bool} {other : Option Nat} {go : State → State}
    (hgo : ∀ {t}, FormAt c t → FormAt c (go t)) (h : FormAt c s) : FormAt c (onResource s kind part i st other go) := by
  fun_cases onResource s kind part i st other go
  · exact rszCode_form h
  · exact rszCode_form h
  · exact rszCode_form h
  · exact rszCode_form (hgo h)

theorem execAssign_form {kind part index : Nat} {t : State} (h : FormAt c s)
    (e : execAssign kind part index s = .next t) : FormAt c t := by
  cases e
  exact onResource_form setRes_form h

theorem execCancel_form {kind part index : Nat} {t : State} (h : FormAt c s)
    (e : execCancel kind part index s = .next t) : FormAt c t := by
  cases e
  exact onResource_form setRes_form h

theorem execEnable_form {kind part index : Nat} {t : State} (h : FormAt c s)
    (e : execEnable kind part index s = .next t) : FormAt c t := by
  cases e
  exact onResource_form setRes_form h

theorem execReleaseCore_form {part index : Nat} {t : State} (h : FormAt c s)
    (e : execReleaseCore part index s = .next t) : FormAt c t := by
  cases e
  exact onResource_form (fun ht => modCore_form (setRes_form ht)) h

theorem demoteAll_form {chan : Nat} (h : FormAt c s) : FormAt c (demoteAll s chan) := by
  have hbank {t : State} {bank : Nat} {tags : List (Nat × PTag)} (ht : FormAt c t) :
      FormAt c (tags.foldl (fun s e => (demoteRow s chan bank e.2.frow).2) t) := by
    refine foldl_form (fun hu => ?_) ht
    exact demoteRow_form hu
  exact foldl_form hbank h

theorem execReleaseChannel_form {part index : Nat} {t : State} (h : FormAt c s)
    (e : execReleaseChannel part index s = .next t) : FormAt c t := by
  have hdrain {k : Nat} {v : State} (hv : FormAt c v) : FormAt c (setRes { v with dram := { v.dram with
      autoq := v.dram.autoq.filter (fun e => e.1 != k) } } kCHAN k rDRAINING part) := setRes_form (hv.update rfl)
  unfold execReleaseChannel at e
  obtain rfl := Host.Outcome.next.inj e
  refine onResource_form (fun {u} hu => ?_) h
  refine foldl_form ?_ hu
  intro v k hv
  exact hdrain (demoteAll_form hv)

theorem chmapWrite_form {slot v : Nat} (h : FormAt c s) : FormAt c (chmapWrite s slot v) := by
  fun_cases chmapWrite s slot v <;> grind [FormAt.update, setRes_form]

theorem execChmapWrite_form {slot v : Nat} {t : State}
    (h : FormAt c s) (e : execChmapWrite slot v s = .next t) : FormAt c t := by
  cases e
  exact chmapWrite_form h

theorem flushSet_form {part : Nat} {slots : List Nat} (h : FormAt c s) : FormAt c (flushSet s part slots) := by
  fun_cases flushSet s part slots
  grind [FormAt.update, flushBlocks_form]

theorem execChcommit_form {part index : Nat} {t : State} (h : FormAt c s)
    (e : execChcommit part index s = .next t) : FormAt c t := by
  unfold execChcommit at e
  dsimp only at e
  split at e
  · cases e
    exact h
  · cases e
    exact onResource_form (fun ht => foldl_form setRes_form ((flushSet_form ht).update rfl)) h

theorem commitList_form {part : Nat} {l : List Nat} (h : FormAt c s) : FormAt c (commitList s part l) := by
  unfold commitList
  extract_lets old w ctl r t u
  have ht : FormAt c t := h
  have hu : FormAt c u := foldl_form (fun hx => ite_form (setRes_form hx) hx) ht
  exact foldl_form (fun hx => ite_form (setRes_form hx) hx) hu

theorem execSlcommit_form {part : Nat} {t : State} (h : FormAt c s) (e : execSlcommit part s = .next t) :
    FormAt c t := by
  cases e
  split
  · exact rszCode_form h
  · split
    · exact rszCode_form h
    · split
      · exact rszCode_form h
      · exact rszCode_form h
      · exact rszCode_form (commitList_form h)

theorem execBlockMove_form {part atag vb : Nat} {t : State}
    (h : FormAt c s) (e : execBlockMove part atag vb s = .next t) : FormAt c t := by
  cases e
  exact moveBlock_form h

theorem execSweep_form {part : Nat} {t : State} (h : FormAt c s) (e : execSweep part s = .next t) : FormAt c t := by
  unfold execSweep at e
  split at e
  · cases e
    exact h
  · dsimp only at e
    have hu : FormAt c ((oldBlocks s part).foldl (fun s b => (moveBlock s part b.1 b.2).2) s) := by
      refine foldl_form (fun ht => ?_) h
      exact moveBlock_form ht
    split at e
    · cases e
      exact hu
    · obtain rfl := Host.Outcome.next.inj e
      exact foldl_form (fun hx => ite_form (setRes_form hx) hx) (hu.update rfl)

theorem moveRecords_form {core t : Nat} (h : FormAt c s) : FormAt c (moveRecords s core t) := by
  fun_cases moveRecords s core t
  grind [modCore_form, invalidateL1_form]

theorem execDrainComplete_form {kind index : Nat} {t : State}
    (h : FormAt c s) (e : execDrainComplete kind index s = .next t) : FormAt c t := by
  unfold execDrainComplete at e
  grind [Iss.next_form, setRes_form, moveRecords_form]

theorem zeroRes_form {kind i : Nat} (h : FormAt c s) : FormAt c (zeroRes s kind i) := by
  fun_cases zeroRes s kind i <;> grind [FormAt.update, clearChannel_form, modCore_form]

theorem execZeroingComplete_form {kind index : Nat} {t : State}
    (h : FormAt c s) (e : execZeroingComplete kind index s = .next t) : FormAt c t := by
  unfold execZeroingComplete at e
  grind [Iss.next_form, setRes_form, zeroRes_form]

theorem execPartFatal_form {part : Nat} {t : State} (h : FormAt c s) (e : execPartFatal part s = .next t) :
    FormAt c t := by
  unfold execPartFatal at e
  split at e
  · cases e
    exact h
  · cases e
    exact pushNote_form (modPart_form (foldl_form abort_form (modPart_form h)))

theorem nextOf_form {o : Host.Outcome State Fault Refusal} (ho : ∀ {t}, o = .next t → FormAt c t) (h : FormAt c s) :
    FormAt c (nextOf s o) := by
  cases o with
  | next t => exact ho rfl
  | _ => exact h

theorem rszWrite_form {v : Nat} (h : FormAt c s) : FormAt c (rszWrite s v) := by
  have hcode {n} : FormAt c (rszCode s n) := rszCode_form h
  unfold rszWrite
  extract_lets kind part ix
  split
  · exact hcode
  · split
    · exact nextOf_form (execAssign_form h) h
    · exact nextOf_form (execEnable_form h) h
    · exact ite_form (nextOf_form (execReleaseCore_form h) h)
        (ite_form (nextOf_form (execReleaseChannel_form h) h) hcode)
    · exact nextOf_form (execCancel_form h) h
    · exact nextOf_form (execSlcommit_form h) h
    · exact ite_form (nextOf_form (execChcommit_form h) h) hcode
    · exact hcode

theorem firmwareWrite_form {n kind v : Nat} (h : FormAt c s) : FormAt c (firmwareWrite s n kind v) := by
  fun_cases firmwareWrite s n kind v <;> grind [metaRewrite_form, hdownWrite_form, rootWrite_form, rszWrite_form]

theorem execRegisterWrite_form {root : Bool} {part offset bytes v : Nat} {t : State}
    (h : FormAt c s) (e : execRegisterWrite root part offset bytes v s = .next t) : FormAt c t := by
  unfold execRegisterWrite at e
  grind [Iss.next_form, winWrite_form, firmwareWrite_form]

end Sys2Proof.Machine

/-! ### Firmware, messages and resets -/

namespace Sys2Proof.Machine

variable {c : Cur} {s : State}

theorem execNotificationBatch_form {part : Nat} {t : State}
    (h : FormAt c s) (e : execNotificationBatch part s = .next t) : FormAt c t := by
  cases e
  exact h

theorem execNotificationInterval_form {part : Nat} {t : State}
    (h : FormAt c s) (e : execNotificationInterval part s = .next t) : FormAt c t := by
  cases e
  exact h

theorem execRequesterRetry_form {part : Nat} {t : State}
    (h : FormAt c s) (e : execRequesterRetry part s = .next t) : FormAt c t := by
  cases e
  exact h

theorem readContext_form {part i : Nat} (h : FormAt c s) : FormAt c (readContext s part i).2 := by
  fun_cases readContext s part i <;> grind [readPA_form]

theorem execQpContextEnable_form {part qp : Nat} {t : State}
    (h : FormAt c s) (e : execQpContextEnable part qp s = .next t) : FormAt c t := by
  unfold execQpContextEnable at e
  grind [modPart_form, Iss.next_form, readContext_form]

theorem replyTo_form {part i : Nat} {q : QPair} {n : Nat} {r : Nat × List Byte} (h : FormAt c s) :
    FormAt c (replyTo s part i q n r) := modPart_form h

theorem respond_form {part : Nat} {hd : PacketHdr} {n : Nat} {serve : State → (Nat × List Byte) × State}
    (hs : ∀ {t}, FormAt c t → FormAt c (serve t).2) (h : FormAt c s) : FormAt c (respond s part hd n serve) := by
  fun_cases respond s part hd n serve
  · exact h
  · next e => exact replyTo_form ((hs h).of_eq e)
  · exact modPart_form h

theorem rdmaDone_form {α : Type} {r : Except AccErr α × State} (h : FormAt c r.2) : FormAt c (rdmaDone r).2 := h

theorem rdmaPut_form {part rkey addr : Nat} {data : List Byte} (h : FormAt c s) :
    FormAt c (rdmaPut s part rkey addr data).2 := by
  have hput {l : List Nat} {v : Nat → Nat} : FormAt c (l.foldl (fun s o => winWrite8 s part o (v o)) s) :=
    foldl_form winWrite8_form h
  fun_cases rdmaPut s part rkey addr data
  · exact h
  · exact hput
  · exact h
  · exact rdmaDone_form (writeN_form h)
  · exact h
  · exact rdmaDone_form (writeN_form h)
  · exact h

theorem rdmaGet_form {part rkey addr n : Nat} (h : FormAt c s) : FormAt c (rdmaGet s part rkey addr n).2 := by
  fun_cases rdmaGet s part rkey addr n <;> grind [readN_form, rdmaDone_form]

theorem answered_form {r : Except Nat (List Byte) × State} (h : FormAt c r.2) : FormAt c (answered r).2 := by
  fun_cases answered r
  · exact h
  · exact h

theorem execRdmaWrite_form {part rkey addr : Nat} {qp : PacketHdr} {data : List Byte} {t : State} (h : FormAt c s)
    (e : execRdmaWrite part qp rkey addr data s = .next t) : FormAt c t := by
  cases e
  exact respond_form (fun ht => answered_form (rdmaPut_form ht)) h

theorem execRdmaWriteWithImmediate_form {part rkey addr imm : Nat} {qp : PacketHdr} {data : List Byte} {t : State}
    (h : FormAt c s) (e : execRdmaWriteWithImmediate part qp rkey addr data imm s = .next t) : FormAt c t := by
  cases e
  refine respond_form (fun ht => ?_) h
  split
  · next e => exact (rdmaPut_form ht).of_eq e
  · next e => exact setWin32_form ((rdmaPut_form ht).of_eq e)

theorem execRdmaRead_form {part rkey addr len : Nat} {qp : PacketHdr} {t : State} (h : FormAt c s)
    (e : execRdmaRead part qp rkey addr len s = .next t) : FormAt c t := by
  cases e
  exact respond_form (fun ht => answered_form (rdmaGet_form ht)) h

theorem rdmaOther_form {part n : Nat} {qp : PacketHdr} (h : FormAt c s) : FormAt c (rdmaOther s part qp n) :=
  respond_form (fun ht => ht) h

theorem peerSays_form {r : PeerReq} {code : Nat} {bs : List Byte} {load : Load} (h : FormAt c s) :
    FormAt c (peerSays s r code bs load) := by
  fun_cases peerSays s r code bs load
  grind [FormAt.update, sendOn_form]

theorem peerAccess_form {r : PeerReq} {p kind : Nat} {va : VA} {data : List Byte} (h : FormAt c s) :
    FormAt c (peerAccess s r p kind va data) := by
  fun_cases peerAccess s r p kind va data <;> grind [FormAt.update, homeRead_form, homeRmw_form, homeWrite_form,
    readN_form, writeN_form, peerSays_form]

theorem execFabricAccessArrival_form {gid : PeerTag} {kind addr : Nat} {data : List Byte} {t : State}
    (h : FormAt c s) (e : execFabricAccessArrival gid kind addr data s = .next t) : FormAt c t := by
  unfold execFabricAccessArrival at e
  grind [Iss.next_form, peerSays_form, peerAccess_form]

/-- A reset empties memory and leaves no issuer. -/
theorem bootFrom_form : FormAt .idle (bootFrom s) := ⟨rfl, rfl⟩

theorem execColdReset_form {t : State} (e : execColdReset s = .next t) : FormAt .idle t := by
  cases e
  exact bootFrom_form

theorem execWarmReset_form {t : State} (e : execWarmReset s = .next t) : FormAt .idle t := by
  cases e
  exact bootFrom_form

theorem execAttestationRequest_form {part v : Nat} {t : State}
    (h : FormAt c s) (e : execAttestationRequest part v s = .next t) : FormAt c t := by
  unfold execAttestationRequest at e
  grind [modPart_form, writePA_form, Iss.next_form, winWrite_form]

theorem writeDump_form {reason : Nat} (h : FormAt c s) : FormAt c (writeDump s reason) := by
  fun_cases writeDump s reason
  grind [FormAt.update, writePA_form]

theorem execModuleFatalError_form {reason : Nat} {t : State}
    (h : FormAt c s) (e : execModuleFatalError reason s = .next t) : FormAt c t := by
  unfold execModuleFatalError at e
  grind [Iss.next_form, writeDump_form]

theorem execThermalLimit_form {level : Nat} {t : State}
    (h : FormAt c s) (e : execThermalLimit level s = .next t) : FormAt c t := by
  unfold execThermalLimit at e
  grind [FormAt.update, Iss.next_form, writeDump_form]

end Sys2Proof.Machine

/-! ### Units, the matrix queues and ACCST rows -/

namespace Sys2Proof.Machine

variable {c : Cur} {s : State}

theorem pushUnit_form {core : Nat} {w : Warp} {op : UnitOp} (h : FormAt c s) :
    FormAt c (pushUnit s core w op) := modCore_form h

theorem dropUnit_form {core uid : Nat} (h : FormAt c s) : FormAt c (dropUnit s core uid) := modCore_form h

theorem promoteBody_form {prom : Bool} {f : Fields} {x : Iss} (h : FormAt c s) :
    FormAt c (promoteBody prom f x s) := by
  fun_cases promoteBody prom f x s <;> grind [Iss.next_form, Iss.illegal_form, pushUnit_form]

theorem promotePA_form {part asid : Nat} {va : VA} (h : FormAt c s) : FormAt c (promotePA s part asid va).2 := by
  fun_cases promotePA s part asid va <;> grind [translate_form]

theorem rowsOf_form {part asid n m : Nat} {p : List (Option (Nat × Nat × Nat))} (h : FormAt c s) :
    FormAt c (rowsOf part asid n m s p).2 := by
  fun_induction rowsOf part asid n m s p <;> grind [promotePA_form]

theorem promoteRows_form {prom : Bool} {pri : Nat} {n : List (Option (Nat × Nat × Nat))} {m p : Nat}
    (h : FormAt c s) :
    FormAt c (promoteRows prom pri n s m p).2 := by
  fun_induction promoteRows prom pri n s m p <;> grind [demoteRow_form, promoteRow_form]

theorem execPromoteCompletion_form {core uid : Nat} {t : State} (h : FormAt c s)
    (e : execPromoteCompletion core uid s = .next t) : FormAt c t := by
  unfold execPromoteCompletion at e
  split at e
  · split at e
    · extract_lets line at e
      split at e
      next hrows =>
      split at e
      next hprom =>
      obtain rfl := Host.Outcome.next.inj e
      have hp := (promoteRows_form ((rowsOf_form h).of_eq hrows)).of_eq hprom
      exact reap_form (modGroup_form (modWarp_form (dropUnit_form hp)))
    · extract_lets line at e
      split at e
      next hrows =>
      split at e
      next hprom =>
      obtain rfl := Host.Outcome.next.inj e
      have hp := (promoteRows_form ((rowsOf_form h).of_eq hrows)).of_eq hprom
      exact reap_form (modWarp_form (dropUnit_form hp))
  · cases e
    exact h

theorem texLanes_form {core : Nat} {w : Warp} {f : Fields} {desc : Nat → VA} {set n : List Nat}
    (h : FormAt c s) :
    FormAt c (texLanes core w f desc set n s).2 := by
  fun_induction texLanes core w f desc set n s <;> grind [texSample_form]

theorem texBody_form {f : Fields} {x : Iss} (h : FormAt c s) : FormAt c (texBody f x s) := by
  unfold texBody
  extract_lets w lanes
  split
  next e =>
  split
  · exact Iss.illegal_form h
  · exact settle_form (foldl_form pushUnit_form ((texLanes_form h).of_eq e))

theorem leaveRecord_form {f : Fields} {x : Iss} {w : Warp} {lane kind r level : Nat} {words : Option (List Nat)}
    {job : Nat → UnitOp}
    (h : FormAt c s) :
    FormAt c (leaveRecord f x w lane kind r level words job s).2 := by
  fun_cases leaveRecord f x w lane kind r level words job s <;> grind [addRecord_form, pushUnit_form]

theorem leaveLanes_form {α : Type} {leave : Nat → α → State → Bool × State} {las : List (Nat × α)}
    (hl : ∀ {l a t}, FormAt c t → FormAt c (leave l a t).2) (h : FormAt c s) : FormAt c (leaveLanes leave las s).2 := by
  fun_induction leaveLanes leave las s <;> grind

theorem finishUnits_form {x : Iss} {lanes gone : List Nat} {bad : List (Nat × VA × AccErr)} (h : FormAt c s) :
    FormAt c (finishUnits x s lanes gone bad) := by
  fun_cases finishUnits x s lanes gone bad <;> grind [endThreads_form, settle_form, clearLaneResv_form]

theorem texcBody_form {f : Fields} {x : Iss} (h : FormAt c s) : FormAt c (texcBody f x s) := by
  unfold texcBody
  extract_lets w lanes r
  split
  · exact Iss.illegal_form h
  · split
    next e =>
    split
    · exact Iss.illegal_form h
    · exact finishUnits_form (leaveLanes_form leaveRecord_form ((texLanes_form h).of_eq e))

theorem traceLanes_form {x : Iss} {w : Warp} {f : Fields} {n : List Nat} (h : FormAt c s) :
    FormAt c (traceLanes x w f n s).2 := by
  fun_induction traceLanes x w f n s <;> grind [rayAhead_form]

theorem traceBody_form {f : Fields} {x : Iss} (h : FormAt c s) : FormAt c (traceBody f x s) := by
  unfold traceBody
  extract_lets w lanes
  split
  · exact Iss.illegal_form h
  · split
    next e =>
    refine finishUnits_form (leaveLanes_form (fun ht => ?_) ((traceLanes_form h).of_eq e))
    split
    · exact leaveRecord_form ht
    · exact leaveRecord_form ht

theorem resultWords_form {rec_ part grid : Nat} {words : List Nat} (h : FormAt c s) :
    FormAt c (resultWords s rec_ part grid words) := by
  fun_cases resultWords s rec_ part grid words
  grind [FormAt.update, modGrid_form]

theorem execTexSampleReturn_form {core uid : Nat} {t : State}
    (h : FormAt c s) (e : execTexSampleReturn core uid s = .next t) : FormAt c t := by
  unfold execTexSampleReturn at e
  grind [modWarp_form, Iss.next_form, reap_form, dropUnit_form, resultWords_form]

theorem chargeRay_form {core uid rec_ : Nat} {src : RaySrc} {va : VA} {e : AccErr} (h : FormAt c s) :
    FormAt c (chargeRay s core uid rec_ src va e) := by
  fun_cases chargeRay s core uid rec_ src va e
  grind [modCore_form, modWarp_form, settle_form, dropUnit_form]

theorem refuseRay_form {core uid : Nat} {job : UnitJob} {rec_ : Nat} {j : RayJob} {e : VA × AccErr} (h : FormAt c s) :
    FormAt c (refuseRay s core uid job rec_ j e) := by
  fun_cases refuseRay s core uid job rec_ j e <;> grind [dropUnit_form, resultWords_form, chargeRay_form]

theorem execTraceResult_form {core uid : Nat} {t : State}
    (h : FormAt c s) (e : execTraceResult core uid s = .next t) : FormAt c t := by
  unfold execTraceResult at e
  grind [modCore_form, Iss.next_form, rayStep_form, dropUnit_form, resultWords_form, refuseRay_form]

theorem setSlice_form {core q : Nat} {es : List QEntry} (h : FormAt c s) : FormAt c (setSlice s core q es) := by
  fun_cases setSlice s core q es
  grind [modCore_form]

theorem enqueue_form {x : Iss} {e : QEntry} (h : FormAt c s) : FormAt c (enqueue x s e) := by
  fun_cases enqueue x s e <;> grind [FormAt.update, Iss.next_form, setSlice_form]

theorem mmaBody_form {kind : Nat} {f : Fields} {x : Iss} (h : FormAt c s) : FormAt c (mmaBody kind f x s) := by
  fun_cases mmaBody kind f x s <;> grind [Iss.next_form, Iss.illegal_form, enqueue_form]

theorem reportMatrix_form {x : Iss} {wset : List Nat} {t : Nat} {pc : VA} (h : FormAt c s) :
    FormAt c (reportMatrix x wset t pc s) := by
  fun_cases reportMatrix x wset t pc s
  grind [Iss.mod_form, Iss.trap_form, EngAt.mod_form]

theorem execQueueEntryStart_form {core slice : Nat} {t : State}
    (h : FormAt c s) (e : execQueueEntryStart core slice s = .next t) : FormAt c t := by
  unfold execQueueEntryStart at e
  grind [Iss.next_form, setSlice_form]

theorem matrixError_form {core slice : Nat} {e : QEntry} {es : List QEntry} {again : Bool} (h : FormAt c s) :
    FormAt c (matrixError s core slice e es again) := by
  fun_cases matrixError s core slice e es again
  grind [modWarp_form, setSlice_form]

theorem keepStage_form {core slice : Nat} {e : QEntry} {st : List (List Nat) × Flags} (h : FormAt c s) :
    FormAt c (keepStage s core slice e st) := by
  fun_cases keepStage s core slice e st <;> grind [modCore_form]

theorem execQueueEntryCompletion_form {core slice mismatches : Nat} {t : State} (h : FormAt c s)
    (e : execQueueEntryCompletion core slice mismatches s = .next t) : FormAt c t := by
  unfold execQueueEntryCompletion at e
  split at e
  · cases e
    exact h
  · next en es _ =>
    extract_lets w mma dropped st mism u v at e
    have hu : FormAt c u := keepStage_form (setSlice_form h)
    have hv : FormAt c v := by
      unfold v
      split
      · exact addFlags_form (modWarp_form hu)
      · exact ite_form (modWarp_form hu) (ite_form (modWarp_form hu)
          (ite_form (addFlags_form (modWarp_form hu)) (modWarp_form hu)))
    split at e
    · cases e
      exact h
    · split at e
      · cases e
        exact reap_form (setSlice_form h)
      · split at e
        · cases e
          exact reap_form (keepStage_form (matrixError_form h))
        · cases e
          exact reap_form hv

theorem storeNeed_form {who : Who} {va : VA} {n : Nat} (h : FormAt c s) : FormAt c (storeNeed s who va n).2 := by
  fun_cases storeNeed s who va n <;> grind [writeTarget_form]

theorem storeCheck_form {who : Who} {va : VA} {n m : Nat} (h : FormAt c s) :
    FormAt c (storeCheck s who va n m).2 := by
  fun_induction storeCheck s who va n m <;> grind [storeNeed_form]

theorem patchRow_form {core : Nat} {w : Warp} {va : VA} {bs : List Byte} (h : FormAt c s) :
    FormAt c (patchRow s core w va bs) :=
  foldl_form (fun ht => l1Patch_form (markNoFill_form ht)) h

theorem execAccstRowAnswer_form {core uid row : Nat} {t : State} (h : FormAt c s)
    (e : execAccstRowAnswer core uid row s = .next t) : FormAt c t := by
  unfold execAccstRowAnswer at e
  dsimp only at e
  split at e
  · cases e
    exact h
  · split at e
    · cases e
      exact h
    · split at e
      · next hchk =>
        cases e
        exact reap_form (modWarp_form (patchRow_form (writeN_form ((storeCheck_form h).of_eq hchk))))
      · next hchk =>
        cases e
        exact reserveFaults_form (modWarp_form ((storeCheck_form h).of_eq hchk))
      · next hchk =>
        cases e
        exact modWarp_form ((storeCheck_form h).of_eq hchk)

theorem ploadBody_form {f : Fields} {x : Iss} (h : FormAt c s) : FormAt c (ploadBody f x s) := by
  fun_cases ploadBody f x s <;> grind [Iss.mod_form, Iss.next_form, Iss.illegal_form, freshIid_form, EngAt.mod_form,
    pushUnit_form]

theorem dropStage_form {core ws first n : Nat} (h : FormAt c s) :
    FormAt c (dropStage s core ws first n) := modCore_form h

theorem ploadRead_form {who : Who} {n : Nat} {m : VA} (h : FormAt c s) : FormAt c (ploadRead who n m s).2 := by
  fun_induction ploadRead who n m s <;> grind [homeRead_form]

theorem execPloadCompletion_form {core uid : Nat} {t : State} (h : FormAt c s)
    (e : execPloadCompletion core uid s = .next t) : FormAt c t := by
  unfold execPloadCompletion at e
  split at e
  · extract_lets w lanes put at e
    have hput {bs u} (hu : FormAt c u) : FormAt c (put bs u) := modWarp_form (dropStage_form hu)
    split at e
    · cases e
      exact h
    · split at e
      · next hr =>
        cases e
        exact answerInfl_form (hput ((ploadRead_form (dropUnit_form h)).of_eq hr))
      · next hr =>
        cases e
        exact answerInfl_form ((ploadRead_form (dropUnit_form h)).of_eq hr)
      · next hr =>
        cases e
        exact answerInfl_form (hput ((ploadRead_form (dropUnit_form h)).of_eq hr))
  · cases e
    exact h

end Sys2Proof.Machine

/-! ### Fetch and traps -/

namespace Sys2Proof.Machine

variable {c : Cur} {s : State}

theorem fetchAt_form {core : Nat} {w : Warp} {pc : VA} (h : FormAt c s) : FormAt c (fetchAt s core w pc).2 := by
  fun_cases fetchAt s core w pc <;> grind [fetchC_form]



theorem setCur_form {core ws len : Nat} {p : PathAt} {word : DWord} (h : FormAt c s) :
    FormAt (.warp core ws p.mask p.pc word len) (setCur s core ws p word len) := ⟨h.1, rfl⟩

theorem nextTrap_form {core ws : Nat} {p : Trap} {t : State} (h : FormAt c s) (e : nextTrap s core ws = some (p, t)) :
    FormAt c t := by
  unfold nextTrap at e
  dsimp only at e
  split at e
  · cases e
    exact modWarp_form h
  · split at e
    · cases e
      exact modPart_form (modWarp_form h)
    · cases e

theorem takeNext_form {fatal : Bool} {core ws : Nat} (h : FormAt c s) : FormAt c (takeNext fatal core ws s) := by
  unfold takeNext
  split
  · exact h
  · split
    · next e => exact takeTrap_form (nextTrap_form h e)
    · exact h

theorem execHandlerEntry_form {core wslot : Nat} {t : State}
    (h : FormAt c s) (e : execHandlerEntry core wslot s = .next t) : FormAt c t := by
  cases e
  exact takeNext_form h

theorem execFatalHalt_form {core wslot : Nat} {t : State}
    (h : FormAt c s) (e : execFatalHalt core wslot s = .next t) : FormAt c t := by
  cases e
  exact takeNext_form h

theorem execEngineFaultTrap_form {core gslot : Nat} {t : State} (h : FormAt c s)
    (e : execEngineFaultTrap core gslot s = .next t) : FormAt c t := by
  unfold execEngineFaultTrap at e
  split at e
  · cases e
    exact h
  · split at e
    · cases e
      exact h
    · split at e
      · cases e
        exact h
      · cases e
        exact abort_form (modGroup_form h)
    · dsimp only at e
      split at e
      · cases e
        exact h
      · split at e
        · cases e
          exact h
        · cases e
          exact takeTrap_form (modWarp_form (modGroup_form h))

theorem execDebugRequest_form {core gslot : Nat} {t : State}
    (h : FormAt c s) (e : execDebugRequest core gslot s = .next t) : FormAt c t := by
  unfold execDebugRequest at e
  grind [Iss.next_form, haltGroup_form, haltFree_form]

theorem execGridAbort_form {part grid : Nat} {t : State}
    (h : FormAt c s) (e : execGridAbort part grid s = .next t) : FormAt c t := by
  cases e
  exact abort_form h

theorem execImpreciseRecordWrite_form {core wslot : Nat} {t : State}
    (h : FormAt c s) (e : execImpreciseRecordWrite core wslot s = .next t) : FormAt c t := by
  unfold execImpreciseRecordWrite at e
  grind [Iss.next_form, writeImp_form]

end Sys2Proof.Machine

/-! ### Saves and restorations -/

namespace Sys2Proof.Machine

variable {c : Cur} {s : State}

theorem writeSaved_form {v : Saved} {unit slot lead : Nat} (h : FormAt c s) :
    FormAt c (writeSaved s v unit slot lead) := by
  unfold writeSaved
  refine modPart_form (foldl_form (fun ht => ?_) h)
  exact writePA_form ht

theorem saveGroup_form {core g slot lead reason : Nat} (h : FormAt c s) :
    FormAt c (saveGroup s core g slot lead reason) := by
  unfold saveGroup
  split
  · exact h
  · exact dropGroup_form (writeSaved_form (drainImp_form (foldl_form writeImp_form h)))

theorem saveWarp_form {core ws slot reason : Nat} (h : FormAt c s) : FormAt c (saveWarp s core ws slot reason) := by
  fun_cases saveWarp s core ws slot reason
  grind [dropWarp_form, drainImp_form, writeImp_form, writeSaved_form]

theorem trySave_form {core g : Nat} (h : FormAt c s) : FormAt c (trySave core g s) := by
  unfold trySave
  split
  · exact h
  · split
    · exact h
    · next r _ =>
      extract_lets ms slots lead t
      have ht : FormAt c t := foldl_form saveGroup_form h
      exact ite_form h (ite_form ht (settleAnswers_form ht))

theorem trySaveWarp_form {core ws : Nat} (h : FormAt c s) : FormAt c (trySaveWarp core ws s) := by
  fun_cases trySaveWarp core ws s <;> grind [settleAnswers_form, saveWarp_form]

theorem execGroupSave_form {core gslot : Nat} {t : State}
    (h : FormAt c s) (e : execGroupSave core gslot s = .next t) : FormAt c t := by
  unfold execGroupSave at e
  grind [Iss.next_form, trySave_form, trySaveWarp_form]

theorem without_form {gone : Nat → Nat → Group → Bool} (h : FormAt c s) : FormAt c (without s gone) := h

theorem markSet_form {x : Group} {r : Nat} (h : FormAt c s) : FormAt c (markSet s x r) := by
  unfold markSet
  exact foldl_form modGroup_form h

theorem execSwapOut_form {core gslot : Nat} {t : State}
    (h : FormAt c s) (e : execSwapOut core gslot s = .next t) : FormAt c t := by
  unfold execSwapOut at e
  grind [modGroup_form, Iss.next_form, trySave_form, trySaveWarp_form, markSet_form]

/-- As for `slotRead`, the definition is opened over an arbitrary `rd`. -/
theorem readWarp_form {slot core : Nat} {t : Stand} {sl : SaveSlot} (h : FormAt c s) :
    FormAt c (readWarp s slot core t sl).2 := by
  have hr {u part slot off n} (hu : FormAt c u) : FormAt c (slotRead u part slot off n).2 := slotRead_form hu
  obtain ⟨rd, hrd⟩ : ∃ rd, rd = slotRead := ⟨slotRead, rfl⟩
  obtain ⟨f, hf⟩ : ∃ f, f = readWarp := ⟨readWarp, rfl⟩
  rw [← hf]
  delta readWarp at hf
  rw [← hrd] at hf hr
  subst hf
  exact hr (hr (hr (hr h)))

theorem settleRecords_form {part slot unit : Nat} {wsOf : Nat → Nat} (h : FormAt c s) :
    FormAt c (settleRecords s part slot unit wsOf) := by
  fun_cases settleRecords s part slot unit wsOf
  grind [modPart_form]

theorem readConts_form {part slot core g n : Nat} {r : LaunchRec} (h : FormAt c s) :
    FormAt c (readConts s part slot core g n r) := by
  have hr {u off n} (hu : FormAt c u) : FormAt c (slotRead u part slot off n).2 := slotRead_form hu
  obtain ⟨rd, hrd⟩ : ∃ rd, rd = slotRead := ⟨slotRead, rfl⟩
  obtain ⟨f, hf⟩ : ∃ f, f = readConts := ⟨readConts, rfl⟩
  rw [← hf]
  delta readConts at hf
  rw [← hrd] at hf hr
  subst hf
  refine foldl_form (fun ht => ?_) h
  exact modCore_form ((hr ht).update rfl)

theorem readKinds_form {part slot core num : Nat} {hdr : List Byte} (h : FormAt c s) :
    FormAt c (readKinds s part slot core num hdr) := by
  have hr {u off n} (hu : FormAt c u) : FormAt c (slotRead u part slot off n).2 := slotRead_form hu
  obtain ⟨rd, hrd⟩ : ∃ rd, rd = slotRead := ⟨slotRead, rfl⟩
  obtain ⟨f, hf⟩ : ∃ f, f = readKinds := ⟨readKinds, rfl⟩
  rw [← hf]
  delta readKinds at hf
  rw [← hrd] at hf hr
  subst hf
  refine ite_form h (foldl_form (fun ht => ?_) h)
  exact modCore_form (hr ht)

theorem readWarps_form {slot core : Nat} {sl : SaveSlot} {rs : List FaultRec} {mk : Nat → Nat → Stand}
    {at_ : List (Nat × Nat)} (h : FormAt c s) : FormAt c (readWarps s slot core sl rs mk at_) := by
  have hr {u t} (hu : FormAt c u) : FormAt c (readWarp u slot core t sl).2 := readWarp_form hu
  obtain ⟨rd, hrd⟩ : ∃ rd, rd = readWarp := ⟨readWarp, rfl⟩
  obtain ⟨f, hf⟩ : ∃ f, f = readWarps := ⟨readWarps, rfl⟩
  rw [← hf]
  delta readWarps at hf
  rw [← hrd] at hf hr
  subst hf
  refine foldl_form (fun ht => ?_) h
  exact ite_form (hr ht) (modCore_form (hr ht))

/-- As for `slotRead`, the definition is opened over an arbitrary `rd`. -/
theorem restoreGroup_form {part slot core : Nat} {sl : SaveSlot} {gr : Grid} (h : FormAt c s) :
    FormAt c (restoreGroup s part slot core sl gr).2 := by
  have hr {u off n} (hu : FormAt c u) : FormAt c (slotRead u part slot off n).2 := slotRead_form hu
  obtain ⟨rd, hrd⟩ : ∃ rd, rd = slotRead := ⟨slotRead, rfl⟩
  obtain ⟨f, hf⟩ : ∃ f, f = restoreGroup := ⟨restoreGroup, rfl⟩
  rw [← hf]
  delta restoreGroup at hf
  rw [← hrd] at hf hr
  subst hf
  exact invalidateL1_form (settleRecords_form (readConts_form (modGroup_form (readWarps_form (modCore_form
    (readKinds_form (hr (hr h))))))))

theorem restoreWarp_form {part slot core : Nat} {sl : SaveSlot} {gr : Grid} (h : FormAt c s) :
    FormAt c (restoreWarp s part slot core sl gr) := by
  fun_cases restoreWarp s part slot core sl gr
  grind [invalidateL1_form, settleRecords_form, readWarps_form]

theorem restoreSet_form {part : Nat} {gr : Grid} {sl : SaveSlot} {at_ : List (Nat × Nat)} (h : FormAt c s) :
    FormAt c (restoreSet s part gr sl at_) := by
  have hr {u slot core sl} (hu : FormAt c u) : FormAt c (restoreGroup u part slot core sl gr).2 := restoreGroup_form hu
  obtain ⟨rd, hrd⟩ : ∃ rd, rd = restoreGroup := ⟨restoreGroup, rfl⟩
  obtain ⟨f, hf⟩ : ∃ f, f = restoreSet := ⟨restoreSet, rfl⟩
  rw [← hf]
  delta restoreSet at hf
  rw [← hrd] at hf hr
  subst hf
  refine joinSet_form (foldl_fst_form (fun ht => ?_) h)
  exact hr ht

theorem execGroupRestore_form {part slot core : Nat} {t : State}
    (h : FormAt c s) (e : execGroupRestore part slot core s = .next t) : FormAt c t := by
  unfold execGroupRestore at e
  grind [Iss.next_form, restoreWarp_form, restoreSet_form]

end Sys2Proof.Machine

/-! ### Streams, tiles and trap instructions -/

namespace Sys2Proof.Machine

variable {c : Cur} {s : State}

theorem execNoOperation_kept {t : State} (h : FormAt c s) (e : execNoOperation s = .next t) : FormAt .idle t := by
  unfold execNoOperation at e
  split at e
  · cases e
    exact ⟨h.1, rfl⟩
  · cases e

theorem execStreamRowFetch_form {lc st : Nat} {t : State}
    (h : FormAt c s) (e : execStreamRowFetch lc st s = .next t) : FormAt c t := by
  unfold execStreamRowFetch at e
  grind [readN_form, Iss.next_form, modLine_form]

theorem landRow_form {lc st : Nat} {t : Stream} {row : List Half} (h : FormAt c s) :
    FormAt c (landRow s lc st t row) := by
  fun_cases landRow s lc st t row
  grind [modLine_form]

theorem answerRow_form {lc st hn : Nat} {t : Stream} {w : RowWrite} (h : FormAt c s) :
    FormAt c (answerRow s lc st hn t w) := by
  fun_cases answerRow s lc st hn t w <;> grind [writeN_form, modLine_form, flushEvents_form, trapEvent_form]

theorem answerLate_form {lc i : Nat} (h : FormAt c s) : FormAt c (answerLate s lc i) := by
  fun_cases answerLate s lc i <;> grind [writeN_form, modLine_form, flushEvents_form, trapEvent_form]

theorem execStreamRowAnswer_form {lc st : Nat} {t : State}
    (h : FormAt c s) (e : execStreamRowAnswer lc st s = .next t) : FormAt c t := by
  unfold execStreamRowAnswer at e
  grind [Iss.next_form, landRow_form, answerRow_form, answerLate_form]

theorem execSuspension_form {lc : Nat} {t : State}
    (h : FormAt c s) (e : execSuspension lc s = .next t) : FormAt c t := by
  cases e
  exact h

theorem execResumption_form {lc : Nat} {t : State}
    (h : FormAt c s) (e : execResumption lc s = .next t) : FormAt c t := by
  cases e
  exact h

theorem trapBody_form {f : Fields} {x : Iss} (h : FormAt c s) : FormAt c (trapBody f x s) := by
  fun_cases trapBody f x s <;> grind [Iss.next_form, Iss.trap_form]

theorem tretBody_form {f : Fields} {x : Iss} (h : FormAt c s) : FormAt c (tretBody f x s) := by
  fun_cases tretBody f x s <;> grind [Iss.mod_form, Iss.next_form, Iss.illegal_form, EngAt.mod_form]

theorem trdBody_form {f : Fields} {x : Iss} (h : FormAt c s) : FormAt c (trdBody f x s) := by
  fun_cases trdBody f x s <;> grind [Iss.mod_form, Iss.next_form, EngAt.mod_form]

theorem twrBody_form {f : Fields} {x : Iss} (h : FormAt c s) : FormAt c (twrBody f x s) := by
  fun_cases twrBody f x s <;> grind [Iss.mod_form, Iss.next_form, EngAt.mod_form]

theorem bptBody_form {f : Fields} {x : Iss} (h : FormAt c s) : FormAt c (bptBody f x s) := by
  fun_cases bptBody f x s <;> grind [Iss.mod_form, Iss.next_form, haltUnit_form, EngAt.mod_form]

theorem execMatrixEntryCompletion_form {lc : Nat} {t : State}
    (h : FormAt c s) (e : execMatrixEntryCompletion lc s = .next t) : FormAt c t := by
  unfold execMatrixEntryCompletion at e
  grind [Iss.next_form, modLine_form]

end Sys2Proof.Machine

/-! ### What an instruction leaves -/

namespace Sys2Proof.Machine

variable {s t : State} {c : Cur} {i : Instr}

theorem execYield_kept {f : Fields} (h : FormAt c s) (e : execYield f s = .next t) : FormAt .idle t := by
  refine issue_kept (fun ht => ?_) h e
  exact Iss.next_form (Iss.mod_form ht)

theorem execLdq_kept {f : Fields} (h : FormAt c s) (e : execLdq f s = .next t) : FormAt .idle t := by
  refine issue_kept (fun ht => ?_) h e
  exact ite_form (acquireBy_form (spadBody_form spadLoad_form ht)) (spadBody_form spadLoad_form ht)

theorem execStq_kept {f : Fields} (h : FormAt c s) (e : execStq f s = .next t) : FormAt .idle t := by
  refine issue_kept (fun ht => ?_) h e
  exact ite_form ht (spadBody_form spadStore_form ht)

theorem execSemadd_kept {f : Fields} (h : FormAt c s) (e : execSemadd f s = .next t) : FormAt .idle t :=
  issue_kept (semBody_form (fun ht => Iss.next_form (Iss.mod_form (modGroup_form ht)))) h e

theorem execSemwait_kept {f : Fields} (h : FormAt c s) (e : execSemwait f s = .next t) : FormAt .idle t :=
  issue_kept (semBody_form (fun ht => ite_form ht (Iss.next_form (Iss.mod_form ht)))) h e

theorem execSemrd_kept {f : Fields} (h : FormAt c s) (e : execSemrd f s = .next t) : FormAt .idle t :=
  issue_kept (semBody_form (fun ht => Iss.next_form (Iss.mod_form ht))) h e

theorem execAccz_kept {f : Fields} (h : FormAt c s) (e : execAccz f s = .next t) : FormAt .idle t := by
  refine issue_kept (fun ht => ?_) h e
  exact ite_form (enqueue_form ht) (Iss.next_form ht)

theorem execAccrd_kept {f : Fields} (h : FormAt c s) (e : execAccrd f s = .next t) : FormAt .idle t := by
  refine issue_kept (fun ht => ?_) h e
  dsimp only
  split
  · exact Iss.next_form ht
  · split
    · exact ht
    · split
      · exact reportMatrix_form ht
      · exact Iss.next_form (Iss.mod_form ht)

theorem execAccwr_kept {f : Fields} (h : FormAt c s) (e : execAccwr f s = .next t) : FormAt .idle t := by
  refine issue_kept (fun ht => ?_) h e
  dsimp only
  split
  · exact Iss.next_form ht
  · exact enqueue_form ht

theorem execAccst_kept {f : Fields} (h : FormAt c s) (e : execAccst f s = .next t) : FormAt .idle t := by
  refine issue_kept (fun ht => ?_) h e
  refine ite_form (Iss.next_form ht) (ite_form (Iss.illegal_form ht) (ite_form (Iss.trap_form ht) ?_))
  split
  · exact ite_form ht (reportMatrix_form ht)
  · exact enqueue_form ht

theorem execMwait_kept {f : Fields} (h : FormAt c s) (e : execMwait f s = .next t) : FormAt .idle t := by
  refine issue_kept (fun ht => ?_) h e
  exact ite_form (Iss.next_form ht) (ite_form ht (ite_form (reportMatrix_form ht) (Iss.next_form ht)))

theorem execEdge_kept {f : Fields} (h : FormAt c s) (e : execEdge f s = .next t) : FormAt .idle t := by
  refine issue_kept (fun ht => ?_) h e
  dsimp only
  split
  · exact Iss.next_form ht
  · exact ite_form (Iss.illegal_form ht) (enqueue_form ht)

theorem execMstat_kept {f : Fields} (h : FormAt c s) (e : execMstat f s = .next t) : FormAt .idle t := by
  refine issue_kept (fun ht => ?_) h e
  dsimp only
  split
  · exact Iss.next_form ht
  · exact Iss.next_form (Iss.mod_form ht)

/-- A Suric instruction, issued or waiting or trapping, is over with its step. -/
theorem exec_suric_kept (hi : (suricOf i).isSome = true)
    (h : FormAt c s) (e : exec i s = .next t) : FormAt .idle t := by
  cases i
  case iadd | iaddI | isub | imul | imulI | imulh | imad | imadw | imin | imax | iabsd | lop3 | shl | shlI | shr
      | shrI | shra | shraI | shf | bfx | bfxI | bfi | popc | clz | brev | prmt | iset | isetI | isel | lea | mov
      | movl | v2p | plop | fadd | fmul | ffma | fmin | fmax | fset | frnd | fclass | fscale | dadd | dmul | dfma
      | dset | f2f | f2i | i2f | fpack | funpk => exact issue_kept perLane_form h e
  case rdsr => exact issue_kept rdsrBody_form h e
  case p2v => exact issue_kept p2vBody_form h e
  case bra => exact issue_kept braBody_form h e
  case brx | ret => exact issue_kept brxBody_form h e
  case call => exact issue_kept callBody_form h e
  case exit => exact issue_kept exitBody_form h e
  case deferG | deferF => exact issue_kept deferBody_form h e
  case clasp => exact issue_kept claspBody_form h e
  case unclasp => exact issue_kept unclaspBody_form h e
  case launch | launchi => exact issue_kept launchBody_form h e
  case cwait => exact issue_kept cwaitBody_form h e
  case trap => exact issue_kept trapBody_form h e
  case tret => exact issue_kept tretBody_form h e
  case trd => exact issue_kept trdBody_form h e
  case twr => exact issue_kept twrBody_form h e
  case bpt => exact issue_kept bptBody_form h e
  case mxexp | fil | shfl | redux | scanx | matchLanes => exact issue_kept collective_form h e
  case rcp | rsq | sqrt | ex2 | lg2 | tanh => exact issue_kept specialBody_form h e
  case sincos => exact issue_kept sincosBody_form h e
  case filt => exact issue_kept filtBody_form h e
  case vote => exact issue_kept voteBody_form h e
  case lrd => exact issue_kept lrdBody_form h e
  case lwr => exact issue_kept lwrBody_form h e
  case ld | ldr => exact issue_kept loadBody_form h e
  case st => exact issue_kept storeBody_form h e
  case ldc => exact issue_kept ldcBody_form h e
  case pref => exact issue_kept prefBody_form h e
  case cctl => exact issue_kept cctlBody_form h e
  case promote | demote => exact issue_kept promoteBody_form h e
  case atom | atomc | red | stc => exact issue_kept atomBody_form h e
  case fence => exact issue_kept fenceBody_form h e
  case fencex => exact issue_kept fencexBody_form h e
  case barGrp => exact issue_kept barGrpBody_form h e
  case barMeet | barPost | barAwait | barxMeet | barxPost | qbarMeet | qbarPost => exact issue_kept barObjBody_form h e
  case enq => exact issue_kept enqBody_form h e
  case tex => exact issue_kept texBody_form h e
  case texC => exact issue_kept texcBody_form h e
  case trace => exact issue_kept traceBody_form h e
  case doneBit => exact issue_kept doneBody_form h e
  case tilewait => exact issue_kept tilewaitBody_form h e
  case mma | mmaExp | mmaAbs => exact issue_kept mmaBody_form h e
  case pload => exact issue_kept ploadBody_form h e
  case ldsp => exact issue_kept (spadBody_form spadLoad_form) h e
  case stsp => exact issue_kept (spadBody_form spadStore_form) h e
  case atomsp => exact issue_kept (spadBody_form atomspLane_form) h e
  case nop => exact issue_kept Iss.next_form h e
  case yield => exact execYield_kept h e
  case ldq => exact execLdq_kept h e
  case stq => exact execStq_kept h e
  case semadd => exact execSemadd_kept h e
  case semwait => exact execSemwait_kept h e
  case semrd => exact execSemrd_kept h e
  case accz => exact execAccz_kept h e
  case accrd => exact execAccrd_kept h e
  case accwr => exact execAccwr_kept h e
  case accst => exact execAccst_kept h e
  case mwait => exact execMwait_kept h e
  case edge => exact execEdge_kept h e
  case mstat => exact execMstat_kept h e
  all_goals cases hi

def isSlotInstr (i : Instr) : Bool := decide (i = .noOperation) || (slotKind i).isSome

/-- A slot instruction is over with its turn in the bundle. -/
theorem exec_slot_kept (hi : isSlotInstr i = true) (h : FormAt c s) (e : exec i s = .next t) : FormAt .idle t := by
  cases i
  case kaddReg | kaddImm | ksubReg | ksubImm | kmulReg | kmulImm | kmov | kldi | kldiHi | kld | kst | kcmpReg
      | kcmpImm | br | brc | loopReg | loopImm | halt | toksendReg | toksendImm | tokrecv | bandchk | lktrd | evt
      | tadd | tsub | tmul | tmac | tmin | tmax | tabsd | tcmp | tsel | tcvt | tshift | tand | tor | tlut | rrot | rbc
      | rred | crot | cbc | cred | txmv | tgath | tmatq | tmatr | sbind | srdTile | srdWeight | swrTile | swrStream
      | sflush => unfold exec at e; exact slotIssue_kept h e
  case noOperation => exact execNoOperation_kept h e
  all_goals cases hi

/-- An event leaves nothing issued where nothing was. -/
theorem exec_event_kept (hi : isEvent i = true) (h : FormAt .idle s) (e : exec i s = .next t) : FormAt .idle t := by
  cases i
  case loadDataReturn => exact execLoadDataReturn_form h e
  case storeAcceptance => exact execStoreAcceptance_form h e
  case atomicReply => exact execAtomicReply_form h e
  case texSampleReturn => exact execTexSampleReturn_form h e
  case traceResult => exact execTraceResult_form h e
  case promoteCompletion => exact execPromoteCompletion_form h e
  case ploadCompletion => exact execPloadCompletion_form h e
  case queueEntryStart => exact execQueueEntryStart_form h e
  case queueEntryCompletion => exact execQueueEntryCompletion_form h e
  case accstRowAnswer => exact execAccstRowAnswer_form h e
  case memoryAccess => exact execMemoryAccess_form h e
  case rowPromotion => exact execRowPromotion_form h e
  case rowDemotion => exact execRowDemotion_form h e
  case automaticPromotion => exact execAutomaticPromotion_form h e
  case seqRenumbering => exact execSeqRenumbering_form h e
  case refresh chan => exact execRefresh_form (chan := chan) h e
  case patrolScrub => exact execPatrolScrub_form h e
  case channelReset => exact execChannelReset_form h e
  case channelResetComplete => exact execChannelResetComplete_form h e
  case bandwidthWindow => exact execBandwidthWindow_form h e
  case homeSliceAccess => exact execHomeSliceAccess_form h e
  case l2Fill => exact execL2Fill_form h e
  case pageWalk => exact execPageWalk_form h e
  case linkTraining => exact execLinkTraining_form h e
  case flitReplay => exact execFlitReplay_form h e
  case portRetrain => exact execPortRetrain_form h e
  case maintenanceNop => exact execMaintenanceNop_form h e
  case invRange => exact execInvRange_form h e
  case invAsid => exact execInvAsid_form h e
  case invPart => exact execInvPart_form h e
  case mqtailWrite => exact execMqtailWrite_form h e
  case mqctlWrite => exact execMqctlWrite_form h e
  case faultReservationRetry => exact execFaultReservationRetry_form h e
  case copy => exact execCopy_form h e
  case affine => exact execAffine_form h e
  case gather => exact execGather_form h e
  case scatter => exact execScatter_form h e
  case ragged => exact execRagged_form h e
  case fill => exact execFill_form h e
  case iuload => exact execIuload_form h e
  case scadd => exact execScadd_form h e
  case bin => exact execBin_form h e
  case hist => exact execHist_form h e
  case chunkCompletion => exact execChunkCompletion_form h e
  case commandCompletion => exact execCommandCompletion_form h e
  case ringResume => exact execRingResume_form h e
  case gridDispatch => exact execGridDispatch_form h e
  case lqtailWrite => exact execLqtailWrite_form h e
  case lqstatWrite => exact execLqstatWrite_form h e
  case groupPlacement => exact execGroupPlacement_form h e
  case placementTimeout => exact execPlacementTimeout_form h e
  case groupRetire => exact execGroupRetire_form h e
  case gridCompletion => exact execGridCompletion_form h e
  case continuationWarpFormation => exact execContinuationWarpFormation_form h e
  case spillReturn => exact execSpillReturn_form h e
  case handlerEntry => exact execHandlerEntry_form h e
  case fatalHalt => exact execFatalHalt_form h e
  case debugRequest => exact execDebugRequest_form h e
  case gridAbort => exact execGridAbort_form h e
  case engineFaultTrap => exact execEngineFaultTrap_form h e
  case impreciseRecordWrite => exact execImpreciseRecordWrite_form h e
  case swapOut => exact execSwapOut_form h e
  case groupSave => exact execGroupSave_form h e
  case groupRestore => exact execGroupRestore_form h e
  case replay => exact execReplay_form h e
  case deliver => exact execDeliver_form h e
  case abort => exact execAbort_form h e
  case hold => exact execHold_form h e
  case release => exact execRelease_form h e
  case holdCompletion => exact execHoldCompletion_form h e
  case assign => exact execAssign_form h e
  case cancel => exact execCancel_form h e
  case enable => exact execEnable_form h e
  case releaseCore => exact execReleaseCore_form h e
  case releaseChannel => exact execReleaseChannel_form h e
  case slcommit => exact execSlcommit_form h e
  case chcommit => exact execChcommit_form h e
  case blockMove => exact execBlockMove_form h e
  case sweep => exact execSweep_form h e
  case drainComplete => exact execDrainComplete_form h e
  case zeroingComplete => exact execZeroingComplete_form h e
  case partFatal => exact execPartFatal_form h e
  case chmapWrite => exact execChmapWrite_form h e
  case hdownEnable => exact execHdownEnable_form h e
  case hdownDisable => exact execHdownDisable_form h e
  case registerWrite => exact execRegisterWrite_form h e
  case notificationBatch => exact execNotificationBatch_form h e
  case notificationInterval => exact execNotificationInterval_form h e
  case rdmaWrite => exact execRdmaWrite_form h e
  case rdmaWriteWithImmediate => exact execRdmaWriteWithImmediate_form h e
  case rdmaRead => exact execRdmaRead_form h e
  case qpContextEnable => exact execQpContextEnable_form h e
  case fabricAccessArrival => exact execFabricAccessArrival_form h e
  case attestationRequest => exact execAttestationRequest_form h e
  case coldReset => exact execColdReset_form e
  case warmReset => exact execWarmReset_form e
  case moduleFatalError => exact execModuleFatalError_form h e
  case thermalLimit => exact execThermalLimit_form h e
  case frameStart => exact execFrameStart_form h e
  case hdcfgPoll => exact execHdcfgPoll_form h e
  case loadRequest => exact execLoadRequest_form h e
  case loaded => exact execLoaded_form h e
  case locketLatch => exact execLocketLatch_form h e
  case bandStart => exact execBandStart_form h e
  case bandAbandonment => exact execBandAbandonment_form h e
  case fallback => exact execFallback_form h e
  case relfWrite => exact execRelfWrite_form h e
  case streamRowFetch => exact execStreamRowFetch_form h e
  case streamRowAnswer => exact execStreamRowAnswer_form h e
  case matrixEntryCompletion => exact execMatrixEntryCompletion_form h e
  case suspension => exact execSuspension_form h e
  case resumption => exact execResumption_form h e
  case unreachableNodeFault => exact execUnreachableNodeFault_form h e
  case requesterRetry => exact execRequesterRetry_form h e
  all_goals cases hi

end Sys2Proof.Machine

/-! ### The decoders, the turns of a quadrant and of a line core, a step -/

namespace Sys2Proof.Machine

variable {s t : State} {c : Cur} {i : Instr}

theorem all_ite {α : Type} {p : α → Bool} {b : Prop} [Decidable b] {x y : Option α} (hx : x.all p = true)
    (hy : y.all p = true) : (if b then x else y).all p = true := by
  split
  · exact hx
  · exact hy

theorem mkSuric_isSuric (op : Nat) (f : Fields) : (mkSuric op f).all (fun i => (suricOf i).isSome) = true := by
  unfold mkSuric
  split
  all_goals
    repeat' apply all_ite
    all_goals rfl

theorem decodeSuric_isSuric {w lit : DWord} (h : decodeSuric w lit = .ok i) : (suricOf i).isSome = true := by
  unfold decodeSuric at h
  split at h
  · cases h
  · dsimp only at h
    split at h
    · split at h
      · next e =>
        cases h
        have hall := mkSuric_isSuric (opcodeOf w) (fieldsOf w lit)
        rw [e] at hall
        exact hall
      · cases h
    · cases h

theorem decodeScalarRaw_isSlot (w : Word) : (decodeScalarRaw w).all isSlotInstr = true := by
  unfold decodeScalarRaw
  repeat' apply all_ite
  all_goals rfl

theorem decodeTileRaw_isSlot (w : Word) : (decodeTileRaw w).all isSlotInstr = true := by
  unfold decodeTileRaw
  repeat' apply all_ite
  all_goals rfl

theorem decodeStreamRaw_isSlot (w : Word) : (decodeStreamRaw w).all isSlotInstr = true := by
  unfold decodeStreamRaw
  repeat' apply all_ite
  all_goals rfl

theorem checkSlot_isSlot {o : Option Instr} (ho : o.all isSlotInstr = true) : (checkSlot o).all isSlotInstr = true := by
  cases o with
  | none => rfl
  | some j => exact all_ite ho rfl

theorem decodeSlot_isSlot {k : Nat} {w : Word} (h : decodeSlot k w = some i) : isSlotInstr i = true := by
  have hall : (decodeSlot k w).all isSlotInstr = true :=
    all_ite (checkSlot_isSlot (decodeScalarRaw_isSlot w))
      (all_ite (checkSlot_isSlot (decodeStreamRaw_isSlot w)) (checkSlot_isSlot (decodeTileRaw_isSlot w)))
  rw [h] at hall
  exact hall

/-! ### A bundle and an engine's turn -/

theorem runSlots_kept {lc e k : Nat} {ws : List Word} (h : FormAt .idle s) (hr : runSlots lc e k ws s = .next t) :
    FormAt .idle t := by
  induction ws generalizing k s with
  | nil =>
    cases hr
    exact h
  | cons w ws ih =>
    unfold runSlots at hr
    split at hr
    · exact ih (modLine_form h) hr
    · next hd =>
      have hc : FormAt (.slot lc e k) { s with cur := .slot lc e k } := ⟨h.1, rfl⟩
      split at hr
      · next hx => exact ih (exec_slot_kept (decodeSlot_isSlot hd) hc hx) hr
      · next hn => exact absurd hr (hn t)

theorem issueBundle_kept {lc e : Nat} (h : FormAt .idle s) (hr : issueBundle s lc e = .next t) : FormAt .idle t := by
  unfold issueBundle at hr
  dsimp only at hr
  split at hr
  · next hx =>
    have hu := runSlots_kept (modLine_form h) hx
    cases hr
    split
    · exact commitBundle_form hu
    · exact modLine_form hu
    · exact modLine_form hu
  · next hn => exact absurd hr (hn t)

theorem lineTurn_kept {lc : Nat} (h : FormAt .idle s) (hr : lineTurn s lc = .next t) : FormAt .idle t := by
  have hfin {u e f} (hu : FormAt .idle u) : FormAt .idle (if 3 ≤ e then endCycle u lc else modLine u lc f) :=
    ite_form (endCycle_form hu) (modLine_form hu)
  unfold lineTurn at hr
  dsimp only at hr
  split at hr
  · split at hr
    · next hx =>
      cases hr
      exact hfin (issueBundle_kept h hx)
    · next hn => exact absurd hr (hn t)
  · cases hr
    exact hfin h

/-! ### A path and a quadrant's turn -/

/-- What was fetched is a Suric instruction, or no instruction. -/
def Found.isSuric : Found → Bool
  | .ok i _ _ _ _ => (suricOf i).isSome
  | _ => true

theorem foundOf_isSuric (w lit : DWord) : (foundOf w lit).isSuric = true := by
  unfold foundOf
  split
  · next e => exact decodeSuric_isSuric e
  · rfl

theorem fetchAt_isSuric (s : State) (core : Nat) (w : Warp) (pc : VA) : (fetchAt s core w pc).1.isSuric = true := by
  unfold fetchAt
  split
  · rfl
  · dsimp only
    split
    · rfl
    · split
      · exact foundOf_isSuric _ _
      · split
        · rfl
        · exact foundOf_isSuric _ _

theorem runFound_kept {core ws : Nat} {p : PathAt} {fo : Found} (hfo : fo.isSuric = true) (h : FormAt .idle s)
    (e : runFound s core ws p fo = .next t) : FormAt .idle t := by
  unfold runFound at e
  split at e
  · exact exec_suric_kept hfo (setCur_form h) e
  · cases e
    exact takeTrap_form h
  · cases e
    exact reserveFaults_form h
  · cases e
    exact takeTrap_form h

theorem countIssue_form {core ws : Nat} {fo : Found}
    (h : FormAt c s) : FormAt c (countIssue s core ws fo) := modWarp_form h

theorem issueOne_kept {core ws : Nat} {p : PathAt} (h : FormAt .idle s) (e : issueOne s core ws p = .next t) :
    FormAt .idle t := by
  unfold issueOne at e
  split at e
  next fo u hf =>
  have hu : FormAt .idle u := (fetchAt_form h).of_eq hf
  have hfo := fetchAt_isSuric s core (warpAt s core ws) p.pc
  rw [hf] at hfo
  split at e
  · next hx =>
    have hv := runFound_kept hfo (countIssue_form hu) hx
    cases e
    exact ite_form (modWarp_form hv) hv
  · next hn => exact absurd e (hn t)

theorem thenPair_kept {core ws : Nat} {mask : Word} {r : Host.Outcome State Fault Refusal}
    (hr : ∀ {u}, r = .next u → FormAt .idle u) (e : thenPair core ws mask r = .next t) : FormAt .idle t := by
  unfold thenPair at e
  split at e
  · cases e
    exact (hr rfl).update rfl
  · exact hr e

theorem issuePair_kept {core ws : Nat} {a b : PathAt} (h : FormAt .idle s) (e : issuePair s core ws a b = .next t) :
    FormAt .idle t := by
  unfold issuePair at e
  extract_lets lo hi r at e
  split at e
  · exact thenPair_kept (issueOne_kept h) e
  · split at e
    · exact issueOne_kept h e
    · exact thenPair_kept (issueOne_kept h) e

theorem countWaits_form {core ws : Nat} {issued ready : Word} (h : FormAt c s) :
    FormAt c (countWaits s core ws issued ready) := modWarp_form h

theorem wakeObjs_form {core : Nat} (h : FormAt c s) : FormAt c (wakeObjs s core) := modCore_form h

theorem turnOf_form {core q : Nat} (h : FormAt c s) : FormAt c (turnOf s core q) := modCore_form h

theorem issueQuadrant_kept {core q : Nat}
    (h : FormAt .idle s) (e : issueQuadrant s core q = .next t) : FormAt .idle t := by
  unfold issueQuadrant at e
  have hu : FormAt .idle (wakeObjs (drainImp (turnOf s core q) core) core) := wakeObjs_form (drainImp_form (turnOf_form h))
  dsimp only at e
  split at e
  · cases e
    exact hu
  · split at e
    · cases e
      exact modCore_form hu
    · split at e
      · exact issueOne_kept (countWaits_form (modCore_form hu)) e
      · exact issuePair_kept (countWaits_form (modCore_form hu)) e

theorem issueSecond_kept {core ws : Nat} {mask : Word}
    (h : FormAt .idle s) (e : issueSecond s core ws mask = .next t) :
    FormAt .idle t := by
  unfold issueSecond at e
  split at e
  · exact issueOne_kept h e
  · cases e
    exact h

/-! ### A step -/

theorem upsetSpad_form {core g word bits : Nat} (h : FormAt c s) : FormAt c (upsetSpad s core g word bits) :=
  ite_form (modCore_form h) (modGroup_form h)

theorem upsetLine_form {lc kind row : Nat} (h : FormAt c s) : FormAt c (upsetLine s lc kind row) := modLine_form h

theorem upsetBlock_form {slice part atag vb : Nat} (h : FormAt c s) : FormAt c (upsetBlock s slice part atag vb) := by
  unfold upsetBlock
  split
  · exact h
  · next b _ =>
    have hp := performAll_form (b := b) (p := fun _ => true) h
    split
    next e =>
    rw [e] at hp
    have hu := l2Drop_form (slice := slice) (pid := part) (atag := atag) (vb := vb) hp
    exact ite_form (modPart_form hu) hu

theorem perform_kept {a : Act} (h : FormAt .idle s) (e : perform a s = .next t) : FormAt .idle t := by
  unfold perform at e
  split at e
  · cases e
    exact h
  · cases a with
    | issue core q => exact issueQuadrant_kept h e
    | pair core ws mask => exact issueSecond_kept h e
    | line lc => exact lineTurn_kept h e
    | event i =>
      dsimp only at e
      split at e
      · next hi => exact exec_event_kept hi h e
      · cases e
        exact h
    | idleCore core n => cases e; exact drainImp_form (modCore_form h)
    | scanLine hd => cases e; exact scanLine_form h
    | upsetDram chan bank row blk n => cases e; exact ite_form (h.update rfl) h
    | upsetMeta chan n => cases e; exact metaUpset_form h
    | linkAck link n => cases e; exact linkAck_form h
    | upsetSpad core g word bits => cases e; exact upsetSpad_form h
    | upsetLine lc kind row => cases e; exact upsetLine_form h
    | upsetBlock slice part atag vb => cases e; exact upsetBlock_form h
    | hostAck part n => cases e; exact modPart_form h
    | rdmaOther part qp n => cases e; exact rdmaOther_form h
    | clock part n => cases e; exact modPart_form h

theorem step_kept (h : FormAt .idle s) (e : step s = .next t) : FormAt .idle t := by
  unfold step at e
  split at e
  · cases e
    exact h.update rfl
  · exact perform_kept (h.update rfl) e

/-- Settles O60, by the form lemmas of the operations, up to the step. -/
theorem everyStepKeepsTheForm : Obligations.EveryStepKeepsTheForm := by
  unfold Obligations.EveryStepKeepsTheForm
  intro s t h e
  exact step_kept h e

end Sys2Proof.Machine

namespace Sys2Proof.Machine

/-! ### O59: the reset state -/

theorem resWord_reset (k i : Nat) : resWord State.reset k i = 0#32 := by
  unfold resWord
  split
  · rfl
  · split
    · rfl
    · rfl

theorem resState_reset (k i : Nat) : resState State.reset k i = rFREE := by
  rw [resState, resWord_reset]
  rfl

theorem enableBit_zero : wbit 0#32 31 = false := by decide

/-- The windows of reset hold FBCTL, NQCTL and NQCOAL alone. -/
theorem win32_reset_of_ne (p : Nat) {off : Nat} (hf : off / 4 ≠ oFBCTL / 4) (hq : off / 4 ≠ oNQCTL / 4)
    (hc : off / 4 ≠ oNQCOAL / 4) : win32 State.reset p off = 0 := by
  have hw : getD 0#32 Part.init.win (off / 4) = 0#32 := by
    simp only [oFBCTL, oNQCTL, oNQCOAL] at hf hq hc
    simp only [Part.init, getD, lookup]
    rw [if_neg (Ne.symm hf), if_neg (Ne.symm hq), if_neg (Ne.symm hc)]
    rfl
  calc win32 State.reset p off = (getD 0#32 Part.init.win (off / 4)).toNat := rfl
    _ = 0 := by rw [hw]; rfl

theorem kept_reset : Kept State.reset := ⟨rfl, rfl⟩

/-- Settles O59, by the fields of the reset state. -/
theorem resetLeavesEverythingFree : Obligations.ResetLeavesEverythingFree := by
  refine ⟨resState_reset, ?chan, ?head, ?group, ?busy, ?regs, fun p _ => win32_reset_of_ne p, ?cores, ?bytes, ?run, ?prom,
    rfl, rfl, rfl, rfl, rfl, kept_reset⟩
  case chan => exact fun _ => enableBit_zero
  case head => exact fun _ => enableBit_zero
  case group => exact fun _ => enableBit_zero
  case busy => exact fun _ => enableBit_zero
  case regs => exact fun _ => ⟨rfl, rfl, rfl⟩
  case cores => exact fun _ _ => ⟨rfl, rfl⟩
  case bytes => exact fun _ => rfl
  case run => exact fun _ => rfl
  case prom => exact fun _ _ _ => rfl

end Sys2Proof.Machine

namespace Sys2Proof.Machine

/-! ### O45: rows move whole -/

section
variable {α : Type}

/-- A table filtered by its keys. -/
theorem lookup_filter_key (p : Nat → Bool) (m : SMap α) (j : Nat) :
    lookup (m.filter fun e => p e.1) j = if p j then lookup m j else none := by
  induction m with
  | nil => simp
  | cons e m ih =>
    by_cases hp : p e.1 = true
    · rw [List.filter_cons, if_pos hp, lookup_cons, lookup_cons, ih]
      by_cases he : e.1 = j
      · simp [he, he ▸ hp]
      · simp [he]
    · rw [List.filter_cons, if_neg hp, lookup_cons, ih]
      by_cases he : e.1 = j
      · simp [he ▸ hp]
      · simp [he]

/-- A table without the keys of a range. -/
theorem lookup_outside (m : SMap α) (a b j : Nat) :
    lookup (m.filter fun e => !(decide (a ≤ e.1) && decide (e.1 < b))) j = if a ≤ j ∧ j < b then none else lookup m j := by
  refine (lookup_filter_key (fun k => !(decide (a ≤ k) && decide (k < b))) m j).trans ?_
  by_cases ha : a ≤ j
  · by_cases hb : j < b
    · simp [ha, hb]
    · simp [ha, hb]
  · simp [ha]

/-- A row's entries stand under the other row's keys. -/
theorem lookup_rowEntries (m : SMap α) (a b j : Nat) :
    lookup (rowEntries m a b) j = if b ≤ j ∧ j < b + 2048 then lookup m (j - b + a) else none := by
  unfold rowEntries
  induction m with
  | nil => simp
  | cons e m ih =>
    by_cases he : a ≤ e.1 ∧ e.1 < a + 2048
    · rw [List.filter_cons_of_pos (by simpa using he), List.map_cons, lookup_cons, lookup_cons, ih]
      by_cases hj : b ≤ j ∧ j < b + 2048
      · have hk : e.1 - a + b = j ↔ e.1 = j - b + a := by omega
        simp only [hj, hk, and_self, if_true]
      · have hk : e.1 - a + b ≠ j := by omega
        simp only [hj, hk, if_false]
    · rw [List.filter_cons_of_neg (by simpa using he), lookup_cons, ih]
      by_cases hj : b ≤ j ∧ j < b + 2048
      · have hk : e.1 ≠ j - b + a := by omega
        simp only [hj, hk, and_self, if_true, if_false]
      · simp only [hj, if_false]

theorem rising_rowEntries (m : SMap α) (a b : Nat) (h : rising m = true) : rising (rowEntries m a b) = true := by
  rw [rising_iff] at *
  refine List.pairwise_map.mpr ((h.filter _).imp_of_mem fun {x y} hx hy hxy => ?_)
  have hx' : a ≤ x.1 := by simpa using (And.left (by simpa using (List.mem_filter.mp hx).2))
  show x.1 - a + b < y.1 - a + b
  omega

/-- A table into which the entries of another were set. -/
theorem getD_foldl_setD [DecidableEq α] (d : α) (es m : SMap α) (j : Nat) (h : rising es = true) :
    getD d (es.foldl (fun acc e => setD d acc e.1 e.2) m) j = (lookup es j).getD (getD d m j) := by
  rw [rising_iff] at h
  induction es generalizing m with
  | nil => rfl
  | cons e es ih =>
    obtain ⟨he, hes⟩ := List.pairwise_cons.mp h
    rw [List.foldl_cons, ih _ hes, getD_setD, lookup_cons]
    by_cases hj : e.1 = j
    · have hn : lookup es j = none := lookup_eq_none _ _ fun x hx => by have := he x hx; omega
      simp [hj, hn]
    · simp [hj, Ne.symm hj]
end

/-! What the operations on rows leave: outside the memory banks nothing changes. -/

section
variable {s t u : State} {chan bank row src dst p k : Nat}

theorem OnlyDram.trans (h : OnlyDram s t) (h' : OnlyDram t u) : OnlyDram s u := by
  unfold OnlyDram at *
  rw [← h, ← h']

theorem OnlyDram.withDram (s : State) (d : Dram) : OnlyDram s { s with dram := d } := rfl

theorem copyRow_onlyDram (s : State) (chan bank src dst : Nat) : OnlyDram s (copyRow s chan bank src dst) := rfl

theorem nextSeq_onlyDram (s : State) (chan bank : Nat) : OnlyDram s (nextSeq s chan bank).2 := by
  unfold nextSeq
  split
  · rfl
  · rfl

theorem fillSlot_onlyDram (s : State) (chan bank row k p : Nat) : OnlyDram s (fillSlot s chan bank row k p) :=
  ((nextSeq_onlyDram s chan bank).trans (copyRow_onlyDram ..)).trans (.withDram ..)

theorem promoteRow_onlyDram (s : State) (chan bank row p : Nat) : OnlyDram s (promoteRow s chan bank row p).2 := by
  unfold promoteRow
  dsimp only
  split
  · rfl
  split
  · rfl
  split
  · split
    · rfl
    · exact (nextSeq_onlyDram s chan bank).trans (.withDram ..)
  split
  · rfl
  split
  · exact fillSlot_onlyDram ..
  split
  · rfl
  · split
    · exact ((copyRow_onlyDram ..).trans (.withDram ..)).trans (fillSlot_onlyDram ..)
    · exact (OnlyDram.withDram ..).trans (fillSlot_onlyDram ..)

/-! What they do to the banks. -/

/-- Below its wrap the counter gives its value and counts on. -/
theorem nextSeq_below (h : getD 0 s.dram.pctr (chan * 32 + bank) < 2 ^ 40 - 1) :
    nextSeq s chan bank = (getD 0 s.dram.pctr (chan * 32 + bank), { s with dram := { s.dram with
      pctr := setD 0 s.dram.pctr (chan * 32 + bank) (getD 0 s.dram.pctr (chan * 32 + bank) + 1) } }) := by
  unfold nextSeq
  rw [if_neg (Nat.not_le.mpr h)]

/-- A copied row: the bytes of the source stand in the destination, the others as they were. -/
theorem bankByte_copyRow (hw : Memory.wf s.dram.mem = true) (a : Nat) :
    bankByte (copyRow s chan bank src dst) a =
      if rowKey chan bank dst 0 ≤ a ∧ a < rowKey chan bank dst 0 + 2048 then
        bankByte s (a - rowKey chan bank dst 0 + rowKey chan bank src 0)
      else bankByte s a := by
  have hr : rising s.dram.mem = true := (Bool.and_eq_true_iff.mp hw).1
  have hf := getD_foldl_setD 0#8 _ (withoutRow s.dram.mem (rowKey chan bank dst 0)) a
    (rising_rowEntries s.dram.mem (rowKey chan bank src 0) (rowKey chan bank dst 0) hr)
  refine hf.trans ?_
  rw [lookup_rowEntries, getD, withoutRow, lookup_outside]
  by_cases h : rowKey chan bank dst 0 ≤ a ∧ a < rowKey chan bank dst 0 + 2048
  · rw [if_pos h, if_pos h, if_pos h]
    rfl
  · rw [if_neg h, if_neg h, if_neg h]
    rfl

theorem rowKey_add (chan bank row o : Nat) : rowKey chan bank row o = rowKey chan bank row 0 + o := by
  unfold rowKey
  rw [Nat.add_zero]

theorem bankByte_copyRow_dst (hw : Memory.wf s.dram.mem = true) {o : Nat} (ho : o < 2048) :
    bankByte (copyRow s chan bank src dst) (rowKey chan bank dst o) = bankByte s (rowKey chan bank src o) := by
  rw [bankByte_copyRow hw, rowKey_add _ _ dst o, if_pos (by omega), Nat.add_sub_cancel_left, rowKey_add _ _ src o, Nat.add_comm]

theorem bankByte_copyRow_other (hw : Memory.wf s.dram.mem = true) {a : Nat}
    (ha : ¬ (rowKey chan bank dst 0 ≤ a ∧ a < rowKey chan bank dst 2048)) :
    bankByte (copyRow s chan bank src dst) a = bankByte s a := by
  rw [bankByte_copyRow hw, if_neg (rowKey_add _ _ dst 2048 ▸ ha)]

theorem farRow_range (h : farRow chan bank row = true) : 1024 ≤ row := by
  unfold farRow at h
  simp only [Bool.and_eq_true, decide_eq_true_eq] at h
  exact h.1.2

/-- A far row in no slot goes into the first free one. -/
theorem promoteRow_free (hd : chanDraining s chan = false) (hrow : 1024 ≤ row) (hs : promSlot s chan bank row = none)
    (hp : p < 3) (hk : k < 512) (hfree : lookup s.dram.ptag (ptagKey chan bank k) = none)
    (hfirst : ∀ j, j < k → lookup s.dram.ptag (ptagKey chan bank j) ≠ none) :
    (promoteRow s chan bank row p).2 = fillSlot s chan bank row k p := by
  have htag : (bankTags s chan bank).find? (fun e => e.2.frow == row) = none := Option.map_eq_none_iff.mp hs
  have hslot : (upto 512).find? (fun t => (lookup s.dram.ptag (ptagKey chan bank t)).isNone) = some k := by
    rw [upto, List.find?_range_eq_some]
    refine ⟨by simp [hfree], by simpa using hk, fun j hj => ?_⟩
    simpa [Option.ne_none_iff_isSome] using hfirst j hj
  have hp3 : ¬ (p = 3 ∧ ((bankTags s chan bank).filter (fun e => e.2.pri == 3)).length ≥ 448) := by omega
  unfold promoteRow
  dsimp only
  rw [hd, if_neg Bool.false_ne_true, if_neg (Nat.not_lt.mpr hrow), htag]
  dsimp only
  rw [if_neg hp3, hslot]

/-- The filled slot: its tag takes the counter's value. -/
theorem fillSlot_below (h : getD 0 s.dram.pctr (chan * 32 + bank) < 2 ^ 40 - 1) :
    (fillSlot s chan bank row k p).dram.ptag = put s.dram.ptag (ptagKey chan bank k)
      { dirty := false, pri := p, frow := row, seq := getD 0 s.dram.pctr (chan * 32 + bank) } := by
  unfold fillSlot
  rw [nextSeq_below h]
  rfl

theorem fillSlot_mem (h : getD 0 s.dram.pctr (chan * 32 + bank) < 2 ^ 40 - 1) :
    (fillSlot s chan bank row k p).dram.mem = (copyRow s chan bank row (512 + k)).dram.mem := by
  unfold fillSlot
  rw [nextSeq_below h]
  rfl

/-- A far row that a slot holds keeps its slot, at the higher priority. -/
theorem promoteRow_held (hd : chanDraining s chan = false) (hrow : 1024 ≤ row) (hs : promSlot s chan bank row = some k)
    (hp : p < 3) (h : getD 0 s.dram.pctr (chan * 32 + bank) < 2 ^ 40 - 1) :
    (promoteRow s chan bank row p).2.dram.mem = s.dram.mem ∧
    (promoteRow s chan bank row p).2.dram.ptag = adjust s.dram.ptag (ptagKey chan bank k)
      (fun e => { e with pri := max e.pri p, seq := getD 0 s.dram.pctr (chan * 32 + bank) }) := by
  obtain ⟨⟨k', old⟩, htag, rfl⟩ := Option.map_eq_some_iff.mp hs
  have hp3 : ¬ (p = 3 ∧ old.pri < 3 ∧ ((bankTags s chan bank).filter (fun e => e.2.pri == 3)).length ≥ 448) := by omega
  unfold promoteRow
  dsimp only
  rw [hd, if_neg Bool.false_ne_true, if_neg (Nat.not_lt.mpr hrow), htag]
  dsimp only
  rw [if_neg hp3, nextSeq_below h]
  exact ⟨rfl, rfl⟩

/-- The demotion of a row that a slot holds. -/
theorem demoteRow_held {e : PTag} (hs : promSlot s chan bank row = some k)
    (he : lookup s.dram.ptag (ptagKey chan bank k) = some e) :
    (demoteRow s chan bank row).2.dram.ptag = remove s.dram.ptag (ptagKey chan bank k) ∧
    (demoteRow s chan bank row).2.dram.mem =
      if e.dirty then (copyRow s chan bank (512 + k) row).dram.mem else s.dram.mem := by
  unfold demoteRow
  rw [hs]
  dsimp only
  rw [he]
  cases hd : e.dirty
  · simp [hd]
  · simp [hd, copyRow]

theorem demoteRow_onlyDram (s : State) (chan bank row : Nat) : OnlyDram s (demoteRow s chan bank row).2 := by
  unfold demoteRow
  split
  · rfl
  · dsimp only
    split
    · exact (copyRow_onlyDram ..).trans (.withDram ..)
    · exact .withDram ..

/-- A byte of a cleared channel reads zero, every other as before. -/
theorem bankByte_clearChannel (s : State) (chan a : Nat) :
    bankByte (clearChannel s chan) a = if rowKey chan 0 0 0 ≤ a ∧ a < rowKey (chan + 1) 0 0 0 then 0#8 else bankByte s a := by
  have hl := lookup_outside s.dram.mem (rowKey chan 0 0 0) (rowKey (chan + 1) 0 0 0) a
  refine (congrArg (·.getD 0#8) hl).trans ?_
  by_cases h : rowKey chan 0 0 0 ≤ a ∧ a < rowKey (chan + 1) 0 0 0
  · rw [if_pos h, if_pos h]
    rfl
  · rw [if_neg h, if_neg h]
    rfl

end

/-! The queue of automatic promotions plays no part in a promotion. -/

/-- The state with another queue of automatic promotions. -/
def withAutoq (s : State) (q : List (Nat × Nat × Nat × Nat)) : State := { s with dram := { s.dram with autoq := q } }

section
variable (s : State) (q : List (Nat × Nat × Nat × Nat)) (chan bank row src dst k p : Nat)

theorem nextSeq_withAutoq :
    nextSeq (withAutoq s q) chan bank = ((nextSeq s chan bank).1, withAutoq (nextSeq s chan bank).2 q) := by
  unfold nextSeq
  by_cases h : getD 0 s.dram.pctr (chan * 32 + bank) ≥ 2 ^ 40 - 1
  · rw [if_pos h, if_pos (show getD 0 (withAutoq s q).dram.pctr (chan * 32 + bank) ≥ 2 ^ 40 - 1 from h)]
    rfl
  · rw [if_neg h, if_neg (show ¬ getD 0 (withAutoq s q).dram.pctr (chan * 32 + bank) ≥ 2 ^ 40 - 1 from h)]
    rfl

theorem copyRow_withAutoq : copyRow (withAutoq s q) chan bank src dst = withAutoq (copyRow s chan bank src dst) q := rfl

theorem fillSlot_withAutoq : fillSlot (withAutoq s q) chan bank row k p = withAutoq (fillSlot s chan bank row k p) q := by
  unfold fillSlot
  rw [nextSeq_withAutoq]
  rfl

/-- The state without the tag of a slot. -/
def freeSlot : State := { s with dram := { s.dram with ptag := remove s.dram.ptag (ptagKey chan bank k) } }

theorem promoteRow_withAutoq :
    (promoteRow (withAutoq s q) chan bank row p).2 = withAutoq (promoteRow s chan bank row p).2 q := by
  have htags : bankTags (withAutoq s q) chan bank = bankTags s chan bank := rfl
  have hdrain : chanDraining (withAutoq s q) chan = chanDraining s chan := rfl
  have hptag : (withAutoq s q).dram.ptag = s.dram.ptag := rfl
  unfold promoteRow
  dsimp only
  rw [htags, hdrain, hptag]
  split
  · rfl
  split
  · rfl
  split
  · split
    · rfl
    · rw [nextSeq_withAutoq]
      rfl
  split
  · rfl
  split
  · exact fillSlot_withAutoq ..
  split
  · rfl
  · next t v _ =>
    split
    · exact fillSlot_withAutoq (freeSlot (copyRow s chan bank (512 + t) v.frow) chan bank t) ..
    · exact fillSlot_withAutoq (freeSlot s chan bank t) ..

end

/-- Settles O45, by what a copied row and the changed tags read. -/
theorem rowsMoveWhole : Obligations.RowsMoveWhole := by
  refine ⟨?free, ?held, ?demote, ?auto, ?reset, ?complete⟩
  case free =>
    intro s chan bank row pri k hfar hd hs hw hp hk hfree hfirst hctr
    refine ⟨fillSlot s chan bank row k pri, ?_, fillSlot_onlyDram .., ?_, fun o ho => ?_, fun a ha => ?_⟩
    · show Host.Outcome.next (if farRow chan bank row then (promoteRow s chan bank row (pri % 4)).2 else s) = _
      rw [if_pos hfar, Nat.mod_eq_of_lt (by omega), promoteRow_free hd (farRow_range hfar) hs hp hk hfree hfirst]
    · rw [fillSlot_below hctr, lookup_put_self]
    · rw [bankByte, fillSlot_mem hctr]
      exact bankByte_copyRow_dst hw ho
    · rw [bankByte, fillSlot_mem hctr]
      exact bankByte_copyRow_other hw ha
  case held =>
    intro s chan bank row pri k e hfar hd hs hp he hctr
    obtain ⟨hmem, htag⟩ := promoteRow_held hd (farRow_range hfar) hs hp hctr
    refine ⟨(promoteRow s chan bank row pri).2, ?_, promoteRow_onlyDram .., hmem, ?_⟩
    · show Host.Outcome.next (if farRow chan bank row then (promoteRow s chan bank row (pri % 4)).2 else s) = _
      rw [if_pos hfar, Nat.mod_eq_of_lt (by omega)]
    · rw [htag, lookup_adjust, if_pos rfl, he]
      rfl
  case demote =>
    intro s chan bank row k e hfar hs hw he
    obtain ⟨htag, hmem⟩ := demoteRow_held hs he
    refine ⟨(demoteRow s chan bank row).2, ?_, demoteRow_onlyDram .., ?_, fun hc => ?_, fun hd => ?_⟩
    · show Host.Outcome.next (if farRow chan bank row then (demoteRow s chan bank row).2 else s) = _
      rw [if_pos hfar]
    · rw [htag, lookup_remove, if_pos rfl]
    · rw [hmem, hc, if_neg Bool.false_ne_true]
    · rw [if_pos hd] at hmem
      refine ⟨fun o ho => ?_, fun a ha => ?_⟩
      · rw [bankByte, hmem]
        exact bankByte_copyRow_dst hw ho
      · rw [bankByte, hmem]
        exact bankByte_copyRow_other hw ha
  case auto =>
    intro s chan e he
    have hq := promoteRow_withAutoq s (s.dram.autoq.erase e) e.1 e.2.1 e.2.2.1 e.2.2.2
    refine ⟨withAutoq (promoteRow s e.1 e.2.1 e.2.2.1 e.2.2.2).2 (s.dram.autoq.erase e), ?_,
      (promoteRow_onlyDram ..).trans (.withDram ..), rfl, rfl⟩
    show execAutomaticPromotion chan s = _
    unfold execAutomaticPromotion
    rw [he]
    exact congrArg Host.Outcome.next hq
  case reset =>
    intro s chan hany hres
    show execChannelReset chan s = _
    unfold execChannelReset
    rw [hany, Bool.false_or, if_neg (by simpa using hres)]
  case complete =>
    intro s chan hres _
    refine ⟨{ clearChannel s chan with dram := { (clearChannel s chan).dram with
      resetting := s.dram.resetting.filter (· != chan) } }, ?_, rfl, ?_, fun a => bankByte_clearChannel s chan a⟩
    · show execChannelResetComplete chan s = _
      unfold execChannelResetComplete
      rw [if_neg (by simpa using hres)]
      rfl
    · simp

end Sys2Proof.Machine

namespace Sys2Proof.Machine

/-! ### O46: channels and ports look after themselves -/

/-! Renumbering. -/

section
variable {chan bank k : Nat}

theorem ptagKey_bank (hk : k < 512) : ptagKey chan bank k / 512 = chan * 32 + bank := by
  unfold ptagKey
  omega

/-- A renumbered bank: each tag's SEQ is the number of the tags before it. -/
theorem lookup_renumber (s : State) (hk : k < 512) :
    lookup (renumber s chan bank).dram.ptag (ptagKey chan bank k) = (lookup s.dram.ptag (ptagKey chan bank k)).map fun e =>
      { e with seq := ((bankTags s chan bank).filter (fun o => decide (o.2.seq < e.seq))).length } := by
  have h := lookup_mapVal s.dram.ptag (fun j e => if j / 512 = chan * 32 + bank then
    { e with seq := ((bankTags s chan bank).filter (fun o => decide (o.2.seq < e.seq))).length } else e) (ptagKey chan bank k)
  rw [ptagKey_bank hk] at h
  simp only [if_true] at h
  rw [← h]
  refine congrArg (lookup · (ptagKey chan bank k)) (List.map_congr_left fun e _ => ?_)
  split
  · rfl
  · rfl

end

/-! The patrol scrub. -/

section
variable {s t u : State} {chan bank row n : Nat}

/-- Erroneous bytes of a data unit of a row. -/
def unitErrs (s : State) (chan bank row b : Nat) : Nat := getD 0 s.dram.errs (rowKey chan bank row (b * 128))

theorem rowKey_unit_inj {b c : Nat} : rowKey chan bank row (b * 128) = rowKey chan bank row (c * 128) ↔ b = c := by
  unfold rowKey
  omega

/-- A data unit whose errors can be corrected. -/
def correctable (s : State) (chan bank row b : Nat) : Bool :=
  decide (1 ≤ unitErrs s chan bank row b) && decide (unitErrs s chan bank row b ≤ 3)

/-- From `s` to `t` the first `n` units of a row with a good guard word were scrubbed. -/
structure Scrubbed (chan bank row n : Nat) (s t : State) : Prop where
  only : OnlyDram s t
  mem : t.dram.mem = s.dram.mem
  ptag : t.dram.ptag = s.dram.ptag
  errs : ∀ b, unitErrs t chan bank row b =
    if b < n ∧ unitErrs s chan bank row b ≤ 3 then 0 else unitErrs s chan bank row b
  corr : getD 0 t.dram.corr (chan * 32 + bank) =
    getD 0 s.dram.corr (chan * 32 + bank) + ((List.range n).filter (correctable s chan bank row)).length
  logged : ∀ b, b < n → unitErrs s chan bank row b = 4 ∨ unitErrs s chan bank row b = 5 →
    rowKey chan bank row (b * 128) ∈ t.dram.scrubLog

theorem Scrubbed.zero (s : State) : Scrubbed chan bank row 0 s s where
  only := rfl
  mem := rfl
  ptag := rfl
  errs b := by simp
  corr := rfl
  logged b hb := absurd hb (Nat.not_lt_zero b)

/-- One more unit, which is left as it is and is logged where it must be. -/
theorem Scrubbed.leave {l : List Nat} (h : Scrubbed chan bank row n s t) (hc : correctable s chan bank row n = false)
    (hl : ∀ k ∈ t.dram.scrubLog, k ∈ l)
    (hn : unitErrs s chan bank row n = 4 ∨ unitErrs s chan bank row n = 5 → rowKey chan bank row (n * 128) ∈ l) :
    Scrubbed chan bank row (n + 1) s { t with dram := { t.dram with scrubLog := l } } where
  only := h.only.trans (.withDram ..)
  mem := h.mem
  ptag := h.ptag
  errs b := by
    refine (h.errs b).trans ?_
    by_cases hb : b = n
    · subst hb
      simp only [correctable, Bool.and_eq_false_iff, decide_eq_false_iff_not] at hc
      have hi : ¬ b < b := Nat.lt_irrefl b
      simp only [hi, false_and, if_false, Nat.lt_succ_self, true_and]
      split
      · omega
      · rfl
    · have hlt : b < n + 1 ↔ b < n := by omega
      simp only [hlt]
  corr := by
    rw [List.range_succ, List.filter_append, List.filter_cons, hc]
    simpa using h.corr
  logged b hb he := by
    rcases Nat.lt_succ_iff_lt_or_eq.mp hb with hb | rfl
    · exact hl _ (h.logged b hb he)
    · exact hn he

/-- One more unit, which is corrected and counted. -/
theorem Scrubbed.correct (h : Scrubbed chan bank row n s t) (hc : correctable s chan bank row n = true) :
    Scrubbed chan bank row (n + 1) s
      (countCorr { t with dram := { t.dram with errs := remove t.dram.errs (rowKey chan bank row (n * 128)) } } chan bank) where
  only := h.only.trans (.withDram ..)
  mem := h.mem
  ptag := h.ptag
  errs b := by
    have hr : getD 0 (remove t.dram.errs (rowKey chan bank row (n * 128))) (rowKey chan bank row (b * 128)) =
        if b = n then 0 else unitErrs t chan bank row b := by
      rw [getD, lookup_remove]
      simp only [rowKey_unit_inj]
      split
      · rfl
      · rfl
    refine hr.trans ?_
    rw [h.errs]
    simp only [correctable, Bool.and_eq_true, decide_eq_true_eq] at hc
    by_cases hb : b = n
    · subst hb
      simp [hc.2]
    · have hlt : b < n + 1 ↔ b < n := by omega
      simp only [if_neg hb, hlt]
  corr := by
    have hk : getD 0 (setD 0 t.dram.corr (chan * 32 + bank) (getD 0 t.dram.corr (chan * 32 + bank) + 1)) (chan * 32 + bank) =
        getD 0 t.dram.corr (chan * 32 + bank) + 1 := getD_setD_self ..
    refine hk.trans ?_
    rw [h.corr, List.range_succ, List.filter_append, List.filter_cons, hc]
    simp [Nat.add_assoc]
  logged b hb he := by
    rcases Nat.lt_succ_iff_lt_or_eq.mp hb with hb | rfl
    · exact h.logged b hb he
    · simp only [correctable, Bool.and_eq_true, decide_eq_true_eq] at hc
      omega

theorem Scrubbed.unitErrs_next (h : Scrubbed chan bank row n s t) :
    getD 0 t.dram.errs (rowKey chan bank row (n * 128)) = unitErrs s chan bank row n := by
  have he := h.errs n
  rw [if_neg fun hn => Nat.lt_irrefl n hn.1] at he
  exact he

theorem Scrubbed.step (h : Scrubbed chan bank row n s t) :
    Scrubbed chan bank row (n + 1) s (scrubUnit chan bank row false n t) := by
  unfold scrubUnit
  dsimp only
  rw [h.unitErrs_next, if_neg Bool.false_ne_true]
  split
  · next h0 => exact h.leave (by simp [correctable, h0]) (fun _ hk => hk) (by omega)
  split
  · next h0 h3 => exact h.correct (by simp [correctable, h3]; omega)
  split
  · next h3 _ => exact h.leave (by simp [correctable, h3]) (fun _ hk => List.mem_cons_of_mem _ hk) (fun _ => List.mem_cons_self)
  · next h3 h5 => exact h.leave (by simp [correctable, h3]) (fun _ hk => hk) (by omega)

theorem scrubbed_units (chan bank row n : Nat) (s : State) :
    Scrubbed chan bank row n s ((upto n).foldl (fun s b => scrubUnit chan bank row false b s) s) := by
  induction n with
  | zero => exact .zero s
  | succ n ih =>
    rw [upto, List.range_succ, List.foldl_append]
    exact ih.step

/-- A row whose guard word does not match is logged unit by unit. -/
theorem scrubUnits_bad (chan bank row n : Nat) (s : State) :
    (upto n).foldl (fun s b => scrubUnit chan bank row true b s) s = { s with dram := { s.dram with
      scrubLog := (List.range n).reverse.map (fun b => rowKey chan bank row (b * 128)) ++ s.dram.scrubLog } } := by
  induction n with
  | zero => rfl
  | succ n ih =>
    rw [upto, List.range_succ, List.foldl_append, ← upto, ih, List.reverse_append]
    rfl

end

/-! Endpoints. -/

theorem modPort_onlyPort (s : State) (i : Nat) (f : Port → Port) : OnlyPort s (modPort s i f) i (f (portOf s i)) :=
  ⟨rfl, fun _ => lookup_put ..⟩

theorem renumberFlits_parts (n : Nat) (xs : List Xact) :
    (renumberFlits n xs).1.map (fun x => (x.gid, x.head, x.load)) = xs.map (fun x => (x.gid, x.head, x.load)) := by
  induction xs generalizing n with
  | nil => rfl
  | cons x xs ih => exact congrArg (_ :: ·) (ih _)

theorem renumberFlits_head (n : Nat) (xs : List Xact) {y : Xact} (h : (renumberFlits n xs).1[0]? = some y) : y.seq = n := by
  cases xs with
  | nil => exact nomatch h
  | cons x xs =>
    obtain rfl := Option.some.inj h
    rfl

/-- Renumbered transactions stand one after another. -/
theorem renumberFlits_order (n : Nat) (xs : List Xact) {k : Nat} {x y : Xact} (hx : (renumberFlits n xs).1[k]? = some x)
    (hy : (renumberFlits n xs).1[k + 1]? = some y) : y.seq = x.seq + x.flits := by
  induction xs generalizing n k with
  | nil => exact nomatch hx
  | cons z xs ih =>
    cases k with
    | zero =>
      obtain rfl := Option.some.inj hx
      exact renumberFlits_head _ _ hy
    | succ k => exact ih _ hx hy

theorem trained_trained (p : Port) (packed : Bool) : Trained p (p.trained packed) packed where
  up := ⟨rfl, rfl, rfl⟩
  caps := ⟨rfl, rfl⟩
  waiting := by
    refine (renumberFlits_parts _ _).trans ?_
    rw [List.map_map]
    rfl
  order _ _ _ hx hy := renumberFlits_order _ _ hx hy

/-- Settles O46, by the scrub of one unit after another and the renumbering of waiting transactions. -/
theorem channelsAndPortsLookAfterThemselves : Obligations.ChannelsAndPortsLookAfterThemselves := by
  refine ⟨?below, ?wrap, fun _ _ => rfl, ?skip, ?good, ?bad, ?window, ?link, ?replay, ?noReplay, ?retrain, ?noRetrain⟩
  case below =>
    intro s chan bank h
    show Host.Outcome.next (if getD 0 s.dram.pctr (chan * 32 + bank) ≥ 2 ^ 40 - 1 then renumber s chan bank else s) = _
    rw [if_neg (Nat.not_le.mpr h)]
  case wrap =>
    intro s chan bank h
    refine ⟨renumber s chan bank, ?_, rfl, rfl, getD_setD_self .., fun k hk => lookup_renumber s hk⟩
    show Host.Outcome.next (if getD 0 s.dram.pctr (chan * 32 + bank) ≥ 2 ^ 40 - 1 then renumber s chan bank else s) = _
    rw [if_pos h]
  case skip =>
    intro s chan bank row h
    show execPatrolScrub chan bank row s = _
    unfold execPatrolScrub
    rcases h with h | ⟨held, h, hg⟩
    · rw [h]
    · rw [h]
      dsimp only
      rw [if_pos hg]
  case good =>
    intro s chan bank row held h hg
    obtain ⟨only, mem, ptag, errs, corr, logged⟩ := scrubbed_units chan bank row 15 s
    refine ⟨_, ?_, only, mem, ptag, fun b hb => ?_, corr, logged⟩
    · show execPatrolScrub chan bank row s = _
      unfold execPatrolScrub
      rw [h]
      dsimp only
      rw [hg]
      rfl
    · have he := errs b
      rw [unitErrs, unitErrs] at he
      rw [he]
      simp only [hb, true_and]
  case bad =>
    intro s chan bank row held h hg
    show execPatrolScrub chan bank row s = _
    unfold execPatrolScrub
    rw [h]
    dsimp only
    rw [hg, if_neg nofun]
    exact congrArg Host.Outcome.next (scrubUnits_bad chan bank row 15 s)
  case window =>
    intro s chan
    refine ⟨_, rfl, rfl, fun c => ?_⟩
    refine (getD_setD 0 s.dram.quota chan _ c).trans ?_
    simp [fld, nbits]
  case link => exact fun s i packed => ⟨_, _, rfl, modPort_onlyPort .., trained_trained ..⟩
  case replay =>
    rintro s i p rfl hup htr hre
    have hgo : (!(portOf s i).up || (portOf s i).training || (portOf s i).replay.isEmpty) = false := by
      simp [hup, htr, hre]
    refine ⟨⟨_, ?_, modPort_onlyPort s i fun p => { p with replay := [], fails := 0 }⟩,
      ⟨_, ?_, modPort_onlyPort s i fun p => { p with fails := p.fails + 1, training := decide (8 ≤ p.fails + 1) }⟩⟩
    · show execFlitReplay i true s = _
      unfold execFlitReplay
      dsimp only
      rw [hgo]
      rfl
    · show execFlitReplay i false s = _
      unfold execFlitReplay
      dsimp only
      rw [hgo]
      rfl
  case noReplay =>
    intro s i ok h
    have hstop : (!(portOf s i).up || (portOf s i).training || (portOf s i).replay.isEmpty) = true := by
      rcases h with h | h | h
      · simp [h]
      · simp [h]
      · simp [h]
    show execFlitReplay i ok s = _
    unfold execFlitReplay
    dsimp only
    rw [hstop]
    rfl
  case retrain =>
    rintro s i p rfl htr
    refine ⟨⟨_, _, ?_, modPort_onlyPort s i fun p => p.trained (advertised s i || decide (144 ≤ i)), trained_trained ..⟩,
      ⟨_, ?_, modPort_onlyPort s i fun p => { p with training := false, fails := 0, up := false, replay := [] }⟩⟩
    · show execPortRetrain i true s = _
      unfold execPortRetrain
      rw [htr]
      rfl
    · show execPortRetrain i false s = _
      unfold execPortRetrain
      rw [htr]
      rfl
  case noRetrain =>
    intro s i ok htr
    show execPortRetrain i ok s = _
    unfold execPortRetrain
    rw [htr]
    rfl

end Sys2Proof.Machine

/-! # Requests at their home slices (04 R81 to R91, 10 R257)

`Sole m k o`: the table `m` says `o` of `k` and has no second entry under it. A request that no block waits for (`Idle`) stays as it
is while other blocks are installed, evicted and served; and a block that fits its set stands in its slice once installed. -/

namespace Sys2Proof.Machine

/-! ### Tables -/

section
variable {α : Type}

theorem mem_put {m : SMap α} {k : Nat} {v : α} {x : Nat × α} : x ∈ put m k v ↔ x = (k, v) ∨ x ∈ m ∧ x.1 ≠ k := by
  unfold put remove
  simp [mem_place]

theorem mem_of_lookup {m : SMap α} {k : Nat} {v : α} (h : lookup m k = some v) : (k, v) ∈ m := by
  induction m with
  | nil => simp at h
  | cons e m ih =>
    rw [lookup_cons] at h
    split at h
    · rename_i hk
      obtain rfl := Option.some.inj h
      subst hk
      exact .head _
    · exact .tail _ (ih h)

/-- A table says `o` of the name `k`, and has no second entry under it. -/
structure Sole (m : SMap α) (k : Nat) (o : Option α) : Prop where
  here : lookup m k = o
  only : ∀ e ∈ m, e.1 = k → o = some e.2

theorem sole_remove (m : SMap α) (k : Nat) : Sole (remove m k) k none where
  here := by simp [lookup_remove]
  only e he hk := absurd hk (by simpa using (List.mem_filter.mp he).2)

theorem sole_put (m : SMap α) (k : Nat) (v : α) : Sole (put m k v) k (some v) where
  here := lookup_put_self ..
  only e he hk := by
    rcases mem_put.mp he with rfl | ⟨-, hne⟩
    · rfl
    · exact absurd hk hne

theorem sole_adjust {m : SMap α} {k : Nat} {v : α} (h : lookup m k = some v) (f : α → α) :
    Sole (adjust m k f) k (some (f v)) := by
  unfold adjust
  rw [h]
  exact sole_put ..

variable {m : SMap α} {k j : Nat} {o : Option α}

theorem Sole.remove (h : Sole m k o) (hj : j ≠ k) : Sole (remove m j) k o where
  here := by rw [lookup_remove, if_neg hj.symm, h.here]
  only e he := h.only e (List.mem_filter.mp he).1

theorem Sole.adjust (h : Sole m k o) (hj : j ≠ k) (f : α → α) : Sole (adjust m j f) k o where
  here := by rw [lookup_adjust, if_neg hj.symm, h.here]
  only e he hk := by
    unfold Machine.adjust at he
    split at he
    · rcases mem_put.mp he with rfl | ⟨he, -⟩
      · exact absurd hk hj
      · exact h.only e he hk
    · exact h.only e he hk
end

/-! ### Requests while memory is read and written -/

@[simp] theorem cross_reqs (s : State) (a b : Nat) (h : List Byte) (l : Load) : (cross s a b h l).reqs = s.reqs := by
  unfold cross; split <;> rfl

theorem readUnit_reqs (s : State) (c b r k n : Nat) : (readUnit s c b r k n).2.reqs = s.reqs := by
  fun_cases readUnit s c b r k n <;> rfl

theorem markDirty_reqs (s : State) (c b r : Nat) : (markDirty s c b r).reqs = s.reqs := by
  unfold markDirty; split <;> rfl

theorem readyRow_reqs (s : State) (c b r : Nat) : (readyRow s c b r).reqs = s.reqs := by
  fun_cases readyRow s c b r <;> rfl

theorem writeUnit_reqs (s : State) (c b r k : Nat) (bs : List Byte) : (writeUnit s c b r k bs).reqs = s.reqs := by
  refine (readyRow_reqs ..).trans ?_
  split
  · exact markDirty_reqs ..
  · rfl

theorem metaPut_reqs (s : State) (c : Nat) (ln : MetaLine) : (metaPut s c ln).reqs = s.reqs := by
  fun_cases metaPut s c ln
  grind [writeUnit_reqs]

theorem metaLine_reqs (s : State) (c n : Nat) : (metaLine s c n).2.reqs = s.reqs := by
  have hf (t : State) : (metaFail t c n).reqs = t.reqs := rfl
  fun_cases metaLine s c n <;> grind [readUnit_reqs, metaPut_reqs]

theorem writeTag_reqs (s : State) (l : Loc) (tag : Nat) : (writeTag s l tag).2.reqs = s.reqs := by
  fun_cases writeTag s l tag <;> grind [metaLine_reqs, metaPut_reqs]

theorem dramWrite_reqs (s : State) (l : Loc) (b : PBlock) : (dramWrite s l b).2.reqs = s.reqs := by
  fun_cases dramWrite s l b <;> grind [writeTag_reqs, writeUnit_reqs]

@[simp] theorem writeBack_reqs (s : State) (k : Nat) (b : L2Block) : (writeBack s k b).reqs = s.reqs := by
  unfold writeBack
  split
  · rfl
  · split
    · rfl
    · rename_i l _
      dsimp only
      split <;> rename_i hw <;> have hr := congrArg (fun x => x.2.reqs) hw
      · exact hr.symm.trans ((dramWrite_reqs ..).trans (cross_reqs ..))
      · exact hr.symm.trans ((dramWrite_reqs ..).trans (cross_reqs ..))

@[simp] theorem setL2_reqs (s : State) (k : Nat) (bs : List L2Block) : (setL2 s k bs).reqs = s.reqs := rfl

@[simp] theorem touch_reqs (s : State) (k : Nat) (b : L2Block) : (touch s k b).reqs = s.reqs := by
  unfold touch; split <;> rfl

/-! ### A request that no block waits for -/

/-- No block has a request `o` still to perform. -/
def Idle (o : Option Req) : Prop := ∀ r, o = some r → r.stage ≠ .checked ∧ r.stage ≠ .accepted

theorem idle_none : Idle none := fun _ h => (Option.some_ne_none _ h.symm).elim

theorem idle_some {r : Req} (h : r.stage ≠ .checked) (h' : r.stage ≠ .accepted) : Idle (some r) := by
  rintro _ ⟨⟩
  exact ⟨h, h'⟩

theorem Idle.not_pendingAt {r : Req} (h : Idle (some r)) (b : L2Block) : r.pendingAt b = false := by
  obtain ⟨hc, ha⟩ := h r rfl
  simp [Req.pendingAt, hc, ha]

section
variable {s : State} {rid : Nat} {o : Option Req}

theorem finished_sole {i : Nat} (h : Sole s.reqs rid o) (hi : i ≠ rid) (r : Req) (bs : List Byte) (vs : List Nat) :
    Sole (finished s i r bs vs).reqs rid o := by
  unfold finished
  split
  · split
    · exact h.adjust hi _
    · exact h.remove hi
  · exact h.adjust hi _

theorem performOn_sole {i : Nat} (h : Sole s.reqs rid o) (hi : i ≠ rid) (r : Req) (b : L2Block) :
    Sole (performOn s i r b).1.reqs rid o := by
  fun_cases performOn s i r b
  case case1 => exact h
  all_goals
    refine finished_sole ?_ hi _ _ _
    grind [takeResv, setResv, clearResv]

theorem performAll_sole (idle : Idle o) (h : Sole s.reqs rid o) (b : L2Block) (p : Req → Bool) :
    Sole (performAll s b p).1.reqs rid o := by
  have other : ∀ e ∈ s.reqs.filter (fun e => e.2.pendingAt b && p e.2), e.1 ≠ rid := by
    intro e he hk
    obtain ⟨he, hp⟩ := List.mem_filter.mp he
    obtain rfl := h.only e he hk
    simp [idle.not_pendingAt] at hp
  unfold performAll
  generalize s.reqs.filter (fun e => e.2.pendingAt b && p e.2) = l at other
  induction l generalizing s b with
  | nil => exact h
  | cons e l ih =>
    exact ih (performOn_sole h (other e (.head _)) _ _) _ fun x hx => other x (.tail _ hx)

theorem serveOnce_sole (idle : Idle o) (h : Sole s.reqs rid o) (k : Nat) (b : L2Block) :
    Sole (serveOnce s k b).1.reqs rid o := by
  show Sole (writeBack (performAll s b (fun _ => true)).1 k (performAll s b (fun _ => true)).2).reqs rid o
  rw [writeBack_reqs]
  exact performAll_sole idle h b _

theorem retireBlock_sole (idle : Idle o) (h : Sole s.reqs rid o) (k : Nat) (b : L2Block) :
    Sole (retireBlock s k b).reqs rid o := serveOnce_sole idle h k b

theorem evictMisplaced_sole (idle : Idle o) (h : Sole s.reqs rid o) (k : Nat) (bs : List L2Block) :
    Sole (evictMisplaced s k bs).1.reqs rid o := by
  unfold evictMisplaced
  generalize bs.filter (fun b => !wellPlaced s b) = l
  dsimp only
  induction l generalizing s with
  | nil => exact h
  | cons b l ih => exact ih (retireBlock_sole idle h k b)

theorem makeRoom_sole (idle : Idle o) (h : Sole s.reqs rid o) (k : Nat) (w : Bool) (c n j : Nat) (bs : List L2Block) :
    Sole (makeRoom s k w c n j bs).1.reqs rid o := by
  fun_induction makeRoom s k w c n j bs with
  | case4 => rename_i ih; exact ih (retireBlock_sole idle h k _)
  | _ => exact h

theorem l2Install_sole (idle : Idle o) (h : Sole s.reqs rid o) (k : Nat) (b : L2Block) (a : Bool) :
    Sole (l2Install s k b a).reqs rid o := by
  have he := evictMisplaced_sole idle h k ((getD [] s.l2 (l2Key k b.vb)).filter (fun x => !isBlock b.pid b.atag b.vb x))
  unfold l2Install
  dsimp only
  split
  · exact retireBlock_sole (s := setL2 _ _ _) idle he k b
  · exact makeRoom_sole idle he ..

theorem l2Place_sole (idle : Idle o) (h : Sole s.reqs rid o) (k : Nat) (b : L2Block) (a : Bool) :
    Sole (l2Place s k b a).1.reqs rid o := by
  unfold l2Place
  split
  · exact serveOnce_sole idle h k b
  · exact l2Install_sole idle h k b a

theorem moveBlock_sole (idle : Idle o) (h : Sole s.reqs rid o) (p a v : Nat) : Sole (moveBlock s p a v).2.reqs rid o := by
  unfold moveBlock
  split
  · split
    · split
      · exact h
      · exact l2Install_sole idle (by simpa [l2Drop] using h) _ _ _
    · dsimp only
      split
      · exact h
      · simpa using h
  · exact h

theorem homeHit_sole (idle : Idle o) (h : Sole s.reqs rid o) (p a v : Nat) : Sole (homeHit s p a v).2.reqs rid o := by
  have hm := moveBlock_sole idle h p a v
  unfold homeHit
  split
  · exact h
  · split
    · exact h
    · split <;> rename_i hmoved <;> rw [hmoved] at hm <;> exact hm
end

/-! ### What a slice holds -/

theorem getD_setL2 (s : State) (k : Nat) (bs : List L2Block) : getD [] (setL2 s k bs).l2 k = bs := by
  unfold setL2
  cases bs with
  | nil => simp [getD, lookup_remove]
  | cons b bs => simp [getD_put]

theorem l2Find_setL2 (s : State) (h p a v : Nat) (bs : List L2Block) :
    l2Find (setL2 s (l2Key h v) bs) h p a v = bs.find? (fun b => isBlock p a v b && b.lv == 3) := by
  unfold l2Find
  rw [getD_setL2]

theorem isBlock_iff {p a v : Nat} {b : L2Block} : isBlock p a v b = true ↔ b.pid = p ∧ b.atag = a ∧ b.vb = v := by
  simp [isBlock, and_assoc]

theorem l2Find_isBlock {s : State} {h p a v : Nat} {b : L2Block} (hb : l2Find s h p a v = some b) :
    isBlock p a v b = true ∧ b.lv = 3 := by
  simpa using List.find?_some hb

/-- A block touched is found as before. -/
theorem l2Find_touch {s : State} {h p a v : Nat} {b : L2Block} (hb : l2Find s h p a v = some b) :
    l2Find (touch s h b) h p a v = some b := by
  obtain ⟨hi, -⟩ := l2Find_isBlock hb
  obtain ⟨rfl, rfl, rfl⟩ := isBlock_iff.mp hi
  unfold touch
  split
  · exact hb
  · rw [l2Find_setL2, List.find?_append, List.find?_filter, List.find?_filter]
    rw [List.find?_eq_none.mpr (by intro x _; cases isBlock b.pid b.atag b.vb x <;> simp)]
    rw [Option.none_or, ← hb, l2Find]
    congr 1
    funext x
    rw [Bool.eq_iff_iff]
    simp

theorem holdsBlock_of_l2Find {s : State} {h : Nat} {b : L2Block} (hb : l2Find s h b.pid b.atag b.vb = some b) :
    HoldsBlock s h b := ⟨b.win, b.sp, hb⟩

theorem tooBig_of_root {s t : State} (h : t.root = s.root) (b : L2Block) : tooBig t b = tooBig s b := by
  unfold tooBig slotsFor fwFrames inWindow
  rw [h]

theorem makeRoom_subset (s : State) (k : Nat) (w : Bool) (c n j : Nat) (bs : List L2Block) :
    ∀ x ∈ (makeRoom s k w c n j bs).2, x ∈ bs := by
  fun_induction makeRoom s k w c n j bs with
  | case4 => rename_i ih; exact fun x hx => (List.mem_filter.mp (ih x hx)).1
  | _ => exact fun _ hx => hx

/-- The installation of a block that fits: it joins what else the set still holds. -/
theorem l2Install_fits {s : State} {b : L2Block} (hfit : tooBig s b = false) (h : Nat) (lru : Bool) :
    ∃ t win sp rest, (∀ x ∈ rest, isBlock b.pid b.atag b.vb x = false) ∧
      l2Install s h b lru = setL2 t (l2Key h b.vb)
        (if lru then { b with win := win, sp := sp } :: rest else rest ++ [{ b with win := win, sp := sp }]) := by
  have hroot := fun bs => (evictMisplaced_quiet s h bs).root
  unfold l2Install
  dsimp only
  rw [tooBig_of_root (hroot _), hfit, if_neg Bool.false_ne_true]
  refine ⟨_, _, _, _, fun x hx => ?_, rfl⟩
  have hx := makeRoom_subset _ _ _ _ _ _ _ x (List.mem_filter.mp hx).1
  simpa using (List.mem_filter.mp (List.mem_filter.mp hx).1).2

/-- A block that fits stands in its slice once it is installed. -/
theorem holdsBlock_l2Install {s : State} {b : L2Block} (hfit : tooBig s b = false) (hlv : b.lv = 3) (h : Nat) (lru : Bool) :
    HoldsBlock (l2Install s h b lru) h b := by
  obtain ⟨t, win, sp, rest, hrest, hset⟩ := l2Install_fits hfit h lru
  have hself : (isBlock b.pid b.atag b.vb { b with win := win, sp := sp } && b.lv == 3) = true := by simp [isBlock, hlv]
  refine ⟨win, sp, ?_⟩
  rw [hset, l2Find_setL2]
  split
  · exact List.find?_cons_of_pos hself
  · rw [List.find?_append, List.find?_eq_none.mpr (fun x hx => by simp [hrest x hx]), Option.none_or]
    exact List.find?_cons_of_pos hself

/-- What `homeHit` finds stands in the slice. -/
theorem homeHit_found {s u : State} {p a v h : Nat} {b : L2Block} (hh : homeHit s p a v = (some (h, b), u)) :
    l2Find u h p a v = some b := by
  unfold homeHit at hh
  split at hh
  · simp at hh
  · split at hh
    · rename_i hf
      simp only [Prod.mk.injEq, Option.some.injEq] at hh
      obtain ⟨⟨rfl, rfl⟩, rfl⟩ := hh
      exact hf
    · split at hh
      · simp only [Prod.mk.injEq, Option.map_eq_some_iff] at hh
        obtain ⟨⟨c, hf, rfl, rfl⟩, rfl⟩ := hh
        exact hf
      · simp at hh

/-! ### Answers to an instruction none of whose accesses was refused -/

theorem liveMask_congr {w v : Warp} (h : ∀ l, (lookup v.lanes l).map Lane.live = (lookup w.lanes l).map Lane.live) :
    liveMask v = liveMask w := by
  unfold liveMask
  congr 1
  funext l
  have hl := h l
  cases hv : lookup v.lanes l <;> cases hw : lookup w.lanes l <;> simp_all

theorem liveMask_modLanes (w : Warp) (m : Word) {f : Nat → Lane → Lane} (hf : ∀ l t, (f l t).live = t.live) :
    liveMask (modLanes w m f) = liveMask w := by
  refine liveMask_congr fun l => ?_
  rw [lookup_modLanes]
  cases lookup w.lanes l with
  | none => rfl
  | some t =>
    simp only [Option.map_some]
    split
    · rw [hf]
    · rfl

/-- The warps of a core stay alive while one of them changes and keeps its threads. -/
theorem AllLive.modWarp {s : State} {core : Nat} (h : AllLive s core) (ws : Nat) {f : Warp → Warp}
    (hf : ∀ w, liveMask (f w) = liveMask w) : AllLive (modWarp s core ws f) core := by
  intro e he
  unfold Machine.modWarp at he
  rw [coreOf_modCore_self] at he
  dsimp only at he
  unfold Machine.adjust at he
  split at he
  · rename_i w hw
    rcases mem_put.mp he with rfl | ⟨he, -⟩
    · rw [hf]
      exact h _ (mem_of_lookup hw)
    · exact h e he
  · exact h e he

/-- No warp leaves a core all of whose warps are alive. -/
theorem reap_reqs {s : State} {core : Nat} (h : AllLive s core) : (reap s core).reqs = s.reqs := by
  unfold reap
  dsimp only
  rw [List.filter_eq_nil_iff.mpr (fun e he => by simp [h e he])]
  rfl

theorem reserveFaults_nil (s : State) (core ws : Nat) (pc : VA) (inst : DWord) (len : Nat) (a : Option Nat) :
    reserveFaults s core ws pc inst len [] a = s := rfl

theorem live_releaseLane (n : Nat) (l : Lane) : (releaseLane n l).live = l.live := by
  unfold releaseLane; split <;> rfl

/-- The end of a memory instruction none of whose accesses was refused for its translation changes no request. -/
theorem finishInfl_reqs {s : State} {core ws : Nat} (hl : AllLive s core)
    (hf : ∀ f ∈ (warpAt s core ws).infl, f.faults = []) (iid : Nat) : (finishInfl s core ws iid).reqs = s.reqs := by
  have live (w : Warp) (fs : List Infl) (m bad : Word) (n : Nat) : liveMask (modLanes { w with infl := fs } m (fun i l =>
      if l.wait = .mem iid then (if bad.getLsbD i then { l with wait := .none } else releaseLane n l) else l)) = liveMask w := by
    refine liveMask_modLanes { w with infl := fs } m fun i l => ?_
    split
    · split
      · rfl
      · exact live_releaseLane n l
    · rfl
  unfold finishInfl
  dsimp only
  split
  · rfl
  · rename_i f hfind
    split
    · rfl
    · rw [hf f (List.mem_of_find?_eq_some hfind), reserveFaults_nil]
      split
      · refine (reap_reqs ?_).trans rfl
        refine hl.modWarp ws fun w => ?_
        split <;> exact live ..
      · refine (reap_reqs ?_).trans rfl
        refine AllLive.modWarp (hl.modWarp ws fun w => ?_) ws fun _ => rfl
        split <;> exact live ..

/-- An answer that refuses nothing changes no request. -/
theorem answerInfl_reqs {s : State} {core ws : Nat} (hl : AllLive s core)
    (hf : ∀ w, warpAt? s core ws = some w → ∀ f ∈ w.infl, f.faults = []) (iid rid : Nat) (lanes : Word) (va : VA) (acc : Nat) :
    (answerInfl s core ws iid rid lanes va acc none).reqs = s.reqs := by
  unfold answerInfl
  split
  · rfl
  · refine (finishInfl_reqs ?_ ?_ iid).trans rfl
    · exact hl.modWarp ws fun _ => rfl
    rw [warpAt, warpAt?_modWarp_self]
    cases hw : warpAt? s core ws with
    | none => exact fun f h => absurd h List.not_mem_nil
    | some w =>
      intro f hmem
      obtain ⟨g, hg, rfl⟩ := List.mem_map.mp hmem
      have hno := hf w hw g hg
      split
      · exact hno
      · exact hno

/-! ### A request on its way -/

section
variable {s t u : State} {rid h : Nat} {r : Req} {b : L2Block}

theorem leaveCore_quiet (s : State) (rid : Nat) (r : Req) : Quiet s (leaveCore s rid r) := by
  unfold leaveCore
  split
  · exact .refl s
  · dsimp only
    split
    · exact (modReq_quiet ..).trans (cross_quiet ..)
    · exact modReq_quiet ..

theorem homeHit_cores {p a v : Nat} {o : Option (Nat × L2Block)} (hh : homeHit s p a v = (o, u)) : u.cores = s.cores := by
  have hq := (homeHit_quiet s p a v).cores
  rwa [hh] at hq

theorem bothHalves_none {f : State → Nat → Req → State} (ht : twinOf s rid r = none) : bothHalves s rid r f = f s rid r := by
  unfold bothHalves
  rw [ht]

theorem bothHalves_some {f : State → Nat → Req → State} {q : Nat} {p : Req} (ht : twinOf s rid r = some (q, p)) :
    bothHalves s rid r f = f (f s rid r) q p := by
  unfold bothHalves
  rw [ht]

theorem twinOf_congr (hr : t.reqs = s.reqs) : twinOf t rid r = twinOf s rid r := by
  unfold twinOf
  rw [hr]

theorem twinOf_ne {q : Nat} {p : Req} (ht : twinOf s rid r = some (q, p)) : q ≠ rid := by
  unfold twinOf at ht
  split at ht
  · cases ht
  · have hp := List.find?_some ht
    simp only [Bool.and_eq_true, bne_iff_ne] at hp
    tauto

theorem lookup_setStage (s : State) (i : Nat) (st : Stage) (j : Nat) :
    lookup (setStage s i st).reqs j = if j = i then (lookup s.reqs j).map (fun q => { q with stage := st }) else lookup s.reqs j :=
  lookup_adjust ..

theorem windowOf_none (ha : regionOf r.va ≠ .aperture) : windowOf r = none := by
  unfold windowOf
  rw [if_neg (fun hc => ha hc.1)]

/-- An arriving request that its home slice holds is checked on the block. -/
theorem arriveReq_hit (ha : regionOf r.va ≠ .aperture) (hh : homeHit s r.part r.atag r.vb = (some (h, b), u)) :
    arriveReq s rid r = hitReq u rid r h b := by
  unfold arriveReq
  rw [if_neg (fun hc => ha hc.1), if_neg (fun hc => ha hc.1), windowOf_none ha, hh]

/-- A request of which the block's permissions allow the need is accepted. -/
theorem hitReq_permitted {bs : List Byte} (hp : permits b.rd b.wr b.ex r.op.need = true) (hb : blockBytes b = .ok bs)
    (hf : r.op ≠ .pref) :
    hitReq s rid r h b = acceptReq (touch s h b) rid r bs (if b.pol = 0 then some (b.rd, b.wr) else none) := by
  have hpref : r.op.isPref = false := by
    unfold MemOp.isPref
    split
    · contradiction
    · rfl
  unfold hitReq
  rw [hp, hb]
  simp only [hpref]
  rfl

theorem hitReq_forbidden (hp : permits b.rd b.wr b.ex r.op.need = false) :
    hitReq s rid r h b = refuseReq s rid r (.fault .permission) := by
  unfold hitReq
  rw [hp]
  rfl

theorem isStore_ne_pref (hs : r.op.isStore = true) : r.op ≠ .pref := by
  intro hp
  rw [hp] at hs
  cases hs

theorem isPref_of_isStore (hs : r.op.isStore = true) : r.op.isPref = false := by
  cases hop : r.op <;> simp_all [MemOp.isStore, MemOp.isPref]

/-! ### The request performed -/

theorem performOn_load {bs : List Byte} (hop : r.op = .load) (hb : blockBytes b = .ok bs) :
    performOn s rid r b = (modReq s rid fun q => { q with
      stage := .replied [ofBytes (sliceBytes bs (r.va.toNat % 128) r.size)], snap := bs }, b) := by
  simp only [performOn, hb, hop, MemOp.does, finished]

theorem performOn_store {bs new : List Byte} (hop : r.op = .store new) (hst : r.stage = .accepted) (hb : blockBytes b = .ok bs) :
    performOn s rid r b = (dropReq (clearResv s b.pid b.atag r.va.toNat r.size r.own) rid,
      rewritten s b (patchBytes bs (r.va.toNat % 128) (new.take (128 - r.va.toNat % 128)))) := by
  simp only [performOn, hb, hop, MemOp.does, finished, hst]
  rfl

theorem performOn_atomic {bs : List Byte} {fn ty last : Nat} {ops : List (Nat × Nat × Nat)} {olds : List Nat}
    (hop : r.op = .atomic fn ty ops) (hb : blockBytes b = .ok bs)
    (hfold : atomFold fn ty ops (ofBytes (sliceBytes bs (r.va.toNat % 128) r.size)) = (olds, last)) :
    performOn s rid r b = (modReq (clearResv s b.pid b.atag r.va.toNat r.size r.own) rid (fun q => { q with
        stage := .replied (olds ++ [last]),
        snap := patchBytes bs (r.va.toNat % 128) ((toBytes r.size last).take (128 - r.va.toNat % 128)) }),
      rewritten s b (patchBytes bs (r.va.toNat % 128) ((toBytes r.size last).take (128 - r.va.toNat % 128)))) := by
  simp only [performOn, hb, hop, MemOp.does, finished, hfold]

theorem finished_l2 (s : State) (i : Nat) (r : Req) (bs : List Byte) (vs : List Nat) : (finished s i r bs vs).l2 = s.l2 := by
  fun_cases finished s i r bs vs <;> rfl

theorem performOn_l2 (s : State) (i : Nat) (r : Req) (b : L2Block) : (performOn s i r b).1.l2 = s.l2 := by
  fun_cases performOn s i r b
  case case1 => rfl
  all_goals
    refine (finished_l2 ..).trans ?_
    grind [takeResv, setResv, clearResv]

/-- An access changes no more of a block than its bytes. -/
theorem performOn_attributes (s : State) (i : Nat) (r : Req) (b : L2Block) :
    { (performOn s i r b).2 with blk := b.blk, dirty := b.dirty } = b := by
  fun_cases performOn s i r b <;> rfl

theorem performAll_attributes (s : State) (b : L2Block) (p : Req → Bool) :
    { (performAll s b p).2 with blk := b.blk, dirty := b.dirty } = b := by
  unfold performAll
  generalize s.reqs.filter (fun e => e.2.pendingAt b && p e.2) = l
  have step (l : List (Nat × Req)) (a : State × L2Block) :
      { (l.foldl (fun a e => performOn a.1 e.1 e.2 a.2) a).2 with blk := a.2.blk, dirty := a.2.dirty } = a.2 := by
    induction l generalizing a with
    | nil => rfl
    | cons e l ih =>
      have hi := congrArg (fun c : L2Block => { c with blk := a.2.blk, dirty := a.2.dirty }) (ih (performOn a.1 e.1 e.2 a.2))
      exact hi.trans (performOn_attributes ..)
  exact step l (s, b)

theorem performAt_eq (s : State) (rid : Nat) (r : Req) (h : Nat) (b : L2Block) : performAt s rid r h b =
    if (performOn s rid r b).2 = b then touch (performOn s rid r b).1 h b
    else l2Install (performOn s rid r b).1 h (performOn s rid r b).2 ((performOn s rid r b).2.pol == 2) := rfl

theorem performAt_quiet (s : State) (rid : Nat) (r : Req) (h : Nat) (b : L2Block) : Quiet s (performAt s rid r h b) := by
  have hq := performOn_quiet s rid r b
  rw [performAt_eq]
  split
  · exact hq.trans (touch_quiet ..)
  · exact hq.trans (l2Install_quiet ..)

theorem performAt_sole {o : Option Req} (idle : Idle o) (hs : Sole (performOn s rid r b).1.reqs rid o) :
    Sole (performAt s rid r h b).reqs rid o := by
  rw [performAt_eq]
  split
  · rwa [touch_reqs]
  · exact l2Install_sole idle hs ..

/-- A request that is answered with its access stays answered while its block is put back. -/
theorem lookup_performAt_replied {f : Req → Req} {c : L2Block} {vals : List Nat}
    (hdone : performOn s rid r b = (modReq t rid f, c)) (hr : lookup t.reqs rid = some r)
    (hf : (f r).stage = .replied vals) :
    lookup (performAt s rid r h b).reqs rid = some (f r) := by
  refine (performAt_sole (idle_some ?_ ?_) ?_).here
  · rw [hf]
    nofun
  · rw [hf]
    nofun
  · rw [hdone]
    exact sole_adjust hr f

theorem lookup_performAt_dropped {c : L2Block} (hdone : performOn s rid r b = (dropReq t rid, c)) :
    lookup (performAt s rid r h b).reqs rid = none := by
  refine (performAt_sole idle_none ?_).here
  rw [hdone]
  exact sole_remove ..

/-- The slice holds what an access makes of its block, unless it has become too big for its set. -/
theorem holdsBlock_performAt (hb : l2Find s h b.pid b.atag b.vb = some b) (hfit : tooBig s (performOn s rid r b).2 = false) :
    HoldsBlock (performAt s rid r h b) h (performOn s rid r b).2 := by
  rw [performAt_eq]
  split
  · rename_i hcb
    rw [hcb]
    refine holdsBlock_of_l2Find (l2Find_touch ?_)
    rwa [l2Find, performOn_l2]
  · refine holdsBlock_l2Install ?_ ?_ ..
    · rwa [tooBig_of_root (performOn_quiet ..).root]
    · have ha := congrArg L2Block.lv (performOn_attributes s rid r b)
      exact ha.trans (l2Find_isBlock hb).2

end

/-! ### A block that memory answered -/

section
variable {s : State} {rid : Nat}

theorem Sole.map {α : Type} {m : SMap α} {k : Nat} {v : α} (h : Sole m k (some v)) {g : Nat × α → Nat × α}
    (hk : ∀ e, (g e).1 = e.1) (hv : g (k, v) = (k, v)) : Sole (m.map g) k (some v) where
  here := by
    have hl : ∀ m : SMap α, lookup (m.map g) k = (lookup m k).map (fun x => (g (k, x)).2) := by
      intro m
      induction m with
      | nil => rfl
      | cons e m ih =>
        obtain ⟨i, x⟩ := e
        simp only [List.map_cons, lookup_cons, hk, ih]
        split
        · rename_i hi
          subst hi
          rfl
        · rfl
    rw [hl, h.here, Option.map_some, hv]
  only e he hke := by
    obtain ⟨x, hx, rfl⟩ := List.mem_map.mp he
    obtain ⟨i, y⟩ := x
    rw [hk] at hke
    subst hke
    obtain rfl := Option.some.inj (h.only _ hx rfl)
    rw [hv]

theorem idle_toHome (r : Req) : Idle (some { r with stage := .toHome }) := idle_some nofun nofun

theorem cancelFetch_sole {r : Req} (hs : Sole s.reqs rid (some { r with stage := .toHome })) (p a v : Nat) :
    Sole (cancelFetch s p a v).reqs rid (some { r with stage := .toHome }) := by
  refine hs.map (fun e => ?_) rfl
  dsimp only
  split
  · split <;> rfl
  · rfl

/-- The block that memory answered, with the attributes of its leaf (04 R82). -/
def filled (s : State) (pid atag vb pa : Nat) (lf : Leaf) (blk : PBlock) : L2Block :=
  { pid := pid, atag := atag, vb := vb, pa := pa / 128, blk := blk, sp := [], lv := 3, dirty := false, rd := lf.rd,
    wr := lf.wr, ex := lf.ex, comp := lf.comp, pol := lf.pol, gen := slGen s pid, win := inWindow s pid pa }

/-- An installation places the filled block; beside that it may ask for the promotion of a row. -/
theorem installBlock_placed (s : State) (h pid atag vb pa : Nat) (lf : Leaf) (blk : PBlock) (lru : Bool) :
    ∃ d, installBlock s h pid atag vb pa lf blk lru =
      ((l2Place (cancelFetch s pid atag vb) h (filled s pid atag vb pa lf blk) (lru || lf.pol == 2)).2,
       { (l2Place (cancelFetch s pid atag vb) h (filled s pid atag vb pa lf blk) (lru || lf.pol == 2)).1 with dram := d }) := by
  unfold installBlock
  dsimp only
  split
  · split
    · exact ⟨_, rfl⟩
    · exact ⟨_, rfl⟩
  · exact ⟨_, rfl⟩

/-- A block is placed as it is where its set can hold it. -/
theorem l2Place_fits {h : Nat} {b : L2Block} {lru : Bool}
    (hfit : tooBig s { (l2Place s h b lru).2 with blk := b.blk, dirty := b.dirty } = false) :
    l2Place s h b lru = (l2Install s h b lru, b) ∧ tooBig s b = false := by
  unfold l2Place at hfit ⊢
  split at hfit
  · rename_i hbig
    have ha : { (serveOnce s h b).2 with blk := b.blk, dirty := b.dirty } = b :=
      performAll_attributes s b (fun _ => true)
    rw [ha, hbig] at hfit
    cases hfit
  · rename_i hbig
    rw [if_neg hbig]
    exact ⟨rfl, Bool.eq_false_iff.mpr hbig⟩

/-- Where the block of a leaf fits, its installation is the block that memory answered, and the slice holds it. -/
theorem installBlock_fits {v : State} {h pid atag vb pa : Nat} {lf : Leaf} {blk : PBlock} {lru : Bool} {c : L2Block} {r : Req}
    (hi : installBlock s h pid atag vb pa lf blk lru = (c, v)) (hfit : tooBig s { c with blk := blk, dirty := false } = false)
    (hs : Sole s.reqs rid (some { r with stage := .toHome })) :
    c.blk = blk ∧ HoldsBlock v h c ∧ Sole v.reqs rid (some { r with stage := .toHome }) := by
  have idle := idle_toHome r
  obtain ⟨d, hp⟩ := installBlock_placed s h pid atag vb pa lf blk lru
  rw [hi, Prod.mk.injEq] at hp
  obtain ⟨rfl, rfl⟩ := hp
  obtain ⟨hpl, hno⟩ := l2Place_fits (s := cancelFetch s pid atag vb) (b := filled s pid atag vb pa lf blk) hfit
  rw [hpl]
  exact ⟨rfl, holdsBlock_l2Install hno rfl .., l2Install_sole idle (cancelFetch_sole hs ..) ..⟩
end

section
variable {s u : State} {rid : Nat} {r : Req}

/-- A request whose turn it is reaches its home slice (04 R81). -/
theorem exec_homeSliceAccess_toHome (hr : lookup s.reqs rid = some r) (hst : r.stage = .toHome) (hb : behind s rid r = false)
    (hq : queuedBehind s rid r = false) :
    exec (.homeSliceAccess rid) s = .next (arriveReq (bothHalves s rid r leaveCore) rid r) := by
  show execHomeSliceAccess rid s = _
  unfold execHomeSliceAccess
  rw [hr]
  dsimp only
  rw [hst]
  dsimp only
  rw [hb, hq]
  rfl

/-- An accepted request whose turn it is is performed on the block that its home slice holds. -/
theorem exec_homeSliceAccess_accepted {h : Nat} {b : L2Block} (hr : lookup s.reqs rid = some r) (hst : r.stage = .accepted)
    (hb : behind s rid r = false) (ha : regionOf r.va ≠ .aperture)
    (hh : homeHit s r.part r.atag r.vb = (some (h, b), u)) :
    exec (.homeSliceAccess rid) s = .next (performAt u rid r h b) := by
  show execHomeSliceAccess rid s = _
  unfold execHomeSliceAccess
  rw [hr]
  dsimp only
  rw [hst]
  dsimp only
  rw [hb, if_neg Bool.false_ne_true, performReq, windowOf_none ha]
  dsimp only
  rw [hh]

end

/-- Settles O43, by the stage that each event moves a request to and by the block that its home slice then holds. -/
theorem requestsAreServedAtTheirHomes : Obligations.RequestsAreServedAtTheirHomes := by
  refine ⟨?arrives, ?halves, ?performed, ?walked, ?read, ?filled⟩
  case arrives =>
    intro s u rid h r b bs hr hst hbeh hqb ha ht hh htu hru hp hbs hl hf
    have hc : u.cores = s.cores := (homeHit_cores hh).trans (leaveCore_quiet s rid r).cores
    have hcore : coreOf (touch u h b) r.core = coreOf s r.core := by
      rw [(touch_quiet u h b).coreOf, coreOf, coreOf, hc]
    have hexec (hpref : r.op ≠ .pref) : exec (.homeSliceAccess rid) s =
        .next (acceptReq (touch u h b) rid r bs (if b.pol = 0 then some (b.rd, b.wr) else none)) := by
      rw [exec_homeSliceAccess_toHome hr hst hbeh hqb, bothHalves_none ht, arriveReq_hit ha hh, hitReq_permitted hp hbs hpref]
    have htt : twinOf (touch u h b) rid r = none := (twinOf_congr (touch_reqs ..)).trans htu
    refine ⟨fun hs => ⟨_, hexec (isStore_ne_pref hs), ?_⟩, fun hs hpref => ⟨_, hexec hpref, ?_⟩⟩
    · rw [acceptReq, bothHalves_none htt, if_pos hs]
      refine ⟨(touch_quiet u h b).cores.trans hc, ?_⟩
      rw [lookup_setStage, if_pos rfl, touch_reqs, hru]
      rfl
    · rw [acceptReq, bothHalves_none htt, hs, if_neg Bool.false_ne_true]
      have hlook : lookup (modReq (touch u h b) rid fun q => { q with
          stage := .accepted, snap := bs, fill := if b.pol = 0 then some (b.rd, b.wr) else none }).reqs rid = some { r with
            stage := .accepted, sent := true, snap := bs, fill := if b.pol = 0 then some (b.rd, b.wr) else none } := by
        refine (lookup_adjust ..).trans ?_
        rw [if_pos rfl, touch_reqs, hru]
        rfl
      dsimp only
      split
      · exact hlook
      · rw [tellInfl, answerInfl_reqs]
        · exact hlook
        · intro e he
          refine hl e ?_
          rwa [← hcore]
        · intro w hw
          refine hf w (Eq.trans ?_ hw)
          rw [warpAt?, warpAt?, ← hcore]
          rfl
  case halves =>
    rintro s u rid q h r r' p p' b bs _ hr hst hbeh hqb ha ht hs hh htu hs' hru hqu hbs rfl
    have hc : u.cores = s.cores :=
      (homeHit_cores hh).trans ((leaveCore_quiet s rid r).trans (leaveCore_quiet ..)).cores
    have hne := twinOf_ne htu
    have hexec : exec (.homeSliceAccess rid) s = .next (hitReq u rid r h b) := by
      rw [exec_homeSliceAccess_toHome hr hst hbeh hqb, bothHalves_some ht, arriveReq_hit ha hh]
    have stages (t : State) (hreq : t.reqs = u.reqs) (st : Stage) :
        lookup (setStage (setStage t rid st) q st).reqs rid = some { r' with stage := st } ∧
        lookup (setStage (setStage t rid st) q st).reqs q = some { p' with stage := st } := by
      simp only [lookup_setStage, hreq, hru, hqu, if_neg hne, if_neg hne.symm, if_pos, Option.map_some, and_self]
    by_cases hp : permits b.rd b.wr b.ex r.op.need = true
    · rw [if_pos hp]
      rw [hitReq_permitted hp hbs (isStore_ne_pref hs), acceptReq,
        bothHalves_some ((twinOf_congr (touch_reqs ..)).trans htu), if_pos hs, if_pos hs'] at hexec
      exact ⟨_, hexec, (touch_quiet u h b).cores.trans hc, stages _ (touch_reqs ..) _⟩
    · rw [if_neg hp]
      rw [hitReq_forbidden (Bool.eq_false_iff.mpr hp), refuseReq, bothHalves_some htu, isPref_of_isStore hs,
        isPref_of_isStore hs', if_neg Bool.false_ne_true, if_neg Bool.false_ne_true, if_pos hs, if_pos hs'] at hexec
      exact ⟨_, hexec, hc, stages u rfl _⟩
  case performed =>
    intro s u rid h r b bs hr hst hbeh ha hh hru hbs
    have hfound := homeHit_found hh
    obtain ⟨hpid, hatag, hvb⟩ := isBlock_iff.mp (l2Find_isBlock hfound).1
    rw [← hpid, ← hatag, ← hvb] at hfound
    have hexec := exec_homeSliceAccess_accepted hr hst hbeh ha hh
    have hc := (performAt_quiet u rid r h b).cores.trans (homeHit_cores hh)
    have hheld := holdsBlock_performAt (rid := rid) (r := r) hfound
    refine ⟨fun hop => ⟨_, hexec, hc, ?_⟩, fun new hop => ⟨_, _, hexec, hc, ?_, rfl, ?_⟩,
      fun fn ty ops olds last hop hfold => ⟨_, _, _, hexec, hc, rfl, ?_, rfl, ?_⟩⟩
    · exact lookup_performAt_replied (performOn_load hop hbs) hru rfl
    · exact lookup_performAt_dropped (performOn_store hop hst hbs)
    · rwa [performOn_store hop hst hbs] at hheld
    · exact lookup_performAt_replied (performOn_atomic hop hbs hfold) hru rfl
    · rwa [performOn_atomic hop hbs hfold] at hheld
  case walked =>
    intro s u rid h r lf hr hst hhome htlb hw hru
    have hc := (walk_quiet s (xlatUnit h) r.part r.atag r.va.toNat).cores
    rw [hw] at hc
    refine ⟨setStage (tlbAdd u (xlatUnit h) r.part r.atag lf) rid .toHome, ?_, ?_, hc, ?_⟩
    · show execPageWalk rid s = _
      simp only [execPageWalk, hr, hst, hhome, htlb, hw]
      rfl
    · refine (lookup_setStage ..).trans ?_
      rw [if_pos rfl]
      exact congrArg _ hru
    · show (getD [] (put u.tlb _ _) _).head? = _
      rw [getD_put, if_pos rfl]
      rfl
  case read =>
    intro s u rid h r lf l b hr hst hfe hlf hloc hhome hfb hru
    have hc := (fetchBlock_quiet s h l (r.blockPA s lf)).cores
    rw [hfb] at hc
    refine ⟨setStage u rid (.fetched (some b)), ?_, hc, ?_⟩
    · show execMemoryAccess rid s = _
      simp only [execMemoryAccess, hr, hst, hfe, hlf, hloc, hhome, hfb]
      rfl
    · refine (lookup_setStage ..).trans ?_
      rw [if_pos rfl, hru]
      rfl
  case filled =>
    intro s u v rid h r lf b c hr hst hh hhome hlf _ hi hfit hbig
    have sole : Sole u.reqs rid (some { r with stage := .toHome }) := by
      have hs := homeHit_sole (s := setStage s rid .toHome) (idle_toHome r) (sole_adjust hr _) r.part r.atag r.vb
      rwa [hh] at hs
    have hc : v.cores = s.cores := by
      have hq := (installBlock_quiet u h r.part r.atag r.vb (r.blockPA u lf) lf b r.stream).cores
      rw [hi] at hq
      exact hq.trans ((homeHit_cores hh).trans rfl)
    obtain ⟨hblk, hheld, hsole⟩ := installBlock_fits hi hfit sole
    refine ⟨?_, hc, hsole.here, hblk, hheld⟩
    show execL2Fill rid s = _
    simp only [execL2Fill, hr, hst, hh, hhome, hlf, hi, hbig]
    rfl

end Sys2Proof.Machine

/-! # Window registers (22 R507, R508) -/

namespace Sys2Proof.Machine

theorem w32_setW32 (p : Part) (off v o : Nat) :
    (p.setW32 off v).w32 o = if o / 4 = off / 4 then v % 2 ^ 32 else p.w32 o := by
  unfold Part.w32 Part.setW32
  rw [getD_setD]
  split
  · rw [BitVec.toNat_ofNat]
  · rfl

theorem win32_modPart_self (s : State) (part : Nat) (f : Part → Part) (off : Nat) :
    win32 (modPart s part f) part off = (f (partOf s part)).w32 off := by
  rw [win32, partOf_modPart_self]

/-- A partition whose window register alone was set. -/
theorem windowWrote_modPart {s : State} {part off v v' : Nat} {f : Part → Part}
    (hf : f (partOf s part) = (partOf s part).setW32 off v') (hoff : off % 4 = 0) (hv : v' % 2 ^ 32 = v % 2 ^ 32) :
    WindowWrote s (modPart s part f) part [(off, v)] := by
  refine ⟨rfl, fun q hq => ?_, fun k => ?_⟩
  · rw [partOf_modPart, if_neg hq]
  · rw [win32_modPart_self, hf, w32_setW32, List.find?_singleton]
    by_cases hk : off = 4 * k
    · rw [if_pos (by omega), if_pos (beq_iff_eq.mpr hk), hv]
    · rw [if_neg (by omega), if_neg (by simpa using hk), win32]

/-- A whole write of a 32-bit register follows its field rules (22 R507). -/
theorem winWrite_reg4 {off : Nat} (h : regBytes off = 4) (s : State) (part v : Nat) :
    winWrite s part off 4 v = modPart s part (fun p => writeReg4 p off v) := by
  unfold winWrite
  rw [h, if_neg (by decide), if_pos rfl]

/-- A register without field rules takes the value written. -/
theorem windowWrote_plain {off : Nat} (h : off = oMQTAIL ∨ off = oFBHEAD ∨ off = oNQHEAD) (s : State) (part v : Nat) :
    WindowWrote s (winWrite s part off 4 v) part [(off, v)] := by
  have hreg : regBytes off = 4 ∧ off ≠ oMQCTL ∧ off % 4 = 0 := by
    rcases h with rfl | rfl | rfl
    · decide
    · decide
    · decide
  obtain ⟨hbytes, hmqctl, halign⟩ := hreg
  rw [winWrite_reg4 hbytes]
  refine windowWrote_modPart (v' := v % 2 ^ 32) ?_ halign (Nat.mod_mod ..)
  unfold writeReg4
  rw [if_neg hmqctl, if_pos h]

/-! ### Registers of a launch queue (16 R419) -/

section
variable {off q : Nat}

theorem regBytes_queue (hlo : 0x200 ≤ off) (hhi : off < 0x1200) (h : off % 64 = 12 ∨ off % 64 = 28) : regBytes off = 4 := by
  unfold regBytes
  rw [if_neg (by omega), if_pos hhi, if_neg (by omega)]
  rcases h with h | h
  · rw [h]
    rfl
  · rw [h]
    rfl

theorem writeReg4_queue (hlo : 0x200 ≤ off) (hhi : off < 0x1200) (p : Part) (v : Nat) :
    writeReg4 p off v =
      (if off % 64 = 8 then p.setW32 off (keepBits 16 16 (v % 2 ^ 32) + min 12 (nbits (v % 2 ^ 32) 0 4))
       else if off % 64 = 12 then p.setW32 off (v % 2 ^ 32)
       else if off % 64 = 28 then lqstatWrite p ((off - 0x200) / 64) (v % 2 ^ 32)
       else p) := by
  obtain ⟨hmqctl, hplain, hfbctl, hsvctl, hnqcoal, hqpctl⟩ : off ≠ oMQCTL ∧
      ¬ (off = oMQTAIL ∨ off = oFBHEAD ∨ off = oNQHEAD) ∧ off ≠ oFBCTL ∧ off ≠ oSVCTL ∧ off ≠ oNQCOAL ∧ off ≠ oQPCTL := by
    unfold oMQCTL oMQTAIL oFBHEAD oNQHEAD oFBCTL oSVCTL oNQCOAL oQPCTL
    omega
  unfold writeReg4
  rw [if_neg hmqctl, if_neg hplain, if_neg hfbctl, if_neg hsvctl, if_neg hnqcoal, if_neg hqpctl, if_pos ⟨hlo, hhi⟩]

theorem winWrite_lqtail (hq : q < 64) (s : State) (part v : Nat) :
    winWrite s part (oLQTAIL q) 4 v = modPart s part (fun p => p.setW32 (oLQTAIL q) (v % 2 ^ 32)) := by
  have hlo : 0x200 ≤ oLQTAIL q := by unfold oLQTAIL; omega
  have hhi : oLQTAIL q < 0x1200 := by unfold oLQTAIL; omega
  have hm : oLQTAIL q % 64 = 12 := by unfold oLQTAIL; omega
  rw [winWrite_reg4 (regBytes_queue hlo hhi (.inl hm))]
  simp only [writeReg4_queue hlo hhi, hm]
  rfl

theorem winWrite_lqstat (hq : q < 64) (s : State) (part v : Nat) :
    winWrite s part (oLQSTAT q) 4 v = modPart s part (fun p => lqstatWrite p q (v % 2 ^ 32)) := by
  have hlo : 0x200 ≤ oLQSTAT q := by unfold oLQSTAT; omega
  have hhi : oLQSTAT q < 0x1200 := by unfold oLQSTAT; omega
  have hm : oLQSTAT q % 64 = 28 := by unfold oLQSTAT; omega
  have hk : (oLQSTAT q - 0x200) / 64 = q := by unfold oLQSTAT; omega
  rw [winWrite_reg4 (regBytes_queue hlo hhi (.inr hm))]
  simp only [writeReg4_queue hlo hhi, hm, hk]
  rfl

/-- The marks of a queue move only its counts of completed and placed records. -/
theorem advanceMarks_w32 {o : Nat} (hp : o / 4 ≠ oLQPDONE q / 4) (hc : o / 4 ≠ oLQCDONE q / 4) (n : Nat) (p : Part) :
    (advanceMarks q n p).w32 o = p.w32 o := by
  induction n generalizing p with
  | zero => rfl
  | succ n ih =>
    unfold advanceMarks
    dsimp only
    rw [ih]
    generalize hplaced : (if (getD (false, false) p.marks (q * 2 ^ 32 + p.w32 (oLQPDONE q))).1 then
      p.setW32 (oLQPDONE q) (add32 (p.w32 (oLQPDONE q)) 1) else p) = p'
    have keeps : p'.w32 o = p.w32 o := by
      rw [← hplaced]
      split
      · rw [w32_setW32, if_neg hp]
      · rfl
    split
    · exact ((w32_setW32 p' (oLQCDONE q) _ o).trans (if_neg hc)).trans keeps
    · exact keeps

theorem markRecord_w32 {o : Nat} (hp : o / 4 ≠ oLQPDONE q / 4) (hc : o / 4 ≠ oLQCDONE q / 4) (p : Part) (seq : Nat) (c : Bool) :
    (markRecord p q seq c).w32 o = p.w32 o :=
  advanceMarks_w32 hp hc _ { p with marks := put p.marks (q * 2 ^ 32 + seq) (true, c) }

/-- PARK cleared on a parked queue: its record is passed (16 R422). -/
theorem lqstatWrite_unpark {p : Part} {v : Nat} (hp : nbit (p.w32 (oLQSTAT q)) 31 = true) (hv : nbit v 31 = false) :
    (lqstatWrite p q v).w32 (oLQSTAT q) = p.w32 (oLQSTAT q) % 2 ^ 31 ∧
    (lqstatWrite p q v).w32 (oLQHEAD q) = (p.w32 (oLQHEAD q) + 1) % 2 ^ 32 := by
  have hw : lqstatWrite p q v = markRecord ((p.setW32 (oLQHEAD q) (add32 (p.w32 (oLQHEAD q)) 1)).setW32 (oLQSTAT q)
      (p.w32 (oLQSTAT q) % 2 ^ 31)) q (p.w32 (oLQHEAD q)) true := by
    unfold lqstatWrite
    dsimp only
    rw [hp, hv]
    rfl
  have hne : oLQHEAD q / 4 ≠ oLQSTAT q / 4 := by unfold oLQHEAD oLQSTAT; omega
  constructor
  · rw [hw, markRecord_w32 (by unfold oLQSTAT oLQPDONE; omega) (by unfold oLQSTAT oLQCDONE; omega), w32_setW32, if_pos rfl]
    omega
  · rw [hw, markRecord_w32 (by unfold oLQHEAD oLQPDONE; omega) (by unfold oLQHEAD oLQCDONE; omega), w32_setW32, if_neg hne,
      w32_setW32, if_pos rfl, add32]
    omega
end

theorem nbit_31 (x : Nat) : nbit x 31 = decide (x / 2 ^ 31 % 2 = 1) := by
  unfold nbit nbits
  rw [Nat.shiftRight_eq_div_pow, pow_one, Bool.beq_eq_decide_eq]

/-- The field rules of MQCTL: EN as written, LOG2N at most 12 and kept while EN stands (04 R96, R100). -/
theorem mqctlWrite_setW32 (p : Part) (v : Nat) :
    mqctlWrite p (v % 2 ^ 32) = p.setW32 oMQCTL (v / 2 ^ 31 % 2 * 2 ^ 31 +
      if p.w32 oMQCTL / 2 ^ 31 % 2 = 1 then p.w32 oMQCTL % 16 else min 12 (v % 16)) := by
  have hen : keepBits 31 1 (v % 2 ^ 32) = v / 2 ^ 31 % 2 * 2 ^ 31 := by
    unfold keepBits nbits
    rw [Nat.shiftRight_eq_div_pow]
    omega
  have hlow (x : Nat) : nbits x 0 4 = x % 16 := rfl
  have hmod : v % 2 ^ 32 % 16 = v % 16 := by omega
  unfold mqctlWrite
  simp only [hen, hlow, hmod, nbit_31, decide_eq_true_eq]

/-- Settles O48, by the register that each write names and the field rules it follows. -/
theorem windowWritesKeepTheFieldRules : Obligations.WindowWritesKeepTheFieldRules := by
  refine ⟨?mqtail, ?mqctl, ?lqtail, ?lqstat, ?heads, ?dshare, ?dshareKept⟩
  case mqtail =>
    exact fun s part v => ⟨_, rfl, windowWrote_plain (.inl rfl) s part v⟩
  case mqctl =>
    exact fun s part v => ⟨_, congrArg Host.Outcome.next (winWrite_reg4 rfl s part v),
      windowWrote_modPart (mqctlWrite_setW32 _ v) rfl rfl⟩
  case lqtail =>
    intro s part q v hq
    refine ⟨winWrite s part (oLQTAIL q) 4 v, congrArg Host.Outcome.next (if_pos hq), ?_⟩
    rw [winWrite_lqtail hq]
    exact windowWrote_modPart rfl (by unfold oLQTAIL; omega) (Nat.mod_mod ..)
  case lqstat =>
    intro s part q v hq hpark hv
    refine ⟨winWrite s part (oLQSTAT q) 4 v, congrArg Host.Outcome.next (if_pos hq), ?_⟩
    rw [winWrite_lqstat hq, win32_modPart_self, win32_modPart_self]
    refine lqstatWrite_unpark ?_ ?_
    · rw [nbit_31]
      exact decide_eq_true hpark
    · rw [nbit_31]
      exact decide_eq_false (by omega)
  case heads =>
    exact fun s part off v h => ⟨_, rfl, windowWrote_plain h s part v⟩
  case dshare => exact fun s v h => congrArg Host.Outcome.next (if_pos h)
  case dshareKept => exact fun s v h => congrArg Host.Outcome.next (if_neg (Nat.not_le.mpr h))

end Sys2Proof.Machine

/-! # What a step runs (07 R167, 08 R190, 14 R372, 15 R395) -/

namespace Sys2Proof.Machine

section
variable {s t u : State} {rest : List Act}

/-! ### The instruction at a PC -/

theorem headCheck_of_decodeSuric {w lit : DWord} {i : Instr} (h : decodeSuric w lit = .ok i) : headCheck w = none := by
  unfold decodeSuric at h
  split at h
  · cases h
  · assumption

theorem foundOf_ok {w lit : DWord} {i : Instr} (h : decodeSuric w lit = .ok i) :
    foundOf w lit = .ok i (opcodeOf w) (fieldsOf w lit) w (lengthOf w) := by
  unfold foundOf
  rw [h]

/-- A word without a literal is fetched alone. -/
theorem fetchAt_word {core : Nat} {w : Warp} {pc : VA} {bs : List Byte} {word : DWord} {i : Instr}
    (hf : fetchC s core w.part w.asid .inst pc 8 = (.ok bs, u)) (hword : word = BitVec.ofNat 64 (ofBytes bs))
    (hlit : wantsLiteral word = false) (hd : decodeSuric word 0#64 = .ok i) :
    fetchAt s core w pc = (.ok i (opcodeOf word) (fieldsOf word 0#64) word 8, u) := by
  have hlen : lengthOf word = 8 := by rw [lengthOf, hlit]; rfl
  unfold fetchAt
  rw [hf]
  dsimp only
  rw [← hword, headCheck_of_decodeSuric hd, hlit, foundOf_ok hd, hlen]
  rfl

/-- A word that takes a literal is fetched with the eight bytes behind it. -/
theorem fetchAt_literal {v : State} {core : Nat} {w : Warp} {pc : VA} {bs ls : List Byte} {word : DWord} {i : Instr}
    (hf : fetchC s core w.part w.asid .inst pc 8 = (.ok bs, u)) (hword : word = BitVec.ofNat 64 (ofBytes bs))
    (hlit : wantsLiteral word = true) (hl : fetchC u core w.part w.asid .inst (pc + 8#57) 8 = (.ok ls, v))
    (hd : decodeSuric word (BitVec.ofNat 64 (ofBytes ls)) = .ok i) :
    fetchAt s core w pc = (.ok i (opcodeOf word) (fieldsOf word (BitVec.ofNat 64 (ofBytes ls))) word 16, v) := by
  have hlen : lengthOf word = 16 := by rw [lengthOf, hlit]; rfl
  unfold fetchAt
  rw [hf]
  dsimp only
  rw [← hword, headCheck_of_decodeSuric hd, hlit, hl]
  dsimp only
  rw [foundOf_ok hd, hlen]
  rfl

/-! ### The turn of a quadrant -/

/-- A path issues by running its instruction. -/
theorem issueOne_fetched {core ws op len : Nat} {p : PathAt} {i : Instr} {f : Fields} {word : DWord}
    (h : Fetched s u core ws p i op f word len) :
    issueOne s core ws p = exec i (setCur (countIssue u core ws (.ok i op f word len)) core ws p word len) := by
  obtain ⟨hf, hk⟩ := h
  have hy : (Found.ok i op f word len).yields = false := beq_eq_false_iff_ne.mpr hk
  unfold issueOne
  rw [hf]
  dsimp only [runFound]
  rw [hy]
  split
  · rename_i hx
    exact hx.symm
  · rfl

/-- A turn that goes to one path issues that path. -/
theorem issueQuadrant_turn {core q ws : Nat} {p : PathAt} (h : TurnGoesTo s core q ws p t) :
    issueQuadrant s core q = issueOne t core ws p := by
  obtain ⟨_, _, wc, a, rfl, hw, rfl, hp, rfl, rfl, rfl⟩ := h
  unfold issueQuadrant
  dsimp only
  rw [hw]
  dsimp only
  rw [hp]
  dsimp only
  rw [BitVec.or_zero]

/-- The second turn of a pair issues its lanes where they stand. -/
theorem issueSecond_found {core ws : Nat} {mask : Word} {p : PathAt}
    (hp : (pathsOf (warpAt s core ws)).find? (fun p => p.mask &&& mask == mask && mask != 0#32) = some p) :
    issueSecond s core ws mask = issueOne s core ws { p with mask := mask } := by
  unfold issueSecond
  rw [hp]

/-! ### The turn of a line core -/

/-- The slots of a bundle run one after another. -/
theorem runSlots_cons {lc e k : Nat} {w : Word} {ws : List Word} {i : Instr} (hd : decodeSlot k w = some i)
    (hx : exec i { s with cur := .slot lc e k } = .next t) :
    runSlots lc e k (w :: ws) s = runSlots lc e (k + 1) ws t := by
  rw [runSlots, hd]
  dsimp only
  rw [hx]

theorem slotWords_append (a b c d : Word) : slotWords (a ++ b ++ c ++ d) = [a, b, c, d] := by
  have ha : (a ++ b ++ c ++ d).extractLsb' 96 32 = a := (BitVec.extractLsb'_append_eq_of_le (by decide)).trans
    ((BitVec.extractLsb'_append_eq_of_le (by decide)).trans BitVec.extractLsb'_append_eq_left)
  have hb : (a ++ b ++ c ++ d).extractLsb' 64 32 = b := (BitVec.extractLsb'_append_eq_of_le (by decide)).trans
    ((BitVec.extractLsb'_append_eq_of_le (by decide)).trans BitVec.extractLsb'_append_eq_right)
  have hc : (a ++ b ++ c ++ d).extractLsb' 32 32 = c :=
    (BitVec.extractLsb'_append_eq_of_le (by decide)).trans BitVec.extractLsb'_append_eq_right
  have hd : (a ++ b ++ c ++ d).extractLsb' 0 32 = d := BitVec.extractLsb'_append_eq_right
  exact congr (congrArg _ ha) (congr (congrArg _ hb) (congr (congrArg _ hc) (congrArg (fun x => [x]) hd)))

/-- A bundle whose slots neither wait nor trap is committed. -/
theorem issueBundle_ok {lc e : Nat}
    (hrun : runSlots lc e 0 (slotWords (bundleAt (lineOf s lc) e))
      (modLine s lc (fun l => { l with fx := [], bst := .ok, took := none })) = .next t) (hok : (lineOf t lc).bst = .ok) :
    issueBundle s lc e = .next (commitBundle t lc e) := by
  have hb : bundleAt (lineOf (modLine s lc (fun l => { l with fx := [], bst := .ok, took := none })) lc) e =
      bundleAt (lineOf s lc) e := by
    rw [lineOf_modLine_self]
    rfl
  unfold issueBundle
  dsimp only
  rw [hb, hrun]
  dsimp only
  rw [hok]

/-- A line core's turn in which its engine's bundle issues. -/
theorem lineTurn_issues {lc e : Nat} (he : e = (lineOf s lc).nextEng) (hi : engineIssues (lineOf s lc) e = true)
    (hl : bandLives s lc = true) (hb : issueBundle s lc e = .next t) :
    lineTurn s lc = .next (if 3 ≤ e then endCycle t lc else modLine t lc (fun l => { l with nextEng := e + 1 })) := by
  unfold lineTurn
  dsimp only
  rw [← he, hi, hl, hb]
  rfl

/-! ### The entries of the agenda -/

theorem step_performs {a : Act} (h : s.agenda = a :: rest) (hr : heldStill a s = false) :
    step s = perform a { s with agenda := rest, tick := s.tick + 1 } ∧
      heldStill a { s with agenda := rest, tick := s.tick + 1 } = false := by
  unfold step
  rw [h]
  exact ⟨rfl, hr⟩

theorem heldStill_of_running {a : Act} (h : s.root.heldInReset = false) : heldStill a s = false := by
  unfold heldStill
  rw [h]
  rfl

theorem heldStill_reset {i : Instr} (h : i = .coldReset ∨ i = .warmReset) : heldStill (.event i) s = false := by
  unfold heldStill
  rcases h with rfl | rfl
  · simp
  · simp

theorem step_issue {core q : Nat} (h : s.agenda = .issue core q :: rest) (hr : s.root.heldInReset = false) :
    step s = issueQuadrant { s with agenda := rest, tick := s.tick + 1 } core q := by
  obtain ⟨hs, hh⟩ := step_performs h (heldStill_of_running hr)
  rw [hs, perform, hh, if_neg Bool.false_ne_true]

theorem step_pair {core ws : Nat} {mask : Word} (h : s.agenda = .pair core ws mask :: rest) (hr : s.root.heldInReset = false) :
    step s = issueSecond { s with agenda := rest, tick := s.tick + 1 } core ws mask := by
  obtain ⟨hs, hh⟩ := step_performs h (heldStill_of_running hr)
  rw [hs, perform, hh, if_neg Bool.false_ne_true]

theorem step_line {lc : Nat} (h : s.agenda = .line lc :: rest) (hr : s.root.heldInReset = false) :
    step s = lineTurn { s with agenda := rest, tick := s.tick + 1 } lc := by
  obtain ⟨hs, hh⟩ := step_performs h (heldStill_of_running hr)
  rw [hs, perform, hh, if_neg Bool.false_ne_true]

theorem step_event {i : Instr} (h : s.agenda = .event i :: rest) (hi : isEvent i = true) (hr : heldStill (.event i) s = false) :
    step s = exec i { s with agenda := rest, tick := s.tick + 1 } := by
  obtain ⟨hs, hh⟩ := step_performs h hr
  rw [hs, perform, hh, if_neg Bool.false_ne_true]
  exact if_pos hi

end

/-- Settles O56, by the entry of the agenda that acts and the way from it to `exec`. -/
theorem stepRunsTheDecodedInstruction : Obligations.StepRunsTheDecodedInstruction := by
  refine ⟨?fetch, ?quadrant, ?second, ?bundle, ?event, ?nothing⟩
  case fetch =>
    exact fun s u core w pc bs word i hf hword => ⟨fun hlit hd => ⟨_, _, fetchAt_word hf hword hlit hd, rfl⟩,
      fun ls v hlit hl hd => ⟨_, _, fetchAt_literal hf hword hlit hl hd, rfl⟩⟩
  case quadrant =>
    intro s t u rest core q ws op len p i f word hag hr hturn hf
    rw [step_issue hag hr, issueQuadrant_turn hturn, issueOne_fetched hf]
  case second =>
    intro s u rest core ws op len mask p i f word hag hr hp hf
    have hsecond := issueSecond_found (s := { s with agenda := rest, tick := s.tick + 1 }) hp
    exact (step_pair hag hr).trans (hsecond.trans (issueOne_fetched (p := { p with mask := mask }) hf))
  case bundle =>
    rintro s _ t₀ t₁ t₂ t₃ rest lc e i₀ i₁ i₂ i₃ w₀ w₁ w₂ w₃ hag hr he hi hl rfl hb hd₀ hd₁ hd₂ hd₃ hx₀ hx₁ hx₂ hx₃ hok
    have hrun : runSlots lc e 0 [w₀, w₁, w₂, w₃] (modLine { s with agenda := rest, tick := s.tick + 1 } lc
        (fun l => { l with fx := [], bst := .ok, took := none })) = .next t₃ := by
      rw [runSlots_cons (k := 0) hd₀ hx₀, runSlots_cons (k := 1) hd₁ hx₁, runSlots_cons (k := 2) hd₂ hx₂,
        runSlots_cons (k := 3) hd₃ hx₃, runSlots]
    rw [← slotWords_append, ← hb] at hrun
    have hissue := issueBundle_ok (s := { s with agenda := rest, tick := s.tick + 1 }) hrun hok
    exact (step_line hag hr).trans (lineTurn_issues he hi hl hissue)
  case event =>
    intro s rest i hag hi hr
    refine step_event hag hi ?_
    rcases hr with hr | hr
    · exact heldStill_of_running hr
    · exact heldStill_reset hr
  case nothing =>
    intro s hag
    unfold step
    rw [hag]

end Sys2Proof.Machine

/-! # The engines at their rings (05 R114 to R136) -/

namespace Sys2Proof.Machine

/-! ### Bytes and the numbers they spell -/

@[simp] theorem length_toBytes (n v : Nat) : (toBytes n v).length = n := by
  induction n generalizing v with
  | zero => rfl
  | succ n ih => rw [toBytes, List.length_cons, ih]

@[simp] theorem length_readRun (m : SMap Byte) (a n : Nat) : (readRun m a n).length = n := by
  induction n generalizing a with
  | zero => rfl
  | succ n ih => rw [readRun, List.length_cons, ih]

theorem ofBytes_toBytes (n v : Nat) : ofBytes (toBytes n v) = v % 256 ^ n := by
  induction n generalizing v with
  | zero => simp [toBytes, ofBytes, Nat.mod_one]
  | succ n ih => rw [toBytes, ofBytes, ih, BitVec.toNat_ofNat, Nat.pow_succ' (m := 256), Nat.mod_mul]

theorem ofBytes_lt (bs : List Byte) : ofBytes bs < 256 ^ bs.length := by
  induction bs with
  | nil => exact Nat.one_pos
  | cons b bs ih =>
    have hb := b.isLt
    rw [ofBytes, List.length_cons, Nat.pow_succ']
    omega

theorem ofBytes_append (bs cs : List Byte) : ofBytes (bs ++ cs) = ofBytes bs + 256 ^ bs.length * ofBytes cs := by
  induction bs with
  | nil => simp [ofBytes]
  | cons b bs ih =>
    rw [List.cons_append, ofBytes, ofBytes, ih, List.length_cons, Nat.pow_succ', Nat.mul_add, Nat.add_assoc, Nat.mul_assoc]

theorem readRun_add (m : SMap Byte) (a i j : Nat) : readRun m a (i + j) = readRun m a i ++ readRun m (a + i) j := by
  induction i generalizing a with
  | zero => simp [readRun]
  | succ i ih =>
    rw [Nat.add_right_comm, readRun, ih, readRun, List.cons_append, Nat.add_right_comm a 1 i, Nat.add_assoc a i 1]

theorem readRun_congr {m m' : SMap Byte} {a n : Nat} (h : ∀ o, a ≤ o → o < a + n → getD 0#8 m o = getD 0#8 m' o) :
    readRun m a n = readRun m' a n := by
  induction n generalizing a with
  | zero => rfl
  | succ n ih =>
    rw [readRun, readRun, h a (Nat.le_refl a) (by omega), ih (fun o ho ho' => h o (by omega) (by omega))]

theorem getD_readRun (m : SMap Byte) (a n i : Nat) (hi : i < n) : (readRun m a n).getD i 0#8 = getD 0#8 m (a + i) := by
  induction n generalizing a i with
  | zero => omega
  | succ n ih =>
    cases i with
    | zero => rfl
    | succ i =>
      rw [readRun, List.getD_cons_succ, ih _ _ (by omega), Nat.add_assoc, Nat.add_comm 1 i]

/-- A number of four bytes written is read back modulo 2^32. -/
theorem readRun_writeRun_word (m : SMap Byte) (a v : Nat) :
    ofBytes (readRun (writeRun m a (toBytes 4 v)) a 4) = v % 2 ^ 32 := by
  have h := readRun_writeRun m a (toBytes 4 v)
  rw [length_toBytes] at h
  rw [h, ofBytes_toBytes]
  rfl

/-- What stands elsewhere is not touched by a run of writes. -/
theorem readRun_writeRun_apart (m : SMap Byte) (a b n : Nat) (bs : List Byte) (h : b + n ≤ a ∨ a + bs.length ≤ b) :
    readRun (writeRun m a bs) b n = readRun m b n :=
  readRun_congr fun o ho ho' => by rw [getD_writeRun, if_neg (by omega)]

/-- The 8 bytes of a doubleword are two words. -/
theorem ofBytes_readRun_halves (m : SMap Byte) (a : Nat) :
    ofBytes (readRun m a 8) = ofBytes (readRun m a 4) + 2 ^ 32 * ofBytes (readRun m (a + 4) 4) := by
  rw [show (8 : Nat) = 4 + 4 from rfl, readRun_add, ofBytes_append, length_readRun]
  rfl

theorem nbits_zero (x n : Nat) : nbits x 0 n = x % 2 ^ n := rfl

theorem low_readRun (m : SMap Byte) (a : Nat) : nbits (ofBytes (readRun m a 8)) 0 32 = ofBytes (readRun m a 4) := by
  have h := ofBytes_lt (readRun m a 4)
  rw [length_readRun] at h
  rw [nbits_zero, ofBytes_readRun_halves]
  omega

theorem high_readRun (m : SMap Byte) (a : Nat) : nbits (ofBytes (readRun m a 8)) 32 32 = ofBytes (readRun m (a + 4) 4) := by
  have h := ofBytes_lt (readRun m a 4)
  have h' := ofBytes_lt (readRun m (a + 4) 4)
  rw [length_readRun] at h h'
  rw [ofBytes_readRun_halves, nbits, Nat.shiftRight_eq_div_pow]
  omega

/-! ### What a chunk or a ring leaves of the state -/

section
variable {s t u : State} {x : EngAt} {y : Group} {ring : Nat}

theorem EngAt.onlyGroup_mod (h : x.group s = some y) (f : Group → Group) : OnlyGroup s (x.mod s f) x.core x.gslot (f y) := by
  intro a b
  rw [EngAt.mod, groupAt_modGroup]
  split
  · next hab =>
    obtain ⟨rfl, rfl⟩ := hab
    rw [show groupAt s x.core x.gslot = some y from h]
    rfl
  · rfl

theorem EngAt.undisturbed_mod (x : EngAt) (s : State) (f : Group → Group) : Undisturbed s (x.mod s f) :=
  ⟨rfl, rfl, rfl, rfl, rfl, rfl⟩

theorem ringOf_setRing (y : Group) (ring : Nat) (r : Ring) : ringOf (setRing y ring r) ring = r := getD_setD_self ..

/-- What an event leaves that only writes down the progress of its ring. -/
theorem ring_written {o : Host.Outcome State Fault Refusal} {f : Group → Ring} (h : x.group s = some y)
    (ho : o = .next (x.mod s (fun g => setRing g x.ring (f g)))) :
    ∃ t y', o = .next t ∧ OnlyGroup s t x.core x.gslot y' ∧ Undisturbed s t ∧ { y' with rings := y.rings } = y ∧
      ringOf y' x.ring = f y :=
  ⟨_, _, ho, x.onlyGroup_mod h _, x.undisturbed_mod s _, rfl, ringOf_setRing ..⟩

theorem EngAt.group_mod (h : x.group s = some y) (f : Group → Group) : x.group (x.mod s f) = some (f y) :=
  (x.onlyGroup_mod h f _ _).trans (if_pos ⟨rfl, rfl⟩)

theorem spadByte_setRing (x : EngAt) (s : State) (f : Group → Ring) (a k o : Nat) :
    spadByte (x.mod s (fun g => setRing g x.ring (f g))) a k o = spadByte s a k o := by
  unfold spadByte EngAt.mod
  rw [groupAt_modGroup]
  split
  · rw [Option.map_map]; rfl
  · rfl

/-- The scratchpads after bytes were written to one of them. -/
theorem spadByte_spadWrite {c g : Nat} (h : groupAt s c g = some y) (p : Nat) (bs : List Byte) (a k o : Nat) :
    spadByte (modGroup s c g (fun y => spadWrite y p bs)) a k o =
      if a = c ∧ k = g ∧ p ≤ o ∧ o < p + bs.length then some (nthD 0#8 bs (o - p)) else spadByte s a k o := by
  unfold spadByte
  rw [groupAt_modGroup]
  by_cases hg : a = c ∧ k = g
  · obtain ⟨rfl, rfl⟩ := hg
    rw [h, if_pos ⟨rfl, rfl⟩]
    simp only [Option.map_some, true_and, spadWrite, getD_writeRun, nthD, ← apply_ite some]
  · rw [if_neg hg, if_neg (by tauto)]

/-! ### Uncorrectable words -/

theorem spadBad_nil (h : y.spadErr = []) (o n : Nat) : spadBad y o n = false := by
  unfold spadBad
  rw [h]
  rfl

theorem entryBad_nil (h : y.spadErr = []) (ring : Nat) : entryBad y ring = false := spadBad_nil h ..

theorem cmdBad_nil (h : y.spadErr = []) (e : Entry) : cmdBad y e = false := by
  simp [cmdBad, spadBad_nil h]

/-! ### A turn of an engine -/

theorem exec_engineCommand {i : Instr} {opc : Nat} (h : engineCommand i = some (x, opc)) (s : State) :
    exec i s = .next (engineTurn x.core x.gslot x.ring opc s) := by
  unfold engineCommand at h
  split at h <;> cases h <;> rfl

theorem engineTurn_serves {opc : Nat} (h : x.group s = some y) (hs : engineServes y x.ring = true) (he : y.spadErr = []) :
    engineTurn x.core x.gslot x.ring opc s = if (ringOf y x.ring).act then moveChunk x y opc s else startCmd x y opc s := by
  have h' : EngAt.group ⟨x.core, x.gslot, x.ring⟩ s = some y := h
  unfold engineTurn
  simp only [h', hs, entryBad_nil he, cmdBad_nil he, Bool.and_false, Bool.not_true, Bool.false_eq_true, if_false]

/-- The command at HEAD, its wait over, is put into progress (05 R117, R118). -/
theorem startCmd_starts {c : Cmd} {ds : List Nat} (hc : c = cmdAt y (ringEntry y x.ring)) (hok : cmdOk x.ring c = true)
    (hw : hWsem c.h ≤ y.rec_.sems) (hss : hSsem c.h ≤ y.rec_.sems) (ht : hThr c.h ≤ semGet y (hWsem c.h))
    (hd : x.ring = 2 ∧ ds = [] ∨ x.ring ≠ 2 ∧ startDescr y c = .ok ds) :
    startCmd x y c.opc s = x.mod s (fun g => setRing g x.ring { Ring.init with
      used := true, act := true, fin := cmdTotal ds x.ring c == 0, owes := (ringOf g x.ring).owes, descr := ds }) := by
  have hds : (if x.ring = 2 then .ok [] else startDescr y c) = .ok ds := by
    rcases hd with ⟨h2, rfl⟩ | ⟨h2, hd⟩
    · exact if_pos h2
    · rw [if_neg h2, hd]
  unfold startCmd
  rw [← hc]
  simp only [bne_self_eq_false, Bool.and_false, Bool.false_eq_true, if_false, hok, Bool.not_true, Nat.not_lt.mpr hw, Nat.not_lt.mpr hss,
    or_self, Nat.not_lt.mpr ht, hds]

/-- A chunk that moves is the next one of the command in progress. -/
theorem moveChunk_moves {c : Cmd} {r : Ring} (hc : c = cmdAt y (ringEntry y x.ring)) (hr : r = ringOf y x.ring) (hf : r.fin = false)
    (hm : r.moved = r.cursor)
    (hk : (if x.ring = 2 then saeWindow x c r.pass r.cursor s else transferChunk x c r.cursor s) = (.ok (), u)) :
    moveChunk x y c.opc s = x.mod u (fun g => setRing g x.ring { ringOf g x.ring with moved := r.cursor + 1 }) := by
  unfold moveChunk
  rw [← hc, ← hr]
  simp only [hf, hm, hk, bne_self_eq_false, Bool.or_self, Bool.false_eq_true, if_false]

/-! ### Completion of a chunk, without a barrier and with one -/

/-- The progress of a command once the chunk at its cursor counts (05 R131, R135). -/
def Ring.counted (r : Ring) (ring : Nat) (c : Cmd) : Ring :=
  if r.cursor + 1 < cmdTotal r.descr ring c then { r with cursor := r.cursor + 1 }
  else if r.pass + 1 < cmdPasses ring c then { r with pass := r.pass + 1, cursor := 0, moved := 0 }
  else { r with cursor := r.cursor + 1, fin := true }

theorem exec_chunkCompletion {core g : Nat} {c : Cmd} {r : Ring} (hg : groupAt s core g = some y) (h3 : ring < 3)
    (hr : r = ringOf y ring) (ha : r.act = true) (hm : r.cursor < r.moved) (he : y.spadErr = [])
    (hc : c = cmdAt y (ringEntry y ring)) :
    exec (.chunkCompletion core g ring) s = .next (EngAt.mod ⟨core, g, ring⟩
      (if hBar c.h then updateObj s (core, g, c.barOff) (-(chunkBytes r.descr c r.cursor : Int)) false else s)
      (fun z => setRing z ring (r.counted ring c))) := by
  have hx : EngAt.group ⟨core, g, ring⟩ s = some y := hg
  show execChunkCompletion core g ring s = _
  unfold execChunkCompletion
  simp only [hx, ← hr, ← hc, ha, hm, h3, entryBad_nil he, cmdBad_nil he, spadBad_nil he, decide_true, Bool.and_self, Bool.not_true,
    Bool.false_eq_true, if_false, Bool.or_self, Bool.and_false, Ring.counted]

end

/-! ### The release of the lanes that wait for a barrier object (05 R129, 10 R284)

Every change that the release makes is one of three kinds: a lane that waits for the phase goes on, what lanes have seen of others'
stores grows, an L1 is emptied. `Releases` says so of two states, whatever came between them. -/

section
variable {s t u : State} {c k o : Nat} {ph : Bool}

/-- Whether a warp of core `a` and group slot `gs` with a lane in wait `wt` has it wait for the object's phase. -/
def waitsAt (s : State) (c k o : Nat) (ph : Bool) (a : Nat) (gs : Option Nat) (wt : LWait) : Bool :=
  match gs with
  | some g => (match groupAt s a g with
    | some own => waitsFor own a g c k o ph wt
    | none => false)
  | none => false

/-- Lane `l` of the warp in slot `ws` of core `a`, in group slot `gs`, is `v` apart from what it has seen. -/
def LaneIs (s : State) (a ws l : Nat) (gs : Option Nat) (v : Lane) : Prop :=
  ∃ w u, warpAt? s a ws = some w ∧ w.gslot = gs ∧ lookup w.lanes l = some u ∧ u.unseen = v

/-- From `s` to `t` lanes that wait for the object's phase may have been released, and no others changed. -/
structure Releases (c k o : Nat) (ph : Bool) (s t : State) : Prop where
  groups : SameGroups s t
  quiet : Undisturbed s t
  lane : ∀ {a ws l gs v}, LaneIs s a ws l gs v → LaneIs t a ws l gs v ∨
    waitsAt s c k o ph a gs v.wait = true ∧ LaneIs t a ws l gs (releaseLane 8 v).unseen

theorem waitsAt_congr (h : SameGroups s t) (a : Nat) (gs : Option Nat) (wt : LWait) :
    waitsAt t c k o ph a gs wt = waitsAt s c k o ph a gs wt := by
  unfold waitsAt
  cases gs with
  | none => rfl
  | some g => dsimp only; rw [h a g]

/-- A released lane waits for no object. -/
theorem waitsAt_releaseLane (s : State) (a : Nat) (gs : Option Nat) (n : Nat) (v : Lane) :
    waitsAt s c k o ph a gs (releaseLane n v).unseen.wait = false := by
  have hw : (releaseLane n v).unseen.wait = .passed ∨ (releaseLane n v).unseen.wait = .none := by
    unfold releaseLane
    split
    · exact .inl rfl
    · exact .inr rfl
  unfold waitsAt
  cases gs with
  | none => rfl
  | some g =>
    dsimp only
    cases groupAt s a g with
    | none => rfl
    | some own => rcases hw with hw | hw <;> rw [hw] <;> rfl

theorem unseen_releaseLane (n : Nat) (v : Lane) : (releaseLane n v.unseen).unseen = (releaseLane n v).unseen := by
  unfold releaseLane Lane.unseen
  cases v.trp <;> rfl

theorem Undisturbed.refl (s : State) : Undisturbed s s := ⟨rfl, rfl, rfl, rfl, rfl, rfl⟩

theorem Undisturbed.trans (h : Undisturbed s t) (h' : Undisturbed t u) : Undisturbed s u where
  root := h'.root.trans h.root
  dram := h'.dram.trans h.dram
  l2 := h'.l2.trans h.l2
  parts := h'.parts.trans h.parts
  heads := h'.heads.trans h.heads
  lcs := h'.lcs.trans h.lcs

theorem Releases.refl (s : State) : Releases c k o ph s s := ⟨fun _ _ => rfl, .refl s, .inl⟩

/-- A lane once released stays as it is. -/
theorem Releases.released (h : Releases c k o ph s t) {a ws l n : Nat} {gs : Option Nat} {v : Lane}
    (hv : LaneIs s a ws l gs (releaseLane n v).unseen) : LaneIs t a ws l gs (releaseLane n v).unseen := by
  rcases h.lane hv with h | ⟨hw, -⟩
  · exact h
  · rw [waitsAt_releaseLane] at hw
    cases hw

theorem Releases.trans (h : Releases c k o ph s t) (h' : Releases c k o ph t u) : Releases c k o ph s u where
  groups a b := (h'.groups a b).trans (h.groups a b)
  quiet := h.quiet.trans h'.quiet
  lane hv := by
    rcases h.lane hv with hv | ⟨hw, hv⟩
    · rcases h'.lane hv with hv | ⟨hw, hv⟩
      · exact .inl hv
      · exact .inr ⟨waitsAt_congr h.groups .. ▸ hw, hv⟩
    · exact .inr ⟨hw, h'.released hv⟩

theorem Releases.foldl {α : Type} {f : State → α → State} {l : List α} (h : ∀ t, ∀ e ∈ l, Releases c k o ph t (f t e))
    (s : State) : Releases c k o ph s (l.foldl f s) :=
  List.foldlRecOn l f (motive := Releases c k o ph s) (.refl s) fun t ht e he => ht.trans (h t e he)

/-- A fold of releases has released a lane that one of its steps releases. -/
theorem Releases.foldl_lane {α : Type} {f : State → α → State} {l : List α} {e : α} (he : e ∈ l)
    (h : ∀ t, ∀ e ∈ l, Releases c k o ph t (f t e)) {a ws j : Nat} {gs : Option Nat} {v : Lane}
    (hit : ∀ t, SameGroups s t → LaneIs t a ws j gs v → LaneIs (f t e) a ws j gs (releaseLane 8 v).unseen)
    (hv : LaneIs s a ws j gs v) : LaneIs (l.foldl f s) a ws j gs (releaseLane 8 v).unseen := by
  obtain ⟨as, bs, rfl⟩ := List.append_of_mem he
  rw [List.foldl_append, List.foldl_cons]
  have has : Releases c k o ph s (as.foldl f s) := .foldl (fun t e he => h t e (List.mem_append_left _ he)) s
  refine (Releases.foldl (fun t e he => h t e (List.mem_append_right _ (.tail _ he))) _).released (c := c) (k := k) (o := o) (ph := ph) ?_
  rcases has.lane hv with hv | ⟨-, hv⟩
  · exact hit _ has.groups hv
  · exact (h _ e he).released hv

/-! A warp's release, a core's, and that of all cores. -/

/-- A warp of core `core`, its lanes that wait for the phase released. -/
def releaseLanes (c k o : Nat) (ph : Bool) (core ws : Nat) (s : State) (w : Warp) : Warp :=
  match w.gslot with
  | some g => (match groupAt s core g with
    | some own => { w with lanes := w.lanes.map (fun l =>
        if waitsFor own core g c k o ph l.2.wait then (l.1, releaseLane 8 (l.2.sees s (groupWrites s core ws))) else l) }
    | none => w)
  | none => w

/-- The warp of a slot released. -/
def releaseWarp (c k o : Nat) (ph : Bool) (core : Nat) (s : State) (e : Nat × Warp) : State :=
  modWarp s core e.1 (releaseLanes c k o ph core e.1 s)

/-- Warps of a core that have a lane to release. -/
def releaseHits (c k o : Nat) (ph : Bool) (s : State) (e : Nat × Core) : SMap Warp :=
  e.2.warps.filter (fun w => match w.2.gslot with
    | some g => (match groupAt s e.1 g with
      | some own => w.2.lanes.any (fun l => waitsFor own e.1 g c k o ph l.2.wait)
      | none => false)
    | none => false)

/-- A core whose waiting warps are released, an acquire at QUAD scope with a neighbour's object (10 R285). -/
def releaseCore (c k o : Nat) (ph : Bool) (s : State) (e : Nat × Core) : State :=
  let hits := releaseHits c k o ph s e
  let t := hits.foldl (releaseWarp c k o ph e.1) s
  if hits.any (fun w => w.2.lanes.any (fun l => match l.2.wait with | .barObj true _ _ => true | _ => false)) then
    invalidateL1 t e.1
  else t

theorem releaseObj_eq (s : State) (c k o : Nat) (ph : Bool) : releaseObj s c k o ph = s.cores.foldl (releaseCore c k o ph) s := rfl

theorem gslot_releaseLanes (core ws : Nat) (w : Warp) : (releaseLanes c k o ph core ws s w).gslot = w.gslot := by
  unfold releaseLanes
  split
  · split <;> rfl
  · rfl

theorem lookup_releaseLanes (core ws : Nat) (w : Warp) (l : Nat) :
    (lookup (releaseLanes c k o ph core ws s w).lanes l).map Lane.unseen = (lookup w.lanes l).map (fun u =>
      if waitsAt s c k o ph core w.gslot u.unseen.wait then (releaseLane 8 u.unseen).unseen else u.unseen) := by
  cases hg : w.gslot with
  | none => simp only [releaseLanes, waitsAt, hg]; rfl
  | some g =>
    cases ho : groupAt s core g with
    | none => simp only [releaseLanes, waitsAt, hg, ho]; rfl
    | some own =>
      have hmap := lookup_mapVal w.lanes (fun _ u => if waitsFor own core g c k o ph u.wait
        then releaseLane 8 (u.sees s (groupWrites s core ws)) else u) l
      simp only [apply_ite (Prod.mk _)] at hmap
      simp only [releaseLanes, waitsAt, hg, ho]
      refine (congrArg (Option.map Lane.unseen) hmap).trans ?_
      rw [Option.map_map]
      refine Option.map_congr fun u _ => ?_
      rw [Function.comp, apply_ite Lane.unseen, unseen_releaseLane, ← unseen_releaseLane 8 (u.sees s _)]
      exact if_congr Iff.rfl (unseen_releaseLane 8 u) rfl

/-- What a warp's release makes of any lane of any warp. -/
theorem laneIs_releaseWarp {a ws l : Nat} {gs : Option Nat} {v : Lane} (core : Nat) (e : Nat × Warp) (h : LaneIs s a ws l gs v) :
    LaneIs (releaseWarp c k o ph core s e) a ws l gs
      (if a = core ∧ ws = e.1 ∧ waitsAt s c k o ph a gs v.wait = true then (releaseLane 8 v).unseen else v) := by
  obtain ⟨w, u, hw, rfl, hu, rfl⟩ := h
  by_cases hat : a = core ∧ ws = e.1
  · obtain ⟨rfl, rfl⟩ := hat
    have hlane := lookup_releaseLanes (c := c) (k := k) (o := o) (ph := ph) (s := s) a e.1 w l
    rw [hu, Option.map_some, Option.map_eq_some_iff] at hlane
    obtain ⟨u', hu', hv⟩ := hlane
    refine ⟨_, u', ?_, gslot_releaseLanes a e.1 w, hu', ?_⟩
    · rw [releaseWarp, warpAt?_modWarp_self, hw, Option.map_some]
    · simpa using hv
  · rw [if_neg (by tauto)]
    refine ⟨w, u, ?_, rfl, hu, rfl⟩
    rw [releaseWarp, warpAt?_modWarp, if_neg hat, hw]

theorem releases_releaseWarp (core : Nat) (s : State) (e : Nat × Warp) : Releases c k o ph s (releaseWarp c k o ph core s e) where
  groups a b := groupAt_modWarp ..
  quiet := ⟨rfl, rfl, rfl, rfl, rfl, rfl⟩
  lane {a ws l gs v} hv := by
    have hlane := laneIs_releaseWarp (c := c) (k := k) (o := o) (ph := ph) core e hv
    split at hlane
    · next hw => exact .inr ⟨hw.2.2, hlane⟩
    · exact .inl hlane

theorem coreOf_invalidateL1 (s : State) (core a : Nat) :
    coreOf (invalidateL1 s core) a = if a = core then { coreOf s a with l1 := [] } else coreOf s a :=
  coreOf_modCore s core a (fun c => { c with l1 := [] })

theorem releases_invalidateL1 (s : State) (core : Nat) : Releases c k o ph s (invalidateL1 s core) where
  groups a b := by
    rw [groupAt, coreOf_invalidateL1]
    split <;> rfl
  quiet := ⟨rfl, rfl, rfl, rfl, rfl, rfl⟩
  lane {a ws l gs v} hv := by
    obtain ⟨w, u, hw, hrest⟩ := hv
    refine .inl ⟨w, u, ?_, hrest⟩
    rw [← hw, warpAt?, coreOf_invalidateL1]
    split <;> rfl

theorem releases_releaseCore (s : State) (e : Nat × Core) : Releases c k o ph s (releaseCore c k o ph s e) := by
  have hits : Releases c k o ph s ((releaseHits c k o ph s e).foldl (releaseWarp c k o ph e.1) s) :=
    .foldl (fun t w _ => releases_releaseWarp e.1 t w) s
  unfold releaseCore
  dsimp only
  split
  · exact hits.trans (releases_invalidateL1 ..)
  · exact hits

/-- A core's release reaches the waiting lanes of the warps that it lists. -/
theorem laneIs_releaseCore {a ws l : Nat} {core : Core} {w : Warp} {u : Lane} (hw : (ws, w) ∈ core.warps) (hu : (l, u) ∈ w.lanes)
    (hwait : waitsAt s c k o ph a w.gslot u.wait = true) (hv : LaneIs s a ws l w.gslot u.unseen) :
    LaneIs (releaseCore c k o ph s (a, core)) a ws l w.gslot (releaseLane 8 u.unseen).unseen := by
  have hit : (ws, w) ∈ releaseHits c k o ph s (a, core) := by
    refine List.mem_filter.mpr ⟨hw, ?_⟩
    unfold waitsAt at hwait
    revert hwait
    dsimp only
    cases w.gslot with
    | none => exact id
    | some g =>
      dsimp only
      cases groupAt s a g with
      | none => exact id
      | some own => exact fun hwait => List.any_eq_true.mpr ⟨(l, u), hu, hwait⟩
  have hits := Releases.foldl_lane (f := releaseWarp c k o ph a) hit (fun t e _ => releases_releaseWarp a t e)
    (fun t hg hv => by
      have hlane := laneIs_releaseWarp (c := c) (k := k) (o := o) (ph := ph) a (ws, w) hv
      rwa [if_pos ⟨rfl, rfl, (waitsAt_congr hg ..).trans hwait⟩] at hlane) hv
  unfold releaseCore
  dsimp only
  split
  · exact (releases_invalidateL1 (c := c) (k := k) (o := o) (ph := ph) _ a).released hits
  · exact hits

theorem releases_releaseObj (s : State) (c k o : Nat) (ph : Bool) : Releases c k o ph s (releaseObj s c k o ph) :=
  .foldl (fun t e _ => releases_releaseCore t e) s

/-- The core that holds a warp is listed. -/
theorem mem_cores_of_warpAt? {a ws : Nat} {w : Warp} (h : warpAt? s a ws = some w) : (a, coreOf s a) ∈ s.cores := by
  unfold warpAt? at h
  cases hc : lookup s.cores a with
  | none =>
    rw [coreOf, getD, hc] at h
    cases h
  | some core =>
    rw [coreOf, getD, hc]
    exact mem_of_lookup hc

/-- The release takes the lanes that wait for the phase past their instruction, and changes no other lane. -/
theorem lane_releaseObj {a ws l : Nat} {w : Warp} {u : Lane} (hw : warpAt? s a ws = some w) (hu : lookup w.lanes l = some u) :
    (lookup (warpAt (releaseObj s c k o ph) a ws).lanes l).map Lane.unseen =
      some (Lane.unseen (if waitsAt s c k o ph a w.gslot u.wait = true then releaseLane 8 u else u)) := by
  have hv : LaneIs s a ws l w.gslot u.unseen := ⟨w, u, hw, rfl, hu, rfl⟩
  have hend : LaneIs (releaseObj s c k o ph) a ws l w.gslot
      (Lane.unseen (if waitsAt s c k o ph a w.gslot u.wait = true then releaseLane 8 u else u)) := by
    split
    · next hwait =>
      rw [← unseen_releaseLane]
      exact Releases.foldl_lane (mem_cores_of_warpAt? hw) (fun t e _ => releases_releaseCore t e)
        (fun t hg hv => laneIs_releaseCore (mem_of_lookup hw) (mem_of_lookup hu) ((waitsAt_congr hg ..).trans hwait) hv) hv
    · next hwait =>
      rcases (releases_releaseObj s c k o ph).lane hv with hv | ⟨hw, -⟩
      · exact hv
      · exact absurd hw hwait
  obtain ⟨w', u', hw', -, hu', hv'⟩ := hend
  rw [warpAt, hw', Option.getD_some, hu', Option.map_some, hv']

end

/-! ### An update of a barrier object -/

section
variable {s : State} {core g p : Nat} {y : Group} {v' : Nat} {d : Int} {arrive : Bool}

/-- An update of a barrier object writes its 8 bytes, and releases the waiters of a phase that it completes. -/
theorem updateObj_eq (h : groupAt s core g = some y) (hv : v' = objUpdate (ofBytes (spadRead y p 8)) d arrive) :
    updateObj s (core, g, p) d arrive =
      if objPhase v' ≠ objPhase (ofBytes (spadRead y p 8)) then
        releaseObj (targetWrite s (core, g, p) (toBytes 8 v')) core g p (objPhase (ofBytes (spadRead y p 8)))
      else targetWrite s (core, g, p) (toBytes 8 v') := by
  unfold updateObj
  simp only [h, ← hv, bne_iff_ne]

theorem sameGroups_updateObj (h : groupAt s core g = some y) (hv : v' = objUpdate (ofBytes (spadRead y p 8)) d arrive) :
    SameGroups (targetWrite s (core, g, p) (toBytes 8 v')) (updateObj s (core, g, p) d arrive) := by
  rw [updateObj_eq h hv]
  split
  · exact (releases_releaseObj ..).groups
  · exact fun _ _ => rfl

theorem undisturbed_updateObj (h : groupAt s core g = some y) : Undisturbed s (updateObj s (core, g, p) d arrive) := by
  rw [updateObj_eq h rfl]
  have hw : Undisturbed s (targetWrite s (core, g, p) (toBytes 8 (objUpdate (ofBytes (spadRead y p 8)) d arrive))) :=
    ⟨rfl, rfl, rfl, rfl, rfl, rfl⟩
  split
  · exact hw.trans (releases_releaseObj ..).quiet
  · exact hw

/-- A write to a scratchpad changes nobody's neighbours, so the same lanes wait for the same objects. -/
theorem waitsAt_targetWrite (s : State) (tg : Nat × Nat × Nat) (bs : List Byte) (c k o : Nat) (ph : Bool) (a : Nat)
    (gs : Option Nat) (wt : LWait) : waitsAt (targetWrite s tg bs) c k o ph a gs wt = waitsAt s c k o ph a gs wt := by
  unfold waitsAt targetWrite
  cases gs with
  | none => rfl
  | some j =>
    dsimp only
    rw [groupAt_modGroup]
    by_cases hat : a = tg.1 ∧ j = tg.2.1
    · rw [if_pos hat]
      cases groupAt s a j <;> cases wt <;> rfl
    · rw [if_neg hat]

/-- The waiters of a phase that an update completes go on; no other lane changes. -/
theorem lane_updateObj (h : groupAt s core g = some y) (hv : v' = objUpdate (ofBytes (spadRead y p 8)) d arrive) {a ws l : Nat}
    {w : Warp} {u : Lane} (hw : warpAt? s a ws = some w) (hu : lookup w.lanes l = some u) :
    (lookup (warpAt (updateObj s (core, g, p) d arrive) a ws).lanes l).map Lane.unseen =
      some (Lane.unseen (if objPhase v' ≠ objPhase (ofBytes (spadRead y p 8)) ∧
          waitsAt s core g p (objPhase (ofBytes (spadRead y p 8))) a w.gslot u.wait = true then releaseLane 8 u else u)) := by
  have hwt : warpAt? (targetWrite s (core, g, p) (toBytes 8 v')) a ws = some w := (warpAt?_modGroup ..).trans hw
  rw [updateObj_eq h hv]
  by_cases hph : objPhase v' ≠ objPhase (ofBytes (spadRead y p 8))
  · rw [if_pos hph, lane_releaseObj hwt hu, waitsAt_targetWrite]
    simp only [hph, ne_eq, not_false_eq_true, true_and]
  · rw [if_neg hph, if_neg (fun hc => hph hc.1), warpAt, hwt, Option.getD_some, hu, Option.map_some]

end

/-! ### Completion and resume: the words of a ring's entry (05 R113, R114) -/

section
variable {s u : State} {y z : Group} {ring : Nat}

theorem ringEntry_head (y : Group) (ring : Nat) : (ringEntry y ring).head = ofBytes (readRun y.spad (32 * ring + 12) 4) :=
  high_readRun y.spad (32 * ring + 8)

theorem ringEntry_tail (y : Group) (ring : Nat) : (ringEntry y ring).tail = ofBytes (readRun y.spad (32 * ring + 8) 4) :=
  low_readRun y.spad (32 * ring + 8)

theorem ringEntry_done (y : Group) (ring : Nat) :
    nbits (ringEntry y ring).stat 0 32 = ofBytes (readRun y.spad (32 * ring + 16) 4) :=
  low_readRun y.spad (32 * ring + 16)

theorem ringEntry_congr (h : y.spad = z.spad) (ring : Nat) : ringEntry y ring = ringEntry z ring := by
  unfold ringEntry spadRead
  rw [h]

theorem ringWord_congr (h : y.spad = z.spad) (e : Entry) (i : Nat) : ringWord y e i = ringWord z e i := by
  unfold ringWord spadRead
  rw [h]

@[simp] theorem spad_semAdd (y : Group) (i : Nat) (d : Int) : (semAdd y i d).spad = y.spad := by
  unfold semAdd
  split <;> rfl

@[simp] theorem spad_setRing (y : Group) (ring : Nat) (r : Ring) : (setRing y ring r).spad = y.spad := rfl

@[simp] theorem spad_spadWrite (y : Group) (o : Nat) (bs : List Byte) : (spadWrite y o bs).spad = writeRun y.spad o bs := rfl

theorem sem_setRing (y : Group) (ring : Nat) (r : Ring) : (setRing y ring r).sem = y.sem := rfl

theorem sem_spadWrite (y : Group) (o : Nat) (bs : List Byte) : (spadWrite y o bs).sem = y.sem := rfl

/-- HEAD moves past the command, its payload included (05 R117). -/
def headAfter (y : Group) (ring : Nat) : Nat :=
  ((ringEntry y ring).head + 1 + hNpay (ringWord y (ringEntry y ring) 0)) % 2 ^ 32

theorem headAfter_congr (h : y.spad = z.spad) (ring : Nat) : headAfter y ring = headAfter z ring := by
  unfold headAfter
  rw [ringWord_congr h, ringEntry_congr h]

theorem spad_passHead (y : Group) (ring : Nat) :
    (passHead y ring).spad = writeRun y.spad (32 * ring + 12) (toBytes 4 (headAfter y ring)) := by
  unfold passHead headAfter add32
  rw [Nat.add_assoc]
  rfl

theorem head_passHead (y : Group) (ring : Nat) : (ringEntry (passHead y ring) ring).head = headAfter y ring := by
  rw [ringEntry_head, spad_passHead, readRun_writeRun_word, headAfter, Nat.mod_mod]

/-- A group whose command at HEAD of a ring completes: signal, HEAD, DONE and CODE (05 R113, R117). -/
def completeGroup (ring sem inc : Nat) (owes : Bool) (z : Group) : Group :=
  let g := passHead (semAdd z sem (inc : Int)) ring
  let g := spadWrite g (32 * ring + 16) (toBytes 4 (add32 (nbits (ringEntry g ring).stat 0 32) 1))
  let hi := statHi g ring
  let g := setStatHi g ring (hi - nbits hi 16 8 * 2 ^ 16)
  setRing g ring { Ring.init with used := true, owes := owes }

/-- Three words of the entry are written: HEAD, DONE and the upper half of the status word. -/
theorem spad_completeGroup (ring sem inc : Nat) (owes : Bool) (z : Group) : ∃ hi,
    (completeGroup ring sem inc owes z).spad =
      writeRun (writeRun (writeRun z.spad (32 * ring + 12) (toBytes 4 (headAfter z ring)))
        (32 * ring + 16) (toBytes 4 (((ringEntry z ring).stat % 2 ^ 32 + 1) % 2 ^ 32))) (32 * ring + 20) (toBytes 4 hi) := by
  have hsem : (semAdd z sem (inc : Int)).spad = z.spad := spad_semAdd ..
  have hpass : (passHead (semAdd z sem (inc : Int)) ring).spad = writeRun z.spad (32 * ring + 12) (toBytes 4 (headAfter z ring)) := by
    rw [spad_passHead, hsem, headAfter_congr hsem]
  have hdone : nbits (ringEntry (passHead (semAdd z sem (inc : Int)) ring) ring).stat 0 32 = (ringEntry z ring).stat % 2 ^ 32 := by
    rw [ringEntry_done, hpass, readRun_writeRun_apart _ _ _ _ _ (.inr (by rw [length_toBytes])), ← ringEntry_done, nbits_zero]
  unfold completeGroup
  dsimp only
  rw [spad_setRing, setStatHi, spad_spadWrite, spad_spadWrite, hdone, hpass, add32]
  exact ⟨_, rfl⟩

theorem sem_completeGroup (ring sem inc : Nat) (owes : Bool) (z : Group) :
    (completeGroup ring sem inc owes z).sem = (semAdd z sem (inc : Int)).sem := by
  unfold completeGroup
  dsimp only
  rw [sem_setRing, setStatHi, sem_spadWrite, sem_spadWrite, passHead, sem_spadWrite]

/-- What completion leaves in the region and of the ring's entry. -/
theorem completeGroup_entry {ring sem inc : Nat} {owes : Bool} {z y' : Group} (h : y' = completeGroup ring sem inc owes z) :
    (ringEntry y' ring).head = headAfter z ring ∧ (ringEntry y' ring).tail = (ringEntry z ring).tail ∧
      (ringEntry y' ring).stat % 2 ^ 32 = ((ringEntry z ring).stat % 2 ^ 32 + 1) % 2 ^ 32 ∧
      (ringEntry y' ring).ctl = (ringEntry z ring).ctl ∧
      ∀ o, ¬ (32 * ring + 12 ≤ o ∧ o < 32 * ring + 24) → getD 0#8 y'.spad o = getD 0#8 z.spad o := by
  obtain ⟨hi, hspad⟩ := spad_completeGroup ring sem inc owes z
  rw [← h] at hspad
  have hout : ∀ o, ¬ (32 * ring + 12 ≤ o ∧ o < 32 * ring + 24) → getD 0#8 y'.spad o = getD 0#8 z.spad o := by
    intro o ho
    rw [hspad]
    simp only [getD_writeRun, length_toBytes]
    rw [if_neg (by omega), if_neg (by omega), if_neg (by omega)]
  refine ⟨?_, ?_, ?_, congrArg ofBytes (readRun_congr fun o _ _ => hout o (by omega)), hout⟩
  · rw [ringEntry_head, hspad, readRun_writeRun_apart _ _ _ _ _ (.inl (by omega)), readRun_writeRun_apart _ _ _ _ _ (.inl (by omega)),
      readRun_writeRun_word, headAfter, Nat.mod_mod]
  · rw [ringEntry_tail, ringEntry_tail]
    exact congrArg ofBytes (readRun_congr fun o _ _ => hout o (by omega))
  · rw [← nbits_zero, ringEntry_done y', hspad, readRun_writeRun_apart _ _ _ _ _ (.inl (by omega)), readRun_writeRun_word, Nat.mod_mod]

theorem cmdChain_none {c : Cmd} (h : hChn c.h = false) (ds : List Nat) : cmdChain c ds = .ok none := by
  unfold cmdChain
  rw [h]
  rfl

/-- A command without a checksum writes none, and one with it writes it where its stage says (05 R127). -/
theorem writeCrc_ok {x : EngAt} {c : Cmd}
    (h : hChn c.h = false ∧ u = s ∨
      ∃ ch, x.ring < 2 ∧ cmdChain c (ringOf y x.ring).descr = .ok (some ch) ∧
        (checksumOf ch.rev = none ∧ u = s ∨
         ∃ st, checksumOf ch.rev = some st ∧
          engWrite x st.1.dw 0 4 (toBytes 4 ((ringOf y x.ring).crc.toNat ^^^ 0xFFFFFFFF)) s = (.ok (), u))) :
    writeCrc x y c s = (.ok (), u) := by
  unfold writeCrc
  rcases h with ⟨hc, rfl⟩ | ⟨ch, h2, hch, hsum⟩
  · rw [cmdChain_none hc, ite_self]
  · rw [if_neg (by omega), hch]
    dsimp only
    rcases hsum with ⟨hsum, rfl⟩ | ⟨st, hsum, hw⟩
    · rw [hsum]
    · rw [hsum]
      exact hw

theorem exec_commandCompletion {core g : Nat} {c : Cmd} (hg : groupAt s core g = some y) (h3 : ring < 3)
    (ha : (ringOf y ring).act = true) (hf : (ringOf y ring).fin = true) (hp : (ringOf y ring).parked = false) (he : y.spadErr = [])
    (hc : c = cmdAt y (ringEntry y ring)) (hw : writeCrc ⟨core, g, ring⟩ y c s = (.ok (), u)) :
    exec (.commandCompletion core g ring) s =
      .next (EngAt.mod ⟨core, g, ring⟩ u (completeGroup ring (hSsem c.h) (hInc c.h) (ringOf y ring).owes)) := by
  have hx : EngAt.group ⟨core, g, ring⟩ s = some y := hg
  show execCommandCompletion core g ring s = _
  unfold execCommandCompletion
  simp only [hx, ha, hf, hp, h3, ← hc, hw, entryBad_nil he, cmdBad_nil he, decide_true, Bool.and_self, Bool.not_true, Bool.not_false,
    Bool.false_eq_true, if_false, Bool.or_self]
  rfl

/-- A group whose parked command is discarded, HEAD not passing TAIL (05 R136). -/
def resumeGroup (ring : Nat) (owes : Bool) (z : Group) : Group :=
  setRing (if (ringEntry z ring).head = (ringEntry z ring).tail then z else passHead z ring) ring
    { Ring.init with used := true, owes := owes }

theorem exec_ringResume {core g : Nat} (hg : groupAt s core g = some y) (h3 : ring < 3) (hp : (ringOf y ring).parked = true)
    (hs : y.saving = none) (he : y.spadErr = []) (hk : (ringEntry y ring).park = false) :
    exec (.ringResume core g ring) s = .next (EngAt.mod ⟨core, g, ring⟩ s (resumeGroup ring (ringOf y ring).owes)) := by
  have hx : EngAt.group ⟨core, g, ring⟩ s = some y := hg
  show execRingResume core g ring s = _
  unfold execRingResume
  simp only [hx, hp, h3, hs, hk, entryBad_nil he, spadBad_nil he, decide_true, Bool.and_self, Bool.not_true, Bool.not_false,
    Bool.false_eq_true, if_false, Bool.or_self, Option.isNone_none]
  rfl

theorem head_resumeGroup (ring : Nat) (owes : Bool) (y : Group) : (ringEntry (resumeGroup ring owes y) ring).head =
    if (ringEntry y ring).head = (ringEntry y ring).tail then (ringEntry y ring).head else headAfter y ring := by
  unfold resumeGroup
  rw [ringEntry_congr (y := setRing _ _ _) rfl]
  split
  · rfl
  · exact head_passHead y ring

theorem sem_resumeGroup (ring : Nat) (owes : Bool) (y : Group) : (resumeGroup ring owes y).sem = y.sem := by
  unfold resumeGroup
  split <;> rfl

end

/-! ### Chunks within the region (05 R120, R121) -/

section
variable {s : State} {x : EngAt} {y : Group} {c : Cmd} {k n : Nat}

/-- An address word of the scratchpad names an offset of the region. -/
theorem engPlace_region {aw off : Nat} (hb : aw / 2 ^ 63 % 2 = 1) (hn : aw % 2 ^ 19 + off + n ≤ 256 * y.rec_.spad) :
    engPlace y aw (off : Int) n 1 = .ok (.inl (aw % 2 ^ 19 + off)) := by
  have hbit : nbit aw 63 = true := by
    unfold nbit nbits
    rw [Nat.shiftRight_eq_div_pow, beq_iff_eq]
    exact hb
  have hoff : ((nbits aw 0 19 : Nat) : Int) + off = ((aw % 2 ^ 19 + off : Nat) : Int) := by
    rw [Nat.cast_add]
    rfl
  have hsize : y.size = 256 * y.rec_.spad := Nat.mul_comm ..
  unfold engPlace
  dsimp only
  rw [if_pos hbit, hoff, Int.toNat_natCast, hsize, if_neg (by omega)]

/-- A chunk of a COPY within the region (05 R121). -/
theorem moveBytes_region {src dst : Nat} (hx : x.group s = some y) (he : y.spadErr = []) (hn : n = min 4096 (cLen c - 4096 * k))
    (hs : engPlace y (c.w 0) ((4096 * k : Nat) : Int) n 1 = .ok (.inl src))
    (hd : engPlace y (c.w 1) ((4096 * k : Nat) : Int) n 1 = .ok (.inl dst)) :
    moveBytes x c k s = (.ok (), x.mod s (fun z => spadWrite z dst (spadRead y src n))) := by
  have hlen : (spadRead y src n).length = n := length_readRun ..
  unfold moveBytes
  simp only [hx, ← hn, hs, hd, engRead, engWrite, spadBad_nil he, orStop, hlen, Bool.false_eq_true, if_false]

/-- The bytes of a pattern repeated. -/
theorem getD_flatten_replicate (d : Byte) (l : List Byte) (m j : Nat) (h : j < m * l.length) :
    (List.replicate m l).flatten.getD j d = l.getD (j % l.length) d := by
  induction m generalizing j with
  | zero => omega
  | succ m ih =>
    rw [Nat.succ_mul] at h
    rw [List.replicate_succ, List.flatten_cons]
    by_cases hj : j < l.length
    · rw [List.getD_append _ _ _ _ hj, Nat.mod_eq_of_lt hj]
    · rw [List.getD_append_right _ _ _ _ (Nat.le_of_not_lt hj), ih _ (by omega), ← Nat.mod_eq_sub_mod (Nat.le_of_not_lt hj)]

/-- The bytes that a chunk of a FILL writes (05 R121). -/
def fillChunk (pattern n : Nat) : List Byte := ((List.replicate 512 (toBytes 8 pattern)).flatten).take n

theorem length_fillChunk (pattern : Nat) (h : n ≤ 4096) : (fillChunk pattern n).length = n := by
  rw [fillChunk, List.length_take, List.length_flatten, List.map_replicate, length_toBytes, List.sum_replicate_nat]
  omega

theorem nthD_fillChunk (pattern : Nat) {j : Nat} (hj : j < n) (h : n ≤ 4096) :
    nthD 0#8 (fillChunk pattern n) j = nthD 0#8 (toBytes 8 pattern) (j % 8) := by
  have hrep := getD_flatten_replicate 0#8 (toBytes 8 pattern) 512 j (by rw [length_toBytes]; omega)
  rw [length_toBytes] at hrep
  rw [nthD, nthD, ← hrep, fillChunk, List.getD_eq_getElem?_getD, List.getElem?_take, if_pos hj, ← List.getD_eq_getElem?_getD]

theorem fillBytes_region {dst : Nat} (hx : x.group s = some y) (hn : n = min 4096 (cLen c - 4096 * k))
    (hd : engPlace y (c.w 0) ((4096 * k : Nat) : Int) n 1 = .ok (.inl dst)) :
    fillBytes x c k s = (.ok (), x.mod s (fun z => spadWrite z dst (fillChunk (c.w 2) n))) := by
  have hlen : (fillChunk (c.w 2) n).length = n := length_fillChunk _ (by omega)
  unfold fillBytes
  simp only [← hn]
  unfold engWrite
  rw [hx]
  dsimp only
  rw [show (List.take n _) = fillChunk (c.w 2) n from rfl, hlen, hd]

theorem transferChunk_copy (hx : x.group s = some y) (ho : c.opc = 1) (hc : hChn c.h = false) :
    transferChunk x c k s = moveBytes x c k s := by
  unfold transferChunk
  rw [hx]
  simp [ho, cmdChain_none hc]

theorem transferChunk_fill (hx : x.group s = some y) (ho : c.opc = 6) : transferChunk x c k s = fillBytes x c k s := by
  unfold transferChunk
  rw [hx]
  exact if_pos ho

/-- The bytes that a chunk within the region takes to offset `p` of it. -/
theorem spadByte_chunk {p : Nat} {bs : List Byte} {f : Nat → Option Byte} {r : Group → Ring} (hx : x.group s = some y)
    (hlen : bs.length = n) (hf : ∀ o, p ≤ o → o < p + n → some (nthD 0#8 bs (o - p)) = f o) (o : Nat) :
    spadByte (x.mod (x.mod s (fun z => spadWrite z p bs)) (fun z => setRing z x.ring (r z))) x.core x.gslot o =
      if p ≤ o ∧ o < p + n then f o else spadByte s x.core x.gslot o := by
  rw [spadByte_setRing, EngAt.mod, spadByte_spadWrite hx, hlen]
  simp only [true_and]
  split
  · next ho => exact hf o ho.1 ho.2
  · rfl

end

/-- Settles O49: every event of an engine is one change of its ring, after the writes of its chunk, of the barrier object and its
waiters, or of the checksum. -/
theorem enginesRunTheirCommands : Obligations.EnginesRunTheirCommands := by
  refine ⟨?start, ?chunk, ?counted, ?barrier, ?completion, ?resume, ?bytes⟩
  case start =>
    rintro i s x _ y c ds hi hx hs he hc rfl hok hact hw hss ht hd
    refine ring_written hx (f := fun z => { Ring.init with
      used := true, act := true, fin := cmdTotal ds x.ring c == 0, owes := (ringOf z x.ring).owes, descr := ds }) ?_
    rw [exec_engineCommand hi, engineTurn_serves hx hs he, hact, if_neg Bool.false_ne_true, startCmd_starts hc hok hw hss ht hd]
  case chunk =>
    rintro i s u x _ y z c r hi hx hs he hc rfl hr hact hf hm hk hz
    refine ring_written hz (f := fun z => { ringOf z x.ring with moved := r.cursor + 1 }) ?_
    rw [exec_engineCommand hi, engineTurn_serves hx hs he, ← hr, hact, if_pos rfl, moveChunk_moves hc hr hf hm hk]
  case counted =>
    rintro s core g ring y c r _ hg h3 hr ha hm he hc hb rfl
    refine ring_written (x := ⟨core, g, ring⟩) hg (f := fun _ => r.counted ring c) ?_
    rw [exec_chunkCompletion hg h3 hr ha hm he hc, hb, if_neg Bool.false_ne_true]
  case barrier =>
    rintro s core g ring _ v' y c r _ hg h3 hr ha hm he hc hb rfl hv rfl
    have hsame := sameGroups_updateObj hg hv
    have hz : groupAt (updateObj s (core, g, c.barOff) (-(chunkBytes r.descr c r.cursor : Int)) false) core g =
        some (spadWrite y c.barOff (toBytes 8 v')) := by
      rw [hsame, targetWrite, groupAt_modGroup, if_pos ⟨rfl, rfl⟩, hg, Option.map_some]
    have hexec := exec_chunkCompletion hg h3 hr ha hm he hc
    rw [hb, if_pos rfl] at hexec
    refine ⟨_, hexec, (undisturbed_updateObj hg).trans (EngAt.undisturbed_mod ..), ?_, fun a k o => ?_, fun a ws w l u hw hu => ?_⟩
    · refine (congrArg (Option.map _) (EngAt.group_mod (x := ⟨core, g, ring⟩) hz _)).trans ?_
      rw [Option.map_some, ringOf_setRing]
      rfl
    · rw [spadByte_setRing ⟨core, g, ring⟩ _ (fun _ => r.counted ring c), spadByte, hsame, ← spadByte, targetWrite,
        spadByte_spadWrite hg, length_toBytes]
    · rw [warpAt, EngAt.mod, warpAt?_modGroup, ← warpAt, lane_updateObj hg hv hw hu]
      rfl
  case completion =>
    rintro s u core g ring y z _ c hg h3 ha hf hp he hc hcrc hz rfl
    have hexec := exec_commandCompletion hg h3 ha hf hp he hc (writeCrc_ok hcrc)
    exact ⟨_, _, hexec, EngAt.onlyGroup_mod (x := ⟨core, g, ring⟩) hz _, EngAt.undisturbed_mod .., sem_completeGroup ..,
      completeGroup_entry rfl⟩
  case resume =>
    rintro s core g ring y _ hg h3 hp hs he rfl hk
    exact ⟨_, _, exec_ringResume hg h3 hp hs he hk, EngAt.onlyGroup_mod (x := ⟨core, g, ring⟩) hg _, EngAt.undisturbed_mod ..,
      sem_resumeGroup .., head_resumeGroup .., congrArg Ring.parked (ringOf_setRing ..), congrArg Ring.act (ringOf_setRing ..)⟩
  case bytes =>
    rintro i s x _ k n dst y c r hcase hx hs h2 he hc rfl hb hr hact hf hm rfl hn hdst
    have hrun {p : Nat} {bs : List Byte} (hi : engineCommand i = some (x, c.opc))
        (hk : transferChunk x c r.cursor s = (.ok (), x.mod s (fun z => spadWrite z p bs))) :
        exec i s = .next (x.mod (x.mod s (fun z => spadWrite z p bs))
          (fun z => setRing z x.ring { ringOf z x.ring with moved := r.cursor + 1 })) := by
      rw [exec_engineCommand hi, engineTurn_serves hx hs he, ← hr, hact, if_pos rfl,
        moveChunk_moves hc hr hf hm ((if_neg (by omega)).trans hk)]
    rcases hcase with ⟨rfl, ho, hsrc, hbit, rfl, -, hfit⟩ | ⟨rfl, ho, hbit, rfl⟩
    · have hmove := (transferChunk_copy hx ho hb).trans
        (moveBytes_region hx he hn (engPlace_region hsrc hfit) (engPlace_region hbit hdst))
      refine ⟨_, hrun (by rw [ho]; rfl) hmove, (EngAt.undisturbed_mod ..).trans (EngAt.undisturbed_mod ..),
        spadByte_chunk hx (length_readRun ..) fun o hlo hhi => ?_⟩
      rw [if_pos ho, spadByte, show groupAt s x.core x.gslot = some y from hx, Option.map_some, nthD, spadRead,
        getD_readRun _ _ _ _ (by omega)]
      congr 2
      omega
    · have hmove := (transferChunk_fill hx ho).trans (fillBytes_region hx hn (engPlace_region hbit hdst))
      refine ⟨_, hrun (by rw [ho]; rfl) hmove, (EngAt.undisturbed_mod ..).trans (EngAt.undisturbed_mod ..),
        spadByte_chunk hx (length_fillChunk _ (by omega)) fun o hlo hhi => ?_⟩
      rw [if_neg (by omega), nthD_fillChunk _ (by omega) (by omega)]
      congr 2
      omega

end Sys2Proof.Machine

/-! # Words and their instructions (07 R165 to R168, 15 R395 to R414)

A Suric word is its opcode and fields side by side, so each field is read back as it was written, and the rules that make the
instruction well formed are those that the decoder checks. A slot word has some bits that every instruction of its kind has alike;
they contradict every other row of the decoder's table, and the other bits are the operands. -/

namespace Sys2Proof.Machine

/-! ### The fields of a Suric word -/

theorem wbit_eq_getLsbD {n : Nat} (x : BitVec n) (k : Nat) : wbit x k = x.getLsbD k := by
  rw [BitVec.getLsbD, Nat.testBit_eq_decide_div_mod_eq, wbit, nbit, nbits, Nat.shiftRight_eq_div_pow, pow_one,
    Bool.beq_eq_decide_eq]

section
variable {op : Nat} {f : Fields}

theorem opcodeOf_packWord (h : op < 256) : opcodeOf (packWord op f) = op := by
  have hop : (packWord op f).extractLsb' 56 8 = BitVec.ofNat 8 op := by
    unfold packWord
    simp (disch := decide) only [BitVec.extractLsb'_append_eq_of_le]
    simp
  have hn := congrArg BitVec.toNat hop
  rwa [BitVec.extractLsb'_toNat, BitVec.toNat_ofNat, Nat.mod_eq_of_lt h] at hn

theorem wantsLiteral_packWord : wantsLiteral (packWord op f) = f.lit.isSome := by
  unfold wantsLiteral packWord
  rw [BitVec.getLsbD_append, if_neg (by decide), BitVec.getLsbD_append, if_pos (by decide)]
  cases h : f.lit.isSome <;> rfl

/-- The fields read from a word are those packed into it; the word after it counts only where it is the literal. -/
theorem fieldsOf_packWord {v : DWord} (hv : f.lit.getD v = v) : fieldsOf (packWord op f) v = f := by
  have hlit : (if f.lit.isSome then some v else none) = f.lit := by
    cases h : f.lit with
    | none => rfl
    | some l => rw [h, Option.getD_some] at hv; rw [hv]; rfl
  unfold fieldsOf
  rw [wantsLiteral_packWord, hlit]
  unfold packWord
  simp (disch := decide) only [BitVec.extractLsb'_append_eq_of_le, BitVec.extractLsb'_append_eq_of_add_le]
  simp

/-! ### The rules that the decoder checks (07 R167, R168) -/

theorem knownOp_of_suricOf {i : Instr} {c : Cls} (h : suricOf i = some (op, c, f)) : knownOp op = true := by
  cases i <;> cases h <;> rfl

theorem lt_of_knownOp (h : knownOp op = true) : op < 256 := by
  simp only [knownOp, Bool.or_eq_true, Bool.and_eq_true, decide_eq_true_eq] at h
  omega

/-- An instruction of a class without a literal has none: the rule stands last among the field rules of most. -/
theorem noLit_of_fieldsOk (hk : knownOp op = true) (hl : litClass op = false) (hf : fieldsOk op f = true) : noLit f = true := by
  have hall : ∀ n < 256, knownOp n = true → litClass n = false →
      n ∈ [154, 155, 156, 176] ∨ n ∈ [24, 25, 26, 27, 28, 29, 30, 34, 48, 50, 53, 64, 66, 67, 68, 152, 153, 177, 178, 179, 180, 181,
        182, 183, 184] := by decide +kernel
  rcases hall op (lt_of_knownOp hk) hk hl with hinner | hlast
  · fin_cases hinner
    · exact Bool.and_elim_right (Bool.and_elim_left (Bool.and_elim_left (Bool.and_elim_left (Bool.and_elim_left hf))))
    · exact Bool.and_elim_right (Bool.and_elim_left (Bool.and_elim_left hf))
    · exact Bool.and_elim_right (Bool.and_elim_left (Bool.and_elim_left hf))
    · exact Bool.and_elim_right (Bool.and_elim_left hf)
  · fin_cases hlast
    all_goals exact Bool.and_elim_right hf

/-- MOVL, TRACE and TEX.C carry a literal (08 R203, 10 R289). -/
theorem literal_of_fieldsOk (hf : fieldsOk op f = true) (hop : op = 33 ∨ op = 165 ∨ op = 164 ∧ f.fn.getLsbD 3 = true) :
    f.lit.isSome = true := by
  rcases hop with rfl | rfl | ⟨rfl, hb⟩
  · exact Bool.and_elim_right (Bool.and_elim_left hf)
  · exact Bool.and_elim_right (Bool.and_elim_left hf)
  · have htex : (_ && if wbit f.fn 3 then f.lit.isSome && ff f.b else _) = true := hf
    rw [if_pos ((wbit_eq_getLsbD f.fn 3).trans hb)] at htex
    exact Bool.and_elim_left (Bool.and_elim_right htex)

theorem legalWord_iff : legalWord op f = true ↔
    guardOk f.g = true ∧ f.k ≠ 3 ∧ fieldsOk op f = true ∧ (mkSuric op f).isSome = true := by
  simp [legalWord, and_assoc]

/-- A legal word passes steps 1 to 3 of 07 R167. -/
theorem headCheck_packWord (hk : knownOp op = true) (hw : legalWord op f = true) : headCheck (packWord op f) = none := by
  obtain ⟨hg, hh, hf, -⟩ := legalWord_iff.mp hw
  have hflds := fieldsOf_packWord (op := op) (f := f) (v := f.lit.getD 0#64) (by cases f.lit <;> rfl)
  have hguard : (packWord op f).extractLsb' 51 5 = f.g := congrArg Fields.g hflds
  have hhint : (packWord op f).extractLsb' 0 2 = f.k := congrArg Fields.k hflds
  have hbit : (packWord op f).getLsbD 10 = f.fn.getLsbD 3 := by
    rw [← congrArg Fields.fn hflds]
    simp [fieldsOf]
  have hnone : (f.lit.isSome && !litClass op) = false := by
    cases hl : litClass op with
    | true => simp
    | false => rw [Option.isNone_iff_eq_none.mp (noLit_of_fieldsOk hk hl hf)]; rfl
  have hsome : (!f.lit.isSome && (op == 33 || op == 165 || (op == 164 && f.fn.getLsbD 3))) = false := by
    by_contra hn
    simp only [Bool.not_eq_false, Bool.and_eq_true, Bool.or_eq_true, beq_iff_eq, or_assoc, Bool.not_eq_true'] at hn
    rw [literal_of_fieldsOk hf hn.2] at hn
    cases hn.1
  unfold headCheck
  simp only [opcodeOf_packWord (lt_of_knownOp hk), wantsLiteral_packWord, hk, hguard, hhint, hbit, hg, hnone, hsome]
  simpa using hh

end

/-! ### A Suric instruction from its word and from its bytes -/

section
variable {i : Instr} {w : DWord} {lit : Option DWord}

/-- What has a word is a Suric instruction, and the word is that of its opcode and fields. -/
theorem encode_eq_some (h : encode i = some (w, lit)) :
    ∃ op c f, suricOf i = some (op, c, f) ∧ w = packWord op f ∧ lit = f.lit := by
  unfold encode at h
  split at h
  · next op c f hs =>
    cases h
    exact ⟨op, c, f, hs, rfl, rfl⟩
  · cases h

theorem legalWord_of_wf {op : Nat} {c : Cls} {f : Fields} (hw : WellFormed i = true) (hs : suricOf i = some (op, c, f)) :
    legalWord op f = true ∧ mkSuric op f = some i := by
  unfold WellFormed at hw
  rw [hs] at hw
  simpa using hw

/-- A word decodes to its instruction before its literal, and where it has none before any word. -/
theorem decodeSuric_encode (hw : WellFormed i = true) (he : encode i = some (w, lit)) {v : DWord} (hv : lit.getD v = v) :
    decodeSuric w v = .ok i := by
  obtain ⟨op, c, f, hs, rfl, rfl⟩ := encode_eq_some he
  obtain ⟨hl, hm⟩ := legalWord_of_wf hw hs
  obtain ⟨-, -, hf, -⟩ := legalWord_iff.mp hl
  have hk := knownOp_of_suricOf hs
  unfold decodeSuric
  rw [headCheck_packWord hk hl]
  simp only [opcodeOf_packWord (lt_of_knownOp hk), fieldsOf_packWord hv, hf, hm, if_true]

theorem wantsLiteral_encode (he : encode i = some (w, lit)) : wantsLiteral w = lit.isSome := by
  obtain ⟨op, c, f, -, rfl, rfl⟩ := encode_eq_some he
  exact wantsLiteral_packWord

/-- The eight bytes of a doubleword, wherever they stand, are read as it is. -/
theorem leAt_toBytes (pre more : List Byte) (v : DWord) : leAt (pre ++ toBytes 8 v.toNat ++ more) pre.length 8 = v.toNat := by
  rw [leAt, List.append_assoc, List.drop_left, List.take_left' (length_toBytes 8 _), ofBytes_toBytes]
  exact Nat.mod_eq_of_lt v.isLt

theorem decodeBytes_word (hl : wantsLiteral w = false) (hd : ∀ v, decodeSuric w v = .ok i) (more : List Byte) :
    decodeBytes (toBytes 8 w.toNat ++ more) = some (.ok (i, more)) := by
  have hw : leAt (toBytes 8 w.toNat ++ more) 0 8 = w.toNat := leAt_toBytes [] more w
  unfold decodeBytes
  rw [if_neg (by simp), hw, BitVec.ofNat_toNat, BitVec.setWidth_eq]
  simp only [hl, hd, lengthOf, Bool.false_and, Bool.false_eq_true, if_false]
  rw [List.drop_left' (length_toBytes 8 _)]

theorem decodeBytes_literal {v : DWord} (hl : wantsLiteral w = true) (hd : decodeSuric w v = .ok i) (more : List Byte) :
    decodeBytes (toBytes 8 w.toNat ++ toBytes 8 v.toNat ++ more) = some (.ok (i, more)) := by
  have hw : leAt (toBytes 8 w.toNat ++ toBytes 8 v.toNat ++ more) 0 8 = w.toNat := by
    rw [List.append_assoc]
    exact leAt_toBytes [] _ w
  have hv : leAt (toBytes 8 w.toNat ++ toBytes 8 v.toNat ++ more) 8 8 = v.toNat := by
    have h := leAt_toBytes (toBytes 8 w.toNat) more v
    rwa [length_toBytes] at h
  have hlen : (toBytes 8 w.toNat ++ toBytes 8 v.toNat).length = 16 := by simp
  unfold decodeBytes
  rw [if_neg (by simp), hw, hv, BitVec.ofNat_toNat, BitVec.setWidth_eq, BitVec.ofNat_toNat, BitVec.setWidth_eq]
  simp only [hl, hd, lengthOf, if_true]
  rw [List.drop_left' hlen, if_neg (by simp; omega)]

end

/-! ### Slot words -/

/-- The bits of a slot word that every instruction of its kind has alike, as a mask, and their values (15 R398, R406, R413). -/
def fixedBits (i : Instr) : Word × Word :=
  match i with
  | .kaddReg .. => (0xFC00F07F, 0x04000000)
  | .kaddImm .. => (0xFC00F000, 0x04008000)
  | .ksubReg .. => (0xFC00F07F, 0x08000000)
  | .ksubImm .. => (0xFC00F000, 0x08008000)
  | .kmulReg .. => (0xFC00F07F, 0x0C000000)
  | .kmulImm .. => (0xFC00F000, 0x0C008000)
  | .kmov .. => (0xFC00FFFF, 0x10000000)
  | .kldi .. => (0xFC1F0000, 0x14000000)
  | .kldiHi .. => (0xFC1F0000, 0x14100000)
  | .kld .. => (0xFC00F000, 0x18008000)
  | .kst .. => (0xFC00F000, 0x1C008000)
  | .kcmpReg .. => (0xFC00807F, 0x20000000)
  | .kcmpImm .. => (0xFC008000, 0x20008000)
  | .br .. => (0xFFFFFC00, 0x24000000)
  | .brc .. => (0xFFE08C00, 0x28000000)
  | .loopReg .. => (0xFFE0FC00, 0x2C000000)
  | .loopImm .. => (0xFC00FC00, 0x2C008000)
  | .halt => (0xFFFFFFFF, 0x30000000)
  | .toksendReg .. => (0xFFFFC07F, 0x34000000)
  | .toksendImm .. => (0xFFFFC000, 0x34008000)
  | .tokrecv .. => (0xFC1FCFFF, 0x38000000)
  | .bandchk .. => (0xFC1FFFFF, 0x3C000000)
  | .lktrd .. => (0xFC1FF000, 0x40008000)
  | .evt .. => (0xFFE0FFFF, 0x44000000)
  | .tadd .. => (0xFC0000FF, 0x04000000)
  | .tsub .. => (0xFC0000FF, 0x08000000)
  | .tmul .. => (0xFC0000FF, 0x0C000000)
  | .tmac .. => (0xFC0000FF, 0x10000000)
  | .tmin .. => (0xFC0002FF, 0x14000000)
  | .tmax .. => (0xFC0002FF, 0x18000000)
  | .tabsd .. => (0xFC0002FF, 0x1C000000)
  | .tcmp .. => (0xFC0002F8, 0x20000000)
  | .tsel .. => (0xFC018FFF, 0x24000000)
  | .tcvt .. => (0xFC0FF100, 0x28000000)
  | .tshift .. => (0xFC0FF360, 0x2C000000)
  | .tand .. => (0xFC000EFF, 0x30000000)
  | .tor .. => (0xFC000EFF, 0x34000000)
  | .tlut .. => (0xFC01FFFF, 0x38000000)
  | .rrot .. => (0xFC0E0EC0, 0x40000000)
  | .rbc .. => (0xFC0E0EC0, 0x44000000)
  | .rred .. => (0xFC0FF13F, 0x48000000)
  | .crot .. => (0xFC0E0EF0, 0x50000000)
  | .cbc .. => (0xFC0E0EF0, 0x54000000)
  | .cred .. => (0xFC0FF13F, 0x58000000)
  | .txmv .. => (0xFC0FFFFF, 0x60000000)
  | .tgath .. => (0xFC000FE0, 0x64000000)
  | .tmatq .. => (0xFF8FFFF8, 0x68000000)
  | .tmatr .. => (0xFC7FFFFF, 0x6C000000)
  | .sbind .. => (0xF01FFFFF, 0x10000000)
  | .srdTile .. => (0xF300FFFF, 0x20000000)
  | .srdWeight .. => (0xF300FFFF, 0x21000000)
  | .swrTile .. => (0xF300FFFF, 0x30000000)
  | .swrStream .. => (0xF33FFFFF, 0x31000000)
  | .sflush .. => (0xF3FFFFFF, 0x40000000)
  | _ => (0, 0)

/-- A mask is compared piece by piece. -/
theorem and_append_eq {n k : Nat} {x : BitVec n} {y : BitVec k} {m p : BitVec (n + k)} :
    (x ++ y) &&& m = p ↔ x &&& m.extractLsb' k n = p.extractLsb' k n ∧ y &&& m.extractLsb' 0 k = p.extractLsb' 0 k := by
  constructor
  · rintro rfl
    simp [BitVec.extractLsb'_and, BitVec.extractLsb'_append_eq_left, BitVec.extractLsb'_append_eq_right]
  · rintro ⟨hx, hy⟩
    rw [← BitVec.extractLsb'_append_extractLsb' (x := m), ← BitVec.extractLsb'_append_extractLsb' (x := p), BitVec.and_append,
      hx, hy]

section
variable {i : Instr} {w m p m' p' : Word}

/-- A slot word has the fixed bits of its instruction: a field meets only zeros of the mask, a constant only ones. -/
theorem encodeSlot_fixedBits (h : encodeSlot i = some w) : w &&& (fixedBits i).1 = (fixedBits i).2 := by
  unfold fixedBits
  cases i
  case noOperation | halt => cases h; rfl
  case br =>
    cases h
    dsimp only
    exact and_append_eq.mpr ⟨by simp, by simp⟩
  all_goals
    cases h
  all_goals
    dsimp only
    refine and_append_eq.mpr ⟨?_, ?_⟩
    · simp only [and_append_eq]
      simp
    · simp

/-- A word whose fixed bits contradict a row of a table is none of that row. -/
theorem masked_ne_of_fixed (h : w &&& m' = p') (hc : p &&& m' ≠ p' &&& m) : ¬ (w &&& m = p) := by
  rintro rfl
  exact hc (by rw [← h]; ac_rfl)

theorem ne_zero_of_fixed (h : w &&& m' = p') (hc : p' ≠ 0) : ¬ (w = 0) := by
  rintro rfl
  exact hc (by rw [← h]; exact BitVec.zero_and)

/-! In the table of its kind a slot word fits no row before its own, and its own gives back every operand. -/

theorem decodeScalarRaw_encodeSlot (hk : slotKind i = some 0) (h : encodeSlot i = some w) : decodeScalarRaw w = some i := by
  have hf := encodeSlot_fixedBits h
  unfold fixedBits at hf
  cases i
  all_goals cases hk
  case halt => cases h; rfl
  all_goals
    dsimp only at hf
    simp (disch := decide) only [decodeScalarRaw, ↓reduceIte, ne_zero_of_fixed hf, masked_ne_of_fixed hf, hf]
    cases h
    simp (disch := decide) only [BitVec.extractLsb'_append_eq_of_le, BitVec.extractLsb'_append_eq_of_add_le]
    simp

theorem decodeTileRaw_encodeSlot (hk : slotKind i = some 1) (h : encodeSlot i = some w) : decodeTileRaw w = some i := by
  have hf := encodeSlot_fixedBits h
  unfold fixedBits at hf
  cases i
  all_goals cases hk
  all_goals
    dsimp only at hf
    simp (disch := decide) only [decodeTileRaw, ↓reduceIte, ne_zero_of_fixed hf, masked_ne_of_fixed hf, hf]
    cases h
    simp (disch := decide) only [BitVec.extractLsb'_append_eq_of_le, BitVec.extractLsb'_append_eq_of_add_le]
    simp

theorem decodeStreamRaw_encodeSlot (hk : slotKind i = some 3) (h : encodeSlot i = some w) : decodeStreamRaw w = some i := by
  have hf := encodeSlot_fixedBits h
  unfold fixedBits at hf
  cases i
  all_goals cases hk
  all_goals
    dsimp only at hf
    simp (disch := decide) only [decodeStreamRaw, ↓reduceIte, ne_zero_of_fixed hf, masked_ne_of_fixed hf, hf]
    cases h
    simp (disch := decide) only [BitVec.extractLsb'_append_eq_of_le, BitVec.extractLsb'_append_eq_of_add_le]
    simp

/-- What has a slot word has no Suric word; it is well formed when none of its fields is reserved. -/
theorem slotOk_of_wf (hw : WellFormed i = true) (h : encodeSlot i = some w) : slotOk i = true := by
  have hs : suricOf i = none := by
    cases hs : suricOf i with
    | none => rfl
    | some x => cases i <;> cases hs <;> cases h
  unfold WellFormed at hw
  rwa [hs] at hw

theorem checkSlot_some (h : slotOk i = true) : checkSlot (some i) = some i := if_pos h

end

/-- Settles O58: a Suric word gives back its opcode and fields, which are those of a legal word; a slot word fits its own row of
its table alone. -/
theorem decodingUndoesEncoding : Obligations.DecodingUndoesEncoding := by
  unfold Obligations.DecodingUndoesEncoding
  refine ⟨fun i w lit hw he => ⟨decodeSuric_encode hw he (by cases lit <;> rfl), ?length, fun more => ?bytes⟩,
    fun i w hw he => ⟨?none, fun hk => ?scalar, fun hk => ?tile, fun hk => ?stream⟩⟩
  case length => rw [lengthOf, wantsLiteral_encode he]
  case bytes =>
    cases lit with
    | none =>
      rw [List.append_nil]
      exact decodeBytes_word (wantsLiteral_encode he) (fun v => decodeSuric_encode hw he rfl) more
    | some v => exact decodeBytes_literal (wantsLiteral_encode he) (decodeSuric_encode hw he rfl) more
  case none =>
    rintro rfl
    cases he
    exact ⟨rfl, rfl, rfl⟩
  case scalar => rw [decodeScalar, decodeScalarRaw_encodeSlot hk he, checkSlot_some (slotOk_of_wf hw he)]
  case tile => rw [decodeTile, decodeTileRaw_encodeSlot hk he, checkSlot_some (slotOk_of_wf hw he)]
  case stream => rw [decodeStream, decodeStreamRaw_encodeSlot hk he, checkSlot_some (slotOk_of_wf hw he)]

/-- Settles O57: a closed computation, the decoder run on each of the spec's words. -/
theorem wordsOfTheSpecDecode : Obligations.WordsOfTheSpecDecode := by
  unfold Obligations.WordsOfTheSpecDecode
  decide

end Sys2Proof.Machine

/-! # Operands that break a rule (07 R167, 17 R443 to R446)

An issued instruction whose operands break a rule never reaches its body: its trap is taken at once, by a handler that stands
ready, or else as the fatal halt of its unit. -/

namespace Sys2Proof.Machine

/-! ### The trap of an issued instruction -/

/-- Every Suric instruction is its body, issued under its opcode and fields. -/
theorem exec_issue {i : Instr} {op : Nat} {c : Cls} {f : Fields} (h : suricOf i = some (op, c, f)) :
    ∃ body, ∀ s, exec i s = issue op f body s := by
  cases i <;> cases h <;> exact ⟨_, fun _ => rfl⟩

theorem issue_illegalOperands {s : State} {x : Iss} {op : Nat} {f : Fields} (hc : issOf s = some x)
    (hm : (x.warp s).hmode = false ∨ handlerAllows op f = true) (ho : operandsOk (x.warp s) op f = false)
    (body : Iss → State → State) :
    issue op f body s = .next { takeTrap s x.core x.wslot (x.trapOf 2 0 x.mask 0 0) with cur := .idle } := by
  have hmode : ((x.warp s).hmode && !handlerAllows op f) = false := by
    rcases hm with h | h <;> simp [h]
  unfold issue
  rw [hc]
  dsimp only
  rw [admitted, hmode, ho]
  rfl

/-! ### A handler that stands ready -/

/-- A lane that trap `t` holds (17 R446). -/
def Lane.held (u : Lane) (t : Trap) : Lane := { u with trp := true, l16 := t.len == 16 }

/-- The warp with trap `t` in its trap state registers and no other waiting. -/
def Warp.trapped (w : Warp) (t : Trap) : Warp := { writeTrapRegs w t with trapPend := none }

/-- The warp in the handler of trap `t`. -/
def Warp.entered (w : Warp) (t : Trap) : Warp :=
  { w with
    hmode := true, hpc := BitVec.ofNat 57 (fld w.tba 3 54 * 8), trCause := causeWord t, trPc := t.pc.setWidth 64, trMask := t.mask
    trElem := BitVec.ofNat 32 t.elem, trAddr := t.addr, trInst := t.inst, trapPend := none, enqAt := none
    lanes := (modLanes w t.mask (fun _ u => u.held t)).lanes }

section
variable {s : State} {core ws : Nat} {w : Warp} {t : Trap}

theorem trapEntered_entered (w : Warp) (t : Trap) : TrapEntered w (w.entered t) t where
  mode := rfl
  handler := rfl
  cause := rfl
  pc := rfl
  mask := rfl
  elem := rfl
  addr := rfl
  inst := rfl
  lanes l := by
    refine (lookup_modLanes w t.mask (fun _ u => u.held t) l).trans ?_
    simp only [Bool.and_eq_true, decide_eq_true_eq, and_comm, Lane.held]
  enq := rfl
  rest := rfl

/-- Outside a handler the trap registers, the held lanes and the handler's PC are all that the entry writes. -/
theorem trapped_entered (h : w.hmode = false) :
    { modLanes (w.trapped t) t.mask (fun _ l => { l with trp := true, l16 := t.len == 16 }) with
      hmode := true, hpc := BitVec.ofNat 57 (fld w.tba 3 54 * 8), enqAt := none } = w.entered t := by
  simp only [Warp.entered, Warp.trapped, writeTrapRegs, modLanes, h, Lane.held, Bool.false_eq_true, if_false]

theorem writeImp_none (h : (warpAt s core ws).imp = none) : writeImp s core ws = s := by
  unfold writeImp
  dsimp only
  rw [h]

/-- A handler that stands ready is entered, and only the warp changes (17 R444, R446). -/
theorem takeTrap_enters (hw : (warpAt? s core ws).isSome = true) (hr : HandlerReady (warpAt s core ws)) :
    takeTrap s core ws t = modWarp s core ws (fun _ => (warpAt s core ws).entered t) := by
  obtain ⟨hmode, htba, himp⟩ := hr
  have hfatal : ((warpAt s core ws).hmode || (warpAt s core ws).tba == 0#64) = false := by simp [hmode, htba]
  have hready : impReady s core ws = true := by simp [impReady, himp]
  have hnone : (warpAt (modWarp s core ws (fun w => w.trapped t)) core ws).imp = none := by
    rw [warpAt_modWarp _ _ _ _ hw]
    exact himp
  unfold takeTrap
  dsimp only
  rw [hfatal, hready, if_neg (by decide), if_neg (by decide)]
  change modWarp (writeImp (modWarp s core ws (fun w => w.trapped t)) core ws) core ws _ = _
  rw [writeImp_none hnone, modWarp_modWarp, modWarp_eq]
  exact congrArg (fun w => modWarp s core ws (fun _ => w)) (trapped_entered hmode)

/-! ### A fatal halt (17 R445, R447, R452) -/

/-- A halt with the reason of a fatal one, all but the abort of the grid. -/
def haltMarks (s : State) (core ws : Nat) (pc : VA) : State :=
  modWarp (match (warpAt s core ws).gslot with
    | some g => modGroup (haltGroup s core g 3) core g (fun x => { x with haltPc := pc })
    | none => haltFree s core ws 3) core ws (fun w => { w with raisedHalt := true })

theorem haltUnit_fatal (pc : VA) :
    haltUnit s core ws 3 pc = abort (haltMarks s core ws pc) (warpAt s core ws).part (warpAt s core ws).grid pc := rfl

/-- In a handler, or with none named, a trap halts its unit (17 R445, R447). -/
theorem takeTrap_fatal (h : (warpAt s core ws).hmode = true ∨ (warpAt s core ws).tba = 0#64) :
    takeTrap s core ws t = haltUnit (modWarp s core ws (fun w => w.trapped t)) core ws 3 t.pc := by
  have hfatal : ((warpAt s core ws).hmode || (warpAt s core ws).tba == 0#64) = true := by
    rcases h with h | h <;> simp [h]
  unfold takeTrap
  dsimp only
  rw [hfatal, if_neg (by simp), if_pos rfl]
  rfl

/-- The warps of a core after a halt was broadcast to those of a group. -/
theorem lookup_halted (m : SMap Warp) (g k : Nat) :
    lookup (m.map (fun e => if e.2.gslot = some g then (e.1, e.2.halted) else e)) k =
      (lookup m k).map (fun w => if w.gslot = some g then w.halted else w) := by
  have hpair : (fun e : Nat × Warp => if e.2.gslot = some g then (e.1, e.2.halted) else e) =
      fun e => (e.1, if e.2.gslot = some g then e.2.halted else e.2) := by
    funext e
    split <;> rfl
  rw [hpair]
  exact lookup_mapVal m (fun _ w => if w.gslot = some g then w.halted else w) k

/-- A halt broadcast leaves a warp as it is, or starts its count of instructions. -/
theorem warpAt?_haltGroup {g : Nat} (h : warpAt? s core ws = some w) :
    ∃ v, warpAt? (haltGroup s core g 3) core ws = some v ∧ (v = w ∨ v = w.halted) := by
  unfold haltGroup
  cases groupAt s core g with
  | none => exact ⟨w, h, .inl rfl⟩
  | some y =>
    dsimp only
    rw [warpAt?_modGroup]
    split
    · exact ⟨w, h, .inl rfl⟩
    · refine ⟨if w.gslot = some g then w.halted else w, ?_, by split <;> simp⟩
      rw [warpAt?, coreOf_modCore_self]
      refine (lookup_halted _ g ws).trans ?_
      rw [show lookup (coreOf s core).warps ws = some w from h]
      rfl

theorem worseHalt_fatal (o : Option Nat) : worseHalt o 3 = some 3 := by
  unfold worseHalt
  split
  · assumption
  · rfl

theorem groupAt_haltGroup {g : Nat} {y : Group} (h : groupAt s core g = some y) :
    groupAt (haltGroup s core g 3) core g = some { y with saving := some 3 } := by
  unfold haltGroup
  rw [h]
  dsimp only
  rw [groupAt_modGroup, if_pos ⟨rfl, rfl⟩]
  have hsame : groupAt (if isHalt y.saving = true then s else modCore s core fun c =>
      { c with warps := c.warps.map (fun e => if e.2.gslot = some g then (e.1, e.2.halted) else e) }) core g = some y := by
    split
    · exact h
    · rw [groupAt, coreOf_modCore_self]
      exact h
  rw [hsame, Option.map_some, worseHalt_fatal]

theorem undisturbed_haltGroup (g : Nat) : Undisturbed s (haltGroup s core g 3) := by
  unfold haltGroup
  split
  · exact .refl s
  · dsimp only
    split <;> exact ⟨rfl, rfl, rfl, rfl, rfl, rfl⟩

/-- What a halt may write of a warp. -/
def OnlyHalted (w v : Warp) : Prop := { v with raisedHalt := w.raisedHalt, skid := w.skid, saving := w.saving } = w

/-- A fatal halt marks its warp, and a warp without a group for its save (17 R452). -/
theorem warpAt_haltMarks (h : warpAt? s core ws = some w) (pc : VA) :
    OnlyHalted w (warpAt (haltMarks s core ws pc) core ws) ∧ (warpAt (haltMarks s core ws pc) core ws).raisedHalt = true ∧
      (w.gslot = none → (warpAt (haltMarks s core ws pc) core ws).saving = some 3) := by
  have hw : warpAt s core ws = w := by rw [warpAt, h]; rfl
  have hsome : (warpAt? s core ws).isSome = true := by rw [h]; rfl
  unfold haltMarks
  rw [hw]
  cases hg : w.gslot with
  | some g =>
    obtain ⟨v, hv, hvw⟩ := warpAt?_haltGroup (g := g) h
    dsimp only
    rw [warpAt, warpAt?_modWarp_self, warpAt?_modGroup, hv]
    refine ⟨?_, rfl, nofun⟩
    rcases hvw with rfl | rfl <;> rfl
  | none =>
    dsimp only
    rw [haltFree, modWarp_modWarp, warpAt_modWarp _ _ _ _ hsome, hw]
    refine ⟨?_, rfl, fun _ => worseHalt_fatal w.saving⟩
    cases isHalt w.saving <;> rfl

theorem groupAt_haltMarks {g : Nat} {y : Group} (hg : (warpAt s core ws).gslot = some g) (hy : groupAt s core g = some y) (pc : VA) :
    groupAt (haltMarks s core ws pc) core g = some { y with saving := some 3, haltPc := pc } := by
  unfold haltMarks
  rw [hg]
  dsimp only
  rw [groupAt_modWarp, groupAt_modGroup, if_pos ⟨rfl, rfl⟩, groupAt_haltGroup hy]
  rfl

theorem undisturbed_haltMarks (pc : VA) : Undisturbed s (haltMarks s core ws pc) := by
  unfold haltMarks
  cases (warpAt s core ws).gslot with
  | some g => exact (undisturbed_haltGroup (s := s) (core := core) g).trans ⟨rfl, rfl, rfl, rfl, rfl, rfl⟩
  | none => exact ⟨rfl, rfl, rfl, rfl, rfl, rfl⟩

end

/-- The unit of an issuing warp that its trap halts: what the halt leaves before the grid is aborted. -/
theorem haltedFatally_haltMarks {s : State} {x : Iss} (t : Trap) (hw : (warpAt? s x.core x.wslot).isSome = true) :
    HaltedFatally s (haltMarks (x.mod s (fun w => w.trapped t)) x.core x.wslot t.pc) x t := by
  obtain ⟨w, hsome⟩ := Option.isSome_iff_exists.mp hw
  have hwarp : x.warp s = w := by rw [Iss.warp, warpAt, hsome]; rfl
  have htrap : warpAt? (x.mod s (fun w => w.trapped t)) x.core x.wslot = some (w.trapped t) := by
    rw [Iss.mod, warpAt?_modWarp_self, hsome]
    rfl
  have hat : warpAt (x.mod s (fun w => w.trapped t)) x.core x.wslot = w.trapped t := by rw [warpAt, htrap]; rfl
  obtain ⟨honly, hraised, hfree⟩ := warpAt_haltMarks htrap t.pc
  exact {
    cause := congrArg Warp.trCause honly
    pc := congrArg Warp.trPc honly
    mask := by rw [hwarp]; exact congrArg Warp.trMask honly
    elem := by rw [hwarp]; exact congrArg Warp.trElem honly
    addr := congrArg Warp.trAddr honly
    inst := congrArg Warp.trInst honly
    raised := hraised
    rest := by
      rw [hwarp]
      exact congrArg (fun v : Warp => { v with
        trCause := w.trCause, trPc := w.trPc, trMask := w.trMask, trElem := w.trElem, trAddr := w.trAddr, trInst := w.trInst
        trapPend := w.trapPend, raisedHalt := w.raisedHalt, skid := w.skid, saving := w.saving }) honly
    group := fun g y hg hy => by
      refine groupAt_haltMarks ?_ ?_ t.pc
      · rw [hat]
        exact hwarp ▸ hg
      · rw [Iss.mod, groupAt_modWarp]
        exact hy
    free := fun hn => hfree (hwarp ▸ hn)
    others := Undisturbed.trans (t := x.mod s (fun w => w.trapped t)) ⟨rfl, rfl, rfl, rfl, rfl, rfl⟩ (undisturbed_haltMarks t.pc) }

/-! ### An instruction that traps -/

section
variable {s : State} {x : Iss} {t : Trap}

theorem takeTrap_leaves (hw : (warpAt? s x.core x.wslot).isSome = true) (hr : HandlerReady (x.warp s)) :
    ∃ w', { takeTrap s x.core x.wslot t with cur := .idle } = x.leaves s w' ∧ TrapEntered (x.warp s) w' t := by
  refine ⟨(x.warp s).entered t, ?_, trapEntered_entered _ t⟩
  rw [takeTrap_enters hw hr]
  rfl

theorem takeTrap_halts (hw : (warpAt? s x.core x.wslot).isSome = true)
    (hf : (x.warp s).hmode = true ∨ (x.warp s).tba = 0#64) :
    ∃ u, takeTrap s x.core x.wslot t = abort u (x.warp s).part (x.warp s).grid t.pc ∧ HaltedFatally s u x t := by
  refine ⟨_, ?_, haltedFatally_haltMarks t hw⟩
  rw [takeTrap_fatal hf, haltUnit_fatal, warpAt_modWarp _ _ _ _ hw]
  rfl

end

/-- Settles O18: the trap of broken operands is taken before the body, by the handler or as a fatal halt. -/
theorem illegalOperandsTrap : Obligations.IllegalOperandsTrap := by
  unfold Obligations.IllegalOperandsTrap
  intro i s x op c f hs hc hw hm ho
  obtain ⟨body, hexec⟩ := exec_issue hs
  rw [hexec, issue_illegalOperands hc hm ho]
  refine ⟨fun hr => ?_, fun hf => ?_⟩
  · obtain ⟨w', hleaves, hentered⟩ := takeTrap_leaves (t := x.trapOf 2 0 x.mask 0 0) hw hr
    exact ⟨w', congrArg _ hleaves, hentered⟩
  · obtain ⟨u, habort, hhalted⟩ := takeTrap_halts (t := x.trapOf 2 0 x.mask 0 0) hw hf
    exact ⟨u, by rw [habort]; rfl, hhalted⟩

end Sys2Proof.Machine

/-! # The results of integer instructions (08 R191 to R206, 06 R140) -/

namespace Sys2Proof.Machine

/-- The integer, bit, comparison, move and predicate instructions raise no flag. -/
theorem intForm_all {i : Instr} {s : State} {x : Iss} {q : LaneForm} (h : intForm x s i = some q) (w : Warp) (l : Nat) :
    (q.res w l).all = 0#5 := by
  cases i <;> simp only [intForm, Option.some.injEq, reduceCtorEq] at h
  all_goals
    subst h
    rfl

/-- Settles O1: each form performs once a lane, or once for a uniform form, and raises no flag. -/
theorem integerInstructionsWriteTheirResults : Obligations.IntegerInstructionsWriteTheirResults := by
  unfold Obligations.IntegerInstructionsWriteTheirResults
  intro i s x q hw hq hx
  have hquiet : raised (performers q.op q.f x (x.warp s)) (q.res (x.warp s)) = 0#5 := by
    rw [raised, orFlags_eq_zero]
    intro e he
    obtain ⟨l, -, rfl⟩ := List.mem_map.mp he
    exact intForm_all hq _ l
  obtain ⟨w', hleaves, heffect⟩ := perLane_effect s x q (intForm_classed hw hq hx.operands) hquiet
  exact ⟨w', by rw [intForm_exec hq hx, hleaves], heffect⟩

end Sys2Proof.Machine

/-! # Branches (08 R207, R208)

The rules about lane masks, and about what a write to lane words leaves of registers and predicates, come first; the later
parts use them too. -/

namespace Sys2Proof.Machine

/-! ### Lanes and masks -/

theorem mem_lanes32 {l : Nat} : l ∈ lanes32 ↔ l < 32 := List.mem_range (m := l) (n := 32)

theorem mem_maskLanes {m : Word} {l : Nat} : l ∈ maskLanes m ↔ l < 32 ∧ m.getLsbD l = true := by
  rw [maskLanes, List.mem_filter, mem_lanes32]

theorem mem_guarded {w : Warp} {m : Word} {g : BitVec 5} {l : Nat} (h : l ∈ guarded w m g) : l < 32 ∧ m.getLsbD l = true :=
  mem_maskLanes.mp (List.mem_filter.mp h).1

theorem getLsbD_foldl_or (p : Nat → Bool) (ls : List Nat) (m : Word) (l : Nat) :
    (ls.foldl (fun m k => if p k then m ||| BitVec.twoPow 32 k else m) m).getLsbD l =
      (m.getLsbD l || (decide (l < 32) && decide (l ∈ ls) && p l)) := by
  induction ls generalizing m with
  | nil => simp
  | cons k ls ih =>
    rw [List.foldl_cons, ih]
    by_cases hk : l = k
    · subst hk
      cases hp : p l
      · simp
      · simp +contextual
    · have hk' : k ≠ l := Ne.symm hk
      cases hp : p k <;> simp [hk, hk']

@[simp] theorem getLsbD_laneMask (p : Nat → Bool) (l : Nat) : (laneMask p).getLsbD l = (decide (l < 32) && p l) := by
  rw [laneMask, getLsbD_foldl_or]
  simp [mem_lanes32]

/-! ### What a write to lane words, or the step past an instruction, leaves of registers and predicates -/

section
variable {a b c w : Warp}

/-- The registers and predicates of two warps agree. -/
structure SameValues (w w' : Warp) : Prop where
  vector : ∀ l q, vget w' l q = vget w l q
  uniform : ∀ n, sget w' n = sget w n
  pred : ∀ l, pbyte w' l = pbyte w l
  qpred : w'.qb = w.qb

theorem SameValues.sameUniform (h : SameValues a b) : SameUniform a b := ⟨fun n _ => h.uniform n, h.qpred⟩

theorem SameValues.sameLanes (h : SameValues a b) : SameLanes a b := ⟨fun l q _ => h.vector l q, h.pred⟩

theorem SameUniform.then (h : SameUniform a b) (h' : SameValues b c) : SameUniform a c :=
  ⟨fun n hn => (h'.uniform n).trans (h.1 n hn), h'.qpred.trans h.2⟩

theorem SameLanes.then (h : SameLanes a b) (h' : SameValues b c) : SameLanes a c :=
  ⟨fun l q hq => (h'.vector l q).trans (h.1 l q hq), fun l => (h'.pred l).trans (h.2 l)⟩

theorem WroteLanes.then {ls : List Nat} {res : Nat → LaneRes} (h : WroteLanes a b ls res) (h' : SameValues b c) :
    WroteLanes a c ls res :=
  ⟨fun l q hq => (h'.vector l q).trans (h.regs l q hq),
   fun l k hk hl => (congrArg (wbit · k) (h'.pred l)).trans (h.preds l k hk hl)⟩

theorem WroteUniform.then {res : LaneRes} (h : WroteUniform a b res) (h' : SameValues b c) : WroteUniform a c res :=
  ⟨fun n hn => (h'.uniform n).trans (h.regs n hn), fun k hk => (congrArg (wbit · k) h'.qpred).trans (h.preds k hk)⟩

theorem sameValues_modLanes (m : Word) {g : Nat → Lane → Lane} (hg : ∀ i t, (g i t).pb = t.pb) :
    SameValues w (modLanes w m g) where
  vector _ _ := rfl
  uniform _ := rfl
  pred l := by
    unfold pbyte
    rw [lookup_modLanes]
    cases lookup w.lanes l with
    | none => rfl
    | some t =>
      dsimp only [Option.map_some]
      split
      · exact hg l t
      · rfl
  qpred := rfl

theorem sameValues_advance (w : Warp) (m : Word) (n : Nat) : SameValues w (advance w m n) :=
  ⟨vget_advance w m n, sget_advance w m n, pbyte_advance w m n, qb_advance w m n⟩

theorem onlyStepped_advance (w : Warp) (m : Word) (n : Nat) : OnlyStepped w (advance w m n) m n :=
  ⟨advance_same w m n, stepped_advance w w (.refl w) m n, pbyte_advance w m n⟩

end

theorem SameButRegs.clOpen {w v : Warp} (h : SameButRegs w v) : v.clOpen = w.clOpen := by
  unfold SameButRegs at h
  have hcl := congrArg Warp.clOpen h
  exact hcl

/-- A change of the issuing warp, the step past the instruction, and the end of the issue. -/
theorem next_mod_leaves (x : Iss) (s : State) (g : Warp → Warp) :
    { x.next (x.mod s g) with cur := .idle } = x.leaves s (advance (g (x.warp s)) x.mask x.len) := by
  rw [next_mod]
  exact mod_leaves x s _

/-! ### Results of registers alone -/

theorem uniform_dstWords {d : Nat} (hd : 192 ≤ d) (t v : Nat) : (LaneRes.ofRegs (dstWords d t v)).uniform := by
  refine ⟨fun e he => ?_, fun e he => by cases he⟩
  simp only [LaneRes.ofRegs, dstWords] at he
  split_ifs at he
  · cases he
  · simp only [List.mem_cons, List.not_mem_nil, or_false] at he
    rcases he with rfl | rfl
    · exact hd
    · exact Nat.le_succ_of_le hd
  · rw [List.mem_singleton.mp he]
    exact hd

/-- A pair of vector registers. -/
theorem perThread_dstWords {d : Nat} (hd : d < 192) (he : d % 2 = 0) (t v : Nat) :
    (LaneRes.ofRegs (dstWords d t v)).perThread := by
  refine ⟨fun e he => ?_, fun e he => by cases he⟩
  simp only [LaneRes.ofRegs, dstWords] at he
  split_ifs at he
  · cases he
  · simp only [List.mem_cons, List.not_mem_nil, or_false] at he
    rcases he with rfl | rfl
    · exact .inl hd
    · dsimp only; omega
  · rw [List.mem_singleton.mp he]
    exact .inl hd

theorem lanes_put_ofRegs (rs : List (Nat × Nat)) (w : Warp) (l : Nat) : ((LaneRes.ofRegs rs).put w l).lanes = w.lanes := by
  show (rs.foldl (fun w e => rwrite w l e.1 e.2) w).lanes = w.lanes
  induction rs generalizing w with
  | nil => rfl
  | cons e rs ih => exact (ih _).trans (rwrite_lanes ..)

/-! ### BRA, BRX, RET and CALL -/

/-- The lanes of the issuing path at their targets, or else at the next instruction. -/
def Warp.sent (w : Warp) (x : Iss) (ls : List Nat) (go : Nat → VA) : Warp :=
  modLanes w x.mask (fun i l =>
    { l with pc := if ls.contains i then go i else x.pc + BitVec.ofNat 57 x.len, wait := .none })

section
variable {s : State} {x : Iss} {f : Fields} {op : Nat} {w v : Warp} {ls : List Nat} {go : Nat → VA}

theorem sameValues_sent (w : Warp) (x : Iss) (ls : List Nat) (go : Nat → VA) : SameValues w (w.sent x ls go) :=
  sameValues_modLanes _ fun _ _ => rfl

theorem lanesWent_sent (h : v.lanes = w.lanes) (x : Iss) (ls : List Nat) (go : Nat → VA) :
    LanesWent w (v.sent x ls go) x.mask (fun l => if l ∈ ls then go l else x.pc + BitVec.ofNat 57 x.len) := by
  intro l
  rw [Warp.sent, lookup_modLanes, h]
  simp only [List.contains_iff_mem, Bool.and_eq_true, decide_eq_true_eq, and_comm]

theorem branchTo_unclasped (h : clasped (x.warp s) = false) : branchTo x s ls go = x.mod s (fun w => w.sent x ls go) := by
  unfold branchTo
  dsimp only
  rw [h, Bool.false_and, if_neg Bool.false_ne_true]
  rfl

/-- In a clasp region a lane that would leave sequential order traps with its path (08 R212). -/
theorem branchTo_diverges (h : clasped (x.warp s) = true) (hgo : ∃ l ∈ ls, go l ≠ x.pc + BitVec.ofNat 57 x.len) :
    branchTo x s ls go = x.illegal s 3 0 := by
  have hany : ls.any (fun l => go l != x.pc + BitVec.ofNat 57 x.len) = true := by
    simpa only [List.any_eq_true, bne_iff_ne] using hgo
  unfold branchTo
  dsimp only
  rw [h, hany]
  rfl

/-- BRA, BRX or RET with the target that it gives each lane. -/
def BranchOf (i : Instr) (op : Nat) (f : Fields) (x : Iss) (w : Warp) (go : Nat → VA) : Prop :=
  i = .bra f ∧ op = 48 ∧ go = (fun _ => branchTarget x.pc f) ∨
    (i = .brx f ∧ op = 49 ∨ i = .ret f ∧ op = 51) ∧ go = (fun l => pairTarget (rread2 w l f.a.toNat))

/-- What BRA, BRX and RET do with their targets; a handler's one path takes that of lane 0. -/
def branchBody (f : Fields) (go : Nat → VA) (x : Iss) (s : State) : State :=
  if (x.warp s).hmode then branchHandler x s (guardUni (x.warp s) f.g) (go 0)
  else branchTo x s (guarded (x.warp s) x.mask f.g) go

variable {i : Instr}

theorem exec_branch (h : BranchOf i op f x (x.warp s) go) (hx : Issues s x op f) :
    exec i s = .next { branchBody f go x s with cur := .idle } := by
  rcases h with ⟨rfl, rfl, rfl⟩ | ⟨⟨rfl, rfl⟩ | ⟨rfl, rfl⟩, rfl⟩
  · exact issue_eq hx (braBody f)
  · exact issue_eq hx (brxBody f)
  · exact issue_eq hx (brxBody f)

/-- CALL of some lane that a clasp region forbids. -/
theorem callBody_diverges (hm : (x.warp s).hmode = false) (hc : clasped (x.warp s) = true)
    (hg : guarded (x.warp s) x.mask f.g ≠ []) (hgo : branchTarget x.pc f ≠ x.pc + 8#57) : callBody f x s = x.illegal s 3 0 := by
  have hne : (!(guarded (x.warp s) x.mask f.g).isEmpty) = true := by simpa using hg
  have hbne : (branchTarget x.pc f != x.pc + 8#57) = true := by simpa using hgo
  simp only [callBody, hm, hc, hne, hbne, Bool.false_eq_true, if_false, Bool.and_self, if_true]

/-- The link words of a CALL. -/
def linkRes (f : Fields) (v : Nat) : LaneRes := .ofRegs (dstWords f.d.toNat 15 v)

theorem writeLink_uniform {n : Nat} (h : isUni f.d.toNat = true) :
    writeLink w f ls n = if ls = [] then w else (linkRes f n).put w 0 := by
  unfold writeLink
  dsimp only
  rw [if_pos h]
  simp only [List.isEmpty_iff]
  rfl

theorem writeLink_vector {n : Nat} (h : isUni f.d.toNat = false) :
    writeLink w f ls n = (ls.map (fun l => (l, linkRes f n))).foldl (fun w e => e.2.put w e.1) w := by
  unfold writeLink
  dsimp only
  rw [h, if_neg Bool.false_ne_true, List.foldl_map]
  rfl

theorem lanes_writeLink (w : Warp) (f : Fields) (ls : List Nat) (n : Nat) : (writeLink w f ls n).lanes = w.lanes := by
  unfold writeLink
  dsimp only
  split_ifs
  · rfl
  · exact lanes_put_ofRegs ..
  · exact List.foldlRecOn ls _ (motive := fun v : Warp => v.lanes = w.lanes) rfl
      fun v hv l _ => (lanes_put_ofRegs ..).trans hv

theorem onlyRegs_writeLink (w : Warp) (f : Fields) (ls : List Nat) (n : Nat) : OnlyRegs w (writeLink w f ls n) := by
  unfold writeLink
  dsimp only
  split_ifs
  · exact .refl w
  · exact onlyRegs_put ..
  · exact List.foldlRecOn ls _ (motive := OnlyRegs w) (.refl w) fun v hv l _ => hv.trans (onlyRegs_put ..)

theorem clasped_writeLink (w : Warp) (f : Fields) (ls : List Nat) (n : Nat) : clasped (writeLink w f ls n) = clasped w := by
  rw [clasped, (onlyRegs_writeLink w f ls n).same.clOpen, (onlyRegs_writeLink w f ls n).hmode, clasped]

/-- A vector pair that CALL names is even (06 R141). -/
theorem callLink_even (ok : operandsOk w 50 f = true) (hd : f.d.toNat < 192) : f.d.toNat % 2 = 0 := by
  have hu := useOk ok (u := reg .dst f.d 2) (List.mem_singleton_self _)
  have h255 : f.d.toNat ≠ 255 := by omega
  unfold Use.ok reg at hu
  dsimp only at hu
  rw [if_neg h255, if_pos hd] at hu
  simp only [Bool.and_eq_true, decide_eq_true_eq] at hu
  exact hu.1.1.1

/-- What CALL's link leaves in the registers (08 R207). -/
theorem wroteLink (ok : operandsOk w 50 f = true) (hn : ls.Nodup) (n : Nat) :
    if isUni f.d.toNat = true then SameLanes w (writeLink w f ls n) ∧
      (if ls = [] then SameUniform w (writeLink w f ls n) else WroteUniform w (writeLink w f ls n) (linkRes f n))
    else SameUniform w (writeLink w f ls n) ∧ WroteLanes w (writeLink w f ls n) ls (fun _ => linkRes f n) := by
  split
  next hu =>
    obtain ⟨hlanes, huni⟩ := put_uniform (linkRes f n) (uniform_dstWords (by simpa [isUni] using hu) 15 n)
      (fun e he => by cases he) 0 w
    rw [writeLink_uniform hu]
    split
    · exact ⟨⟨fun _ _ _ => rfl, fun _ => rfl⟩, fun _ _ => rfl, rfl⟩
    · exact ⟨hlanes, huni⟩
  next hu =>
    have hd : f.d.toNat < 192 := by simpa [isUni] using hu
    obtain ⟨-, huni, hlanes⟩ := wroteLanes_foldl ls hn (fun _ => linkRes f n)
      (fun _ _ => perThread_dstWords hd (callLink_even ok hd) 15 n) w
    rw [writeLink_vector (by simpa using hu)]
    exact ⟨huni, hlanes⟩

/-- The warp after CALL of these lanes. -/
def Warp.called (w : Warp) (x : Iss) (f : Fields) (ls : List Nat) : Warp :=
  (writeLink w f ls (x.pc + 8#57).toNat).sent x ls (fun _ => branchTarget x.pc f)

/-- CALL outside a handler, where no clasp region binds its path. -/
theorem callBody_unclasped (hw : (warpAt? s x.core x.wslot).isSome = true) (hm : (x.warp s).hmode = false)
    (hc : clasped (x.warp s) = false) :
    callBody f x s = x.mod s (fun w => w.called x f (guarded (x.warp s) x.mask f.g)) := by
  have hc' : clasped (x.warp (x.mod s (fun w => writeLink w f (guarded (x.warp s) x.mask f.g) (x.pc + 8#57).toNat))) = false := by
    rw [warp_mod x s hw, clasped_writeLink, hc]
  simp only [callBody, hm, hc, Bool.false_and, Bool.false_eq_true, if_false]
  rw [branchTo_unclasped hc', Iss.mod, Iss.mod, modWarp_modWarp]
  rfl

end

/-- Settles O7: BRA, BRX and RET by what `branchBody` does in each mode; CALL by its link first and its branch then. -/
theorem branchesGoToTheirTargets : Obligations.BranchesGoToTheirTargets := by
  refine ⟨?lanes, ?handler, ?call⟩
  case lanes =>
    intro i s x op f go hi hx hm hc
    have hbody : branchBody f go x s = x.mod s (fun w => w.sent x (guarded (x.warp s) x.mask f.g) go) := by
      rw [branchBody, hm, if_neg Bool.false_ne_true, branchTo_unclasped hc]
    refine ⟨(x.warp s).sent x (guarded (x.warp s) x.mask f.g) go, ?_, rfl, lanesWent_sent rfl x _ go⟩
    rw [exec_branch hi hx, hbody, mod_leaves]
  case handler =>
    intro i s x op f go hi hx hm
    have hlane : ∃ go', BranchOf i op f x (x.warp s) go' ∧ go = go' 0 := by
      rcases hi with ⟨hi, hop, hgo⟩ | ⟨hi, hgo⟩
      · exact ⟨_, .inl ⟨hi, hop, rfl⟩, hgo⟩
      · exact ⟨_, .inr ⟨hi, rfl⟩, hgo⟩
    obtain ⟨go', hi', rfl⟩ := hlane
    rw [exec_branch hi' hx, branchBody, hm, if_pos rfl, branchHandler, mod_leaves]
  case call =>
    intro f s x hx hm hc hlen
    have hlink := onlyRegs_writeLink (x.warp s) f (guarded (x.warp s) x.mask f.g) (x.pc + 8#57).toNat
    have hwrote := wroteLink hx.operands (guarded_nodup (x.warp s) x.mask f.g) (x.pc + 8#57).toNat
    have hvalues := sameValues_sent (writeLink (x.warp s) f (guarded (x.warp s) x.mask f.g) (x.pc + 8#57).toNat) x
      (guarded (x.warp s) x.mask f.g) (fun _ => branchTarget x.pc f)
    refine ⟨(x.warp s).called x f (guarded (x.warp s) x.mask f.g), ?_, hlink.same, hlink.hpc, ?_, ?_⟩
    · refine (issue_eq hx (callBody f)).trans ?_
      rw [callBody_unclasped hx.here hm hc, mod_leaves]
    · rw [← show BitVec.ofNat 57 x.len = 8#57 by rw [hlen]]
      exact lanesWent_sent (lanes_writeLink ..) x _ (fun _ => branchTarget x.pc f)
    · dsimp only
      split at hwrote
      next hu =>
        obtain ⟨hlanes, huni⟩ := hwrote
        rw [if_pos hu]
        refine ⟨hlanes.then hvalues, ?_⟩
        split at huni
        next hnil => rw [if_pos hnil]; exact huni.then hvalues
        next hnil => rw [if_neg hnil]; exact huni.then hvalues
      next hu =>
        rw [if_neg hu]
        exact ⟨hwrote.1.then hvalues, hwrote.2.then hvalues⟩

end Sys2Proof.Machine

/-! # Clasp regions and the instructions of traps (08 R210 to R212, R215, R221 to R224) -/

namespace Sys2Proof.Machine

/-! ### Clasp regions, NOP and YIELD (08 R210 to R212, R215) -/

section
variable {s : State} {x : Iss} {f : Fields} {op : Nat}

/-- A trap that leaves every lane at the instruction enters a handler that stands ready. -/
theorem illegal_leaves (hw : (warpAt? s x.core x.wslot).isSome = true) (hr : HandlerReady (x.warp s)) (code detail : Nat) :
    ∃ w', { x.illegal s code detail with cur := .idle } = x.leaves s w' ∧
      TrapEntered (x.warp s) w' (x.trapOf code detail x.mask 0 0) := takeTrap_leaves hw hr

theorem exitBody_clasped (hc : clasped (x.warp s) = true) (hg : guarded (x.warp s) x.mask f.g ≠ []) :
    exitBody f x s = x.illegal s 3 0 := by
  have hne : (guarded (x.warp s) x.mask f.g).isEmpty = false := by simpa using hg
  simp only [exitBody, hc, hne, Bool.not_false, Bool.and_self, if_true]

theorem deferBody_clasped (free : Bool) (hc : clasped (x.warp s) = true) (hg : guarded (x.warp s) x.mask f.g ≠ []) :
    deferBody free f x s = x.illegal s 3 0 := by
  have hne : (guarded (x.warp s) x.mask f.g).isEmpty = false := by simpa using hg
  simp only [deferBody, hc, hne, Bool.not_false, Bool.and_self, if_true]

/-- BRA, BRX and RET in a clasp region, of some lane out of sequential order. -/
theorem branchBody_diverges {go : Nat → VA} (hm : (x.warp s).hmode = false) (hc : clasped (x.warp s) = true)
    (hgo : ∃ l ∈ guarded (x.warp s) x.mask f.g, go l ≠ x.pc + BitVec.ofNat 57 x.len) :
    branchBody f go x s = x.illegal s 3 0 := by
  rw [branchBody, hm, if_neg Bool.false_ne_true, branchTo_diverges hc hgo]

theorem claspBody_opens (hg : guardUni (x.warp s) f.g = true) (ho : (x.warp s).clOpen = false) :
    claspBody f x s = x.next (x.mod s (fun w => { w with clOpen := true, cmask := x.mask })) := by
  simp only [claspBody, hg, ho, Bool.not_true, Bool.false_eq_true, if_false]

theorem unclaspBody_closes (hg : guardUni (x.warp s) f.g = true) (ho : (x.warp s).clOpen = true) :
    unclaspBody f x s = x.next (x.mod s (fun w => { w with clOpen := false, cmask := 0#32 })) := by
  simp only [unclaspBody, hg, ho, Bool.not_true, Bool.false_eq_true, if_false]

theorem claspBody_passed (hg : guardUni (x.warp s) f.g = false) : claspBody f x s = x.next s := by
  simp only [claspBody, hg, Bool.not_false, if_true]

theorem unclaspBody_passed (hg : guardUni (x.warp s) f.g = false) : unclaspBody f x s = x.next s := by
  simp only [unclaspBody, hg, Bool.not_false, if_true]

@[simp] theorem advance_clOpen (w : Warp) (m : Word) (n : Nat) : (advance w m n).clOpen = w.clOpen := by
  unfold advance modLanes; split <;> rfl

@[simp] theorem advance_cmask (w : Warp) (m : Word) (n : Nat) : (advance w m n).cmask = w.cmask := by
  unfold advance modLanes; split <;> rfl

@[simp] theorem advance_yielded (w : Warp) (m : Word) (n : Nat) : (advance w m n).yielded = w.yielded := by
  unfold advance modLanes; split <;> rfl

/-- Beside its clasp region a warp steps as if it were not changed. -/
theorem advance_ofClasp (w : Warp) (o : Bool) (c m : Word) (n : Nat) :
    { advance { w with clOpen := o, cmask := c } m n with clOpen := w.clOpen, cmask := w.cmask } = advance w m n := by
  unfold advance modLanes
  dsimp only
  split <;> rfl

/-- Beside the mark of YIELD likewise. -/
theorem advance_ofYielded (w : Warp) (b : Bool) (m : Word) (n : Nat) :
    { advance { w with yielded := b } m n with yielded := w.yielded } = advance w m n := by
  unfold advance modLanes
  dsimp only
  split <;> rfl

end

/-- Settles O8: in a region each divergent form is the clasp trap; the steps leave their one mark beside `advance`. -/
theorem claspRegionsOpenAndRefuseDivergence : Obligations.ClaspRegionsOpenAndRefuseDivergence := by
  refine ⟨?traps, ?opens, ?closes, ?steps, ?yields⟩
  case traps =>
    intro i s x op f hi hx hc hg hr
    have hm : (x.warp s).hmode = false := hr.1
    have hexec : exec i s = .next { x.illegal s 3 0 with cur := .idle } := by
      rcases hi with ⟨rfl, rfl, hgo⟩ | ⟨rfl, rfl, hgo⟩ | ⟨hi, hgo⟩ | ⟨rfl, rfl⟩ | ⟨rfl | ⟨rfl, -⟩, rfl⟩
      · obtain ⟨l, hl⟩ := List.exists_mem_of_ne_nil _ hg
        rw [exec_branch (.inl ⟨rfl, rfl, rfl⟩) hx, branchBody_diverges hm hc ⟨l, hl, hgo⟩]
      · exact (issue_eq hx (callBody f)).trans (by rw [callBody_diverges hm hc hg hgo])
      · rw [exec_branch (.inr ⟨hi, rfl⟩) hx, branchBody_diverges hm hc hgo]
      · exact (issue_eq hx (exitBody f)).trans (by rw [exitBody_clasped hc hg])
      · exact (issue_eq hx (deferBody true f)).trans (by rw [deferBody_clasped true hc hg])
      · exact (issue_eq hx (deferBody false f)).trans (by rw [deferBody_clasped false hc hg])
    obtain ⟨w', hleaves, hentered⟩ := illegal_leaves hx.here hr 3 0
    exact ⟨w', by rw [hexec, hleaves], hentered⟩
  case opens =>
    intro f s x hx hg ho
    refine ⟨advance { x.warp s with clOpen := true, cmask := x.mask } x.mask x.len, ?_, by simp, by simp, ?_⟩
    · exact (issue_eq hx (claspBody f)).trans (by rw [claspBody_opens hg ho, next_mod_leaves])
    · rw [← ho, advance_ofClasp]
      exact onlyStepped_advance ..
  case closes =>
    intro f s x hx hg ho
    refine ⟨advance { x.warp s with clOpen := false, cmask := 0#32 } x.mask x.len, ?_, by simp, by simp, ?_⟩
    · exact (issue_eq hx (unclaspBody f)).trans (by rw [unclaspBody_closes hg ho, next_mod_leaves])
    · rw [← ho, advance_ofClasp]
      exact onlyStepped_advance ..
  case steps =>
    intro i f s x op hi hx
    refine ⟨advance (x.warp s) x.mask x.len, ?_, onlyStepped_advance ..⟩
    rcases hi with ⟨rfl, rfl, hg⟩ | ⟨rfl, rfl, hg⟩ | ⟨rfl, rfl⟩
    · exact (issue_eq hx (claspBody f)).trans (by rw [claspBody_passed hg, next_leaves])
    · exact (issue_eq hx (unclaspBody f)).trans (by rw [unclaspBody_passed hg, next_leaves])
    · exact (issue_eq hx (fun x s => x.next s)).trans (by rw [next_leaves])
  case yields =>
    intro f s x hx
    refine ⟨advance { x.warp s with yielded := true } x.mask x.len, ?_, by simp, ?_⟩
    · exact (issue_eq hx (fun x s => x.next (x.mod s (fun w => { w with yielded := true })))).trans (by rw [next_mod_leaves])
    · rw [advance_ofYielded]
      exact onlyStepped_advance ..

/-! ### The software trap (08 R221) -/

/-- Settles O13: TRAP of some lane is the software trap, which the handler that stands ready takes. -/
theorem trapEntersTheHandler : Obligations.TrapEntersTheHandler := by
  intro f s x hx hg hr
  have hne : (guarded (x.warp s) x.mask f.g).isEmpty = false := by simpa using hg
  obtain ⟨w', hleaves, hentered⟩ := takeTrap_leaves
    (t := x.trapOf 6 0 (laneMask (fun l => (guarded (x.warp s) x.mask f.g).contains l)) 0 (BitVec.ofNat 64 f.b.toNat)) hx.here hr
  refine ⟨w', (issue_eq hx (trapBody f)).trans ?_, hentered⟩
  rw [← hleaves]
  simp only [trapBody, hne, Bool.false_eq_true, if_false]
  rfl

/-! ### Trap state registers (08 R223, 06 R148) -/

section
variable {w : Warp}

theorem rread_lt (w : Warp) (l r : Nat) : rread w l r < 2 ^ 32 := by
  unfold rread
  split_ifs
  · exact BitVec.isLt _
  · exact BitVec.isLt _
  · decide

theorem rread2_lt (w : Warp) (l r : Nat) : rread2 w l r < 2 ^ 64 := by
  have hlow := rread_lt w l r
  have hhigh := rread_lt w l (r + 1)
  unfold rread2
  split_ifs <;> omega

/-- The trap state registers of 64 bits (06 R148). -/
theorem trWidth_eq {n : Nat} : trWidth n = if n ∈ [1, 4, 5, 6, 8] then 2 else 1 := by
  simp [trWidth]

/-- A value that the source of TWR can have is one that its register holds. -/
theorem srcN_trWidth_lt (w : Warp) (n r : Nat) : srcN w 0 (trWidth n) r < 2 ^ (32 * trWidth n) := by
  unfold srcN trWidth
  split_ifs
  · exact rread2_lt w 0 r
  · contradiction
  · contradiction
  · exact rread_lt w 0 r

theorem trRead_trWrite_self {n v : Nat} (hn : n < 9) (hv : v < 2 ^ (32 * trWidth n)) :
    trRead (trWrite w n v) n = trField n v := by
  interval_cases n <;> simp [trRead, trWrite, trField, trWidth] at hv ⊢ <;> omega

theorem trRead_trWrite_ne {n k v : Nat} (hn : n < 9) (hk : k < 9) (h : n ≠ k) : trRead (trWrite w k v) n = trRead w n := by
  interval_cases k <;> interval_cases n <;> simp_all [trRead, trWrite]

theorem trRead_advance (w : Warp) (m : Word) (n k : Nat) : trRead (advance w m n) k = trRead w k := by
  unfold advance modLanes; split <;> rfl

/-- Beside the trap state registers a warp steps as if TWR had not changed it. -/
theorem advance_ofTrWrite (w : Warp) (k v : Nat) (m : Word) (n : Nat) :
    { advance (trWrite w k v) m n with
      trCause := w.trCause, trPc := w.trPc, trMask := w.trMask, trElem := w.trElem, trAddr := w.trAddr, trInst := w.trInst
      tba := w.tba, tem := w.tem, fplog := w.fplog } = advance w m n := by
  unfold trWrite
  split
  all_goals
    unfold advance modLanes
    dsimp only
    split <;> rfl

variable {s : State} {x : Iss} {f : Fields}

/-- The value that TRD gives its uniform register or pair. -/
def trdRes (f : Fields) (w : Warp) : LaneRes :=
  .ofRegs (dstWords f.d.toNat (if trWidth f.b.toNat = 2 then 15 else 0) (trRead w f.b.toNat))

theorem trdBody_passes (hg : guardUni (x.warp s) f.g = true) :
    trdBody f x s = x.next (x.mod s (fun w => (trdRes f w).put w 0)) := by
  simp only [trdBody, hg, Bool.not_true, Bool.false_eq_true, if_false]
  rfl

theorem twrBody_passes (hg : guardUni (x.warp s) f.g = true) :
    twrBody f x s = x.next (x.mod s (fun w => trWrite w f.b.toNat (srcN w 0 (trWidth f.b.toNat) f.a.toNat))) := by
  simp only [twrBody, hg, Bool.not_true, Bool.false_eq_true, if_false]

/-- TRD names a uniform register (06 R140). -/
theorem trdDst_uniform (ok : operandsOk w 66 f = true) : 192 ≤ f.d.toNat := by
  have hu := useOk ok (u := reg .udst f.d (trWidth f.b.toNat)) (List.mem_singleton_self _)
  by_contra hd
  have hlt : f.d.toNat < 192 := by omega
  have h255 : f.d.toNat ≠ 255 := by omega
  unfold Use.ok reg at hu
  dsimp only at hu
  rw [if_neg h255, if_pos hlt] at hu
  simp at hu

end

/-- Settles O15: TRD is one uniform result; TWR writes its register, whose width holds the source. -/
theorem trapRegistersReadAndWrite : Obligations.TrapRegistersReadAndWrite := by
  refine ⟨?reads, ?writes⟩
  case reads =>
    intro f s x hx hb hg
    obtain ⟨hlanes, huni⟩ := put_uniform (trdRes f (x.warp s)) (uniform_dstWords (trdDst_uniform hx.operands) _ _)
      (fun e he => by cases he) 0 (x.warp s)
    have honly := onlyRegs_put (trdRes f (x.warp s)) 0 (x.warp s)
    have hvalues := sameValues_advance ((trdRes f (x.warp s)).put (x.warp s) 0) x.mask x.len
    refine ⟨advance ((trdRes f (x.warp s)).put (x.warp s) 0) x.mask x.len, ?_, sameButRegs_advance _ _ honly .., 
      stepped_advance _ _ honly .., hlanes.then hvalues, ?_⟩
    · exact (issue_eq hx (trdBody f)).trans (by rw [trdBody_passes hg, next_mod_leaves])
    · have hres : trdRes f (x.warp s) = .ofRegs (dstWords f.d.toNat (if f.b.toNat ∈ [1, 4, 5, 6, 8] then 15 else 0)
          (trRead (x.warp s) f.b.toNat)) := by
        rw [trdRes, trWidth_eq]
        split <;> rfl
      rw [← hres]
      exact huni.then hvalues
  case writes =>
    intro f s x hx hb hg
    rw [← trWidth_eq]
    refine ⟨advance (trWrite (x.warp s) f.b.toNat (srcN (x.warp s) 0 (trWidth f.b.toNat) f.a.toNat)) x.mask x.len, ?_, ?_,
      fun n hn hne => ?_, ?_⟩
    · exact (issue_eq hx (twrBody f)).trans (by rw [twrBody_passes hg, next_mod_leaves])
    · rw [trRead_advance, trRead_trWrite_self hb (srcN_trWidth_lt ..)]
    · rw [trRead_advance, trRead_trWrite_ne hn hb hne]
    · rw [advance_ofTrWrite]
      exact onlyStepped_advance ..

/-! ### The debug halt of BPT (08 R224, 17 R452) -/

section
variable {s : State} {core ws : Nat} {w : Warp}

theorem worseHalt_debug (o : Option Nat) : worseHalt o 2 = if o = some 3 then some 3 else some 2 := by
  unfold worseHalt
  split
  next h => exact h
  next => rfl

theorem Undisturbed.idle {t : State} (h : Undisturbed s t) : Undisturbed s { t with cur := .idle } :=
  ⟨h.root, h.dram, h.l2, h.parts, h.heads, h.lcs⟩

theorem haltUnit_debug (pc : VA) : haltUnit s core ws 2 pc =
    modWarp (match (warpAt s core ws).gslot with
      | some g => modGroup (haltGroup s core g 2) core g (fun x => { x with haltPc := pc })
      | none => haltFree s core ws 2) core ws (fun w => { w with raisedHalt := true }) := rfl

/-- Which warps a halt broadcast reaches does not depend on its reason. -/
theorem warpAt?_haltGroup_reason (s : State) (core g r c k : Nat) :
    warpAt? (haltGroup s core g r) c k = warpAt? (haltGroup s core g 3) c k := by
  unfold haltGroup
  split
  · rfl
  · dsimp only
    rw [warpAt?_modGroup, warpAt?_modGroup]

/-- A debug halt marks its warp, and a warp without a group for its save. -/
theorem warpAt_haltUnit_debug (h : warpAt? s core ws = some w) (pc : VA) :
    OnlyHalted w (warpAt (haltUnit s core ws 2 pc) core ws) ∧ (warpAt (haltUnit s core ws 2 pc) core ws).raisedHalt = true ∧
      (w.gslot = none → (warpAt (haltUnit s core ws 2 pc) core ws).saving = worseHalt w.saving 2) := by
  have hw : warpAt s core ws = w := by rw [warpAt, h]; rfl
  have hsome : (warpAt? s core ws).isSome = true := by rw [h]; rfl
  rw [haltUnit_debug, hw]
  cases hg : w.gslot with
  | some g =>
    obtain ⟨v, hv, hvw⟩ := warpAt?_haltGroup (g := g) h
    dsimp only
    rw [warpAt, warpAt?_modWarp_self, warpAt?_modGroup, warpAt?_haltGroup_reason, hv]
    refine ⟨?_, rfl, nofun⟩
    rcases hvw with rfl | rfl <;> rfl
  | none =>
    dsimp only
    rw [haltFree, modWarp_modWarp, warpAt_modWarp _ _ _ _ hsome, hw]
    refine ⟨?_, rfl, fun _ => rfl⟩
    cases isHalt w.saving <;> rfl

theorem groupAt_haltGroup_debug {g : Nat} {y : Group} (h : groupAt s core g = some y) :
    groupAt (haltGroup s core g 2) core g = some { y with saving := worseHalt y.saving 2 } := by
  unfold haltGroup
  rw [h]
  dsimp only
  rw [groupAt_modGroup, if_pos ⟨rfl, rfl⟩]
  split
  · rw [h, Option.map_some]
  · rw [groupAt, coreOf_modCore_self]
    exact congrArg _ h

theorem groupAt_haltUnit_debug {g : Nat} {y : Group} (hg : (warpAt s core ws).gslot = some g) (hy : groupAt s core g = some y)
    (pc : VA) : groupAt (haltUnit s core ws 2 pc) core g = some { y with saving := worseHalt y.saving 2, haltPc := pc } := by
  rw [haltUnit_debug, hg]
  dsimp only
  rw [groupAt_modWarp, groupAt_modGroup, if_pos ⟨rfl, rfl⟩, groupAt_haltGroup_debug hy]
  rfl

theorem undisturbed_haltUnit_debug (pc : VA) : Undisturbed s (haltUnit s core ws 2 pc) := by
  rw [haltUnit_debug]
  cases (warpAt s core ws).gslot with
  | some g =>
    have hgroup : Undisturbed s (haltGroup s core g 2) := by
      unfold haltGroup
      split
      · exact .refl s
      · dsimp only
        split <;> exact ⟨rfl, rfl, rfl, rfl, rfl, rfl⟩
    exact hgroup.trans ⟨rfl, rfl, rfl, rfl, rfl, rfl⟩
  | none => exact ⟨rfl, rfl, rfl, rfl, rfl, rfl⟩

variable {x : Iss} {f : Fields}

/-- The issuing warp past its BPT. -/
def Warp.halting (w : Warp) (x : Iss) (f : Fields) : Warp :=
  advance { w with trAddr := BitVec.ofNat 64 f.b.toNat } x.mask x.len

@[simp] theorem halting_trAddr (w : Warp) (x : Iss) (f : Fields) : (w.halting x f).trAddr = BitVec.ofNat 64 f.b.toNat := by
  unfold Warp.halting advance modLanes; split <;> rfl

@[simp] theorem halting_gslot (w : Warp) (x : Iss) (f : Fields) : (w.halting x f).gslot = w.gslot := by
  unfold Warp.halting advance modLanes; split <;> rfl

@[simp] theorem halting_saving (w : Warp) (x : Iss) (f : Fields) : (w.halting x f).saving = w.saving := by
  unfold Warp.halting advance modLanes; split <;> rfl

/-- Beside tr.addr and the marks of a halt a warp steps as if BPT had not changed it. -/
theorem halting_ofMarks (w : Warp) (x : Iss) (f : Fields) :
    { w.halting x f with trAddr := w.trAddr, raisedHalt := w.raisedHalt, skid := w.skid, saving := w.saving } =
      advance w x.mask x.len := by
  unfold Warp.halting advance modLanes
  dsimp only
  split <;> rfl

/-- BPT past its guard halts where its instruction is over. -/
theorem bptBody_halts
    (h : if (x.warp s).hmode = true then handlerGuard (x.warp s) f.g = true else guarded (x.warp s) x.mask f.g ≠ []) :
    bptBody f x s = haltUnit (x.mod s (fun w => w.halting x f)) x.core x.wslot 2 x.pc := by
  have hcond : (if (x.warp s).hmode then handlerGuard (x.warp s) f.g else !(guarded (x.warp s) x.mask f.g).isEmpty) = true := by
    split at h
    next hm => rw [if_pos hm, h]
    next hm => rw [if_neg hm]; simpa using h
  unfold bptBody
  dsimp only
  rw [if_pos hcond, next_mod]
  rfl

end

/-- Settles O16: the halt is ordered where the instruction is over, and it changes its marks alone. -/
theorem bptHaltsItsGroup : Obligations.BptHaltsItsGroup := by
  intro f s x hx hg
  obtain ⟨w, hw⟩ := Option.isSome_iff_exists.mp hx.here
  have hwarp : x.warp s = w := by rw [Iss.warp, warpAt, hw]; rfl
  have hv : warpAt? (x.mod s (fun w => w.halting x f)) x.core x.wslot = some (w.halting x f) := by
    rw [Iss.mod, warpAt?_modWarp_self, hw, Option.map_some]
  have hat : warpAt (x.mod s (fun w => w.halting x f)) x.core x.wslot = w.halting x f := by rw [warpAt, hv]; rfl
  obtain ⟨honly, hraised, hfree⟩ := warpAt_haltUnit_debug hv x.pc
  unfold OnlyHalted at honly
  refine ⟨{ haltUnit (x.mod s (fun w => w.halting x f)) x.core x.wslot 2 x.pc with cur := .idle }, ?_, ?_, hraised, ?_, ?_, ?_, ?_⟩
  · exact (issue_eq hx (bptBody f)).trans (by rw [bptBody_halts hg])
  · have haddr := congrArg Warp.trAddr honly
    exact haddr.trans (halting_trAddr w x f)
  · have hmarks := congrArg (fun u : Warp => { u with
      trAddr := w.trAddr, raisedHalt := w.raisedHalt, skid := w.skid, saving := w.saving }) honly
    rw [hwarp]
    exact (hmarks.trans (halting_ofMarks w x f)) ▸ onlyStepped_advance w x.mask x.len
  · intro g y hgs hy
    have hgs' : (warpAt (x.mod s (fun w => w.halting x f)) x.core x.wslot).gslot = some g := by
      rw [hat, halting_gslot, ← hwarp, hgs]
    rw [← worseHalt_debug]
    exact groupAt_haltUnit_debug hgs' ((groupAt_modWarp ..).trans hy) x.pc
  · intro hgs
    rw [hwarp] at hgs ⊢
    rw [← halting_saving w x f, ← worseHalt_debug]
    exact hfree ((halting_gslot w x f).trans hgs)
  · have hmod : Undisturbed s (x.mod s (fun w => w.halting x f)) := ⟨rfl, rfl, rfl, rfl, rfl, rfl⟩
    exact (hmod.trans (undisturbed_haltUnit_debug x.pc)).idle

end Sys2Proof.Machine

/-! # The wait for child grids (08 R219) -/

namespace Sys2Proof.Machine

section
variable {s t : State} {x : Iss} {f : Fields} {op : Nat} {w v : Warp} {m : Word} {n : Nat}

/-! ### Instructions that no handler issues -/

/-- An instruction that handlers may not issue is admitted outside a handler alone (17 R447). -/
theorem hmode_of_issues (hx : Issues s x op f) (ho : handlerAllows op f = false) : (x.warp s).hmode = false := by
  rcases hx.mode with hm | hm
  · exact hm
  · rw [ho] at hm
    cases hm

theorem handlerAllows_exit (f : Fields) : handlerAllows 52 f = false := by
  simp [handlerAllows, uniformForm, shape, shapeInt, shapeOf, Shape.uniDst, noDstMem]

theorem handlerAllows_defer (f : Fields) : handlerAllows 53 f = false := by
  simp [handlerAllows, uniformForm, shape, shapeInt, shapeOf, Shape.uniDst, noDstMem]

theorem handlerAllows_cwait (f : Fields) : handlerAllows 60 f = false := by
  simp [handlerAllows, uniformForm, shape, shapeInt, shapeOf, Shape.uniDst, noDstMem]

/-! ### Lane words of no lane -/

@[simp] theorem laneMask_false : laneMask (fun _ => false) = 0#32 := rfl

/-- The lanes of a path that are not among these. -/
theorem getLsbD_without (m : Word) (ls : List Nat) (l : Nat) :
    ((m &&& ~~~laneMask (fun l => ls.contains l)).getLsbD l && decide (l < 32)) =
      (decide (l < 32) && m.getLsbD l && !ls.contains l) := by
  rw [BitVec.getLsbD_and, BitVec.getLsbD_not, getLsbD_laneMask]
  cases decide (l < 32) <;> cases m.getLsbD l <;> cases ls.contains l <;> rfl

theorem modLanes_zero (w : Warp) (g : Nat → Lane → Lane) : modLanes w 0#32 g = w := by
  simp [modLanes]

theorem advance_outside (hm : w.hmode = false) (m : Word) (n : Nat) : advance w m n = modLanes w m (fun _ t => t.past n) := by
  unfold advance
  rw [hm, if_neg Bool.false_ne_true]
  rfl

/-! ### The acquire action -/

/-- A warp whose threads have seen these stores. -/
def Warp.seen (s : State) (m : Word) (rids : List Nat) (w : Warp) : Warp :=
  { w with lanes := w.lanes.map (fun e => if w.hmode || m.getLsbD e.1 then (e.1, e.2.sees s rids) else e) }

theorem sees_eq (s : State) (core ws : Nat) (m : Word) (rids : List Nat) :
    sees s core ws m rids = modWarp s core ws (Warp.seen s m rids) := rfl

theorem lookup_seen (s : State) (m : Word) (rids : List Nat) (w : Warp) (l : Nat) :
    lookup (w.seen s m rids).lanes l =
      (lookup w.lanes l).map (fun t => if w.hmode || m.getLsbD l then t.sees s rids else t) := by
  have hmap := lookup_mapVal w.lanes (fun i t => if w.hmode || m.getLsbD i then t.sees s rids else t) l
  simp only [apply_ite (Prod.mk _)] at hmap
  exact hmap

/-- What threads have seen is no part of their step. -/
theorem OnlyStepped.seen (h : OnlyStepped w v m n) (s : State) (k : Word) (rids : List Nat) :
    OnlyStepped w (v.seen s k rids) m n := by
  obtain ⟨hsame, hstep, hpred⟩ := h
  have hlane : ∀ l {α : Type} (g : Lane → α), (∀ t, g (t.sees s rids) = g t) →
      (lookup (v.seen s k rids).lanes l).map g = (lookup v.lanes l).map g := by
    intro l α g hg
    rw [lookup_seen, Option.map_map]
    refine Option.map_congr fun t _ => ?_
    simp only [Function.comp]
    split
    · exact hg t
    · rfl
  refine ⟨hsame, ⟨hstep.handlerPc, fun l => ?_⟩, fun l => ?_⟩
  · exact (hlane l (fun t => { t.unseen with pb := 0 }) fun _ => rfl).trans (hstep.lanes l)
  · rw [← hpred l, pbyte, pbyte]
    have hpb := hlane l Lane.pb fun _ => rfl
    cases hv : lookup v.lanes l <;> cases hs : lookup (v.seen s k rids).lanes l <;> simp_all

theorem warpAt?_invalidateL1 (s : State) (core c k : Nat) : warpAt? (invalidateL1 s core) c k = warpAt? s c k := by
  rw [warpAt?, coreOf_invalidateL1]
  split <;> rfl

theorem groupAt_invalidateL1 (s : State) (core c k : Nat) : groupAt (invalidateL1 s core) c k = groupAt s c k := by
  rw [groupAt, coreOf_invalidateL1]
  split <;> rfl

theorem warp_acquire (hw : (warpAt? s x.core x.wslot).isSome = true) (m : Word) :
    x.warp (acquireBy s x.core x.wslot m true) = (x.warp s).seen s m (groupWrites s x.core x.wslot) := by
  have hacq : acquireBy s x.core x.wslot m true =
      invalidateL1 (x.mod s (Warp.seen s m (groupWrites s x.core x.wslot))) x.core := rfl
  rw [hacq, Iss.warp, warpAt, warpAt?_invalidateL1]
  exact warp_mod x s hw _

theorem acquire_leaves (s : State) (core ws : Nat) (m : Word) :
    (coreOf (acquireBy s core ws m true) core).l1 = [] ∧ Undisturbed s (acquireBy s core ws m true) ∧
      SameGroups s (acquireBy s core ws m true) := by
  have hacq : acquireBy s core ws m true = invalidateL1 (sees s core ws m (groupWrites s core ws)) core := rfl
  rw [hacq]
  refine ⟨by rw [coreOf_invalidateL1, if_pos rfl], ⟨rfl, rfl, rfl, rfl, rfl, rfl⟩, fun c k => ?_⟩
  rw [groupAt_invalidateL1, sees_eq, groupAt_modWarp]

/-! ### CWAIT -/

/-- The guarded lanes that a child grid holds at CWAIT. -/
def cwaitHeld (f : Fields) (x : Iss) (s : State) : List Nat :=
  (guarded (x.warp s) x.mask f.g).filter (fun l =>
    (groupChildren s x.core (x.warp s)).any (fun k => decide (k < cwaitBound s (x.warp s) l)))

/-- A warp of whose path these lanes wait at CWAIT and the others go on. -/
def Warp.cwaiting (w : Warp) (x : Iss) (s : State) (held : List Nat) : Warp :=
  modLanes (advance w (x.mask &&& ~~~laneMask (fun l => held.contains l)) x.len) (laneMask (fun l => held.contains l))
    (fun l t => { t with wait := .cwait (cwaitBound s (x.warp s) l) })

theorem cwaitBody_eq (f : Fields) (x : Iss) (s : State) : cwaitBody f x s =
    if (guarded (x.warp s) x.mask f.g).any (fun l => !(cwaitHeld f x s).contains l) then
      acquireBy (x.mod s (fun w => w.cwaiting x s (cwaitHeld f x s))) x.core x.wslot
        (laneMask (fun l => (guarded (x.warp s) x.mask f.g).contains l && !(cwaitHeld f x s).contains l)) true
    else x.mod s (fun w => w.cwaiting x s (cwaitHeld f x s)) := rfl

theorem cwaitHeld_nil (h : ∀ l ∈ guarded (x.warp s) x.mask f.g, ∀ k ∈ groupChildren s x.core (x.warp s),
    cwaitBound s (x.warp s) l ≤ k) : cwaitHeld f x s = [] := by
  refine List.filter_eq_nil_iff.mpr fun l hl hany => ?_
  obtain ⟨k, hk, hlt⟩ := List.any_eq_true.mp hany
  exact absurd (of_decide_eq_true hlt) (Nat.not_lt.mpr (h l hl k hk))

theorem cwaitHeld_all (h : ∀ l ∈ guarded (x.warp s) x.mask f.g, ∃ k ∈ groupChildren s x.core (x.warp s),
    k < cwaitBound s (x.warp s) l) : cwaitHeld f x s = guarded (x.warp s) x.mask f.g := by
  refine List.filter_eq_self.mpr fun l hl => ?_
  obtain ⟨k, hk, hlt⟩ := h l hl
  exact List.any_eq_true.mpr ⟨k, hk, decide_eq_true hlt⟩

theorem cwaiting_nil (w : Warp) (x : Iss) (s : State) : w.cwaiting x s [] = advance w x.mask x.len := by
  unfold Warp.cwaiting
  simp only [List.contains_nil, laneMask_false, modLanes_zero]
  congr 1
  exact BitVec.and_allOnes

/-- CWAIT of lanes that no child grid holds, one at least (08 R219). -/
theorem cwaitBody_passes (hg : guarded (x.warp s) x.mask f.g ≠ []) (h : ∀ l ∈ guarded (x.warp s) x.mask f.g,
    ∀ k ∈ groupChildren s x.core (x.warp s), cwaitBound s (x.warp s) l ≤ k) :
    ∃ m, cwaitBody f x s = acquireBy (x.mod s (fun w => advance w x.mask x.len)) x.core x.wslot m true := by
  obtain ⟨l, hl⟩ := List.exists_mem_of_ne_nil _ hg
  have hany : (guarded (x.warp s) x.mask f.g).any (fun l => !([] : List Nat).contains l) = true :=
    List.any_eq_true.mpr ⟨l, hl, rfl⟩
  rw [cwaitBody_eq, cwaitHeld_nil h, if_pos hany]
  simp only [cwaiting_nil]
  exact ⟨_, rfl⟩

/-- The lane words of a path of which some lanes wait at CWAIT. -/
theorem lookup_cwaiting {held : List Nat} (hm : w.hmode = false) (hsub : ∀ l ∈ held, l < 32 ∧ x.mask.getLsbD l = true) (l : Nat) :
    lookup (w.cwaiting x s held).lanes l = (lookup w.lanes l).map (fun u =>
      if l ∈ held then { u with wait := .cwait (cwaitBound s (x.warp s) l) }
      else if l < 32 ∧ x.mask.getLsbD l = true then u.past x.len else u) := by
  rw [Warp.cwaiting, advance_outside hm, lookup_modLanes, lookup_modLanes, Option.map_map]
  refine Option.map_congr fun u _ => ?_
  rw [Function.comp, getLsbD_without, getLsbD_laneMask]
  by_cases hl : l ∈ held
  · have h32 := (hsub l hl).1
    simp [hl, h32]
  · simp [hl]

end

/-- Settles O12: no lane is held in the first case, every guarded lane in the second. -/
theorem cwaitWaitsForTheChildren : Obligations.CwaitWaitsForTheChildren := by
  refine ⟨?goes, ?waits⟩
  case goes =>
    intro f s x hx hg hk
    obtain ⟨m, hbody⟩ := cwaitBody_passes hg hk
    have hw : (warpAt? (x.mod s (fun w => advance w x.mask x.len)) x.core x.wslot).isSome = true := by
      rw [Iss.mod, isSome_warpAt?_modWarp]
      exact hx.here
    have hmod : Undisturbed s (x.mod s (fun w => advance w x.mask x.len)) := ⟨rfl, rfl, rfl, rfl, rfl, rfl⟩
    obtain ⟨hl1, hquiet, hgroups⟩ := acquire_leaves (x.mod s (fun w => advance w x.mask x.len)) x.core x.wslot m
    refine ⟨{ acquireBy (x.mod s (fun w => advance w x.mask x.len)) x.core x.wslot m true with cur := .idle },
      (issue_eq hx (cwaitBody f)).trans (by rw [hbody]), ?_, hl1, (hmod.trans hquiet).idle,
      fun c k => (hgroups c k).trans (groupAt_modWarp ..)⟩
    have hwarp := warp_acquire hw m
    rw [warp_mod x s hx.here] at hwarp
    exact hwarp ▸ (onlyStepped_advance (x.warp s) x.mask x.len).seen ..
  case waits =>
    intro f s x hx hk
    have hm := hmode_of_issues hx (handlerAllows_cwait f)
    have hnone : (guarded (x.warp s) x.mask f.g).any (fun l => !(guarded (x.warp s) x.mask f.g).contains l) = false := by
      simp
    have hbody := cwaitBody_eq f x s
    rw [cwaitHeld_all hk, hnone, if_neg Bool.false_ne_true] at hbody
    refine ⟨(x.warp s).cwaiting x s (guarded (x.warp s) x.mask f.g), ?_, ?_, lookup_cwaiting hm fun l hl => mem_guarded hl⟩
    · exact (issue_eq hx (cwaitBody f)).trans (by rw [hbody, mod_leaves])
    · rw [Warp.cwaiting, advance_outside hm]
      rfl

end Sys2Proof.Machine

/-! # The end of threads (08 R209, R213, R214; 16 R431, R438)

`endThreads` takes threads out of a warp. Where every warp of the core keeps a thread, nothing but lane words and the marks of
ended groups changes. Where a warp has none left it leaves its slot: `Shrinks` says what the writes of records and the departures
of warps keep, whichever warps they are. -/

namespace Sys2Proof.Machine

section
variable {s t u : State} {core ws : Nat} {w : Warp} {gone : Word}

/-! ### A warp whose threads end -/

/-- A warp without the threads of a mask. -/
def Warp.ends (gone : Word) (w : Warp) : Warp := modLanes w gone (fun _ t => { t with live := false, wait := .none })

theorem liveMask_ends (w : Warp) (gone : Word) : liveMask (w.ends gone) = liveMask w &&& ~~~gone := by
  refine BitVec.eq_of_getLsbD_eq fun l hl => ?_
  rw [BitVec.getLsbD_and, BitVec.getLsbD_not, liveMask, liveMask, getLsbD_laneMask, getLsbD_laneMask, Warp.ends, lookup_modLanes]
  cases lookup w.lanes l with
  | none => simp
  | some t =>
    dsimp only [Option.map_some]
    cases gone.getLsbD l <;> simp [hl]

/-- No lane of the group of a slot waits at the group barrier. -/
def BarrierFree (s : State) (core : Nat) (w : Warp) : Prop :=
  ∀ g y, w.gslot = some g → groupAt s core g = some y → y.gbar = []

theorem checkGroupBarrier_free {g : Nat} (h : ∀ y, groupAt s core g = some y → y.gbar = []) : checkGroupBarrier s core g = s := by
  unfold checkGroupBarrier
  cases hg : groupAt s core g with
  | none => rfl
  | some y =>
    dsimp only
    rw [if_pos (.inl (by rw [h y hg]; rfl))]

/-- The warps that have left their slots leave their groups ended (16 R431). -/
def markEnded (s : State) (core : Nat) : State :=
  modCore s core (fun c => { c with groups := c.groups.map (fun e =>
    if (groupWarps c e.1).isEmpty then (e.1, { e.2 with ended := true }) else e) })

/-- Whether a warp has no thread left and nothing outstanding. -/
def warpOver (c : Core) (e : Nat × Warp) : Bool := liveMask e.2 == 0#32 && warpQuiet c e.1 e.2 && e.2.saving.isNone

/-- The warps of a core that leave: a continuation warp alone, the warps of a group together (16 R431). -/
def warpsOver (c : Core) : SMap Warp :=
  c.warps.filter (fun e => warpOver c e && (match e.2.gslot with
    | none => true
    | some g => e.2.isCont || c.warps.all (fun o => o.2.gslot != some g || o.2.isCont || warpOver c o)))

theorem reap_eq (s : State) (core : Nat) :
    reap s core = markEnded ((warpsOver (coreOf s core)).foldl (fun s e => endWarp s core e.1) s) core := rfl

theorem reap_allLive (h : AllLive s core) : reap s core = markEnded s core := by
  have hnone : warpsOver (coreOf s core) = [] := List.filter_eq_nil_iff.mpr fun e he => by simp [warpOver, h e he]
  rw [reap_eq, hnone]
  rfl

/-! ### A pending record written -/

theorem performImp_quiet (s : State) (core : Nat) (r : ImpWrite) : Quiet s (performImp s core r) := by
  fun_cases performImp s core r <;> grind [homeRmw_quiet, writeN_quiet, Quiet.refl, Quiet.step]

theorem drainImps_quiet (core : Nat) (rs : List ImpWrite) (s : State) : Quiet s (drainImps core rs s).2 := by
  induction rs generalizing s with
  | nil => exact .refl s
  | cons r rs ih =>
    unfold drainImps
    split
    · exact (performImp_quiet ..).trans (ih _)
    · exact ih s

/-- What a pending record's way to its log changes on its core. -/
theorem coreOf_writeImp {r : Imprecise} (h : (warpAt s core ws).imp = some r) :
    ∃ q, coreOf (writeImp s core ws) core =
      { coreOf s core with warps := adjust (coreOf s core).warps ws (fun w => { w with imp := none }), impq := q } := by
  unfold writeImp drainImp
  dsimp only
  rw [h]
  dsimp only
  rw [coreOf_modCore_self, (drainImps_quiet ..).coreOf, coreOf_modCore_self, modWarp, coreOf_modCore_self]
  exact ⟨_, rfl⟩

/-! ### What the departure of warps keeps of a core -/

/-- From `s` to `t` the groups of a core stay, and no warp slot is taken nor does a warp change its group. -/
structure Shrinks (core : Nat) (s t : State) : Prop where
  groups : (coreOf t core).groups = (coreOf s core).groups
  warps : ∀ e ∈ (coreOf t core).warps, ∃ o ∈ (coreOf s core).warps, o.1 = e.1 ∧ o.2.gslot = e.2.gslot

theorem Shrinks.of_coreOf (h : coreOf t core = coreOf s core) : Shrinks core s t :=
  ⟨by rw [h], fun e he => ⟨e, h ▸ he, rfl, rfl⟩⟩

theorem Shrinks.refl (s : State) : Shrinks core s s := .of_coreOf rfl

theorem Shrinks.trans (h : Shrinks core s t) (h' : Shrinks core t u) : Shrinks core s u where
  groups := h'.groups.trans h.groups
  warps e he := by
    obtain ⟨o, ho, hk, hg⟩ := h'.warps e he
    obtain ⟨o', ho', hk', hg'⟩ := h.warps o ho
    exact ⟨o', ho', hk'.trans hk, hg'.trans hg⟩

theorem Shrinks.foldl {f : State → Nat × Warp → State} {l : SMap Warp} (h : ∀ t e, Shrinks core t (f t e)) (s : State) :
    Shrinks core s (l.foldl f s) :=
  List.foldlRecOn l f (motive := Shrinks core s) (.refl s) fun t ht e _ => ht.trans (h t e)

/-- A slot that no warp holds stays free. -/
theorem Shrinks.free (h : Shrinks core s t) (hs : ∀ e ∈ (coreOf s core).warps, e.1 ≠ ws) :
    ∀ e ∈ (coreOf t core).warps, e.1 ≠ ws := by
  intro e he hk
  obtain ⟨o, ho, hko, -⟩ := h.warps e he
  exact hs o ho (hko.trans hk)

theorem shrinks_modWarp (s : State) (core ws : Nat) {f : Warp → Warp} (hf : ∀ w, (f w).gslot = w.gslot) :
    Shrinks core s (modWarp s core ws f) where
  groups := by rw [modWarp, coreOf_modCore_self]
  warps e he := by
    rw [modWarp, coreOf_modCore_self] at he
    dsimp only [adjust] at he
    split at he
    next v hv =>
      rcases mem_put.mp he with rfl | ⟨he, -⟩
      · exact ⟨(ws, v), mem_of_lookup hv, rfl, (hf v).symm⟩
      · exact ⟨e, he, rfl, rfl⟩
    next => exact ⟨e, he, rfl, rfl⟩

theorem shrinks_writeImp (s : State) (core ws : Nat) : Shrinks core s (writeImp s core ws) := by
  cases h : (warpAt s core ws).imp with
  | none => rw [writeImp_none h]; exact .refl s
  | some r =>
    obtain ⟨q, hq⟩ := coreOf_writeImp h
    have hmod := shrinks_modWarp s core ws (f := fun w => { w with imp := none }) fun _ => rfl
    rw [modWarp] at hmod
    have hgroups := hmod.groups
    have hwarps := hmod.warps
    rw [coreOf_modCore_self] at hgroups hwarps
    exact ⟨by rw [hq], by rw [hq]; exact hwarps⟩

theorem coreOf_dropWarp (s : State) (core ws : Nat) : coreOf (dropWarp s core ws) core =
    { coreOf s core with
      warps := remove (coreOf s core).warps ws, units := (coreOf s core).units.filter (fun e => !e.2.op.ofWarp ws)
      slices := (coreOf s core).slices.map (fun e => (e.1, e.2.filter (fun q => q.wslot != ws)))
      xform := (coreOf s core).xform.filter (fun e => e.2.wslot != ws) } :=
  coreOf_modCore_self ..

theorem shrinks_endWarp (s : State) (core ws : Nat) : Shrinks core s (endWarp s core ws) := by
  refine (shrinks_writeImp s core ws).trans ⟨?_, fun e he => ?_⟩
  · rw [endWarp, coreOf_dropWarp]
  · rw [endWarp, coreOf_dropWarp] at he
    exact ⟨e, (List.mem_filter.mp he).1, rfl, rfl⟩

theorem free_endWarp (s : State) (core ws : Nat) : ∀ e ∈ (coreOf (endWarp s core ws) core).warps, e.1 ≠ ws := by
  intro e he
  rw [endWarp, coreOf_dropWarp] at he
  simpa [remove] using (List.mem_filter.mp he).2

/-- The slots of all warps that leave are free afterwards. -/
theorem free_foldl_endWarp {l : SMap Warp} (h : (ws, w) ∈ l) (s : State) :
    ∀ e ∈ (coreOf (l.foldl (fun s e => endWarp s core e.1) s) core).warps, e.1 ≠ ws := by
  obtain ⟨as, bs, rfl⟩ := List.append_of_mem h
  rw [List.foldl_append, List.foldl_cons]
  exact (Shrinks.foldl (fun t e => shrinks_endWarp t core e.1) _).free (free_endWarp _ core ws)

/-- A record's way to its log leaves its warp alone in its slot, but for the record. -/
theorem sole_writeImp (h : Sole (coreOf s core).warps ws (some w)) :
    Sole (coreOf (writeImp s core ws) core).warps ws (some { w with imp := none }) := by
  have hw : warpAt s core ws = w := by rw [warpAt, warpAt?, h.here]; rfl
  cases hi : w.imp with
  | none =>
    have hsame : { w with imp := none } = w := by rw [← hi]
    rw [writeImp_none (hw ▸ hi), hsame]
    exact h
  | some r =>
    obtain ⟨q, hq⟩ := coreOf_writeImp (hw ▸ hi)
    rw [hq]
    exact sole_adjust h.here _

/-- Nor does it touch what a warp's quiet rests on. -/
theorem warpQuiet_writeImp (s : State) (core ws k : Nat) (v : Warp) :
    warpQuiet (coreOf (writeImp s core ws) core) k v = warpQuiet (coreOf s core) k v := by
  cases h : (warpAt s core ws).imp with
  | none => rw [writeImp_none h]
  | some r =>
    obtain ⟨q, hq⟩ := coreOf_writeImp h
    rw [hq]
    rfl

/-! ### Groups whose warps are gone -/

theorem warps_markEnded (s : State) (core : Nat) : (coreOf (markEnded s core) core).warps = (coreOf s core).warps := by
  rw [markEnded, coreOf_modCore_self]

theorem warpAt?_markEnded (s : State) (core k : Nat) : warpAt? (markEnded s core) core k = warpAt? s core k := by
  rw [warpAt?, warps_markEnded, warpAt?]

theorem groupAt_markEnded (s : State) (core g : Nat) : groupAt (markEnded s core) core g = (groupAt s core g).map (fun y =>
    if (groupWarps (coreOf s core) g).isEmpty then { y with ended := true } else y) := by
  have hmap := lookup_mapVal (coreOf s core).groups (fun k y =>
    if (groupWarps (coreOf s core) k).isEmpty then { y with ended := true } else y) g
  simp only [apply_ite (Prod.mk _)] at hmap
  rw [groupAt, markEnded, coreOf_modCore_self]
  exact hmap

/-! ### `endThreads` where the barrier holds nobody -/

theorem endThreads_eq (hb : BarrierFree s core (warpAt s core ws)) : endThreads s core ws gone =
    reap (if liveMask (warpAt (modWarp s core ws (Warp.ends gone)) core ws) = 0#32
      then writeImp (modWarp s core ws (Warp.ends gone)) core ws else modWarp s core ws (Warp.ends gone)) core := by
  have hends : endThreads s core ws gone = reap (match (warpAt s core ws).gslot with
    | some g => checkGroupBarrier (if liveMask (warpAt (modWarp s core ws (Warp.ends gone)) core ws) = 0#32
      then writeImp (modWarp s core ws (Warp.ends gone)) core ws else modWarp s core ws (Warp.ends gone)) core g
    | none => if liveMask (warpAt (modWarp s core ws (Warp.ends gone)) core ws) = 0#32
      then writeImp (modWarp s core ws (Warp.ends gone)) core ws else modWarp s core ws (Warp.ends gone)) core := rfl
  rw [hends]
  cases hg : (warpAt s core ws).gslot with
  | none => rfl
  | some g =>
    have hmod : Shrinks core s (modWarp s core ws (Warp.ends gone)) := shrinks_modWarp s core ws fun _ => rfl
    dsimp only
    rw [checkGroupBarrier_free fun y hy => hb g y hg ?_]
    rw [← hy, groupAt, groupAt]
    split
    · rw [(hmod.trans (shrinks_writeImp ..)).groups]
    · rw [hmod.groups]

/-- The end of threads of a warp that keeps one, on a core all of whose other warps have one. -/
theorem endThreads_keeps (hw : (warpAt? s core ws).isSome = true) (hb : BarrierFree s core (warpAt s core ws))
    (hlive : liveMask (warpAt s core ws) &&& ~~~gone ≠ 0#32)
    (hothers : ∀ e ∈ (coreOf s core).warps, e.1 ≠ ws → liveMask e.2 ≠ 0#32) :
    endThreads s core ws gone = markEnded (modWarp s core ws (Warp.ends gone)) core := by
  obtain ⟨w, hsome⟩ := Option.isSome_iff_exists.mp hw
  have hat : warpAt s core ws = w := by rw [warpAt, hsome]; rfl
  rw [endThreads_eq hb, warpAt_modWarp _ _ _ _ hw, liveMask_ends, if_neg hlive]
  refine reap_allLive fun e he => ?_
  rw [modWarp, coreOf_modCore_self] at he
  dsimp only [adjust] at he
  rw [show lookup (coreOf s core).warps ws = some w from hsome] at he
  rcases mem_put.mp he with rfl | ⟨he, hne⟩
  · rw [liveMask_ends, ← hat]
    exact hlive
  · exact hothers e he hne

/-- A warp over and done with leaves, where its group, unless it is a continuation warp, has no other. -/
theorem mem_warpsOver {c : Core} (h : Sole c.warps ws (some w)) (hover : warpOver c (ws, w) = true)
    (hgroup : ∀ g, w.gslot = some g → w.isCont = false → ∀ e ∈ c.warps, e.2.gslot = some g → e.1 = ws) :
    (ws, w) ∈ warpsOver c := by
  refine List.mem_filter.mpr ⟨mem_of_lookup h.here, ?_⟩
  rw [hover, Bool.true_and]
  dsimp only
  split
  next => rfl
  next g hg =>
    cases hcont : w.isCont with
    | true => rfl
    | false =>
      refine List.all_eq_true.mpr fun o ho => ?_
      by_cases hog : o.2.gslot = some g
      · have hkey := hgroup g hg hcont o ho hog
        have ho' : (ws, w) = o := Prod.ext hkey.symm (Option.some.inj (h.only o ho hkey))
        rw [← ho', hover, Bool.or_true]
      · simp [hog]

/-- The state in which a warp's last threads have ended and its pending record is on its way (17 R451). -/
def lastEnded (s : State) (core ws : Nat) (gone : Word) : State := writeImp (modWarp s core ws (Warp.ends gone)) core ws

theorem shrinks_lastEnded (s : State) (core ws : Nat) (gone : Word) : Shrinks core s (lastEnded s core ws gone) :=
  (shrinks_modWarp s core ws (f := Warp.ends gone) fun _ => rfl).trans (shrinks_writeImp ..)

theorem sole_lastEnded (h : Sole (coreOf s core).warps ws (some w)) (gone : Word) :
    Sole (coreOf (lastEnded s core ws gone) core).warps ws (some { w.ends gone with imp := none }) := by
  refine sole_writeImp ?_
  rw [modWarp, coreOf_modCore_self]
  exact sole_adjust h.here _

theorem warpOver_lastEnded (hlive : liveMask w &&& ~~~gone = 0#32) (hquiet : warpQuiet (coreOf s core) ws w = true)
    (hsaving : w.saving = none) :
    warpOver (coreOf (lastEnded s core ws gone) core) (ws, { w.ends gone with imp := none }) = true := by
  have hnone : liveMask { w.ends gone with imp := none } = 0#32 := (liveMask_ends w gone).trans hlive
  have hstill : warpQuiet (coreOf (modWarp s core ws (Warp.ends gone)) core) ws { w.ends gone with imp := none } = true := by
    rw [modWarp, coreOf_modCore_self]
    exact hquiet
  rw [warpOver, hnone, lastEnded, warpQuiet_writeImp, hstill]
  exact congrArg Option.isNone hsaving

/-- The end of a warp's last threads, nothing of it outstanding: a continuation warp, or the last of its group, leaves its slot,
and a group that has no warp but this one has ended. -/
theorem endThreads_last (hsole : Sole (coreOf s core).warps ws (some w)) (hb : BarrierFree s core w)
    (hlive : liveMask w &&& ~~~gone = 0#32) (hquiet : warpQuiet (coreOf s core) ws w = true) (hsaving : w.saving = none)
    (hgroup : ∀ g, w.gslot = some g → w.isCont = false → ∀ e ∈ (coreOf s core).warps, e.2.gslot = some g → e.1 = ws) :
    (∀ e ∈ (coreOf (endThreads s core ws gone) core).warps, e.1 ≠ ws) ∧
      ∀ g, (∀ e ∈ (coreOf s core).warps, e.2.gslot = some g → e.1 = ws) →
        groupAt (endThreads s core ws gone) core g = (groupAt s core g).map (fun y => { y with ended := true }) := by
  have hat : warpAt s core ws = w := by rw [warpAt, warpAt?, hsole.here]; rfl
  have hw : (warpAt? s core ws).isSome = true := by rw [warpAt?, hsole.here]; rfl
  have hends : endThreads s core ws gone = markEnded ((warpsOver (coreOf (lastEnded s core ws gone) core)).foldl
      (fun s e => endWarp s core e.1) (lastEnded s core ws gone)) core := by
    rw [endThreads_eq (hat ▸ hb), warpAt_modWarp _ _ _ _ hw, hat, liveMask_ends, if_pos hlive, ← lastEnded, reap_eq]
  have hleaves := mem_warpsOver (sole_lastEnded hsole gone) (warpOver_lastEnded hlive hquiet hsaving) fun g hg hcont e he heg => by
    obtain ⟨o, ho, hk, hog⟩ := (shrinks_lastEnded s core ws gone).warps e he
    exact hk ▸ hgroup g hg hcont o ho (hog.trans heg)
  have hfree := free_foldl_endWarp (core := core) hleaves (lastEnded s core ws gone)
  have hshrinks := (shrinks_lastEnded s core ws gone).trans (Shrinks.foldl (fun t e => shrinks_endWarp t core e.1)
    (l := warpsOver (coreOf (lastEnded s core ws gone) core)) _)
  rw [hends]
  refine ⟨by rwa [warps_markEnded], fun g hg => ?_⟩
  rw [groupAt_markEnded, groupAt, hshrinks.groups, groupAt]
  refine Option.map_congr fun y _ => if_pos ?_
  rw [List.isEmpty_iff, groupWarps, List.map_eq_nil_iff, List.filter_eq_nil_iff]
  intro e he heg
  obtain ⟨o, ho, hk, hog⟩ := hshrinks.warps e he
  exact hfree e he (hk ▸ hg o ho (hog.trans (by simpa using heg)))

theorem mem_of_mem_adjust {α : Type} {m : SMap α} {k : Nat} {f : α → α} {e : Nat × α} (he : e ∈ adjust m k f) (hk : e.1 ≠ k) :
    e ∈ m := by
  unfold adjust at he
  split at he
  · rcases mem_put.mp he with rfl | ⟨he, -⟩
    · exact absurd rfl hk
    · exact he
  · exact he

/-! ### EXIT -/

variable {x : Iss} {f : Fields} {ls : List Nat}

/-- The issuing warp of whose path these lanes end and the others go on. -/
def Warp.left (w : Warp) (x : Iss) (ls : List Nat) : Warp :=
  (advance w (x.mask &&& ~~~laneMask (fun l => ls.contains l)) x.len).ends (laneMask (fun l => ls.contains l))

theorem left_nil (w : Warp) (x : Iss) :
    w.left x [] = advance w (x.mask &&& ~~~laneMask (fun l => ([] : List Nat).contains l)) x.len := by
  simp only [Warp.left, Warp.ends, List.contains_nil, laneMask_false, modLanes_zero]

theorem threadsEnded_left (hm : w.hmode = false) (x : Iss) (ls : List Nat) :
    ThreadsEnded w (w.left x ls) x.mask (laneMask (fun l => ls.contains l)) x.len := by
  rw [Warp.left, advance_outside hm]
  refine ⟨rfl, fun l => ?_⟩
  rw [Warp.ends, lookup_modLanes, lookup_modLanes, Option.map_map]
  refine Option.map_congr fun u _ => ?_
  rw [Function.comp, getLsbD_without, getLsbD_laneMask]
  by_cases h32 : l < 32 <;> by_cases hl : l ∈ ls <;> simp [h32, hl]

/-- The state in which the lanes of the path that do not end have gone on. -/
def Iss.parted (x : Iss) (s : State) (ls : List Nat) : State :=
  x.mod s (fun w => advance w (x.mask &&& ~~~laneMask (fun l => ls.contains l)) x.len)

theorem exitLanes_parted (x : Iss) (s : State) (ls : List Nat) : exitLanes x s ls = if ls.isEmpty then x.parted s ls
    else endThreads (x.parted s ls) x.core x.wslot (laneMask (fun l => ls.contains l)) := rfl

section
variable (hw : (warpAt? s x.core x.wslot).isSome = true) (hm : (x.warp s).hmode = false)
include hw

theorem here_parted (ls : List Nat) : (warpAt? (x.parted s ls) x.core x.wslot).isSome = true := by
  rw [Iss.parted, Iss.mod, isSome_warpAt?_modWarp]
  exact hw

theorem sole_parted (ls : List Nat) :
    Sole (coreOf (x.parted s ls) x.core).warps x.wslot (some (x.warp (x.parted s ls))) := by
  obtain ⟨w, hsome⟩ := Option.isSome_iff_exists.mp hw
  have hat : x.warp s = w := by rw [Iss.warp, warpAt, hsome]; rfl
  rw [Iss.parted, warp_mod x s hw, hat, Iss.mod, modWarp, coreOf_modCore_self]
  exact sole_adjust hsome _

include hm

theorem warp_parted (ls : List Nat) : x.warp (x.parted s ls) =
    modLanes (x.warp s) (x.mask &&& ~~~laneMask (fun l => ls.contains l)) (fun _ t => t.past x.len) := by
  rw [Iss.parted, warp_mod x s hw, advance_outside hm]

theorem liveMask_parted (ls : List Nat) : liveMask (x.warp (x.parted s ls)) = liveMask (x.warp s) := by
  rw [warp_parted hw hm]
  exact liveMask_modLanes _ _ fun _ _ => rfl

theorem barrierFree_parted (hb : NoBarrierWaits s x) (ls : List Nat) :
    BarrierFree (x.parted s ls) x.core (x.warp (x.parted s ls)) := by
  intro g y hg hy
  rw [warp_parted hw hm] at hg
  rw [Iss.parted, Iss.mod, groupAt_modWarp] at hy
  exact hb g y hg hy

theorem warpQuiet_parted (ls : List Nat) : warpQuiet (coreOf (x.parted s ls) x.core) x.wslot (x.warp (x.parted s ls)) =
    warpQuiet (coreOf s x.core) x.wslot (x.warp s) := by
  rw [warp_parted hw hm, Iss.parted, Iss.mod, modWarp, coreOf_modCore_self]
  rfl

end

/-- From `s` to `t` the threads of these lanes ended and the others of the path went on, on a core that no warp leaves. -/
structure PathLeft (s t : State) (x : Iss) (ls : List Nat) : Prop where
  dram : t.dram = s.dram
  parts : t.parts = s.parts
  root : t.root = s.root
  contq : (coreOf t x.core).contq = (coreOf s x.core).contq
  ended : ThreadsEnded (x.warp s) (x.warp t) x.mask (laneMask (fun l => ls.contains l)) x.len

/-- Where every warp of the core keeps a thread, lanes leave their path and no more. -/
theorem exitLanes_keeps (hw : (warpAt? s x.core x.wslot).isSome = true) (hm : (x.warp s).hmode = false)
    (hb : NoBarrierWaits s x) (hne : NoWarpEnds s x (laneMask (fun l => ls.contains l))) : PathLeft s (exitLanes x s ls) x ls := by
  have hended := threadsEnded_left hm x ls
  by_cases hnil : ls = []
  · subst hnil
    have hleft : x.warp (x.parted s []) = (x.warp s).left x [] := by rw [Iss.parted, warp_mod x s hw, left_nil]
    have hsame : exitLanes x s [] = x.parted s [] := rfl
    rw [hsame]
    exact ⟨rfl, rfl, rfl, by rw [Iss.parted, Iss.mod, modWarp, coreOf_modCore_self], hleft ▸ hended⟩
  · have hempty : ls.isEmpty = false := by simpa using hnil
    have hlive := (liveMask_parted hw hm ls).symm ▸ hne.1
    rw [exitLanes_parted, hempty, if_neg Bool.false_ne_true, endThreads_keeps (here_parted hw ls) (barrierFree_parted hw hm hb ls) hlive
      fun e he hk => hne.2 e (mem_of_mem_adjust (by rwa [Iss.parted, Iss.mod, modWarp, coreOf_modCore_self] at he) hk) hk]
    refine ⟨rfl, rfl, rfl, ?_, ?_⟩
    · rw [markEnded, coreOf_modCore_self, modWarp, coreOf_modCore_self, Iss.parted, Iss.mod, modWarp, coreOf_modCore_self]
    · have hleft : x.warp (markEnded (modWarp (x.parted s ls) x.core x.wslot (Warp.ends (laneMask (fun l => ls.contains l)))) x.core) =
          (x.warp s).left x ls := by
        rw [Iss.warp, warpAt, warpAt?_markEnded, Iss.parted, Iss.mod, modWarp_modWarp]
        exact warpAt_modWarp s x.core x.wslot _ hw
      exact hleft ▸ hended

theorem shrinks_parted (x : Iss) (s : State) (ls : List Nat) : Shrinks x.core s (x.parted s ls) := by
  refine shrinks_modWarp s x.core x.wslot fun w => ?_
  unfold advance modLanes
  split <;> rfl

/-- Where the lanes are the last threads of a warp with nothing outstanding, the warp leaves its slot if it is a continuation warp
or the last of its group, and a group without another warp has ended. -/
theorem exitLanes_last (hw : (warpAt? s x.core x.wslot).isSome = true) (hm : (x.warp s).hmode = false) (hb : NoBarrierWaits s x)
    (hls : ls ≠ []) (hlive : liveMask (x.warp s) &&& ~~~laneMask (fun l => ls.contains l) = 0#32)
    (hquiet : warpQuiet (coreOf s x.core) x.wslot (x.warp s) = true) (hsaving : (x.warp s).saving = none)
    (hgroup : ∀ g, (x.warp s).gslot = some g → (x.warp s).isCont = false →
      ∀ k ∈ groupWarps (coreOf s x.core) g, k = x.wslot) :
    warpAt? (exitLanes x s ls) x.core x.wslot = none ∧ ∀ g, (∀ k ∈ groupWarps (coreOf s x.core) g, k = x.wslot) →
      groupAt (exitLanes x s ls) x.core g = (groupAt s x.core g).map (fun y => { y with ended := true }) := by
  have hempty : ls.isEmpty = false := by simpa using hls
  have hwarp := warp_parted hw hm ls
  have hslot : ∀ g, (∀ k ∈ groupWarps (coreOf s x.core) g, k = x.wslot) →
      ∀ e ∈ (coreOf (x.parted s ls) x.core).warps, e.2.gslot = some g → e.1 = x.wslot := by
    intro g hg e he heg
    obtain ⟨o, ho, hk, hog⟩ := (shrinks_parted x s ls).warps e he
    exact hk ▸ hg o.1 (List.mem_map_of_mem (List.mem_filter.mpr ⟨ho, by simp [hog, heg]⟩))
  obtain ⟨hfree, hended⟩ := endThreads_last (gone := laneMask (fun l => ls.contains l)) (sole_parted hw ls)
    (barrierFree_parted hw hm hb ls) (liveMask_parted hw hm ls ▸ hlive) (warpQuiet_parted hw hm ls ▸ hquiet)
    (by rw [hwarp]; exact hsaving) fun g hg hcont => hslot g (hgroup g (by rw [hwarp] at hg; exact hg) (by rw [hwarp] at hcont; exact hcont))
  rw [exitLanes_parted, hempty, if_neg Bool.false_ne_true]
  refine ⟨lookup_eq_none _ _ hfree, fun g hg => (hended g (hslot g hg)).trans ?_⟩
  rw [Iss.parted, Iss.mod, groupAt_modWarp]

theorem exitBody_unclasped (hc : clasped (x.warp s) = false) :
    exitBody f x s = exitLanes x s (guarded (x.warp s) x.mask f.g) := by
  simp only [exitBody, hc, Bool.false_and, Bool.false_eq_true, if_false]

end

/-- Settles O9: EXIT is `exitLanes`, of which `exitLanes_keeps` and `exitLanes_last` say the two cases. -/
theorem exitEndsItsThreads : Obligations.ExitEndsItsThreads := by
  have hexec : ∀ {f : Fields} {s : State} {x : Iss}, Issues s x 52 f → clasped (x.warp s) = false →
      exec (.exit f) s = .next { exitLanes x s (guarded (x.warp s) x.mask f.g) with cur := .idle } :=
    fun {f s x} hx hc => (issue_eq hx (exitBody f)).trans (by rw [exitBody_unclasped hc])
  refine ⟨?keeps, ?last⟩
  case keeps =>
    rintro f s x _ hx hc rfl hne hb
    obtain ⟨hdram, hparts, hroot, -, hended⟩ := exitLanes_keeps hx.here (hmode_of_issues hx (handlerAllows_exit f)) hb hne
    exact ⟨_, hexec hx hc, hdram, hparts, hroot, hended⟩
  case last =>
    rintro f s x _ hx hc rfl hgone hlive hquiet hsaving hb
    have hm := hmode_of_issues hx (handlerAllows_exit f)
    have hls : guarded (x.warp s) x.mask f.g ≠ [] := by
      intro hnil
      rw [hnil] at hgone
      exact hgone rfl
    refine ⟨fun hapart => ?_, fun g y hg hy hlast => ?_⟩
    · obtain ⟨hfree, -⟩ := exitLanes_last hx.here hm hb hls hlive hquiet hsaving fun g hg hcont => by
        rcases hapart with hnone | hcont'
        · rw [hnone] at hg
          cases hg
        · rw [hcont'] at hcont
          cases hcont
      exact ⟨_, hexec hx hc, hfree⟩
    · obtain ⟨hfree, hended⟩ := exitLanes_last hx.here hm hb hls hlive hquiet hsaving fun g' hg' _ => by
        rw [hg] at hg'
        exact Option.some.inj hg' ▸ hlast
      exact ⟨_, { y with ended := true }, hexec hx hc, hfree, (hended g hlast).trans (by rw [hy]; rfl), rfl⟩

end Sys2Proof.Machine

/-! # Deferred threads (08 R213, R214; 16 R438) -/

namespace Sys2Proof.Machine

section
variable {s t u : State} {x : Iss} {f : Fields} {core : Nat} {recs : List ContRec}

/-- From `s` to `t` these records joined the queue of a core, and the rest of that core is as it was. -/
structure Queued (core : Nat) (s t : State) (recs : List ContRec) : Prop where
  core : coreOf t core = { coreOf s core with contq := (coreOf s core).contq ++ recs }
  dram : t.dram = s.dram
  parts : t.parts = s.parts
  root : t.root = s.root

theorem Queued.nil (s : State) : Queued core s s [] := ⟨by rw [List.append_nil], rfl, rfl, rfl⟩

theorem Queued.trans {recs' : List ContRec} (h : Queued core s t recs) (h' : Queued core t u recs') :
    Queued core s u (recs ++ recs') where
  core := by rw [h'.core, h.core, List.append_assoc]
  dram := h'.dram.trans h.dram
  parts := h'.parts.trans h.parts
  root := h'.root.trans h.root

theorem Queued.warpAt? (h : Queued core s t recs) (k : Nat) : warpAt? t core k = warpAt? s core k := by
  rw [Machine.warpAt?, h.core, Machine.warpAt?]

theorem Queued.warp (h : Queued x.core s t recs) : x.warp t = x.warp s := by
  rw [Iss.warp, warpAt, h.warpAt?, Iss.warp, warpAt]

theorem Queued.groupAt (h : Queued core s t recs) (g : Nat) : groupAt t core g = groupAt s core g := by
  rw [Machine.groupAt, h.core, Machine.groupAt]

/-- A record finds room in a queue that is not full (16 R438). -/
theorem addRecord_room (h : (coreOf s core).contq.length < contQueueSize) (r : ContRec) :
    ∃ t r', addRecord s core r = some t ∧ Queued core s t [r'] ∧ r'.plain = r.plain := by
  unfold addRecord
  dsimp only
  rw [if_pos h]
  exact ⟨_, _, rfl, ⟨coreOf_modCore_self .., rfl, rfl, rfl⟩, rfl⟩

/-- The lanes of a DEFER leave their records one after another. -/
theorem deferLanes_room (mk : Nat → ContRec) (ls : List Nat) (s : State)
    (h : (coreOf s x.core).contq.length + ls.length ≤ contQueueSize) :
    ∃ t recs, deferLanes x mk ls s = (ls, t) ∧ Queued x.core s t recs ∧
      recs.map ContRec.plain = ls.map (fun l => (mk l).plain) := by
  induction ls generalizing s with
  | nil => exact ⟨s, [], rfl, .nil s, rfl⟩
  | cons l ls ih =>
    rw [List.length_cons] at h
    obtain ⟨t, r, hadd, hone, hplain⟩ := addRecord_room (s := s) (core := x.core) (by omega) (mk l)
    obtain ⟨u, recs, hrest, hqueued, hplains⟩ := ih t (by rw [hone.core, List.length_append, List.length_singleton]; omega)
    refine ⟨u, r :: recs, ?_, hone.trans hqueued, by rw [List.map_cons, List.map_cons, hplain, hplains]⟩
    rw [deferLanes, hadd]
    dsimp only
    rw [hrest]

/-- The record that DEFER leaves for a lane. -/
def deferRecord (x : Iss) (w : Warp) (free : Bool) (f : Fields) (l : Nat) : ContRec :=
  laneRecord w l (branchTarget x.pc f) 0 free (laneLevel w l) (deferWords f) 0 true

/-- DEFER outside a clasp region, all its records in the queue, ends its lanes as EXIT does. -/
theorem deferBody_room {free : Bool} (hc : clasped (x.warp s) = false)
    (h : (coreOf s x.core).contq.length + (guarded (x.warp s) x.mask f.g).length ≤ contQueueSize) :
    ∃ t recs, deferBody free f x s = exitLanes x t (guarded (x.warp s) x.mask f.g) ∧
      Queued x.core s t recs ∧ recs.map ContRec.plain =
        (guarded (x.warp s) x.mask f.g).map (fun l => (deferRecord x (x.warp s) free f l).plain) := by
  obtain ⟨t, recs, hlanes, hqueued, hplain⟩ := deferLanes_room (deferRecord x (x.warp s) free f) _ s h
  refine ⟨clearLaneResv t x (guarded (x.warp s) x.mask f.g), recs, ?_,
    ⟨hqueued.core, hqueued.dram, hqueued.parts, hqueued.root⟩, hplain⟩
  unfold deferRecord at hlanes
  simp only [deferBody, hc, Bool.false_and, Bool.false_eq_true, if_false, hlanes]
  rfl

end

/-- Settles O10: the records join the queue lane by lane, then the lanes end as those of EXIT. -/
theorem deferLeavesItsRecords : Obligations.DeferLeavesItsRecords := by
  rintro i f s x free _ _ hi hx hc rfl rfl hne hb hroom
  obtain ⟨t, recs, hbody, hqueued, hplain⟩ := deferBody_room (free := free) hc hroom
  have hm := hmode_of_issues hx (handlerAllows_defer f)
  have hwarp := hqueued.warp
  have hexec : exec i s = .next { deferBody free f x s with cur := .idle } := by
    rcases hi with ⟨rfl, rfl, -⟩ | ⟨rfl, rfl⟩
    · exact issue_eq hx (deferBody false f)
    · exact issue_eq hx (deferBody true f)
  have hne' : NoWarpEnds t x (laneMask (fun l => (guarded (x.warp s) x.mask f.g).contains l)) := by
    unfold NoWarpEnds
    rw [hwarp, hqueued.core]
    exact hne
  obtain ⟨hdram, hparts, hroot, hcontq, hended⟩ := exitLanes_keeps ((congrArg Option.isSome (hqueued.warpAt? x.wslot)).trans hx.here)
    (hwarp.symm ▸ hm) (fun g y hg hy => hb g y (hwarp ▸ hg) ((hqueued.groupAt g).symm.trans hy)) hne'
  rw [hbody] at hexec
  exact ⟨_, recs, hexec, hcontq.trans (congrArg Core.contq hqueued.core), hplain, hdram.trans hqueued.dram,
    hparts.trans hqueued.parts, hroot.trans hqueued.root, hwarp ▸ hended⟩

end Sys2Proof.Machine

/-! # Child grids launched (08 R216 to R218) -/

namespace Sys2Proof.Machine

section
variable {s t u : State} {x : Iss} {f : Fields} {op l n g a c : Nat} {two : Bool} {w : Warp} {counts : Option Nat} {bs : List Byte}

/-! ### The act of one lane -/

/-- The lane may launch: its warp has a group, whose thread (0, 0, 0) it is. -/
def MayLaunch (w : Warp) (l : Nat) : Prop := w.gslot.isSome = true ∧ Leads w l

/-- The count address of LAUNCHI, where there is one, is a multiple of 4 (08 R218). -/
def CountsAligned (counts : Option Nat) : Prop := ∀ c, counts = some c → c % 4 = 0

theorem launchLane_refused (h : ¬ MayLaunch w l) : launchLane x w l a counts s = (.status notLeader, s) := by
  unfold launchLane
  dsimp only
  refine if_pos ?_
  cases hl : lookup w.lanes l with
  | none => simp
  | some t =>
    simp only [Bool.not_eq_true', Bool.and_eq_false_imp, beq_eq_false_iff_ne]
    intro hg hxy hz
    simp only [Bool.and_eq_true, beq_iff_eq] at hxy
    exact h ⟨hg, t, hl, hxy.1, hxy.2, hz⟩

section
variable (h : MayLaunch w l)
include h

theorem launchLane_tooDeep (hd : w.sysDepth = 10) : launchLane x w l a counts s = (.status tooDeep, s) := by
  obtain ⟨hg, t, hl, hx, hy, hz⟩ := h
  simp [launchLane, hg, hl, hx, hy, hz, hd]

variable (hd : w.sysDepth ≠ 10)
include hd

theorem launchLane_misaligned (ha : a % 128 ≠ 0 ∨ ¬ CountsAligned counts) :
    launchLane x w l a counts s = (.status badFormat, s) := by
  obtain ⟨hg, t, hl, hx, hy, hz⟩ := h
  cases counts with
  | none =>
    have ha' : a % 128 ≠ 0 := by simpa [CountsAligned] using ha
    simp [launchLane, hg, hl, hx, hy, hz, hd, ha']
  | some c =>
    have ha' : ¬ a % 128 = 0 ∨ ¬ c % 4 = 0 := by simpa [CountsAligned] using ha
    simp [launchLane, hg, hl, hx, hy, hz, hd, ha']

variable (ha : a % 128 = 0) (hr : releaseReady s x.core x.wslot (laneMask (· == l)) 3 = true)
  (hread : readN s (warpWho x.core w) (BitVec.ofNat 57 a) 128 = (.ok bs, t))
include ha hr hread

theorem launchLane_badRecord (hbad : ¬ (recordOk bs true = true ∧ countsOk (parseRecord bs) = true)) :
    launchLane x w l a none s = (.status badFormat, t) := by
  obtain ⟨hg, u, hl, hx, hy, hz⟩ := h
  have hbad' : (recordOk bs true && countsOk (parseRecord bs)) = false := by simpa using hbad
  simp [launchLane, hg, hl, hx, hy, hz, hd, ha, hr, hread, hbad']

theorem launchLane_enqueues (hok : recordOk bs true = true) (hcounts : countsOk (parseRecord bs) = true)
    (hroom : childRoom t w.part = true) : launchLane x w l a none s = (.enqueue (parseRecord bs) none, t) := by
  obtain ⟨hg, u, hl, hx, hy, hz⟩ := h
  simp [launchLane, hg, hl, hx, hy, hz, hd, ha, hr, hread, hok, hcounts, hroom]

theorem launchLane_enqueuesCounts (hc : c % 4 = 0) (hfault : countFault (warpWho x.core w) (BitVec.ofNat 57 c) 3 t = (none, u))
    (hok : recordOk bs true = true) (hroom : childRoom u w.part = true) :
    launchLane x w l a (some c) s = (.enqueue (parseRecord bs) (some (BitVec.ofNat 57 c)), u) := by
  obtain ⟨hg, v, hl, hx, hy, hz⟩ := h
  simp [launchLane, hg, hl, hx, hy, hz, hd, ha, hc, hr, hread, hfault, hok, hroom]

end

theorem countFault_quiet (who : Who) (va : VA) (n : Nat) (s : State) : Quiet s (countFault who va n s).2 := by
  fun_induction countFault who va n s with
  | case1 => exact .refl _
  | case2 va n s c s' hr =>
    have hq := homeRead_quiet s who .rd va 4
    rwa [hr] at hq
  | case3 va n s e s' _ hr ih =>
    have hq := homeRead_quiet s who .rd va 4
    rw [hr] at hq
    exact hq.trans ih

theorem quiet_read {who : Who} {va : VA} (h : readN s who va n = (.ok bs, t)) : Quiet s t := by
  have hq := readN_quiet s who va n
  rwa [h] at hq

theorem quiet_fault {who : Who} {va : VA} (h : countFault who va n s = (none, t)) : Quiet s t := by
  have hq := countFault_quiet who va n s
  rwa [h] at hq

/-! ### The instruction of one lane -/

/-- The count address that an instruction's lane names. -/
def laneCounts (two : Bool) (w : Warp) (l : Nat) (f : Fields) : Option Nat := if two then some (rawB w l f 2) else none

/-- Why a launch writes `n` and launches nothing (08 R216 to R218), and the state that reading its record leaves. -/
def Refused (s t : State) (x : Iss) (f : Fields) (two : Bool) (l n : Nat) : Prop :=
  n = 1 ∧ ¬ MayLaunch (x.warp s) l ∧ t = s ∨
    (x.warp s).gslot.isSome = true ∧ Leads (x.warp s) l ∧
      (n = 2 ∧ (x.warp s).sysDepth = 10 ∧ t = s ∨ n = 3 ∧ (x.warp s).sysDepth ≠ 10 ∧
        (t = s ∧ (rread2 (x.warp s) l f.a.toNat % 128 ≠ 0 ∨ two = true ∧ rawB (x.warp s) l f 2 % 4 ≠ 0) ∨
         two = false ∧ rread2 (x.warp s) l f.a.toNat % 128 = 0 ∧
          releaseReady s x.core x.wslot (laneMask (· == l)) 3 = true ∧
          ∃ bs, readN s (warpWho x.core (x.warp s)) (BitVec.ofNat 57 (rread2 (x.warp s) l f.a.toNat)) 128 = (.ok bs, t) ∧
            ¬ (recordOk bs true = true ∧ countsOk (parseRecord bs) = true)))

theorem launchLane_answers (h : Refused s t x f two l n) : Quiet s t ∧
    launchLane x (x.warp s) l (rread2 (x.warp s) l f.a.toNat) (laneCounts two (x.warp s) l f) s = (.status n, t) := by
  rcases h with ⟨rfl, hnot, rfl⟩ | ⟨hg, hlead, ⟨rfl, hd, rfl⟩ | ⟨rfl, hd, ⟨rfl, hbad⟩ | ⟨rfl, ha, hr, bs, hread, hbad⟩⟩⟩
  · exact ⟨.refl t, launchLane_refused hnot⟩
  · exact ⟨.refl t, launchLane_tooDeep ⟨hg, hlead⟩ hd⟩
  · refine ⟨.refl t, launchLane_misaligned ⟨hg, hlead⟩ hd (hbad.imp_right fun ⟨htwo, hc⟩ haligned => hc ?_)⟩
    exact haligned _ (by rw [laneCounts, htwo, if_pos rfl])
  · exact ⟨quiet_read hread, launchLane_badRecord ⟨hg, hlead⟩ hd ha hr hread hbad⟩

theorem launchLanes_status
    (h : launchLane x w l (rread2 w l f.a.toNat) (laneCounts two w l f) s = (.status n, t)) :
    launchLanes f two x w [l] s = (([(l, n)], [], []), t) := by
  unfold laneCounts at h
  simp only [launchLanes, h]

theorem launchLanes_enqueue {r : LaunchRec} {counts : Option VA}
    (h : launchLane x w l (rread2 w l f.a.toNat) (laneCounts two w l f) s = (.enqueue r counts, t)) :
    launchLanes f two x w [l] s = (([(l, launched)], [], []), enqueueChild x w r counts t) := by
  unfold laneCounts at h
  simp only [launchLanes, h]

/-- A launch of one lane that neither waits nor is refused writes its status and steps. -/
theorem launchBody_one (hl : actors op f x (x.warp s) = [l])
    (h : launchLanes f two x (x.warp s) [l] s = (([(l, n)], [], []), t)) :
    launchBody op two f x s = x.next (x.mod t (fun w => rwrite w l f.d.toNat n)) := by
  have hlanes : (if uniformForm op f then (if guardUni (x.warp s) f.g then [x.lane0] else [])
      else guarded (x.warp s) x.mask f.g) = [l] := hl
  unfold launchBody
  dsimp only
  rw [hlanes, h]
  simp only [List.isEmpty_nil, and_self, Bool.not_true, Bool.false_eq_true, decide_true, and_false, if_false, List.foldl_cons,
    List.foldl_nil, List.contains_nil, List.any_nil, Bool.or_self, laneMask_false]
  rw [show x.mask &&& ~~~0#32 = x.mask from BitVec.and_allOnes]
  rfl

/-- LAUNCH and LAUNCHI have a register as their one destination. -/
theorem regShape_launch (h : op = 58 ∨ op = 59) : RegShape op f 1 := by
  rcases h with rfl | rfl
  · exact regShape_cons [reg .src f.a 2] rfl rfl rfl (fun u hu => by rw [List.mem_singleton.mp hu]; rfl) (by simp [noDstMem])
  · exact regShape_cons _ rfl rfl rfl (src_a f 2 2) (by simp [noDstMem])

/-- A status written by the one actor of an instruction, which then steps. -/
theorem wroteOne_status (hs : RegShape op f 1) (ok : operandsOk w op f = true) (l n : Nat) (m : Word) (len : Nat) :
    SameButRegs w (advance (rwrite w l f.d.toNat n) m len) ∧ Stepped w (advance (rwrite w l f.d.toNat n) m len) m len ∧
      WroteOne op f w (advance (rwrite w l f.d.toNat n) m len) l (.ofRegs [(f.d.toNat, n)]) := by
  have honly : OnlyRegs w (rwrite w l f.d.toNat n) := onlyRegs_rwrite l f.d.toNat n
  have hvalues := sameValues_advance (rwrite w l f.d.toNat n) m len
  have hclass : Classed w op f (.ofRegs [(f.d.toNat, n)]) := classed_one hs ok n []
  refine ⟨sameButRegs_advance _ _ honly m len, stepped_advance _ _ honly m len, ?_⟩
  unfold WroteOne
  split
  next hu =>
    obtain ⟨hres, hpreds⟩ := hclass.uniform hu
    obtain ⟨hlanes, huni⟩ := put_uniform _ hres hpreds l w
    exact ⟨hlanes.then hvalues, huni.then hvalues⟩
  next hu =>
    obtain ⟨-, huni, hlanes⟩ := wroteLanes_foldl [l] (List.nodup_singleton l) (fun _ => .ofRegs [(f.d.toNat, n)])
      (fun _ _ => hclass.vector (by simpa using hu)) w
    exact ⟨huni.then hvalues, hlanes.then hvalues⟩

/-! ### The child among those that wait for dispatch -/

variable {y : Group} {r : LaunchRec} {ca : Option VA}

/-- The child grid that a warp of group `y` launches under the next launch number. -/
def childOf (w : Warp) (y : Group) (r : LaunchRec) (ca : Option VA) (uid : Nat) : Child :=
  { rec_ := r, asid := w.asid, pri := w.pri, depth := w.sysDepth + 1, uid := uid, parent := w.grid, group := y.linear, counts := ca }

/-- A partition in which the child waits for dispatch and its parent counts it. -/
def childAdded (w : Warp) (y : Group) (r : LaunchRec) (ca : Option VA) (uid : Nat) (p : Part) : Part :=
  { p with childq := p.childq ++ [childOf w y r ca uid]
           grids := adjust p.grids w.grid (fun n => { n with children := n.children + 1 }) }

theorem lookup_grids_childAdded (w : Warp) (y : Group) (r : LaunchRec) (ca : Option VA) (uid : Nat) (p : Part) (k : Nat) :
    lookup (childAdded w y r ca uid p).grids k =
      (lookup p.grids k).map (fun n => if k = w.grid then { n with children := n.children + 1 } else n) := by
  refine (lookup_adjust ..).trans ?_
  split
  next => rfl
  next => exact Option.map_id'.symm

theorem enqueueChild_eq (hg : w.gslot = some g) (hy : groupAt s x.core g = some y) : enqueueChild x w r ca s =
    modGroup (modPart { s with nextId := s.nextId + 1 } w.part (childAdded w y r ca s.nextId)) x.core g
      (fun y => { y with children := y.children ++ [s.nextId] }) := by
  unfold enqueueChild
  dsimp only
  rw [hg]
  dsimp only
  rw [hy]
  rfl

theorem warpAt?_enqueueChild (hg : w.gslot = some g) (hy : groupAt s x.core g = some y) (k : Nat) :
    warpAt? (enqueueChild x w r ca s) x.core k = warpAt? s x.core k := by
  rw [enqueueChild_eq hg hy, warpAt?_modGroup]
  rfl

/-- A child grid launched, and the instruction of its lane over. -/
theorem childQueued_enqueueChild (hq : Quiet s t) (hg : (x.warp s).gslot = some g) (hy : groupAt s x.core g = some y)
    (fn : Warp → Warp) : ChildQueued s { x.mod (enqueueChild x (x.warp s) r ca t) fn with cur := .idle } x g y r ca := by
  have hyt : groupAt t x.core g = some y := (hq.groupAt ..).trans hy
  have hpart := hq.parts (x.warp s).part
  have hchildq := congrArg Part.childq hpart
  have hgrids := congrArg Part.grids hpart
  rw [enqueueChild_eq hg hyt]
  exact {
    queued := by
      have hself := congrArg Part.childq (partOf_modPart_self { t with nextId := t.nextId + 1 } (x.warp s).part
        (childAdded (x.warp s) y r ca t.nextId))
      refine hself.trans ?_
      rw [← hq.nextId]
      exact congrArg (· ++ _) hchildq
    known := by
      refine (groupAt_modWarp ..).trans ?_
      rw [groupAt_modGroup, if_pos ⟨rfl, rfl⟩, ← hq.nextId]
      exact congrArg (Option.map _) hyt
    counted := fun k => by
      have hself := congrArg (fun p : Part => lookup p.grids k) (partOf_modPart_self { t with nextId := t.nextId + 1 }
        (x.warp s).part (childAdded (x.warp s) y r ca t.nextId))
      exact hself.trans ((lookup_grids_childAdded ..).trans (congrArg (fun m => Option.map _ (lookup m k)) hgrids))
    number := congrArg (· + 1) hq.nextId }

theorem childRoom_quiet {p : Nat} (hq : Quiet s t) (h : (partOf s p).childq.length < 4096) : childRoom t p = true := by
  have hchildq := congrArg Part.childq (hq.parts p)
  exact decide_eq_true ((congrArg List.length hchildq).trans_lt h)

/-- What a launch of one lane that writes `n` leaves of its warp. -/
def Warp.launched (w : Warp) (x : Iss) (f : Fields) (l n : Nat) : Warp := advance (rwrite w l f.d.toNat n) x.mask x.len

/-- A launch of one lane that answers with a status and launches nothing. -/
theorem launch_status (hx : Issues s x op f) (hl : actors op f x (x.warp s) = [l]) (hq : Quiet s t)
    (h : launchLane x (x.warp s) l (rread2 (x.warp s) l f.a.toNat) (laneCounts two (x.warp s) l f) s = (.status n, t)) :
    issue op f (launchBody op two f) s = .next (x.leaves t ((x.warp s).launched x f l n)) := by
  rw [issue_eq hx, launchBody_one hl (launchLanes_status h), next_mod_leaves, hq.warp]
  rfl

/-- A launch of one lane that puts a child grid among those that wait for dispatch, and writes status 0. -/
theorem launch_enqueue (hx : Issues s x op f) (hl : actors op f x (x.warp s) = [l]) (hq : Quiet s t)
    (hg : (x.warp s).gslot = some g) (hy : groupAt s x.core g = some y)
    (h : launchLane x (x.warp s) l (rread2 (x.warp s) l f.a.toNat) (laneCounts two (x.warp s) l f) s = (.enqueue r ca, t)) :
    ∃ u, issue op f (launchBody op two f) s = .next u ∧ ChildQueued s u x g y r ca ∧
      x.warp u = (x.warp s).launched x f l launched := by
  have hyt : groupAt t x.core g = some y := (hq.groupAt ..).trans hy
  have hat : warpAt? (enqueueChild x (x.warp s) r ca t) x.core x.wslot = warpAt? s x.core x.wslot :=
    (warpAt?_enqueueChild hg hyt x.wslot).trans (hq.warpAt? ..)
  have hwarp : x.warp (enqueueChild x (x.warp s) r ca t) = x.warp s := by
    rw [Iss.warp, warpAt, hat]
    rfl
  refine ⟨_, (issue_eq hx _).trans ?_, childQueued_enqueueChild hq hg hy (fun w => w.launched x f l launched), ?_⟩
  · rw [launchBody_one hl (launchLanes_enqueue h), next_mod]
    rfl
  · refine (warp_mod x _ ?_ _).trans (by rw [hwarp])
    rw [hat]
    exact hx.here

end

/-- Settles O11: each case is what `launchLane` answers its lane, and `launch_enqueue` or `launch_status` what comes of it. -/
theorem launchQueuesAChildGrid : Obligations.LaunchQueuesAChildGrid := by
  refine ⟨?launch, ?launchi, ?status⟩
  case launch =>
    intro f s t x l g y bs hx hl hlead hg hy hd ha hr hread hok hcounts hroom
    have hmay : MayLaunch (x.warp s) l := ⟨by rw [hg]; rfl, hlead⟩
    have hq : Quiet s t := quiet_read hread
    obtain ⟨u, hexec, hchild, hwarp⟩ := launch_enqueue (two := false) hx hl hq hg hy
      (launchLane_enqueues hmay hd ha hr hread hok hcounts (childRoom_quiet hq hroom))
    obtain ⟨hsame, hstep, hwrote⟩ := wroteOne_status (regShape_launch (.inl rfl)) hx.operands l launched x.mask x.len
    exact ⟨u, hexec, hchild, hwarp ▸ hsame, hwarp ▸ hstep, hwarp ▸ hwrote⟩
  case launchi =>
    intro f s t u x l g y bs hx hl hlead hg hy hd ha hc hr hread hfault hok hroom
    have hmay : MayLaunch (x.warp s) l := ⟨by rw [hg]; rfl, hlead⟩
    have hq : Quiet s u := (quiet_read hread).trans (quiet_fault hfault)
    obtain ⟨v, hexec, hchild, hwarp⟩ := launch_enqueue (two := true) hx hl hq hg hy
      (launchLane_enqueuesCounts hmay hd ha hr hread hc hfault hok (childRoom_quiet hq hroom))
    obtain ⟨hsame, hstep, hwrote⟩ := wroteOne_status (regShape_launch (.inr rfl)) hx.operands l launched x.mask x.len
    exact ⟨v, hexec, hchild, hwarp ▸ hsame, hwarp ▸ hstep, hwarp ▸ hwrote⟩
  case status =>
    intro i f s t x op l status two hi hx hl hcase
    have hop : op = 58 ∨ op = 59 := by
      rcases hi with ⟨-, hop, -⟩ | ⟨-, hop, -⟩
      · exact .inl hop
      · exact .inr hop
    have hexec : exec i s = issue op f (launchBody op two f) s := by
      rcases hi with ⟨rfl, rfl, rfl⟩ | ⟨rfl, rfl, rfl⟩ <;> rfl
    obtain ⟨hq, hlane⟩ := launchLane_answers hcase
    exact ⟨_, hexec.trans (launch_status hx hl hq hlane),
      wroteOne_status (regShape_launch hop) hx.operands l status x.mask x.len⟩

end Sys2Proof.Machine

/-! # Float instructions and their flags (09 R227 to R241, 17 R446, R451)

The results are written as those of O1. What is new is what a flag does: one that is not enabled joins the imprecise record of
its PC, an enabled one keeps its lane at the instruction and traps. -/

namespace Sys2Proof.Machine

/-- Settles O2: each form performs once a lane, or once for a uniform form. -/
theorem floatInstructionsWriteTheirResults : Obligations.FloatInstructionsWriteTheirResults := by
  intro i s x q hw hq hx hquiet
  obtain ⟨w', hleaves, heffect⟩ := perLane_effect s x q (fltForm_classed hw hq hx.operands) hquiet
  exact ⟨w', by rw [fltForm_exec hq hx, hleaves], heffect⟩

/-! ### Sets of flags -/

theorem orFlags_and (fl : List Flags) (en : Flags) : orFlags fl &&& en = orFlags (fl.map (· &&& en)) := by
  have hfold (a : Flags) : fl.foldl (· ||| ·) a &&& en = (fl.map (· &&& en)).foldl (· ||| ·) (a &&& en) := by
    induction fl generalizing a with
    | nil => rfl
    | cons b fl ih => rw [List.foldl_cons, ih, BitVec.and_or_distrib_right, List.map_cons, List.foldl_cons]
  rw [orFlags, hfold, BitVec.zero_and, orFlags]

/-- Together lanes raise no flag of a set where none of them does. -/
theorem raised_and_eq_zero {ls : List Nat} {res : Nat → LaneRes} {en : Flags} :
    raised ls res &&& en = 0#5 ↔ ∀ l ∈ ls, (res l).all &&& en = 0#5 := by
  rw [raised, orFlags_and, orFlags_eq_zero, List.map_map, List.forall_mem_map]
  rfl

/-- Flags of which none is in a set all lie outside it. -/
theorem and_not_of_and_eq_zero {fl en : Flags} (h : fl &&& en = 0#5) : fl &&& ~~~en = fl := by
  have hsplit : fl &&& en ||| fl &&& ~~~en = fl := by
    rw [← BitVec.and_or_distrib_left, BitVec.or_not_self, BitVec.and_allOnes]
  rwa [h, BitVec.zero_or] at hsplit

theorem orFlags_results (ls : List Nat) (res : Nat → LaneRes) :
    orFlags ((ls.map (fun l => (l, res l))).map (fun e => e.2.all)) = raised ls res := by
  rw [List.map_map]
  rfl

theorem raised_singleton (l : Nat) (res : Nat → LaneRes) : raised [l] res = (res l).all := by
  simp [raised, orFlags]

/-! ### The imprecise record (17 R451) -/

/-- The warp with a pending imprecise record. -/
def Warp.logging (w : Warp) (r : Imprecise) : Warp := { w with imp := some r }

section
variable {s : State} {core ws : Nat} {pc : VA} {fl : Flags} {r : Imprecise}

/-- `r` is the record that flags of core cycle `cyc` join: the pending one, or where none is pending a new one without flags. -/
def Joins (w : Warp) (cyc : Nat) (r : Imprecise) : Prop := w.imp = none ∧ r.flags = 0#5 ∧ r.since = cyc ∨ w.imp = some r

theorem addFlags_joins (hfl : fl ≠ 0#5) (hr : Joins (warpAt s core ws) (cycOf s core) r) (hpc : r.pcb = fld pc 5 52) :
    addFlags s core ws pc fl = modWarp s core ws (fun w => w.logging { r with flags := r.flags ||| fl }) := by
  unfold addFlags
  dsimp only
  rw [if_neg hfl]
  rcases hr with ⟨hnone, hflags, hsince⟩ | hsome
  · rw [hnone, ← hpc, ← hsince, hflags, BitVec.zero_or]
    rfl
  · rw [hsome, ← hpc]
    exact if_pos rfl

theorem SameButRegs.imp {w v : Warp} (h : SameButRegs w v) : v.imp = w.imp := by
  have himp := congrArg Warp.imp h
  exact himp

theorem joins_of_same {w v : Warp} {cyc : Nat} (h : SameButRegs w v) : Joins v cyc r ↔ Joins w cyc r := by
  rw [Joins, h.imp, Joins]

theorem cycOf_modWarp (s : State) (core ws : Nat) (g : Warp → Warp) : cycOf (modWarp s core ws g) core = cycOf s core := by
  rw [cycOf, modWarp, coreOf_modCore_self, cycOf]

end

section
variable (r : Imprecise) (w : Warp)

theorem rwrite_logging (l n v : Nat) : rwrite (w.logging r) l n v = (rwrite w l n v).logging r := by
  unfold rwrite
  change (if n < 192 then (if (lookup w.lanes l).isSome then _ else _) else _) = _
  split_ifs <;> rfl

theorem predWrite_logging (l n : Nat) (b : Bool) : predWrite (w.logging r) l n b = (predWrite w l n b).logging r := by
  unfold predWrite
  split_ifs <;> rfl

theorem writeRegs_logging (l : Nat) (rs : List (Nat × Nat)) : writeRegs (w.logging r) l rs = (writeRegs w l rs).logging r := by
  induction rs generalizing w with
  | nil => rfl
  | cons e rs ih => exact (congrArg (writeRegs · l rs) (rwrite_logging r w l e.1 e.2)).trans (ih _)

theorem writePreds_logging (l : Nat) (ps : List (Nat × Bool)) :
    writePreds (w.logging r) l ps = (writePreds w l ps).logging r := by
  induction ps generalizing w with
  | nil => rfl
  | cons e ps ih => exact (congrArg (writePreds · l ps) (predWrite_logging r w l e.1 e.2)).trans (ih _)

theorem put_logging (res : LaneRes) (l : Nat) : res.put (w.logging r) l = (res.put w l).logging r := by
  rw [put_eq, writeRegs_logging, writePreds_logging, put_eq]

theorem advance_logging (m : Word) (n : Nat) : advance (w.logging r) m n = (advance w m n).logging r := by
  unfold advance
  change (if w.hmode then _ else _) = _
  split <;> rfl

end

/-! ### What lanes, or the one uniform execution, leave in their warp -/

/-- The warp with the results of some lanes written. -/
def Warp.wrote (w : Warp) (ls : List Nat) (res : Nat → LaneRes) : Warp :=
  (ls.map (fun l => (l, res l))).foldl (fun w e => e.2.put w e.1) w

theorem onlyRegs_wrote (w : Warp) (ls : List Nat) (res : Nat → LaneRes) : OnlyRegs w (w.wrote ls res) := by
  rw [Warp.wrote, List.foldl_map]
  exact List.foldlRecOn ls _ (motive := OnlyRegs w) (.refl w) fun v hv l _ => hv.trans (onlyRegs_put ..)

section
variable {w : Warp} {x : Iss} {q : LaneForm}

theorem perLane_vector {s : State} (hv : uniformForm q.op q.f = false) : perLane q.op q.f q.res x s =
    deliver x s ((guarded (x.warp s) x.mask q.f.g).map (fun l => (l, q.res (x.warp s) l))) := by
  simp only [perLane, hv, Bool.false_eq_true, if_false]

theorem perLane_uniform {s : State} (hv : uniformForm q.op q.f = true) (hg : guardUni (x.warp s) q.f.g = true) :
    perLane q.op q.f q.res x s = deliverUni x s (q.res (x.warp s) x.lane0) := by
  simp only [perLane, hv, hg, if_true]

/-- Results of lanes written, then a step: all that it leaves. -/
theorem advance_wrote {ls : List Nat} (hn : ls.Nodup) {res : Nat → LaneRes} (hr : ∀ l ∈ ls, (res l).perThread) (w : Warp)
    (m : Word) (n : Nat) : SameButRegs w (advance (w.wrote ls res) m n) ∧ Stepped w (advance (w.wrote ls res) m n) m n ∧
      SameUniform w (advance (w.wrote ls res) m n) ∧ WroteLanes w (advance (w.wrote ls res) m n) ls res := by
  obtain ⟨honly, huni, hwrote⟩ := wroteLanes_foldl ls hn res hr w
  have hvalues := sameValues_advance (w.wrote ls res) m n
  exact ⟨sameButRegs_advance _ _ honly .., stepped_advance _ _ honly .., huni.then hvalues, hwrote.then hvalues⟩

/-- The one result of a uniform execution written, then a step. -/
theorem advance_put_uniform {res : LaneRes} (hr : res.uniform) (hp : ∀ e ∈ res.preds, e.1 < 16) (w : Warp) (m : Word)
    (n : Nat) :
    SameButRegs w (advance (res.put w 0) m n) ∧ Stepped w (advance (res.put w 0) m n) m n ∧
      SameLanes w (advance (res.put w 0) m n) ∧ WroteUniform w (advance (res.put w 0) m n) res := by
  obtain ⟨hlanes, hwrote⟩ := put_uniform res hr hp 0 w
  have honly := onlyRegs_put res 0 w
  have hvalues := sameValues_advance (res.put w 0) m n
  exact ⟨sameButRegs_advance _ _ honly .., stepped_advance _ _ honly .., hlanes.then hvalues, hwrote.then hvalues⟩

theorem laneEffect_vector (hv : uniformForm q.op q.f = false) (hc : ∀ l, Classed w q.op q.f (q.res w l)) :
    LaneEffect w x q (advance (w.wrote (guarded w x.mask q.f.g) (q.res w)) x.mask x.len) := by
  obtain ⟨hsame, hstep, hwrote⟩ := advance_wrote (guarded_nodup w x.mask q.f.g) (fun l _ => (hc l).vector hv) w x.mask x.len
  exact ⟨hsame, hstep, fun _ => hwrote, fun h => by simp [hv] at h⟩

theorem laneEffect_uniform (hv : uniformForm q.op q.f = true) (hg : guardUni w q.f.g = true)
    (hc : ∀ l, Classed w q.op q.f (q.res w l)) : LaneEffect w x q (advance ((q.res w x.lane0).put w 0) x.mask x.len) := by
  obtain ⟨hres, hpreds⟩ := (hc x.lane0).uniform hv
  obtain ⟨hsame, hstep, hwrote⟩ := advance_put_uniform hres hpreds w x.mask x.len
  exact ⟨hsame, hstep, fun h => by simp [hv] at h, fun _ => by rwa [if_pos hg]⟩

end

/-! ### Flags that are not enabled -/

section
variable {s : State} {x : Iss} {q : LaneForm} {r : Imprecise}

/-- Lanes of which none raises an enabled flag are all written, then their flags are logged (09 R227). -/
theorem deliver_unenabled {ls : List Nat} {res : Nat → LaneRes} (h : raised ls res &&& enabledFlags (x.warp s) = 0#5) :
    deliver x s (ls.map (fun l => (l, res l))) =
      x.next (addFlags (x.mod s (fun w => w.wrote ls res)) x.core x.wslot x.pc (raised ls res)) := by
  have hlane (e : Nat × LaneRes) (he : e ∈ ls.map (fun l => (l, res l))) : e.2.all &&& enabledFlags (x.warp s) = 0#5 := by
    obtain ⟨l, hl, rfl⟩ := List.mem_map.mp he
    exact raised_and_eq_zero.mp h l hl
  have hgood : (ls.map (fun l => (l, res l))).filter (fun e => e.2.all &&& enabledFlags (x.warp s) == 0#5) =
      ls.map (fun l => (l, res l)) := List.filter_eq_self.mpr fun e he => by simp [hlane e he]
  have hbad : (ls.map (fun l => (l, res l))).filter (fun e => e.2.all &&& enabledFlags (x.warp s) != 0#5) = [] :=
    List.filter_eq_nil_iff.mpr fun e he => by simp [hlane e he]
  unfold deliver
  simp only [hgood, hbad, orFlags_results, and_not_of_and_eq_zero h, List.isEmpty_nil, if_true]
  rfl

section
variable (hr : Joins (x.warp s) (cycOf s x.core) r) (hpc : r.pcb = fld x.pc 5 52)
include hr hpc

theorem deliver_logs {ls : List Nat} {res : Nat → LaneRes} (hw : (warpAt? s x.core x.wslot).isSome = true)
    (hne : raised ls res ≠ 0#5) (hen : raised ls res &&& enabledFlags (x.warp s) = 0#5) :
    { deliver x s (ls.map (fun l => (l, res l))) with cur := .idle } = x.leaves s
      ((advance ((x.warp s).wrote ls res) x.mask x.len).logging { r with flags := r.flags ||| raised ls res }) := by
  have hjoins : Joins (x.warp (x.mod s (fun w => w.wrote ls res))) (cycOf (x.mod s (fun w => w.wrote ls res)) x.core) r := by
    rw [warp_mod x s hw, Iss.mod, cycOf_modWarp]
    exact (joins_of_same (onlyRegs_wrote ..).same).mpr hr
  rw [deliver_unenabled hen, addFlags_joins hne hjoins hpc, ← advance_logging, Iss.mod, modWarp_modWarp]
  exact next_mod_leaves x s _

theorem deliverUni_logs {res : LaneRes} (hne : res.all ≠ 0#5) (hen : res.all &&& enabledFlags (x.warp s) = 0#5) :
    { deliverUni x s res with cur := .idle } = x.leaves s
      ((advance (res.put (x.warp s) 0) x.mask x.len).logging { r with flags := r.flags ||| res.all }) := by
  rw [deliverUni, hen, if_pos rfl, and_not_of_and_eq_zero hen, addFlags_joins hne hr hpc, ← advance_logging, ← put_logging,
    Iss.mod, modWarp_modWarp]
  exact next_mod_leaves x s _

/-- Where the flags of an instruction are not enabled it leaves its results, and its warp with the record that they joined. -/
theorem perLane_logs (hw : (warpAt? s x.core x.wslot).isSome = true)
    (hc : ∀ l, Classed (x.warp s) q.op q.f (q.res (x.warp s) l))
    (hne : raised (performers q.op q.f x (x.warp s)) (q.res (x.warp s)) ≠ 0#5)
    (hen : raised (performers q.op q.f x (x.warp s)) (q.res (x.warp s)) &&& enabledFlags (x.warp s) = 0#5) :
    ∃ w', LaneEffect (x.warp s) x q w' ∧ { perLane q.op q.f q.res x s with cur := .idle } = x.leaves s
      (w'.logging { r with flags := r.flags ||| raised (performers q.op q.f x (x.warp s)) (q.res (x.warp s)) }) := by
  cases hv : uniformForm q.op q.f with
  | false =>
    simp only [performers, hv, Bool.false_eq_true, if_false] at hne hen ⊢
    exact ⟨_, laneEffect_vector hv hc, by rw [perLane_vector hv, deliver_logs hr hpc hw hne hen]⟩
  | true =>
    cases hg : guardUni (x.warp s) q.f.g with
    | false => simp [performers, hv, hg, raised, orFlags] at hne
    | true =>
      simp only [performers, hv, hg, if_true, raised_singleton] at hne hen ⊢
      exact ⟨_, laneEffect_uniform hv hg hc, by rw [perLane_uniform hv hg, deliverUni_logs hr hpc hne hen]⟩

end

end

/-! ### Enabled flags -/

section
variable {s : State} {x : Iss} {q : LaneForm}

theorem leaves_mod (x : Iss) (s : State) (g : Warp → Warp) (w : Warp) : x.leaves (x.mod s g) w = x.leaves s w := by
  rw [Iss.leaves, Iss.mod, Iss.mod, modWarp_modWarp]
  rfl

theorem handlerReady_of_same {w v : Warp} (h : SameButRegs w v) (hr : HandlerReady w) : HandlerReady v := by
  have hmode := congrArg Warp.hmode h
  have htba := congrArg Warp.tba h
  obtain ⟨hm, ht, hi⟩ := hr
  exact ⟨hmode.trans hm, fun h0 => ht (htba.symm.trans h0), h.imp.trans hi⟩

/-- The lanes of which one raises an enabled flag, and the others. -/
def faulting (w : Warp) (res : Nat → LaneRes) (ls : List Nat) : List Nat :=
  ls.filter (fun l => (res l).all &&& enabledFlags w != 0#5)
def unfaulting (w : Warp) (res : Nat → LaneRes) (ls : List Nat) : List Nat :=
  ls.filter (fun l => (res l).all &&& enabledFlags w == 0#5)

/-- The lanes of the path but these. -/
def Iss.others (x : Iss) (bad : List Nat) : Word := x.mask &&& ~~~laneMask (fun l => bad.contains l)

/-- The trap of lanes that raise enabled flags, with the flags and the elements that raised them (09 R227, 17 R446). -/
def Iss.flagTrap (x : Iss) (w : Warp) (res : Nat → LaneRes) (bad : List Nat) : Trap :=
  x.trapOf 7 (raised bad res &&& enabledFlags w).toNat (laneMask (fun l => bad.contains l))
    (bad.foldl (fun k l => k ||| elemBits (enabledFlags w) (res l).flags) 0) 0

/-- Lanes of which some raise enabled flags, and no other flag is raised: the others are written and step, then the trap is
taken (09 R227). -/
theorem deliver_traps {ls bad : List Nat} {res : Nat → LaneRes} (hbad : bad = faulting (x.warp s) res ls) (hne : bad ≠ [])
    (hlog : raised ls res &&& ~~~enabledFlags (x.warp s) = 0#5) :
    deliver x s (ls.map (fun l => (l, res l))) = takeTrap
      (x.mod s (fun w => advance (w.wrote (unfaulting (x.warp s) res ls) res) (x.others bad) x.len)) x.core x.wslot
      (x.flagTrap (x.warp s) res bad) := by
  have hgoods : (ls.map (fun l => (l, res l))).filter (fun e => e.2.all &&& enabledFlags (x.warp s) == 0#5) =
      (unfaulting (x.warp s) res ls).map (fun l => (l, res l)) := List.filter_map
  have hbads : (ls.map (fun l => (l, res l))).filter (fun e => e.2.all &&& enabledFlags (x.warp s) != 0#5) =
      bad.map (fun l => (l, res l)) := hbad ▸ List.filter_map
  have hempty : (bad.map (fun l => (l, res l))).isEmpty = false := by simpa using hne
  have hmask : (fun l => (bad.map (fun l => (l, res l))).any (fun e => e.1 == l)) = fun l => bad.contains l := by
    funext l
    rw [List.any_map, List.contains_eq_any_beq]
    exact congrArg bad.any (funext fun k => Bool.beq_comm)
  unfold deliver
  dsimp only
  rw [hgoods, hbads, orFlags_results, orFlags_results, hlog, hempty, hmask, addFlags_zero, if_neg Bool.false_ne_true,
    List.foldl_map, Iss.mod, Iss.mod, modWarp_modWarp]
  rfl

/-- The one uniform execution that raises enabled flags alone writes nothing, and its path traps (09 R227). -/
theorem deliverUni_traps {res : LaneRes} (hne : res.all &&& enabledFlags (x.warp s) ≠ 0#5)
    (hlog : res.all &&& ~~~enabledFlags (x.warp s) = 0#5) :
    deliverUni x s res = takeTrap s x.core x.wslot (x.trapOf 7 (res.all &&& enabledFlags (x.warp s)).toNat x.mask
      (elemBits (enabledFlags (x.warp s)) res.flags) 0) := by
  unfold deliverUni
  dsimp only
  rw [hlog, addFlags_zero, if_neg hne]
  rfl

end

/-- Settles O3: flags that are not enabled by `perLane_logs`; enabled ones by what `deliver` and `deliverUni` leave before the
trap, which the handler that stands ready takes. -/
theorem flagsAreLoggedOrTrapTheirLanes : Obligations.FlagsAreLoggedOrTrapTheirLanes := by
  refine ⟨?logged, ?lanes, ?uniform⟩
  case logged =>
    intro i s x q r hw hq hx hne hen hr hpc
    obtain ⟨w', heffect, hleaves⟩ := perLane_logs hr hpc hx.here (fltForm_classed hw hq hx.operands) hne hen
    exact ⟨w', heffect, by rw [fltForm_exec hq hx, hleaves]; rfl⟩
  case lanes =>
    intro i s x q good bad hw hq hx hv hr hgood hbad hne hlog
    obtain ⟨hsame, hstep, huni, hwrote⟩ := advance_wrote (hgood ▸ (guarded_nodup (x.warp s) x.mask q.f.g).filter _)
      (fun l _ => (fltForm_classed hw hq hx.operands l).vector hv) (x.warp s) (x.others bad) x.len
    have hwarp := warp_mod x s hx.here (fun w => advance (w.wrote good (q.res (x.warp s))) (x.others bad) x.len)
    obtain ⟨w₂, hleaves, hentered⟩ := takeTrap_leaves (x := x) (t := x.flagTrap (x.warp s) (q.res (x.warp s)) bad)
      ((isSome_warpAt?_modWarp ..).trans hx.here) (by rw [← Iss.mod, hwarp]; exact handlerReady_of_same hsame hr)
    refine ⟨_, w₂, hsame, huni, hwrote, hstep, hwarp ▸ hentered, ?_⟩
    rw [fltForm_exec hq hx, perLane_vector hv, deliver_traps hbad hne hlog, unfaulting, ← hgood, Iss.mod, hleaves]
    exact congrArg _ (leaves_mod x s _ w₂)
  case uniform =>
    intro i s x q hw hq hx hv hr hg hne hlog
    obtain ⟨w', hleaves, hentered⟩ := takeTrap_leaves (x := x) hx.here hr
    refine ⟨w', ?_, hentered⟩
    rw [fltForm_exec hq hx, perLane_uniform hv hg, deliverUni_traps hne hlog, hleaves]

end Sys2Proof.Machine

/-! # Collectives, single lanes and pattern tables (09 R240, R244 to R254) -/

namespace Sys2Proof.Machine

/-! ### The registers that a destination names (06 R140, R141) -/

section
variable {d : BitVec 8} {n regs : Nat} {role : Role}

theorem reg_aligned (h : (reg role d n).ok regs = true) (hd : d.toNat ≠ 255) : d.toNat % n = 0 := by
  unfold Use.ok reg at h
  dsimp only at h
  rw [if_neg hd] at h
  split at h <;> simp only [Bool.and_eq_true, decide_eq_true_eq] at h <;> exact h.1.1.1

theorem vdst_vector (h : (reg .vdst d n).ok regs = true) : d.toNat < 192 ∨ d.toNat = 255 := by
  by_contra hd
  obtain ⟨hlt, h255⟩ := not_or.mp hd
  unfold Use.ok reg at h
  dsimp only at h
  rw [if_neg h255, if_neg hlt] at h
  simp at h

theorem udst_uniform (h : (reg .udst d n).ok regs = true) : 192 ≤ d.toNat := by
  by_contra hd
  have h255 : d.toNat ≠ 255 := by omega
  unfold Use.ok reg at h
  dsimp only at h
  rw [if_neg h255, if_pos (by omega)] at h
  simp at h

/-- Where a value of a type goes to a vector register, an aligned pair or v255, its words are one thread's. -/
theorem perThread_regs {t : Nat} (hd : d.toNat < 192 ∨ d.toNat = 255) (he : d.toNat ≠ 255 → d.toNat % tRegs t = 0)
    (v : Nat) : (LaneRes.ofRegs (dstWords d.toNat t v)).perThread := by
  by_cases ht : t ≥ 14
  · rcases hd with hd | h255
    · exact perThread_dstWords hd (by rw [← tRegs_of_ge ht]; exact he (by omega)) t v
    · exact ⟨fun e hm => by simp [LaneRes.ofRegs, dstWords, ht, h255] at hm, fun e hm => by cases hm⟩
  · refine ⟨fun e hm => ?_, fun e hm => by cases hm⟩
    simp only [LaneRes.ofRegs, dstWords, ht, if_false, List.mem_singleton] at hm
    rw [hm]
    exact hd

end

/-! ### What a collective performs -/

/-- What is known of a collective's results where operands are legal: those of each lane's thread, or of a uniform destination. -/
structure CollClassed (q : CollForm) (res : LaneRes) : Prop where
  vector : q.uni = false → res.perThread
  uniform : q.uni = true → res.uniform ∧ ∀ e ∈ res.preds, e.1 < 16

/-- The results of a collective written: in the lanes of its write set, or once. -/
def CollForm.put (q : CollForm) (wset : List Nat) (res : Nat → LaneRes) (w : Warp) : Warp :=
  if q.uni then (res (wset.headD 0)).put w 0 else w.wrote wset res

/-- A collective that raises no flag: the results of its write set, and the step. -/
def CollForm.perform (q : CollForm) (x : Iss) (s : State) : State :=
  match collSets (x.warp s) x q.f with
  | none => x.next s
  | some (src, wset) => x.next (x.mod s (q.put wset (q.res (x.warp s) src wset)))

section
variable {s : State} {x : Iss} {q : CollForm} {i : Instr} {f : Fields}

theorem deliverAll_quiet (x : Iss) (s : State) (wset : List Nat) (put : Warp → Warp) :
    deliverAll x s wset 0#5 put = x.next (x.mod s put) := by
  simp [deliverAll]

theorem collective_perform {op t : Nat} {go : Warp → List Nat → List Nat → Flags × (Nat → Nat)}
    {flags : Warp → List Nat → List Nat → Flags} {res : Warp → List Nat → List Nat → Nat → LaneRes}
    (hflags : ∀ w src wset, (go w src wset).1 = flags w src wset)
    (hres : ∀ w src wset l, .ofRegs (dstWords f.d.toNat t ((go w src wset).2 l)) = res w src wset l)
    (hquiet : ∀ src wset, collSets (x.warp s) x f = some (src, wset) → flags (x.warp s) src wset = 0#5) :
    collective t f go x s = CollForm.perform ⟨op, f, isUni f.d.toNat, flags, res⟩ x s := by
  unfold collective CollForm.perform
  dsimp only
  cases hsets : collSets (x.warp s) x f with
  | none => rfl
  | some sets =>
    obtain ⟨src, wset⟩ := sets
    have hput : putLanes f.d t wset (go (x.warp s) src wset).2 =
        CollForm.put ⟨op, f, isUni f.d.toNat, flags, res⟩ wset (res (x.warp s) src wset) := by
      funext w
      simp only [putLanes, CollForm.put, Warp.wrote, List.foldl_map, hres]
    dsimp only
    rw [hflags, hquiet src wset hsets, deliverAll_quiet, hput]

/-- VOTE writes its word as a collective does, and its predicate likewise in place of a register (09 R246). -/
theorem voteBody_perform (hq : collForm (.vote f) = some q) : voteBody f x s = q.perform x s := by
  simp only [collForm, Option.some.injEq] at hq
  subst hq
  unfold voteBody CollForm.perform
  dsimp only
  cases collSets (x.warp s) x f with
  | none => rfl
  | some sets =>
    dsimp only
    by_cases hop : f.fn.toNat ≤ 2
    · rw [if_pos hop]
      refine congrArg (fun g => x.next (x.mod s g)) (funext fun w => ?_)
      simp only [putLanes, CollForm.put, Warp.wrote, List.foldl_map, hop, if_true]
      rfl
    · rw [if_neg hop]
      refine congrArg (fun g => x.next (x.mod s g)) (funext fun w => ?_)
      simp only [CollForm.put, Warp.wrote, List.foldl_map, hop, if_false]
      rfl

theorem issue_performs {op : Nat} {body : Iss → State → State} {u : State} (hx : Issues s x op f) (h : body x s = u) :
    issue op f body s = .next { u with cur := .idle } := by
  rw [issue_eq hx, h]

/-- A collective that raises no flag performs its form. -/
theorem collForm_exec (hq : collForm i = some q) (hx : Issues s x q.op q.f)
    (hquiet : ∀ src wset, collSets (x.warp s) x q.f = some (src, wset) → q.flags (x.warp s) src wset = 0#5) :
    exec i s = .next { q.perform x s with cur := .idle } := by
  cases i <;> simp only [collForm, Option.some.injEq, reduceCtorEq] at hq
  case vote f =>
    subst hq
    exact issue_performs hx (voteBody_perform rfl)
  all_goals
    subst hq
    exact issue_performs hx (collective_perform (fun _ _ _ => rfl) (fun _ _ _ _ => rfl) hquiet)

theorem collSets_nodup {w : Warp} {src wset : List Nat} (h : collSets w x f = some (src, wset)) : wset.Nodup := by
  unfold collSets at h
  split_ifs at h
  all_goals
    cases h
    exact guarded_nodup ..

/-! ### Where the results go -/

/-- The one register of a collective. -/
theorem collClassed_reg {t : Nat} (huni : q.uni = isUni q.f.d.toNat) (he : q.f.d.toNat ≠ 255 → q.f.d.toNat % tRegs t = 0)
    (v : Nat) : CollClassed q (.ofRegs (dstWords q.f.d.toNat t v)) where
  vector h := perThread_regs (.inl (by simpa [isUni] using huni.symm.trans h)) he v
  uniform h := ⟨uniform_dstWords (by simpa [isUni] using huni.symm.trans h) t v, fun e he => by cases he⟩

theorem getLsbD_three_of_lt {d : BitVec 8} (hd : d.toNat < 16) : d.getLsbD 3 = decide (8 ≤ d.toNat) := by
  rw [BitVec.getLsbD, Nat.testBit_eq_decide_div_mod_eq]
  exact decide_eq_decide.mpr (by omega)

/-- The one predicate of VOTE. -/
theorem collClassed_pred (huni : q.uni = q.f.d.getLsbD 3) (hd : q.f.d.toNat < 16) (b : Bool) :
    CollClassed q (.ofPred q.f.d b []) := by
  rw [getLsbD_three_of_lt hd] at huni
  refine ⟨fun h => ⟨nofun, fun e he => ?_⟩, fun h => ⟨⟨nofun, fun e he => ?_⟩, fun e he => ?_⟩⟩
  all_goals rw [List.mem_singleton.mp he]
  · simpa using huni.symm.trans h
  · simpa using huni.symm.trans h
  · exact hd

/-- The results of a collective are classed. -/
theorem collForm_classed (hw : WellFormed i = true) (hq : collForm i = some q) (ok : operandsOk (x.warp s) q.op q.f = true)
    (w : Warp) (src wset : List Nat) (l : Nat) : CollClassed q (q.res w src wset l) := by
  cases i <;> simp only [collForm, Option.some.injEq, reduceCtorEq] at hq
  case shfl f =>
    subst hq
    exact collClassed_reg rfl (reg_aligned (useOk ok (List.mem_cons_self ..))) _
  case vote f =>
    subst hq
    by_cases hop : f.fn.toNat ≤ 2
    · simp only [hop, if_true]
      exact collClassed_reg (t := 0) (by simp) (fun _ => Nat.mod_one _) _
    · have hd : f.d.toNat < 16 := by
        have hf := fieldsOk_of_wf hw (f := f) (op := 115) rfl
        simp only [fieldsOk, hop, decide_false, Bool.false_or, Bool.and_eq_true] at hf
        exact predDst_lt hf.2
      simp only [hop, if_false]
      exact collClassed_pred (by simp) hd _
  all_goals
    subst hq
    exact collClassed_reg (t := 0) rfl (fun _ => Nat.mod_one _) _

/-- The results of a collective written, then a step: all that it leaves. -/
theorem advance_collPut {wset : List Nat} (hn : wset.Nodup) {res : Nat → LaneRes} (hc : ∀ l, CollClassed q (res l)) (w : Warp)
    (m : Word) (n : Nat) :
    SameButRegs w (advance (q.put wset res w) m n) ∧ Stepped w (advance (q.put wset res w) m n) m n ∧
      if q.uni = true then SameLanes w (advance (q.put wset res w) m n) ∧
        WroteUniform w (advance (q.put wset res w) m n) (res (wset.headD 0))
      else SameUniform w (advance (q.put wset res w) m n) ∧ WroteLanes w (advance (q.put wset res w) m n) wset res := by
  unfold CollForm.put
  cases huni : q.uni with
  | true =>
    obtain ⟨hres, hpreds⟩ := (hc (wset.headD 0)).uniform huni
    exact advance_put_uniform hres hpreds w m n
  | false => exact advance_wrote hn (fun l _ => (hc l).vector huni) w m n

end

/-- Settles O4: with a false q guard the path steps; else the results of the write set are those of its lanes, or the one of a
uniform destination. -/
theorem collectivesWriteTheirResults : Obligations.CollectivesWriteTheirResults := by
  intro i s x q hw hq hx hquiet
  rw [collForm_exec hq hx hquiet, CollForm.perform]
  cases hsets : collSets (x.warp s) x q.f with
  | none =>
    have hvalues := sameValues_advance (x.warp s) x.mask x.len
    exact ⟨_, congrArg _ (next_leaves x s), sameButRegs_advance _ _ (.refl _) .., stepped_advance _ _ (.refl _) ..,
      hvalues.sameUniform, hvalues.sameLanes⟩
  | some sets =>
    obtain ⟨src, wset⟩ := sets
    exact ⟨_, congrArg _ (next_mod_leaves x s _), advance_collPut (collSets_nodup hsets)
      (collForm_classed hw hq hx.operands (x.warp s) src wset) (x.warp s) x.mask x.len⟩

/-! ### LRD and LWR (09 R254) -/

section
variable {s : State} {x : Iss} {f : Fields}

/-- The value that LRD reads, and that LWR reads, for the register or pair it writes. -/
def lrdRes (f : Fields) (w : Warp) : LaneRes :=
  .ofRegs (dstWords f.d.toNat f.t.toNat (srcN w (rawB w 0 f 1 % 32) (tRegs f.t.toNat) f.a.toNat))
def lwrRes (f : Fields) (w : Warp) : LaneRes := .ofRegs (dstWords f.d.toNat f.t.toNat (srcN w 0 (tRegs f.t.toNat) f.a.toNat))

theorem lrdBody_passes (hg : guardUni (x.warp s) f.g = true) :
    lrdBody f x s = x.next (x.mod s (fun w => (lrdRes f (x.warp s)).put w 0)) := by
  simp only [lrdBody, hg, Bool.not_true, Bool.false_eq_true, if_false]
  rfl

/-- In a clasp region LWR may write the lanes of the region. -/
theorem lwrBody_passes (hg : guardUni (x.warp s) f.g = true)
    (hc : clasped (x.warp s) = true → (x.warp s).cmask.getLsbD (rawB (x.warp s) 0 f 1 % 32) = true) :
    lwrBody f x s = x.next (x.mod s (fun w => (lwrRes f (x.warp s)).put w (rawB (x.warp s) 0 f 1 % 32))) := by
  have hclasp : ((x.warp s).clOpen && !(x.warp s).hmode && !(x.warp s).cmask.getLsbD (rawB (x.warp s) 0 f 1 % 32)) = false := by
    simpa [clasped] using hc
  simp only [lwrBody, hg, hclasp, Bool.not_true, Bool.false_eq_true, if_false]
  rfl

end

/-- Settles O5: LRD is one uniform result, LWR the result of one lane. -/
theorem singleLaneAccessesMoveOneRegister : Obligations.SingleLaneAccessesMoveOneRegister := by
  refine ⟨?lrd, ?lwr⟩
  case lrd =>
    intro f s x _ hx hg
    have hd : 192 ≤ f.d.toNat := udst_uniform (useOk hx.operands (List.mem_cons_self ..))
    exact ⟨_, (issue_performs hx (lrdBody_passes hg)).trans (congrArg _ (next_mod_leaves x s _)),
      advance_put_uniform (uniform_dstWords hd _ _) nofun (x.warp s) x.mask x.len⟩
  case lwr =>
    intro f s x _ hx hg hc
    have huse := useOk hx.operands (u := reg .vdst f.d (tRegs f.t.toNat)) (List.mem_cons_self ..)
    exact ⟨_, (issue_performs hx (lwrBody_passes hg hc)).trans (congrArg _ (next_mod_leaves x s _)),
      advance_wrote (List.nodup_singleton _) (fun _ _ => perThread_regs (vdst_vector huse) (reg_aligned huse) _) (x.warp s)
        x.mask x.len⟩

/-! ### FILT (09 R250, R251) -/

section
variable {s t : State} {x : Iss} {f : Fields} {w : Warp} {core part asid : Nat} {kind : FetchKind} {va : VA}

theorem warps_setCache (c : Core) (kind : FetchKind) (ls : List CLine) : (setCache c kind ls).warps = c.warps := by
  cases kind <;> rfl

theorem warps_modCore_setCache (g : Core → List CLine) (d : Nat) :
    (coreOf (modCore s core (fun c => setCache c kind (g c))) d).warps = (coreOf s d).warps := by
  rw [coreOf_modCore]
  split
  · exact warps_setCache ..
  · rfl

theorem quiet_homeRead {who : Who} {need : Need} {n : Nat} {r : Except AccErr (List Byte)}
    (h : homeRead s who need va n = (r, t)) : Quiet s t := by
  have hquiet := homeRead_quiet s who need va n
  rwa [h] at hquiet

/-- A fetch changes no warp. -/
theorem warps_fetchC {n : Nat} {r : Except AccErr (List Byte)} (h : fetchC s core part asid kind va n = (r, t)) (d : Nat) :
    (coreOf t d).warps = (coreOf s d).warps := by
  obtain rfl : (fetchC s core part asid kind va n).2 = t := by rw [h]
  clear h
  fun_cases fetchC s core part asid kind va n with
  | case1 => rfl
  | case2 _ _ _ _ l => exact warps_modCore_setCache (fun c => lineTouch (cacheOf c kind) l) d
  | case3 _ _ _ _ _ _ _ _ hread => exact congrArg Core.warps ((quiet_homeRead hread).coreOf d)
  | case4 _ _ _ _ _ _ _ _ hread =>
    exact (warps_modCore_setCache _ d).trans (congrArg Core.warps ((quiet_homeRead hread).coreOf d))

theorem warps_fetchSpan (n m d : Nat) : (coreOf (fetchSpan s core part asid kind va n m).2 d).warps = (coreOf s d).warps := by
  fun_induction fetchSpan s core part asid kind va n m with
  | case1 => rfl
  | case2 => rfl
  | case3 _ _ _ _ _ _ _ _ hfetch => exact warps_fetchC hfetch d
  | case4 _ _ _ _ _ _ _ _ hfetch _ _ hspan ih | case5 _ _ _ _ _ _ _ _ hfetch _ _ hspan ih =>
    rw [hspan] at ih
    exact ih.trans (warps_fetchC hfetch d)

theorem warp_fetchSpan {n m : Nat} {bs : List Byte} (h : fetchSpan s core part asid kind va n m = (.ok bs, t)) :
    x.warp t = x.warp s := by
  have hwarps := warps_fetchSpan (s := s) (core := core) (part := part) (asid := asid) (kind := kind) (va := va) n m x.core
  rw [h] at hwarps
  exact congrArg (fun ws => (lookup ws x.wslot).getD Warp.blank) hwarps

theorem lookup_setD_ne {α : Type} [DecidableEq α] (d : α) (m : SMap α) {k j : Nat} (v : α) (h : j ≠ k) :
    lookup (setD d m k v) j = lookup m j := by
  unfold setD
  split
  · rw [lookup_remove, if_neg h]
  · exact lookup_put_ne m v h

/-- The entry that slot `k` lists after bytes were put one after another into slot `slot`. -/
theorem getD_foldl_setD_slot {k slot i : Nat} (hi : i < 128) (bs : List Byte) (js : List Nat) (hjs : ∀ j ∈ js, j < 128)
    (m : SMap Byte) : getD (BitVec.ofNat 8 i)
      (js.foldl (fun m j => setD (BitVec.ofNat 8 j) m (slot * 128 + j) (nthD 0#8 bs j)) m) (k * 128 + i) =
        if k = slot ∧ i ∈ js then nthD 0#8 bs i else getD (BitVec.ofNat 8 i) m (k * 128 + i) := by
  induction js generalizing m with
  | nil => simp
  | cons j js ih =>
    obtain ⟨hj, hjs⟩ := List.forall_mem_cons.mp hjs
    rw [List.foldl_cons, ih hjs]
    by_cases hkey : k = slot ∧ i = j
    · obtain ⟨rfl, rfl⟩ := hkey
      simp
    · have hne : k * 128 + i ≠ slot * 128 + j := by omega
      have hmem : (k = slot ∧ i ∈ j :: js) ↔ (k = slot ∧ i ∈ js) := by
        rw [List.mem_cons, and_or_left, or_iff_right hkey]
      rw [getD, getD, lookup_setD_ne _ _ _ hne]
      simp only [hmem]

/-- After a table was put into a slot that slot gives the table's bytes, and the others what they gave (09 R250). -/
theorem filGet_filPut (slot k : Nat) {i : Nat} (bs : List Byte) (hi : i < 128) :
    filGet (filPut w slot bs) k i = if k = slot then (nthD 0#8 bs i).toNat else filGet w k i := by
  have hmem : i ∈ upto 128 := List.mem_range.mpr hi
  unfold filGet filPut
  rw [getD_foldl_setD_slot hi bs (upto 128) fun j hj => List.mem_range.mp hj]
  simp only [hmem, and_true]
  split <;> rfl

theorem filGet_advance (m : Word) (n k i : Nat) : filGet (advance w m n) k i = filGet w k i := by
  unfold advance modLanes; split <;> rfl

/-- Beside its tables a warp steps as if FILT had loaded none. -/
theorem advance_ofFilPut (slot : Nat) (bs : List Byte) (m : Word) (n : Nat) :
    { advance (filPut w slot bs) m n with fil := w.fil } = advance w m n := by
  unfold filPut advance modLanes
  dsimp only
  split <;> rfl

theorem filtBody_loads {bs : List Byte} (hg : guardUni (x.warp s) f.g = true)
    (ha : rread2 (x.warp s) 0 f.a.toNat % 2 ^ 57 % 128 = 0)
    (hfetch : fetchSpan s x.core (x.warp s).part (x.warp s).asid .const
      (BitVec.ofNat 57 (rread2 (x.warp s) 0 f.a.toNat % 2 ^ 57)) 128 2 = (.ok bs, t)) :
    filtBody f x s = x.next (x.mod t (fun w => filPut w (f.fn.toNat % 8) bs)) := by
  simp only [filtBody, hg, ha, hfetch, Bool.not_true, Bool.false_eq_true, if_false, ne_eq, not_true_eq_false]

end

/-- Settles O6: the fetch leaves the warp as it is, and the table put into the slot is all that the step finds changed. -/
theorem filtLoadsItsSlot : Obligations.FiltLoadsItsSlot := by
  intro f s t x bs hx hg ha hfetch
  refine ⟨advance (filPut (x.warp s) (f.fn.toNat % 8) bs) x.mask x.len, ?_, fun i hi => ?_, fun k i hk hi => ?_, ?_⟩
  · rw [← warp_fetchSpan hfetch]
    exact (issue_performs hx (filtBody_loads hg ha hfetch)).trans (congrArg _ (next_mod_leaves x t _))
  · rw [filGet_advance, filGet_filPut _ _ _ hi, if_pos rfl]
  · rw [filGet_advance, filGet_filPut _ _ _ hi, if_neg hk]
  · rw [advance_ofFilPut]
    exact onlyStepped_advance ..

end Sys2Proof.Machine
